-- ==== Sys2Proof/Word.lean ====
section
/-!
DEFINITION. The word types of the D9: an instruction word and a scalar register are 32 bits, a pair and an address
64 bits (spec 01, R6, R10), a byte 8 bits.
-/

namespace Sys2Proof

/-- One 32-bit word: an instruction word, an extension word, a scalar register (R10, R15). -/
abbrev Word := BitVec 32

/-- One 64-bit value: an even-odd pair, an address (R6). -/
abbrev DWord := BitVec 64

/-- One byte of memory or one operand field. -/
abbrev Byte := BitVec 8

end Sys2Proof
end

