-- ==== Sys2Proof/Config.lean ====
section
/-!
DEFINITION. What an implementation of the D9 fixes and what the spec leaves open. Every value here is opaque: it has
no body, so no proof can learn it. Each use gives the site that asks, the step counter of the machine and an index, so
that two uses are independent (notes/assumptions/1.md).
-/

namespace Sys2Proof

/-- The places where the spec leaves a value or a choice open. One constructor per open point. -/
inductive Site where
  /-- R160, R82, R142: a read that races a write of the same window sees the old or the new whole value. -/
  | windowRead
  /-- R160, R142: two writes of one window to one place leave one of the two. -/
  | windowWrite
  /-- R82: for each MODE field, the old or the new value. -/
  | windowMode
  /-- R163: how many positions a window still issues after one has raised a trap. -/
  | trapKnown
  /-- R101: a STATUS bit set in the same window is seen or not. -/
  | windowStatus
  /-- R86: the family id of a BSPLIT, beyond being fresh. -/
  | family
  /-- R172: a task id, beyond being unique and not 0. -/
  | taskId
  /-- R102, R396: how far the time base has moved since it was last read. -/
  | timeBase
  /-- R102: how far the cycle counter of a core has moved, and where it stands. -/
  | cycles
  /-- Nominal delays (R3) that only counters and records show: LAT.LAST, LAT.STALL. -/
  | latency
  /-- R281, R287: the elements of an INVALID or POISON tile. -/
  | tileValue
  /-- R393, R329: which of the allowed cores the front end chooses. -/
  | placement
  /-- R316: the order in which an idle core probes its victims. -/
  | stealOrder
  /-- R280: which bytes a torn or raced access supplies. -/
  | memoryRace
  /-- R190, R411: what a sensor or a throttle reports. -/
  | sensor
  /-- Values of the crypto engine whose result depends on keys or noise (R410). -/
  | crypto
  /-- Values that a device outside the module supplies (R404, R405). -/
  | device
  /-- R243 and elsewhere: an order the spec leaves to the arrival of requests. -/
  | order
  deriving DecidableEq, Repr

namespace Config

/-- The value of an open point: `site` names the rule, `tick` the step that asks, `idx` the use within the step. -/
opaque free : (site : Site) → (tick idx : Nat) → Nat

/-- R409, R410: whether an ML-DSA-44 signature over a digest verifies under a public key. The algorithm is FIPS 204's,
not the spec's text; nothing in the spec gives its values. -/
opaque mldsaVerify : (key digest signature : List Byte) → Bool

/-- R409, R410: the ML-DSA-44 signature a private key of die `die` makes over a digest at power-on `boot`. -/
opaque mldsaSign : (boot die : Nat) → (digest : List Byte) → List Byte

/-- R410: the public key that die `die` derives from its physically unclonable function at power-on `boot`. -/
opaque diePublicKey : (boot die : Nat) → List Byte

/-- SHA3-256 of a byte string (R409, R410). The algorithm is FIPS 202's, not the spec's text. -/
opaque sha3 : List Byte → List Byte

/-- R409: the digest of Troard's public key that the mask ROM of die 0 holds. -/
opaque romKeyDigest : List Byte

/-- R243: the COUNT that a `sig` with a value leaves in a cell that a program has written as PENDING with COUNT 0; the state
table speaks of PENDING(n) for a count that still expects signals. -/
opaque pendingZero : (value : DWord) → Word

/-- R373: the bytes a task's context image takes, before its bound of 32 KiB. -/
opaque imageSize : (tid : Nat) → Nat

/-- R386: the physical base of the queue control table, fixed by firmware at bring-up. -/
opaque queueTableBase : Nat

/-- R386, R411: where firmware puts the admin ring and its shadow at bring-up, and the size of the ring. -/
opaque adminRing : Nat
/-- R386: SHADOW of the admin queue. -/
opaque adminShadow : Nat
/-- R386: K of the admin queue, before its bounds 4 and 20. -/
opaque adminLog : Nat

end Config
end Sys2Proof
end

