-- ==== Sys2Proof/Syntax.lean ====
section
/-!
DEFINITION. The instruction set of the D9 as syntax: ONE inductive with one constructor per row of the opcode table.
The first part are the instructions of the opcode map (spec 01, R29, R31): the machine fetches and decodes them. Their
first argument `sb` is the stroke bit where it is optional (R10, R14); stroke-required words carry none. The second
part are the rows of the table that no word encodes: the whole and indivisible steps of the engines, the front end,
the links and the host (spec 95).
-/

namespace Sys2Proof

/-- R15: what an 8-bit operand field names. Code 0xFE is reserved and names nothing; `lit` carries the word that
follows the first word (R20). -/
inductive Opnd where
  | v (n : Fin 128)
  | s (n : Fin 64)
  | a (n : Fin 32)
  | p (n : Fin 8)
  | q (n : Fin 16)
  | zero
  | lane
  | ones
  | one
  | quad
  | fone
  | lit (w : Word)
  deriving DecidableEq, Repr

/-- A predicate named by a PD field (R21, R247). -/
abbrev PReg := Fin 8
/-- The vector register a LIVE begins at (R96). -/
abbrev VReg := Fin 128
/-- A membership slot (R238). -/
abbrev Slot := Fin 4
/-- An accumulator handle c0 to c7 (R281). -/
abbrev Handle := Fin 8
/-- The handle field of MOP.wait: one handle, or all (R294). -/
abbrev WHandle := Option (Fin 8)
/-- The half UNPK takes: false the lower, true the upper (R119). -/
abbrev Half := Bool

/-- R21: the conditions of SCMP and VCMP. -/
inductive Cond where
  | eq | ne | lt | le | gt | ge | ltu | leu | gtu | geu | ord | uno | any | none
  deriving DecidableEq, Repr

/-- R26, R85: the tests of BRC. -/
inductive BTest where
  | any | all | none | nall
  deriving DecidableEq, Repr

/-- R75: the parts of AGET. -/
inductive APart where
  | base | stride
  deriving DecidableEq, Repr

/-- R38: the element formats. -/
inductive Fmt where
  | raw32 | int32 | uint32 | fp32 | bf16 | fp16 | e4m3 | e5m2 | int8q | int4q
  deriving DecidableEq, Repr

/-- R116: the target code of CVT as the word holds it. -/
abbrev Code4 := BitVec 4

/-- R125: the operations of SCAN and VRED. -/
inductive RedOp where
  | add | min | max | and | or | xor
  deriving DecidableEq, Repr

/-- R136: the fields RSET writes. -/
inductive RSel where
  | base | extent | stride0 | stride1 | attr | sboff | clear | advance
  deriving DecidableEq, Repr

/-- R138: the levels of PREF. -/
inductive PLevel where
  | l1 | l2 | cellar
  deriving DecidableEq, Repr

/-- R78, R231: the scopes, in widening order. -/
inductive Scope where
  | task | core | cluster | die | module | system
  deriving DecidableEq, Repr

/-- R341, R342: what one fdrain sends to a reduction slot: `rows` holds the FP32 words row by row (ignored where the
contribution is a failure marker). `sender` names the command of this module that waits for the outcome. -/
structure Contribution where
  rank : Nat
  count : Nat
  row0 : Nat
  m : Nat
  n : Nat
  module : Nat
  tenant : Nat
  scope : Scope
  rows : List (List Word)
  sender : Option (Nat × Nat)
  deriving DecidableEq, Repr

/-- R405: the transfer types of the Dypied link. -/
inductive FlitKind where
  | read | readData | write | atomic | future | reductionRow | failureMarker | credit
  deriving DecidableEq, Repr

/-- R225: the atomics. -/
inductive LinkAtom where
  | add | min | max | and | or | xor | xch | cas | binc
  deriving DecidableEq, Repr

/-- R243: the operations on a future cell. -/
inductive LinkCell where
  | init
  | pub (n : BitVec 32)
  | sig (v : DWord)
  | set (v : DWord)
  | fail (code : BitVec 8) (addr : DWord)
  | cancel
  deriving DecidableEq, Repr

/-- R268, R406: the release tag that an operation leaves on a word of another module, or that a word read there carries: the
8-byte word, the scope, and the releasing party with its module. -/
structure LinkTag where
  word : Nat
  scope : Scope
  module : BitVec 16
  tid : Nat
  core : Option Nat
  deriving DecidableEq, Repr

/-- R406: what a flit asks the remote home to perform: an atomic on one location, with the format that types it and the data of its lanes in their order, or an
operation on a cell. -/
inductive LinkOp where
  | atomic (k : LinkAtom) (f : Fmt) (lanes : List (Nat × Nat))
  | cell (op : LinkCell)
  deriving DecidableEq, Repr

/-- R405: one flit: the header fields, up to three 64-byte sectors with their checks and their poison bits (R407), and whether the
link CRC holds. The spec gives the header no bit layout, so the fields stand as they are; `op` and `tags` say which operation a flit
asks for and which release tags travel with it (notes/assumptions/38.md). -/
structure Flit where
  kind : FlitKind
  src : BitVec 16
  dst : BitVec 16
  tenant : Nat
  tag : Nat
  addr : DWord
  length : Nat
  sectors : List (List Byte × BitVec 16)
  row : Option Contribution
  crcOk : Bool
  /-- the poison bit of each sector -/
  bad : BitVec 3 := 0
  op : Option LinkOp := none
  tags : List LinkTag := []
  deriving DecidableEq, Repr

/-- R408: where an uncorrected SRAM error strikes. -/
inductive SramSite where
  /-- the memory sector at a storage key: near store, attic, cellar, L2 -/
  | sector (key : Nat)
  /-- the row of a vector register of a task -/
  | row (tid reg : Nat)
  /-- an element of an accumulator tile, 64 i + j -/
  | tile (core handle elem : Nat)
  /-- the copy of a memory sector that the L1 of a core holds -/
  | l1 (core sec : Nat)
  /-- a rack slot: an unstarted entry -/
  | rack (core eid : Nat)
  /-- a scalar, affine, predicate or record register of a split of a task, or another structure of a tenant whose loss the spec gives
  no effect but the record -/
  | other (tenant : Nat)
  /-- a memory sector whose CRC check fails where it is tested (R407) -/
  | check (key : Nat)
  deriving DecidableEq, Repr

/-- R409: a firmware image. -/
structure FwImage where
  key : List Byte
  version : Nat
  body : List Byte
  signature : List Byte
  deriving DecidableEq, Repr

/-- The rows of the opcode table. -/
inductive Instr where
  | nop (sb : Bool)
  | mov (sb : Bool) (x : Opnd) (y : Opnd)
  | sadd (sb : Bool) (x : Opnd) (y : Opnd) (z : Opnd)
  | ssub (sb : Bool) (x : Opnd) (y : Opnd) (z : Opnd)
  | smul (sb : Bool) (x : Opnd) (y : Opnd) (z : Opnd)
  | smulh (sb : Bool) (x : Opnd) (y : Opnd) (z : Opnd)
  | smulhu (sb : Bool) (x : Opnd) (y : Opnd) (z : Opnd)
  | sand (sb : Bool) (x : Opnd) (y : Opnd) (z : Opnd)
  | sor (sb : Bool) (x : Opnd) (y : Opnd) (z : Opnd)
  | sxor (sb : Bool) (x : Opnd) (y : Opnd) (z : Opnd)
  | sshl (sb : Bool) (x : Opnd) (y : Opnd) (z : Opnd)
  | sshr (sb : Bool) (x : Opnd) (y : Opnd) (z : Opnd)
  | ssar (sb : Bool) (x : Opnd) (y : Opnd) (z : Opnd)
  | smin (sb : Bool) (x : Opnd) (y : Opnd) (z : Opnd)
  | smax (sb : Bool) (x : Opnd) (y : Opnd) (z : Opnd)
  | sminu (sb : Bool) (x : Opnd) (y : Opnd) (z : Opnd)
  | smaxu (sb : Bool) (x : Opnd) (y : Opnd) (z : Opnd)
  | sunNot (sb : Bool) (x : Opnd) (y : Opnd)
  | sunNeg (sb : Bool) (x : Opnd) (y : Opnd)
  | sunAbs (sb : Bool) (x : Opnd) (y : Opnd)
  | sunClz (sb : Bool) (x : Opnd) (y : Opnd)
  | sunCtz (sb : Bool) (x : Opnd) (y : Opnd)
  | sunPopc (sb : Bool) (x : Opnd) (y : Opnd)
  | sunBrev (sb : Bool) (x : Opnd) (y : Opnd)
  | sunBswap (sb : Bool) (x : Opnd) (y : Opnd)
  | sunSext8 (sb : Bool) (x : Opnd) (y : Opnd)
  | sunSext16 (sb : Bool) (x : Opnd) (y : Opnd)
  | sunZext8 (sb : Bool) (x : Opnd) (y : Opnd)
  | sunZext16 (sb : Bool) (x : Opnd) (y : Opnd)
  | sbfx (sb : Bool) (x : Opnd) (y : Opnd) (z : Opnd)
  | sbfi (sb : Bool) (x : Opnd) (y : Opnd) (z : Opnd)
  | scmp (sb : Bool) (cond : Cond) (pd : PReg) (y : Opnd) (z : Opnd)
  | ssel (sb : Bool) (x : Opnd) (y : Opnd) (z : Opnd)
  | dadd (sb : Bool) (x : Opnd) (y : Opnd) (z : Opnd)
  | dsub (sb : Bool) (x : Opnd) (y : Opnd) (z : Opnd)
  | dshl (sb : Bool) (x : Opnd) (y : Opnd) (z : Opnd)
  | dshr (sb : Bool) (x : Opnd) (y : Opnd) (z : Opnd)
  | amov (sb : Bool) (x : Opnd) (y : Opnd)
  | aadd (sb : Bool) (x : Opnd) (y : Opnd) (z : Opnd)
  | ascl (sb : Bool) (x : Opnd) (y : Opnd) (z : Opnd)
  | ashl (sb : Bool) (x : Opnd) (y : Opnd) (z : Opnd)
  | aexp (sb : Bool) (x : Opnd) (y : Opnd) (z : Opnd)
  | aget (sb : Bool) (x : Opnd) (y : Opnd) (part : APart)
  | pand (sb : Bool) (x : Opnd) (y : Opnd) (z : Opnd)
  | por (sb : Bool) (x : Opnd) (y : Opnd) (z : Opnd)
  | pxor (sb : Bool) (x : Opnd) (y : Opnd) (z : Opnd)
  | punNot (sb : Bool) (x : Opnd) (y : Opnd)
  | punFirst (sb : Bool) (x : Opnd) (y : Opnd)
  | punLast (sb : Bool) (x : Opnd) (y : Opnd)
  | punSet (sb : Bool) (x : Opnd) (y : Opnd)
  | punGet (sb : Bool) (x : Opnd) (y : Opnd)
  | punCnt (sb : Bool) (x : Opnd) (y : Opnd)
  | pmov (sb : Bool) (x : Opnd) (y : Opnd)
  | setm (sb : Bool) (x : Opnd) (mask : BitVec 10)
  | getm (sb : Bool) (x : Opnd)
  | br (off : Word)
  | brc (x : Opnd) (test : BTest) (off : Word)
  | bsplit (x : Opnd) (tgt : Word) (join : Word)
  | sjoin
  | brt (x : Opnd) (targets : List Word)
  | call (off : Word)
  | callt (x : Opnd) (targets : List Word)
  | ret
  | loops (x : Opnd) (len : Word)
  | exit
  | yield
  | sinfoLanes (sb : Bool) (x : Opnd)
  | sinfoExec (sb : Bool) (x : Opnd)
  | sinfoCount (sb : Bool) (x : Opnd)
  | sinfoId (sb : Bool) (x : Opnd)
  | sinfoDepth (sb : Bool) (x : Opnd)
  | sinfoOvf (sb : Bool) (x : Opnd)
  | liveDead (sb : Bool) (b : VReg) (n : Byte)
  | liveFetch (sb : Bool) (b : VReg) (n : Byte)
  | trap (x : Opnd) (c : Byte)
  | sysc (x : Opnd)
  | rft
  | csrr (sb : Bool) (x : Opnd) (num : BitVec 16)
  | csrw (sb : Bool) (x : Opnd) (num : BitVec 16)
  | srSeedWrite (sb : Bool) (x : Opnd)
  | sliceClr (sb : Bool) (x : Opnd)
  | sliceSnap (sb : Bool) (x : Opnd)
  | cellarCarveWrite (sb : Bool) (x : Opnd)
  | bkpt (c : Byte)
  | time (sb : Bool) (x : Opnd) (sel : Byte)
  | vadd (sb : Bool) (x : Opnd) (y : Opnd) (z : Opnd)
  | vsub (sb : Bool) (x : Opnd) (y : Opnd) (z : Opnd)
  | vmul (sb : Bool) (x : Opnd) (y : Opnd) (z : Opnd)
  | vmulh (sb : Bool) (x : Opnd) (y : Opnd) (z : Opnd)
  | vfma (sb : Bool) (x : Opnd) (y : Opnd) (z : Opnd)
  | vfms (sb : Bool) (x : Opnd) (y : Opnd) (z : Opnd)
  | vmin (sb : Bool) (x : Opnd) (y : Opnd) (z : Opnd)
  | vmax (sb : Bool) (x : Opnd) (y : Opnd) (z : Opnd)
  | vand (sb : Bool) (x : Opnd) (y : Opnd) (z : Opnd)
  | vor (sb : Bool) (x : Opnd) (y : Opnd) (z : Opnd)
  | vxor (sb : Bool) (x : Opnd) (y : Opnd) (z : Opnd)
  | vshl (sb : Bool) (x : Opnd) (y : Opnd) (z : Opnd)
  | vshr (sb : Bool) (x : Opnd) (y : Opnd) (z : Opnd)
  | vcmp (sb : Bool) (cond : Cond) (pd : PReg) (y : Opnd) (z : Opnd)
  | vsel (sb : Bool) (x : Opnd) (y : Opnd) (z : Opnd)
  | vunNeg (sb : Bool) (x : Opnd) (y : Opnd)
  | vunAbs (sb : Bool) (x : Opnd) (y : Opnd)
  | vunNot (sb : Bool) (x : Opnd) (y : Opnd)
  | vunRcp (sb : Bool) (x : Opnd) (y : Opnd)
  | vunRsqrt (sb : Bool) (x : Opnd) (y : Opnd)
  | vunSqrt (sb : Bool) (x : Opnd) (y : Opnd)
  | vunExp2 (sb : Bool) (x : Opnd) (y : Opnd)
  | vunLog2 (sb : Bool) (x : Opnd) (y : Opnd)
  | vunFloor (sb : Bool) (x : Opnd) (y : Opnd)
  | vunCeil (sb : Bool) (x : Opnd) (y : Opnd)
  | vunTrunc (sb : Bool) (x : Opnd) (y : Opnd)
  | vunRint (sb : Bool) (x : Opnd) (y : Opnd)
  | vunClz (sb : Bool) (x : Opnd) (y : Opnd)
  | vunPopc (sb : Bool) (x : Opnd) (y : Opnd)
  | vbfx (sb : Bool) (x : Opnd) (y : Opnd) (z : Opnd)
  | vbfi (sb : Bool) (x : Opnd) (y : Opnd) (z : Opnd)
  | vdot2 (sb : Bool) (x : Opnd) (y : Opnd) (z : Opnd)
  | vscl (sb : Bool) (x : Opnd) (y : Opnd) (z : Opnd)
  | cvt (sb : Bool) (x : Opnd) (y : Opnd) (t : Code4)
  | qnt (sb : Bool) (x : Opnd) (y : Opnd) (z : Opnd)
  | dqnt (sb : Bool) (x : Opnd) (y : Opnd) (z : Opnd)
  | pack (sb : Bool) (x : Opnd) (y : Opnd) (z : Opnd)
  | unpk (sb : Bool) (x : Opnd) (y : Opnd) (half : Half)
  | tag (sb : Bool) (x : Opnd) (y : Opnd) (fmt : Fmt)
  | ballot (sb : Bool) (x : Opnd) (y : Opnd)
  | xchg (sb : Bool) (x : Opnd) (y : Opnd) (z : Opnd)
  | shuf (sb : Bool) (x : Opnd) (y : Opnd) (z : Opnd)
  | bcast (sb : Bool) (x : Opnd) (y : Opnd) (z : Opnd)
  | scan (sb : Bool) (x : Opnd) (y : Opnd) (op : RedOp)
  | vred (sb : Bool) (x : Opnd) (y : Opnd) (op : RedOp)
  | ld (sb : Bool) (x : Opnd) (y : Opnd) (z : Opnd)
  | st (sb : Bool) (x : Opnd) (y : Opnd) (z : Opnd)
  | lds (sb : Bool) (x : Opnd) (y : Opnd) (z : Opnd)
  | sts (sb : Bool) (x : Opnd) (y : Opnd) (z : Opnd)
  | rld (sb : Bool) (x : Opnd) (y : Opnd) (z : Opnd)
  | rst (sb : Bool) (x : Opnd) (y : Opnd) (z : Opnd)
  | rset (sb : Bool) (x : Opnd) (y : Opnd) (sel : RSel)
  | pref (sb : Bool) (lv : PLevel) (y : Opnd) (z : Opnd)
  | cacheIcinv (sb : Bool) (x : Opnd) (y : Opnd)
  | cacheWb (sb : Bool) (x : Opnd) (y : Opnd)
  | cacheInv (sb : Bool) (x : Opnd) (y : Opnd)
  | cacheWbinv (sb : Bool) (x : Opnd) (y : Opnd)
  | cacheZero (sb : Bool) (x : Opnd) (y : Opnd)
  | atadd (sb : Bool) (x : Opnd) (y : Opnd) (z : Opnd)
  | atmin (sb : Bool) (x : Opnd) (y : Opnd) (z : Opnd)
  | atmax (sb : Bool) (x : Opnd) (y : Opnd) (z : Opnd)
  | atand (sb : Bool) (x : Opnd) (y : Opnd) (z : Opnd)
  | ator (sb : Bool) (x : Opnd) (y : Opnd) (z : Opnd)
  | atxor (sb : Bool) (x : Opnd) (y : Opnd) (z : Opnd)
  | atxch (sb : Bool) (x : Opnd) (y : Opnd) (z : Opnd)
  | atcas (sb : Bool) (x : Opnd) (y : Opnd) (z : Opnd)
  | atbinc (sb : Bool) (x : Opnd) (y : Opnd) (z : Opnd)
  | fenceAcq (sb : Bool) (sc : Scope)
  | fenceRel (sb : Bool) (sc : Scope)
  | fenceAr (sb : Bool) (sc : Scope)
  | waitc (x : Opnd) (y : Opnd) (z : Opnd)
  | bar (slot : Slot)
  | spawn (sb : Bool) (x : Opnd) (y : Opnd) (z : Opnd)
  | spawnl (sb : Bool) (x : Opnd) (y : Opnd) (z : Opnd)
  | join (pd : PReg) (y : Opnd) (z : Opnd)
  | joinT (pd : PReg) (y : Opnd) (z : Opnd)
  | futInit (sb : Bool) (y : Opnd)
  | futPub (sb : Bool) (x : Opnd) (y : Opnd)
  | futSig (sb : Bool) (x : Opnd) (y : Opnd)
  | futSet (sb : Bool) (x : Opnd) (y : Opnd)
  | futFail (sb : Bool) (x : Opnd) (y : Opnd)
  | futCancel (sb : Bool) (y : Opnd)
  | futPeek (sb : Bool) (x : Opnd) (y : Opnd)
  | teamFork (sb : Bool) (x : Opnd) (y : Opnd)
  | teamEnter (sb : Bool) (x : Opnd) (y : Opnd)
  | teamLeave (sb : Bool) (y : Opnd)
  | teamRank (sb : Bool) (x : Opnd) (y : Opnd)
  | teamSize (sb : Bool) (x : Opnd) (y : Opnd)
  | rsvTake (sb : Bool) (x : Opnd) (y : Opnd)
  | rsvCommit (sb : Bool) (x : Opnd) (y : Opnd)
  | crewFork (sb : Bool) (x : Opnd) (y : Opnd)
  | crewReport (sb : Bool) (x : Opnd)
  | crewAwait (x : Opnd)
  | crewCancel (sb : Bool) (x : Opnd) (y : Opnd)
  | crewInit (sb : Bool) (x : Opnd) (y : Opnd)
  | crewPeek (sb : Bool) (x : Opnd) (y : Opnd)
  | mcfg (sb : Bool) (h : Handle) (y : Opnd)
  | mloop (sb : Bool) (h : Handle) (y : Opnd)
  | mopDrain (sb : Bool) (h : Handle) (y : Opnd)
  | mopDrainn (sb : Bool) (h : Handle) (y : Opnd)
  | mopFdrain (sb : Bool) (h : Handle) (y : Opnd)
  | mopZero (sb : Bool) (h : Handle)
  | mopRdrow (sb : Bool) (x : Opnd) (y : Opnd)
  | mopWrrow (sb : Bool) (x : Opnd) (y : Opnd)
  | mopWait (x : Opnd) (h : WHandle)
  | mopCheck (sb : Bool) (x : Opnd) (h : Handle)
  | copy (sb : Bool) (x : Opnd) (y : Opnd) (z : Opnd)
  /-- R99, R401: the front end replies to the SYSC that split `sid` of task `tid` is parked on. -/
  | syscReply (tid sid : Nat)
  /-- R132, R140: the data of the in-flight load `id` is written to its destination. -/
  | loadDataReturn (id : Nat)
  /-- R353: the home slice checks the watched crew record at `key`. -/
  | crewDeadlineCheck (key : Nat)
  /-- R300: every slice of the running collective of team entry `team` is done or failed. -/
  | copyCollectiveComplete (core team : Nat)
  /-- R289: the sequencer takes the queued command `id`. -/
  | matrixCommandStart (core id : Nat)
  /-- R289, R297: the active command `id` finishes. -/
  | matrixCommandComplete (core id : Nat)
  /-- R293: an access of the active command `id` fails with `code` at `addr`. -/
  | engineAccessFailure (core id : Nat) (code : BitVec 8) (addr : BitVec 64)
  /-- R292: task `tid` takes the trap its engine command left. -/
  | deferredTrap (tid : Nat)
  /-- R341: a contribution reaches reduction slot `slot`. -/
  | reductionRowArrive (slot : Nat) (c : Contribution)
  /-- R342: a failure marker stands for a contribution (its rows are ignored). -/
  | failureMarker (slot : Nat) (c : Contribution)
  /-- R323, R208: side `side` of core `core` chooses a group and its splits. -/
  | issueCycle (core side : Nat)
  /-- R159: the window of split `sid` has completed. -/
  | windowComplete (tid sid : Nat)
  /-- R166: the row of v`reg` of task `tid` arrives from the cellar. -/
  | residencyFill (tid reg : Nat)
  /-- R364: the group of `tid` has stopped and its pending trap is taken. -/
  | trapTaken (tid : Nat)
  /-- R372: the watchdog limit of `tid` has passed. -/
  | watchdog (tid : Nat)
  /-- R382: the walk for the 64 KiB page number `page` ends. -/
  | pageWalkComplete (core tenant page : Nat)
  /-- R314: the core pops a RUNNABLE entry. -/
  | pop (core : Nat)
  /-- R311: the prefetch engine considers the WAIT-STAGE entries. -/
  | prefetchTake (core : Nat)
  /-- R310, R303: the next staged row of entry `eid` arrives. -/
  | stagingRowArrive (core eid : Nat)
  /-- R316: an idle core starts a round of probes. -/
  | stealRound (core : Nat)
  /-- R317: the victim answers a probe. -/
  | stealProbe (thief victim : Nat)
  /-- R317: a stolen entry arrives. -/
  | stealDelivery (thief : Nat)
  /-- R144: a waiting request enters its slice queue. -/
  | sliceRequestEnter (id : Nat)
  /-- R185: a carve change completes. -/
  | carveChangeComplete (tenant die : Nat)
  /-- R190: the cellar of a die starts or stops throttling. -/
  | cellarThermalThrottle (die : Nat) (on : Bool)
  /-- R193: the next per-bank refresh of a channel falls due. -/
  | perBankRefreshDue (chan : Nat)
  /-- R193: a bank group leaves demand. -/
  | demandWindowExpiry (chan grp : Nat)
  /-- R196: the hot-page epoch of a tenant ends. -/
  | tieringEpochEnd (tenant : Nat)
  /-- R197: the link of a CXL port goes down. -/
  | cxlLinkDown (port : Nat)
  /-- R197: a request to a CXL port goes unanswered for its timeout. -/
  | cxlCompletionTimeout (port : Nat)
  /-- R197: a reply for the in-flight load `id` arrives from an expander. -/
  | cxlResponse (port id : Nat)
  /-- R405: a flit arrives on the Dypied link. -/
  | dypiedFlitReceive (f : Flit)
  /-- R406: every port of the route to a module fails. -/
  | dypiedRouteFailure (module : BitVec 16)
  /-- R408: an uncorrected SRAM error. -/
  | sramUncorrectedError (site : SramSite)
  /-- R389: the host writes PROD (fn: a tenant virtual function, or none for the physical function). -/
  | prodDoorbell (fn : Option Nat) (q : Nat) (idx : BitVec 32)
  /-- R391: the host reads RESV. -/
  | resvRead (fn : Option Nat) (q : Nat)
  /-- R391: the host writes COMMIT. -/
  | commitDoorbell (fn : Option Nat) (q : Nat) (t : BitVec 32)
  /-- R389: the host writes CONS. -/
  | consDoorbell (fn : Option Nat) (q : Nat) (idx : BitVec 32)
  /-- R393: the front end takes the next slot of launch queue `q`. -/
  | launchPacketTake (q : Nat)
  /-- R393: the packet kept for want of a rack slot is placed. -/
  | rootTaskPlace (q : Nat)
  /-- R395: the time base reaches the START of a held packet. -/
  | heldPacketStart (tenant : Nat)
  /-- R375, R376: a core whose groups are at rest is saved. -/
  | preemptCoreSave (core : Nat)
  /-- R411: the clock of a die is lowered or restored. -/
  | powerThrottle (die : Nat) (limit therm : Bool)
  /-- R411: a die reaches its shutdown temperature. -/
  | shutdownTemperature (die : Nat)
  /-- R409: the recovery register block accepts an image. -/
  | recoveryImageWrite (image : FwImage)
  /-- R407: a host write reaches memory. -/
  | hostWrite (key : Nat) (bytes : List (BitVec 8))
  /-- R403: a completion from the host arrives for a read of host memory. -/
  | hostCompletion (key : Nat) (bytes : List (BitVec 8)) (bad : Bool)
  /-- R193: a refresh finishes its busy time. -/
  | refreshComplete (chan : Nat)
  /-- R398: the front end executes the command at the head of the admin ring. -/
  | tenantCreate
  /-- R397: the front end executes the command at the head of the admin ring. -/
  | tenantDestroy
  /-- R386: the front end executes the command at the head of the admin ring. -/
  | queueSet
  /-- R397: the front end executes the command at the head of the admin ring. -/
  | queueClear
  /-- R397: the front end executes the command at the head of the admin ring. -/
  | queueGet
  /-- R375: the front end executes the command at the head of the admin ring. -/
  | preempt
  /-- R377: the front end executes the command at the head of the admin ring. -/
  | restore
  /-- R382: the front end executes the command at the head of the admin ring. -/
  | tlbInv
  /-- R385: the front end executes the command at the head of the admin ring. -/
  | faultReply
  /-- R397: the front end executes the command at the head of the admin ring. -/
  | windowOnline
  /-- R339: the front end executes the command at the head of the admin ring. -/
  | slotSet
  /-- R396: the front end executes the command at the head of the admin ring. -/
  | timeSet
  /-- R396: the front end executes the command at the head of the admin ring. -/
  | timeAdj
  /-- R411: the front end executes the command at the head of the admin ring. -/
  | powerLimit
  /-- R405: the front end executes the command at the head of the admin ring. -/
  | moduleId
  /-- R410: the front end executes the command at the head of the admin ring. -/
  | attest
  /-- R397: the front end executes the command at the head of the admin ring. -/
  | cxlTimeout
  /-- R409, R411: ROM verification and bring-up. -/
  | powerOnBoot
  /-- R30: the fetched word decodes to no instruction of the map. -/
  | undefinedEncoding
  deriving DecidableEq, Repr

end Sys2Proof
end

