-- ==== Sys2Proof/WellFormed.lean ====
section
/-!
DEFINITION. Which instructions the decode checks of R30 let through: the class of every operand position (R16, R20 and
each instruction's own description), the ranges of the fields with a meaning of their own (R26, R96), at most one LIT
(R20). Alignment and the declared register count depend on the state and are checked where an instruction issues.
-/

namespace Sys2Proof

/-- R15: the kinds of operand codes. -/
inductive OKind where
  | v | s | a | p | q | zero | lane | ones | one | quad | fone | lit
  deriving DecidableEq, Repr

/-- The kind of an operand. -/
def Opnd.kind : Opnd → OKind
  | .v _ => .v | .s _ => .s | .a _ => .a | .p _ => .p | .q _ => .q | .zero => .zero | .lane => .lane
  | .ones => .ones | .one => .one | .quad => .quad | .fone => .fone | .lit _ => .lit

/-- R16: the operand positions, each with what its instruction's own description leaves of the table. -/
inductive Cls where
  /-- vector source -/
  | vs
  /-- a pair position of VDOT2 (R17, R108) -/
  | vp
  /-- vector register only -/
  | vr
  /-- vector destination -/
  | vd
  /-- vector destination that is read as well -/
  | vdr
  /-- vector or scalar destination (R67, R123, R125) -/
  | vsd
  /-- vector register or scalar source (R109, R111, R118) -/
  | vz
  /-- as `vz`, and QNT writes a scalar back (R117) -/
  | vzw
  /-- scalar source -/
  | ss
  /-- scalar destination -/
  | sd
  /-- scalar destination that is read as well -/
  | sdr
  /-- 64-bit scalar source (R6, R65) -/
  | s64
  /-- 64-bit scalar destination -/
  | d64
  /-- an even scalar pair and nothing else (R246, R247, R251) -/
  | se
  /-- the count register of TEAM.fork, read and written (R234) -/
  | sfork
  /-- the pair of CREW.fork, read and written (R252) -/
  | sefork
  /-- a group of four scalars, source -/
  | s4
  /-- a group of four scalars, destination -/
  | d4
  /-- affine source -/
  | as
  /-- affine destination -/
  | ad
  /-- affine or scalar source (R74) -/
  | aas
  /-- predicate source -/
  | ps
  /-- predicate source of VSEL (R110) -/
  | pz
  /-- predicate register only (R26) -/
  | pr
  /-- predicate destination -/
  | pd
  /-- predicate source or vector register (R123) -/
  | bal
  /-- record source -/
  | q
  /-- record destination -/
  | qd
  /-- lane select of SHUF (R124) -/
  | sh
  /-- index of BRT and CALLT (R26) -/
  | ix
  /-- count of LOOPS (R26) -/
  | cnt
  /-- offset of a lane instruction (R129) -/
  | off
  /-- offset of a scalar memory instruction (R134) -/
  | offS
  /-- target of WAITC (R232) -/
  | w64
  /-- offset of MCFG (R286) -/
  | mz
  /-- data of an atomic (R226) -/
  | at
  /-- ZERO alone (R136) -/
  | z0
  deriving DecidableEq, Repr

/-- R16: the codes a position accepts. -/
def Cls.codes : Cls → List OKind
  | .vs | .vp => [.v, .s, .a, .zero, .lane, .ones, .one, .quad, .fone, .lit]
  | .vr => [.v]
  | .vd | .vdr => [.v, .zero]
  | .vsd => [.v, .s, .zero]
  | .vz | .vzw => [.v, .s, .zero, .ones, .one, .lit]
  | .ss | .s64 => [.s, .zero, .ones, .one, .lit]
  | .sd | .sdr | .d64 | .s4 | .d4 => [.s, .zero]
  | .se | .sfork | .sefork => [.s]
  | .as => [.a, .zero]
  | .ad => [.a]
  | .aas => [.a, .s, .zero, .ones, .one, .lit]
  | .ps => [.p, .zero, .ones, .lit]
  | .pz => [.p, .zero, .ones]
  | .pr | .pd => [.p]
  | .bal => [.v, .p, .zero, .ones, .lit]
  | .q | .qd => [.q]
  | .sh => [.v, .lane, .quad, .s, .zero, .ones, .one, .lit]
  | .ix => [.v, .s, .zero, .one]
  | .cnt => [.s, .zero, .one]
  | .off => [.v, .a, .s, .zero, .ones, .one, .lit]
  | .offS => [.a, .s, .zero, .ones, .one, .lit]
  | .w64 => [.s, .zero, .one, .lit]
  | .mz => [.s, .zero, .lit]
  | .at => [.v, .s, .zero]
  | .z0 => [.zero]

/-- R16: does the position accept the operand? -/
def Cls.accepts (c : Cls) (o : Opnd) : Bool := c.codes.contains o.kind

/-- R6, R108, R115, R132, R170, R226: how many registers an operand covers. Some counts depend on MODE.FMT or on a
record's LW, which are fixed when the instruction issues. -/
inductive Width where
  | w1 | w2 | w4
  /-- LD and ST: w / 4 registers for the lane width w (R132) -/
  | lwV
  /-- LDS and STS: a pair under LW 1 (R134) -/
  | lwS
  /-- atomics: a pair under LW 1 (R226) -/
  | lwA
  /-- ATCAS: a pair, or a group of four under LW 1 (R226) -/
  | lwC
  /-- source and destination groups of CVT (R115) -/
  | cvtSrc (t : Code4)
  | cvtDst (t : Code4)
  /-- source group of QNT, destination group of DQNT (R117, R118) -/
  | qntSrc
  | dqntDst
  /-- pair positions of VDOT2 under FP32 and the integer formats (R108) -/
  | dot
  deriving DecidableEq, Repr

/-- One operand field of an instruction: what it names, its position and its width. -/
structure OSlot where
  o : Opnd
  cls : Cls
  width : Width
  deriving DecidableEq, Repr

/-- R136: the operand Y of RSET. -/
def rselSlot (sel : RSel) (y : Opnd) : OSlot :=
  match sel with
  | .base | .extent | .sboff | .advance => ⟨y, .s64, .w2⟩
  | .stride0 | .stride1 | .attr => ⟨y, .ss, .w1⟩
  | .clear => ⟨y, .z0, .w1⟩

/-- R226, R227: the operands of an atomic. A vector Z needs a vector X, or a ZERO X. -/
def atomicSlots (w : Width) (x y z : Opnd) : List OSlot :=
  [⟨x, .at, w⟩, ⟨y, .q, .w1⟩, ⟨z, match x with | .s _ => .offS | _ => .off, .w1⟩]

/-- The operand fields of every instruction, in field order. X of LDS takes ZERO for w = 8 too and discards, which is the model's
choice (notes/assumptions/11.md). -/
def Instr.slots : Instr → List OSlot
  | .nop _ => []
  | .mov _ x y => [⟨x, .vsd, .w1⟩, ⟨y, match x with | .s _ => .ss | _ => .vs, .w1⟩]
  | .sadd _ x y z => [⟨x, .sd, .w1⟩, ⟨y, .ss, .w1⟩, ⟨z, .ss, .w1⟩]
  | .ssub _ x y z => [⟨x, .sd, .w1⟩, ⟨y, .ss, .w1⟩, ⟨z, .ss, .w1⟩]
  | .smul _ x y z => [⟨x, .sd, .w1⟩, ⟨y, .ss, .w1⟩, ⟨z, .ss, .w1⟩]
  | .smulh _ x y z => [⟨x, .sd, .w1⟩, ⟨y, .ss, .w1⟩, ⟨z, .ss, .w1⟩]
  | .smulhu _ x y z => [⟨x, .sd, .w1⟩, ⟨y, .ss, .w1⟩, ⟨z, .ss, .w1⟩]
  | .sand _ x y z => [⟨x, .sd, .w1⟩, ⟨y, .ss, .w1⟩, ⟨z, .ss, .w1⟩]
  | .sor _ x y z => [⟨x, .sd, .w1⟩, ⟨y, .ss, .w1⟩, ⟨z, .ss, .w1⟩]
  | .sxor _ x y z => [⟨x, .sd, .w1⟩, ⟨y, .ss, .w1⟩, ⟨z, .ss, .w1⟩]
  | .sshl _ x y z => [⟨x, .sd, .w1⟩, ⟨y, .ss, .w1⟩, ⟨z, .ss, .w1⟩]
  | .sshr _ x y z => [⟨x, .sd, .w1⟩, ⟨y, .ss, .w1⟩, ⟨z, .ss, .w1⟩]
  | .ssar _ x y z => [⟨x, .sd, .w1⟩, ⟨y, .ss, .w1⟩, ⟨z, .ss, .w1⟩]
  | .smin _ x y z => [⟨x, .sd, .w1⟩, ⟨y, .ss, .w1⟩, ⟨z, .ss, .w1⟩]
  | .smax _ x y z => [⟨x, .sd, .w1⟩, ⟨y, .ss, .w1⟩, ⟨z, .ss, .w1⟩]
  | .sminu _ x y z => [⟨x, .sd, .w1⟩, ⟨y, .ss, .w1⟩, ⟨z, .ss, .w1⟩]
  | .smaxu _ x y z => [⟨x, .sd, .w1⟩, ⟨y, .ss, .w1⟩, ⟨z, .ss, .w1⟩]
  | .sunNot _ x y => [⟨x, .sd, .w1⟩, ⟨y, .ss, .w1⟩]
  | .sunNeg _ x y => [⟨x, .sd, .w1⟩, ⟨y, .ss, .w1⟩]
  | .sunAbs _ x y => [⟨x, .sd, .w1⟩, ⟨y, .ss, .w1⟩]
  | .sunClz _ x y => [⟨x, .sd, .w1⟩, ⟨y, .ss, .w1⟩]
  | .sunCtz _ x y => [⟨x, .sd, .w1⟩, ⟨y, .ss, .w1⟩]
  | .sunPopc _ x y => [⟨x, .sd, .w1⟩, ⟨y, .ss, .w1⟩]
  | .sunBrev _ x y => [⟨x, .sd, .w1⟩, ⟨y, .ss, .w1⟩]
  | .sunBswap _ x y => [⟨x, .sd, .w1⟩, ⟨y, .ss, .w1⟩]
  | .sunSext8 _ x y => [⟨x, .sd, .w1⟩, ⟨y, .ss, .w1⟩]
  | .sunSext16 _ x y => [⟨x, .sd, .w1⟩, ⟨y, .ss, .w1⟩]
  | .sunZext8 _ x y => [⟨x, .sd, .w1⟩, ⟨y, .ss, .w1⟩]
  | .sunZext16 _ x y => [⟨x, .sd, .w1⟩, ⟨y, .ss, .w1⟩]
  | .sbfx _ x y z => [⟨x, .sd, .w1⟩, ⟨y, .ss, .w1⟩, ⟨z, .ss, .w1⟩]
  | .sbfi _ x y z => [⟨x, .sdr, .w1⟩, ⟨y, .ss, .w1⟩, ⟨z, .ss, .w1⟩]
  | .scmp _ _ _ y z => [⟨y, .ss, .w1⟩, ⟨z, .ss, .w1⟩]
  | .ssel _ x y z => [⟨x, .sdr, .w1⟩, ⟨y, .ps, .w1⟩, ⟨z, .ss, .w1⟩]
  | .dadd _ x y z => [⟨x, .d64, .w2⟩, ⟨y, .s64, .w2⟩, ⟨z, .s64, .w2⟩]
  | .dsub _ x y z => [⟨x, .d64, .w2⟩, ⟨y, .s64, .w2⟩, ⟨z, .s64, .w2⟩]
  | .dshl _ x y z => [⟨x, .d64, .w2⟩, ⟨y, .s64, .w2⟩, ⟨z, .ss, .w1⟩]
  | .dshr _ x y z => [⟨x, .d64, .w2⟩, ⟨y, .s64, .w2⟩, ⟨z, .ss, .w1⟩]
  | .amov _ x y => [⟨x, .ad, .w1⟩, ⟨y, .as, .w1⟩]
  | .aadd _ x y z => [⟨x, .ad, .w1⟩, ⟨y, .as, .w1⟩, ⟨z, .aas, .w1⟩]
  | .ascl _ x y z => [⟨x, .ad, .w1⟩, ⟨y, .as, .w1⟩, ⟨z, .ss, .w1⟩]
  | .ashl _ x y z => [⟨x, .ad, .w1⟩, ⟨y, .as, .w1⟩, ⟨z, .ss, .w1⟩]
  | .aexp _ x y z => [⟨x, .ad, .w1⟩, ⟨y, .s64, .w2⟩, ⟨z, .ss, .w1⟩]
  | .aget _ x y part => [⟨x, .sd, match part with | .base => .w2 | .stride => .w1⟩, ⟨y, .as, .w1⟩]
  | .pand _ x y z => [⟨x, .pd, .w1⟩, ⟨y, .ps, .w1⟩, ⟨z, .ps, .w1⟩]
  | .por _ x y z => [⟨x, .pd, .w1⟩, ⟨y, .ps, .w1⟩, ⟨z, .ps, .w1⟩]
  | .pxor _ x y z => [⟨x, .pd, .w1⟩, ⟨y, .ps, .w1⟩, ⟨z, .ps, .w1⟩]
  | .punNot _ x y => [⟨x, .pd, .w1⟩, ⟨y, .ps, .w1⟩]
  | .punFirst _ x y => [⟨x, .pd, .w1⟩, ⟨y, .ps, .w1⟩]
  | .punLast _ x y => [⟨x, .pd, .w1⟩, ⟨y, .ps, .w1⟩]
  | .punSet _ x y => [⟨x, .pd, .w1⟩, ⟨y, .ss, .w1⟩]
  | .punGet _ x y => [⟨x, .sd, .w1⟩, ⟨y, .ps, .w1⟩]
  | .punCnt _ x y => [⟨x, .sd, .w1⟩, ⟨y, .ps, .w1⟩]
  | .pmov _ x y => [⟨x, .pd, .w1⟩, ⟨y, .ps, .w1⟩]
  | .setm _ x _ => [⟨x, .ss, .w1⟩]
  | .getm _ x => [⟨x, .sd, .w1⟩]
  | .br _ => []
  | .brc x _ _ => [⟨x, .pr, .w1⟩]
  | .bsplit x _ _ => [⟨x, .pr, .w1⟩]
  | .sjoin => []
  | .brt x _ => [⟨x, .ix, .w1⟩]
  | .call _ => []
  | .callt x _ => [⟨x, .ix, .w1⟩]
  | .ret => []
  | .loops x _ => [⟨x, .cnt, .w1⟩]
  | .exit => []
  | .yield => []
  | .sinfoLanes _ x => [⟨x, .sd, .w1⟩]
  | .sinfoExec _ x => [⟨x, .sd, .w1⟩]
  | .sinfoCount _ x => [⟨x, .sd, .w1⟩]
  | .sinfoId _ x => [⟨x, .sd, .w1⟩]
  | .sinfoDepth _ x => [⟨x, .sd, .w1⟩]
  | .sinfoOvf _ x => [⟨x, .sd, .w1⟩]
  | .liveDead _ _ _ => []
  | .liveFetch _ _ _ => []
  | .trap x _ => [⟨x, .ss, .w1⟩]
  | .sysc x => [⟨x, .ss, .w1⟩]
  | .rft => []
  | .csrr _ x _ => [⟨x, .sd, .w1⟩]
  | .csrw _ x _ => [⟨x, .ss, .w1⟩]
  | .srSeedWrite _ x => [⟨x, .ss, .w1⟩]
  | .sliceClr _ x => [⟨x, .ss, .w1⟩]
  | .sliceSnap _ x => [⟨x, .ss, .w1⟩]
  | .cellarCarveWrite _ x => [⟨x, .ss, .w1⟩]
  | .bkpt _ => []
  | .time _ x _ => [⟨x, .d64, .w2⟩]
  | .vadd _ x y z => [⟨x, .vd, .w1⟩, ⟨y, .vs, .w1⟩, ⟨z, .vs, .w1⟩]
  | .vsub _ x y z => [⟨x, .vd, .w1⟩, ⟨y, .vs, .w1⟩, ⟨z, .vs, .w1⟩]
  | .vmul _ x y z => [⟨x, .vd, .w1⟩, ⟨y, .vs, .w1⟩, ⟨z, .vs, .w1⟩]
  | .vmulh _ x y z => [⟨x, .vd, .w1⟩, ⟨y, .vs, .w1⟩, ⟨z, .vs, .w1⟩]
  | .vfma _ x y z => [⟨x, .vdr, .w1⟩, ⟨y, .vs, .w1⟩, ⟨z, .vs, .w1⟩]
  | .vfms _ x y z => [⟨x, .vdr, .w1⟩, ⟨y, .vs, .w1⟩, ⟨z, .vs, .w1⟩]
  | .vmin _ x y z => [⟨x, .vd, .w1⟩, ⟨y, .vs, .w1⟩, ⟨z, .vs, .w1⟩]
  | .vmax _ x y z => [⟨x, .vd, .w1⟩, ⟨y, .vs, .w1⟩, ⟨z, .vs, .w1⟩]
  | .vand _ x y z => [⟨x, .vd, .w1⟩, ⟨y, .vs, .w1⟩, ⟨z, .vs, .w1⟩]
  | .vor _ x y z => [⟨x, .vd, .w1⟩, ⟨y, .vs, .w1⟩, ⟨z, .vs, .w1⟩]
  | .vxor _ x y z => [⟨x, .vd, .w1⟩, ⟨y, .vs, .w1⟩, ⟨z, .vs, .w1⟩]
  | .vshl _ x y z => [⟨x, .vd, .w1⟩, ⟨y, .vs, .w1⟩, ⟨z, .vs, .w1⟩]
  | .vshr _ x y z => [⟨x, .vd, .w1⟩, ⟨y, .vs, .w1⟩, ⟨z, .vs, .w1⟩]
  | .vcmp _ _ _ y z => [⟨y, .vs, .w1⟩, ⟨z, .vs, .w1⟩]
  | .vsel _ x y z => [⟨x, .vdr, .w1⟩, ⟨y, .vr, .w1⟩, ⟨z, .pz, .w1⟩]
  | .vunNeg _ x y => [⟨x, .vd, .w1⟩, ⟨y, .vs, .w1⟩]
  | .vunAbs _ x y => [⟨x, .vd, .w1⟩, ⟨y, .vs, .w1⟩]
  | .vunNot _ x y => [⟨x, .vd, .w1⟩, ⟨y, .vs, .w1⟩]
  | .vunRcp _ x y => [⟨x, .vd, .w1⟩, ⟨y, .vs, .w1⟩]
  | .vunRsqrt _ x y => [⟨x, .vd, .w1⟩, ⟨y, .vs, .w1⟩]
  | .vunSqrt _ x y => [⟨x, .vd, .w1⟩, ⟨y, .vs, .w1⟩]
  | .vunExp2 _ x y => [⟨x, .vd, .w1⟩, ⟨y, .vs, .w1⟩]
  | .vunLog2 _ x y => [⟨x, .vd, .w1⟩, ⟨y, .vs, .w1⟩]
  | .vunFloor _ x y => [⟨x, .vd, .w1⟩, ⟨y, .vs, .w1⟩]
  | .vunCeil _ x y => [⟨x, .vd, .w1⟩, ⟨y, .vs, .w1⟩]
  | .vunTrunc _ x y => [⟨x, .vd, .w1⟩, ⟨y, .vs, .w1⟩]
  | .vunRint _ x y => [⟨x, .vd, .w1⟩, ⟨y, .vs, .w1⟩]
  | .vunClz _ x y => [⟨x, .vd, .w1⟩, ⟨y, .vs, .w1⟩]
  | .vunPopc _ x y => [⟨x, .vd, .w1⟩, ⟨y, .vs, .w1⟩]
  | .vbfx _ x y z => [⟨x, .vd, .w1⟩, ⟨y, .vs, .w1⟩, ⟨z, .vz, .w1⟩]
  | .vbfi _ x y z => [⟨x, .vdr, .w1⟩, ⟨y, .vs, .w1⟩, ⟨z, .vz, .w1⟩]
  | .vdot2 _ x y z => [⟨x, .vd, .w1⟩, ⟨y, .vp, .dot⟩, ⟨z, .vp, .dot⟩]
  | .vscl _ x y z => [⟨x, .vd, .w1⟩, ⟨y, .vs, .w1⟩, ⟨z, .vz, .w1⟩]
  | .cvt _ x y t => [⟨x, .vd, .cvtDst t⟩, ⟨y, .vr, .cvtSrc t⟩]
  | .qnt _ x y z => [⟨x, .vd, .w1⟩, ⟨y, .vr, .qntSrc⟩, ⟨z, .vzw, .w1⟩]
  | .dqnt _ x y z => [⟨x, .vd, .dqntDst⟩, ⟨y, .vr, .w1⟩, ⟨z, .vz, .w1⟩]
  | .pack _ x y z => [⟨x, .vd, .w1⟩, ⟨y, .vs, .w1⟩, ⟨z, .vs, .w1⟩]
  | .unpk _ x y _ => [⟨x, .vd, .w1⟩, ⟨y, .vs, .w1⟩]
  | .tag _ x y _ => [⟨x, .vd, .w1⟩, ⟨y, .vs, .w1⟩]
  | .ballot _ x y => [⟨x, .vsd, .w1⟩, ⟨y, .bal, .w1⟩]
  | .xchg _ x y z => [⟨x, .vd, .w1⟩, ⟨y, .vr, .w1⟩, ⟨z, .ss, .w1⟩]
  | .shuf _ x y z => [⟨x, .vd, .w1⟩, ⟨y, .vr, .w1⟩, ⟨z, .sh, .w1⟩]
  | .bcast _ x y z => [⟨x, .vd, .w1⟩, ⟨y, .vr, .w1⟩, ⟨z, .ss, .w1⟩]
  | .scan _ x y _ => [⟨x, .vd, .w1⟩, ⟨y, .vs, .w1⟩]
  | .vred _ x y _ => [⟨x, .vsd, .w1⟩, ⟨y, .vs, .w1⟩]
  | .ld _ x y z => [⟨x, .vd, .lwV⟩, ⟨y, .q, .w1⟩, ⟨z, .off, .w1⟩]
  | .st _ x y z => [⟨x, .vr, .lwV⟩, ⟨y, .q, .w1⟩, ⟨z, .off, .w1⟩]
  | .lds _ x y z => [⟨x, .sd, .lwS⟩, ⟨y, .q, .w1⟩, ⟨z, .offS, .w1⟩]
  | .sts _ x y z => [⟨x, .ss, .lwS⟩, ⟨y, .q, .w1⟩, ⟨z, .offS, .w1⟩]
  | .rld _ x y z => [⟨x, .qd, .w1⟩, ⟨y, .q, .w1⟩, ⟨z, .offS, .w1⟩]
  | .rst _ x y z => [⟨x, .q, .w1⟩, ⟨y, .q, .w1⟩, ⟨z, .offS, .w1⟩]
  | .rset _ x y sel => [⟨x, .qd, .w1⟩, rselSlot sel y]
  | .pref _ _ y z => [⟨y, .q, .w1⟩, ⟨z, .off, .w1⟩]
  | .cacheIcinv _ x y => [⟨x, .off, .w1⟩, ⟨y, .q, .w1⟩]
  | .cacheWb _ x y => [⟨x, .off, .w1⟩, ⟨y, .q, .w1⟩]
  | .cacheInv _ x y => [⟨x, .off, .w1⟩, ⟨y, .q, .w1⟩]
  | .cacheWbinv _ x y => [⟨x, .off, .w1⟩, ⟨y, .q, .w1⟩]
  | .cacheZero _ x y => [⟨x, .off, .w1⟩, ⟨y, .q, .w1⟩]
  | .atadd _ x y z => atomicSlots .lwA x y z
  | .atmin _ x y z => atomicSlots .lwA x y z
  | .atmax _ x y z => atomicSlots .lwA x y z
  | .atand _ x y z => atomicSlots .lwA x y z
  | .ator _ x y z => atomicSlots .lwA x y z
  | .atxor _ x y z => atomicSlots .lwA x y z
  | .atxch _ x y z => atomicSlots .lwA x y z
  | .atcas _ x y z => atomicSlots .lwC x y z
  | .atbinc _ x y z => atomicSlots .lwA x y z
  | .fenceAcq _ _ => []
  | .fenceRel _ _ => []
  | .fenceAr _ _ => []
  | .waitc x y z => [⟨x, .w64, .w2⟩, ⟨y, .q, .w1⟩, ⟨z, .offS, .w1⟩]
  | .bar _ => []
  | .spawn _ x y z => [⟨x, .pd, .w1⟩, ⟨y, .q, .w1⟩, ⟨z, .offS, .w1⟩]
  | .spawnl _ x y z => [⟨x, .pd, .w1⟩, ⟨y, .q, .w1⟩, ⟨z, .off, .w1⟩]
  | .join _ y z => [⟨y, .d4, .w4⟩, ⟨z, .se, .w2⟩]
  | .joinT _ y z => [⟨y, .d4, .w4⟩, ⟨z, .se, .w2⟩]
  | .futInit _ y => [⟨y, .se, .w2⟩]
  | .futPub _ x y => [⟨x, .ss, .w1⟩, ⟨y, .se, .w2⟩]
  | .futSig _ x y => [⟨x, .s64, .w2⟩, ⟨y, .se, .w2⟩]
  | .futSet _ x y => [⟨x, .s64, .w2⟩, ⟨y, .se, .w2⟩]
  | .futFail _ x y => [⟨x, .s4, .w4⟩, ⟨y, .se, .w2⟩]
  | .futCancel _ y => [⟨y, .se, .w2⟩]
  | .futPeek _ x y => [⟨x, .d4, .w4⟩, ⟨y, .se, .w2⟩]
  | .teamFork _ x y => [⟨x, .sfork, .w1⟩, ⟨y, .q, .w1⟩]
  | .teamEnter _ x y => [⟨x, .sd, .w1⟩, ⟨y, .ss, .w1⟩]
  | .teamLeave _ y => [⟨y, .ss, .w1⟩]
  | .teamRank _ x y => [⟨x, .sd, .w1⟩, ⟨y, .ss, .w1⟩]
  | .teamSize _ x y => [⟨x, .sd, .w1⟩, ⟨y, .ss, .w1⟩]
  | .rsvTake _ x y => [⟨x, .sd, .w1⟩, ⟨y, .ss, .w1⟩]
  | .rsvCommit _ x y => [⟨x, .ss, .w1⟩, ⟨y, .ss, .w1⟩]
  | .crewFork _ x y => [⟨x, .sefork, .w2⟩, ⟨y, .se, .w2⟩]
  | .crewReport _ x => [⟨x, .ss, .w1⟩]
  | .crewAwait x => [⟨x, .d64, .w2⟩]
  | .crewCancel _ x y => [⟨x, .ss, .w1⟩, ⟨y, .se, .w2⟩]
  | .crewInit _ x y => [⟨x, .s4, .w4⟩, ⟨y, .se, .w2⟩]
  | .crewPeek _ x y => [⟨x, .d4, .w4⟩, ⟨y, .se, .w2⟩]
  | .mcfg _ _ y => [⟨y, .mz, .w1⟩]
  | .mloop _ _ y => [⟨y, .ss, .w1⟩]
  | .mopDrain _ _ y => [⟨y, .q, .w1⟩]
  | .mopDrainn _ _ y => [⟨y, .q, .w1⟩]
  | .mopFdrain _ _ y => [⟨y, .s4, .w4⟩]
  | .mopZero _ _ => []
  | .mopRdrow _ x y => [⟨x, .vd, .w4⟩, ⟨y, .ss, .w1⟩]
  | .mopWrrow _ x y => [⟨x, .vr, .w4⟩, ⟨y, .ss, .w1⟩]
  | .mopWait x _ => [⟨x, .sd, .w1⟩]
  | .mopCheck _ x _ => [⟨x, .d4, .w4⟩]
  | .copy _ x y z => [⟨x, .s4, .w4⟩, ⟨y, .q, .w1⟩, ⟨z, .q, .w1⟩]
  | .syscReply _ _ => []
  | .loadDataReturn _ => []
  | .crewDeadlineCheck _ => []
  | .copyCollectiveComplete _ _ => []
  | .matrixCommandStart _ _ => []
  | .matrixCommandComplete _ _ => []
  | .engineAccessFailure _ _ _ _ => []
  | .deferredTrap _ => []
  | .reductionRowArrive _ _ => []
  | .failureMarker _ _ => []
  | .issueCycle _ _ => []
  | .windowComplete _ _ => []
  | .residencyFill _ _ => []
  | .trapTaken _ => []
  | .watchdog _ => []
  | .pageWalkComplete _ _ _ => []
  | .pop _ => []
  | .prefetchTake _ => []
  | .stagingRowArrive _ _ => []
  | .stealRound _ => []
  | .stealProbe _ _ => []
  | .stealDelivery _ => []
  | .sliceRequestEnter _ => []
  | .carveChangeComplete _ _ => []
  | .cellarThermalThrottle _ _ => []
  | .perBankRefreshDue _ => []
  | .demandWindowExpiry _ _ => []
  | .tieringEpochEnd _ => []
  | .cxlLinkDown _ => []
  | .cxlCompletionTimeout _ => []
  | .cxlResponse _ _ => []
  | .dypiedFlitReceive _ => []
  | .dypiedRouteFailure _ => []
  | .sramUncorrectedError _ => []
  | .prodDoorbell _ _ _ => []
  | .resvRead _ _ => []
  | .commitDoorbell _ _ _ => []
  | .consDoorbell _ _ _ => []
  | .launchPacketTake _ => []
  | .rootTaskPlace _ => []
  | .heldPacketStart _ => []
  | .tenantCreate => []
  | .tenantDestroy => []
  | .queueSet => []
  | .queueClear => []
  | .queueGet => []
  | .preempt => []
  | .preemptCoreSave _ => []
  | .restore => []
  | .tlbInv => []
  | .faultReply => []
  | .windowOnline => []
  | .slotSet => []
  | .timeSet => []
  | .timeAdj => []
  | .powerLimit => []
  | .moduleId => []
  | .attest => []
  | .cxlTimeout => []
  | .powerThrottle _ _ _ => []
  | .shutdownTemperature _ => []
  | .powerOnBoot => []
  | .recoveryImageWrite _ => []
  | .undefinedEncoding => []
  | .hostWrite _ _ => []
  | .hostCompletion _ _ _ => []
  | .refreshComplete _ => []

/-- R20: how many operand fields hold LIT. -/
def Instr.lits (i : Instr) : Nat := (i.slots.filter (fun sl => sl.o.kind == .lit)).length

/-- R26: an offset is a whole number of words. -/
def offsetOk (w : Word) : Bool := w.toNat % 4 == 0

/-- R227: an atomic with an s register as X has no vector offset. -/
def atomOk : Opnd → Opnd → Bool
  | .s _, .v _ => false
  | _, _ => true

/-- R26, R96, R102, R116, R227: the fields with a meaning of their own whose type does not already hold only what the spec allows. -/
def Instr.fieldsOk : Instr → Bool
  | .liveDead _ b n | .liveFetch _ b n => 1 ≤ n.toNat && n.toNat ≤ 128 && b.val + n.toNat ≤ 128
  | .br off | .call off | .brc _ _ off => offsetOk off
  | .bsplit _ t j => offsetOk t && offsetOk j
  | .brt _ ts | .callt _ ts => ts.all offsetOk && 1 ≤ ts.length && ts.length ≤ 256
  | .loops _ n => 1 ≤ n.toNat && n.toNat ≤ 64
  | .time _ _ sel => sel = 0xF8 ∨ sel = 0xFB
  | .cvt _ _ _ t => 1 ≤ t.toNat && t.toNat ≤ 7
  | .atadd _ x _ z | .atmin _ x _ z | .atmax _ x _ z | .atand _ x _ z | .ator _ x _ z | .atxor _ x _ z | .atxch _ x _ z
  | .atcas _ x _ z | .atbinc _ x _ z => atomOk x z
  | _ => true

/-- R30: the checks of an instruction's word that need no state. An instruction that fails one traps INVOP. -/
def Instr.accepted (i : Instr) : Bool :=
  i.slots.all (fun sl => sl.cls.accepts sl.o) && i.lits ≤ 1 && i.fieldsOk

/-- The CSR numbers whose CSRW words are rows of the table in their own right (SR.SEED, SLICE.CLR, SLICE.SNAP,
CELLAR.CARVE). -/
def ownCsr (n : BitVec 16) : Bool := n = 0x0400 ∨ n = 0x0401 ∨ n = 0x0402 ∨ n = 0x0020

/-- Each word has one term: the CSRW words that have rows of their own are written with those rows. -/
def Instr.canonical : Instr → Bool
  | .csrw _ _ n => !ownCsr n
  | _ => true

/-- A well-formed instruction: the decode checks of R30 hold and it is the one term of its words. -/
def Instr.wellFormed (i : Instr) : Bool := i.accepted && i.canonical

end Sys2Proof
end

