-- ==== Sys2Proof/Decode.lean ====
section
/-!
DEFINITION. Decoding and encoding (spec 01). `decode` is total on any list of words: it answers the instruction and the
words after it, or the reason it refuses. What it refuses traps INVOP (R30). `encode` is written from the same tables
(R10, R15, R29, R31). Operand classes, alignment and register counts are checked where an instruction issues.
-/

namespace Sys2Proof

/-- Why a list of words is no instruction (R30). Every one of them traps INVOP when it is fetched. -/
inductive Reject where
  /-- fewer words than the instruction has -/
  | truncated
  /-- an unassigned major (R29) -/
  | unassignedMajor
  /-- a stroke-required word with S = 0 (R14) -/
  | strokeClear
  /-- an unassigned minor (R22) -/
  | unassignedMinor
  /-- a nonzero reserved field or a reserved code of a field (R11, R21, R26) -/
  | reservedField
  /-- operand code 0xFE (R15) -/
  | reservedCode
  /-- two operand fields hold LIT (R20) -/
  | twoLiterals
  /-- LIT in an instruction of branch-sequence form (R20) -/
  | branchLiteral
  /-- a BRT or CALLT count outside 1 to 256 (R26) -/
  | badCount
  deriving DecidableEq, Repr

/-- R10: the fields of a first word, with the words that follow it. -/
structure Fields where
  sb : Bool
  maj : BitVec 7
  x : Byte
  y : Byte
  z : Byte
  rest : List Word
  deriving DecidableEq, Repr

/-- R10: the layout of a first word. -/
def fieldsOf (w : Word) (rest : List Word) : Fields :=
  ⟨w.getLsbD 31, w.extractLsb' 24 7, w.extractLsb' 16 8, w.extractLsb' 8 8, w.extractLsb' 0 8, rest⟩

/-- R10: the word with these fields. -/
def wordOf (sb : Bool) (maj : BitVec 7) (x y z : Byte) : Word :=
  BitVec.ofBool sb ++ maj ++ x ++ y ++ z

/-- R15: the code of an operand. -/
def Opnd.code : Opnd → Byte
  | .v n => BitVec.ofNat 8 n.val
  | .s n => BitVec.ofNat 8 (0x80 + n.val)
  | .a n => BitVec.ofNat 8 (0xC0 + n.val)
  | .p n => BitVec.ofNat 8 (0xE0 + n.val)
  | .q n => BitVec.ofNat 8 (0xE8 + n.val)
  | .zero => 0xF8
  | .lane => 0xF9
  | .ones => 0xFA
  | .one => 0xFB
  | .quad => 0xFC
  | .fone => 0xFD
  | .lit _ => 0xFF

/-- R15, R20: the operand a code names; LIT takes the first of the words that follow. -/
def Opnd.ofCode (c : Byte) (rest : List Word) : Except Reject Opnd :=
  if h : c.toNat < 0x80 then .ok (.v ⟨c.toNat, h⟩)
  else if h : c.toNat < 0xC0 then .ok (.s ⟨c.toNat - 0x80, by omega⟩)
  else if h : c.toNat < 0xE0 then .ok (.a ⟨c.toNat - 0xC0, by omega⟩)
  else if h : c.toNat < 0xE8 then .ok (.p ⟨c.toNat - 0xE0, by omega⟩)
  else if h : c.toNat < 0xF8 then .ok (.q ⟨c.toNat - 0xE8, by omega⟩)
  else if c.toNat = 0xF8 then .ok .zero
  else if c.toNat = 0xF9 then .ok .lane
  else if c.toNat = 0xFA then .ok .ones
  else if c.toNat = 0xFB then .ok .one
  else if c.toNat = 0xFC then .ok .quad
  else if c.toNat = 0xFD then .ok .fone
  else if c.toNat = 0xFE then .error .reservedCode
  else match rest with
    | l :: _ => .ok (.lit l)
    | [] => .error .truncated

/-- R20: the operand of a branch-sequence form, which never names LIT. -/
def Opnd.ofCodeB (c : Byte) : Except Reject Opnd :=
  if c = 0xFF then .error .branchLiteral else Opnd.ofCode c []

/-- What decoding one first word answers. -/
abbrev Dec := Except Reject Instr

/-- R11: a reserved field is zero. -/
def res (b : Byte) (r : Dec) : Dec := if b = 0 then r else .error .reservedField

/-- R14: a stroke-required word has S = 1. -/
def stroke (f : Fields) (r : Dec) : Dec := if f.sb then r else .error .strokeClear

/-- Operand in X. -/
def opX (f : Fields) (k : Opnd → Dec) : Dec := (Opnd.ofCode f.x f.rest).bind k
/-- Operand in Y. -/
def opY (f : Fields) (k : Opnd → Dec) : Dec := (Opnd.ofCode f.y f.rest).bind k
/-- Operand in Z. -/
def opZ (f : Fields) (k : Opnd → Dec) : Dec := (Opnd.ofCode f.z f.rest).bind k
/-- Operand in X of a branch-sequence form. -/
def opXB (f : Fields) (k : Opnd → Dec) : Dec := (Opnd.ofCodeB f.x).bind k

/-- A field with a meaning of its own that takes only some codes. -/
def own {α : Type} (o : Option α) (k : α → Dec) : Dec :=
  match o with
  | some a => k a
  | none => .error .reservedField

/-- R21: the condition codes. -/
def Cond.ofCode : Nat → Option Cond
  | 0 => some .eq | 1 => some .ne | 2 => some .lt | 3 => some .le | 4 => some .gt | 5 => some .ge
  | 6 => some .ltu | 7 => some .leu | 8 => some .gtu | 9 => some .geu | 10 => some .ord | 11 => some .uno
  | 12 => some .any | 13 => some .none | _ => Option.none

/-- R21: the code of a condition. -/
def Cond.toNat : Cond → Nat
  | .eq => 0 | .ne => 1 | .lt => 2 | .le => 3 | .gt => 4 | .ge => 5 | .ltu => 6 | .leu => 7 | .gtu => 8 | .geu => 9
  | .ord => 10 | .uno => 11 | .any => 12 | .none => 13

/-- R21: the field that holds COND in bits 7 to 3 and PD in bits 2 to 0. -/
def condField (f : Byte) : Option (Cond × PReg) :=
  (Cond.ofCode (f.toNat / 8)).map (fun c => (c, Fin.ofNat 8 f.toNat))

/-- R21: that field of a condition and a predicate. -/
def condByte (c : Cond) (p : PReg) : Byte := BitVec.ofNat 8 (c.toNat * 8 + p.val)

/-- R85: the tests of BRC. -/
def BTest.ofByte (b : Byte) : Option BTest :=
  match b.toNat with
  | 0 => some .any | 1 => some .all | 2 => some .none | 3 => some .nall | _ => Option.none
/-- R85: the code of a test. -/
def BTest.byte : BTest → Byte
  | .any => 0 | .all => 1 | .none => 2 | .nall => 3

/-- R75: the parts of AGET. -/
def APart.ofByte (b : Byte) : Option APart :=
  match b.toNat with
  | 0 => some .base | 1 => some .stride | _ => none
/-- R75: the code of a part. -/
def APart.byte : APart → Byte
  | .base => 0 | .stride => 1

/-- R38: the format codes. -/
def Fmt.ofCode : Nat → Option Fmt
  | 0 => some .raw32 | 1 => some .int32 | 2 => some .uint32 | 3 => some .fp32 | 4 => some .bf16 | 5 => some .fp16
  | 6 => some .e4m3 | 7 => some .e5m2 | 8 => some .int8q | 9 => some .int4q | _ => none
/-- R38: the code of a format. -/
def Fmt.code : Fmt → Nat
  | .raw32 => 0 | .int32 => 1 | .uint32 => 2 | .fp32 => 3 | .bf16 => 4 | .fp16 => 5 | .e4m3 => 6 | .e5m2 => 7
  | .int8q => 8 | .int4q => 9
/-- R120: the tag TAG names. -/
def Fmt.ofByte (b : Byte) : Option Fmt := Fmt.ofCode b.toNat
/-- The byte of a format code. -/
def Fmt.byte (f : Fmt) : Byte := BitVec.ofNat 8 f.code

/-- R119: the half of UNPK. -/
def Half.ofByte (b : Byte) : Option Half :=
  match b.toNat with
  | 0 => some false | 1 => some true | _ => none
/-- R119: its code. -/
def Half.byte (h : Half) : Byte := if h then 1 else 0

/-- R125: the operations of SCAN and VRED. -/
def RedOp.ofByte (b : Byte) : Option RedOp :=
  match b.toNat with
  | 0 => some .add | 1 => some .min | 2 => some .max | 3 => some .and | 4 => some .or | 5 => some .xor | _ => none
/-- R125: the code of an operation. -/
def RedOp.byte : RedOp → Byte
  | .add => 0 | .min => 1 | .max => 2 | .and => 3 | .or => 4 | .xor => 5

/-- R136: the selectors of RSET. -/
def RSel.ofByte (b : Byte) : Option RSel :=
  match b.toNat with
  | 0 => some .base | 1 => some .extent | 2 => some .stride0 | 3 => some .stride1 | 4 => some .attr | 5 => some .sboff
  | 6 => some .clear | 7 => some .advance | _ => none
/-- R136: the code of a selector. -/
def RSel.byte : RSel → Byte
  | .base => 0 | .extent => 1 | .stride0 => 2 | .stride1 => 3 | .attr => 4 | .sboff => 5 | .clear => 6 | .advance => 7

/-- R138: the levels of PREF. -/
def PLevel.ofByte (b : Byte) : Option PLevel :=
  match b.toNat with
  | 0 => some .l1 | 1 => some .l2 | 2 => some .cellar | _ => none
/-- R138: the code of a level. -/
def PLevel.byte : PLevel → Byte
  | .l1 => 0 | .l2 => 1 | .cellar => 2

/-- R78, R231: the scope codes. -/
def Scope.ofCode : Nat → Option Scope
  | 0 => some .task | 1 => some .core | 2 => some .cluster | 3 => some .die | 4 => some .module | 5 => some .system
  | _ => none
/-- R78, R231: the code of a scope. -/
def Scope.code : Scope → Nat
  | .task => 0 | .core => 1 | .cluster => 2 | .die => 3 | .module => 4 | .system => 5
/-- R231: the scope field of FENCE. -/
def Scope.ofByte (b : Byte) : Option Scope := Scope.ofCode b.toNat
/-- R231: its byte. -/
def Scope.byte (s : Scope) : Byte := BitVec.ofNat 8 s.code

/-- R238: the slot of BAR. -/
def Slot.ofByte (b : Byte) : Option Slot := if h : b.toNat < 4 then some ⟨b.toNat, h⟩ else none
/-- R281: a handle field. -/
def Handle.ofByte (b : Byte) : Option Handle := if h : b.toNat < 8 then some ⟨b.toNat, h⟩ else none
/-- R294: the handle field of MOP.wait, 0x08 for all. -/
def WHandle.ofByte (b : Byte) : Option WHandle :=
  if h : b.toNat < 8 then some (some ⟨b.toNat, h⟩) else if b.toNat = 8 then some none else none
/-- R294: its byte. -/
def WHandle.byte : WHandle → Byte
  | some h => BitVec.ofNat 8 h.val
  | none => 8
/-- R96: the register field of LIVE. -/
def VReg.ofByte (b : Byte) : Option VReg := if h : b.toNat < 128 then some ⟨b.toNat, h⟩ else none
/-- A number below 256 as a field. -/
def finByte {n : Nat} (h : Fin n) : Byte := BitVec.ofNat 8 h.val
/-- R116: the target of CVT stands in bits 3 to 0, and bits 7 to 4 are reserved. -/
def Code4.ofByte (b : Byte) : Option Code4 := if b.toNat < 16 then some (b.extractLsb' 0 4) else none
/-- R116: its byte. -/
def Code4.byte (t : Code4) : Byte := t.setWidth 8
/-- R79: the field mask of SETM, whose bits 15 to 10 are reserved. -/
def maskField (y z : Byte) : Option (BitVec 10) :=
  if y.toNat < 4 then some ((y ++ z).extractLsb' 0 10) else none
/-- R247: the field of JOIN with T in bit 3 and PD in bits 2 to 0. -/
def joinField (b : Byte) : Option (Bool × PReg) :=
  if b.toNat < 16 then some (b.getLsbD 3, Fin.ofNat 8 b.toNat) else none

/-- The one extension word of BR, CALL, BRC and LOOPS (R26). -/
def ext1 (rest : List Word) (k : Word → Dec) : Dec :=
  match rest with
  | a :: _ => k a
  | [] => .error .truncated

/-- The two extension words of BSPLIT (R26). -/
def ext2 (rest : List Word) (k : Word → Word → Dec) : Dec :=
  match rest with
  | a :: b :: _ => k a b
  | _ => .error .truncated

/-- The count word and the table of BRT and CALLT (R26). -/
def extTable (rest : List Word) (k : List Word → Dec) : Dec :=
  match rest with
  | n :: ts =>
    if n.toNat = 0 ∨ 256 < n.toNat then .error .badCount
    else if ts.length < n.toNat then .error .truncated
    else k (ts.take n.toNat)
  | [] => .error .truncated

/-- R24 and the rows that are CSRW words with a number of their own (R55, R145, R146, R184). -/
def csrwRow (sb : Bool) (x : Opnd) (num : BitVec 16) : Instr :=
  if num = 0x0400 then .srSeedWrite sb x
  else if num = 0x0401 then .sliceClr sb x
  else if num = 0x0402 then .sliceSnap sb x
  else if num = 0x0020 then .cellarCarveWrite sb x
  else .csrw sb x num

/-- R31, R22: the minors of major 0x11. -/
def decSun (f : Fields) : Dec :=
  match f.z.toNat with
  | 0 => opX f fun x => opY f fun y => .ok (.sunNot f.sb x y)
  | 1 => opX f fun x => opY f fun y => .ok (.sunNeg f.sb x y)
  | 2 => opX f fun x => opY f fun y => .ok (.sunAbs f.sb x y)
  | 3 => opX f fun x => opY f fun y => .ok (.sunClz f.sb x y)
  | 4 => opX f fun x => opY f fun y => .ok (.sunCtz f.sb x y)
  | 5 => opX f fun x => opY f fun y => .ok (.sunPopc f.sb x y)
  | 6 => opX f fun x => opY f fun y => .ok (.sunBrev f.sb x y)
  | 7 => opX f fun x => opY f fun y => .ok (.sunBswap f.sb x y)
  | 8 => opX f fun x => opY f fun y => .ok (.sunSext8 f.sb x y)
  | 9 => opX f fun x => opY f fun y => .ok (.sunSext16 f.sb x y)
  | 10 => opX f fun x => opY f fun y => .ok (.sunZext8 f.sb x y)
  | 11 => opX f fun x => opY f fun y => .ok (.sunZext16 f.sb x y)
  | _ => .error .unassignedMinor

/-- R31, R22: the minors of major 0x23. -/
def decPun (f : Fields) : Dec :=
  match f.z.toNat with
  | 0 => opX f fun x => opY f fun y => .ok (.punNot f.sb x y)
  | 1 => opX f fun x => opY f fun y => .ok (.punFirst f.sb x y)
  | 2 => opX f fun x => opY f fun y => .ok (.punLast f.sb x y)
  | 3 => opX f fun x => opY f fun y => .ok (.punSet f.sb x y)
  | 4 => opX f fun x => opY f fun y => .ok (.punGet f.sb x y)
  | 5 => opX f fun x => opY f fun y => .ok (.punCnt f.sb x y)
  | _ => .error .unassignedMinor

/-- R31, R22: the minors of major 0x33. -/
def decSinfo (f : Fields) : Dec :=
  match f.z.toNat with
  | 0 => opX f fun x => res f.y (.ok (.sinfoLanes f.sb x))
  | 1 => opX f fun x => res f.y (.ok (.sinfoExec f.sb x))
  | 2 => opX f fun x => res f.y (.ok (.sinfoCount f.sb x))
  | 3 => opX f fun x => res f.y (.ok (.sinfoId f.sb x))
  | 4 => opX f fun x => res f.y (.ok (.sinfoDepth f.sb x))
  | 5 => opX f fun x => res f.y (.ok (.sinfoOvf f.sb x))
  | _ => .error .unassignedMinor

/-- R31, R22: the minors of major 0x34. -/
def decLive (f : Fields) : Dec :=
  match f.z.toNat with
  | 0 => own (VReg.ofByte f.x) fun b => .ok (.liveDead f.sb b f.y)
  | 1 => own (VReg.ofByte f.x) fun b => .ok (.liveFetch f.sb b f.y)
  | _ => .error .unassignedMinor

/-- R31, R22: the minors of major 0x4F. -/
def decVun (f : Fields) : Dec :=
  match f.z.toNat with
  | 0 => opX f fun x => opY f fun y => .ok (.vunNeg f.sb x y)
  | 1 => opX f fun x => opY f fun y => .ok (.vunAbs f.sb x y)
  | 2 => opX f fun x => opY f fun y => .ok (.vunNot f.sb x y)
  | 3 => opX f fun x => opY f fun y => .ok (.vunRcp f.sb x y)
  | 4 => opX f fun x => opY f fun y => .ok (.vunRsqrt f.sb x y)
  | 5 => opX f fun x => opY f fun y => .ok (.vunSqrt f.sb x y)
  | 6 => opX f fun x => opY f fun y => .ok (.vunExp2 f.sb x y)
  | 7 => opX f fun x => opY f fun y => .ok (.vunLog2 f.sb x y)
  | 8 => opX f fun x => opY f fun y => .ok (.vunFloor f.sb x y)
  | 9 => opX f fun x => opY f fun y => .ok (.vunCeil f.sb x y)
  | 10 => opX f fun x => opY f fun y => .ok (.vunTrunc f.sb x y)
  | 11 => opX f fun x => opY f fun y => .ok (.vunRint f.sb x y)
  | 12 => opX f fun x => opY f fun y => .ok (.vunClz f.sb x y)
  | 13 => opX f fun x => opY f fun y => .ok (.vunPopc f.sb x y)
  | _ => .error .unassignedMinor

/-- R31, R22: the minors of major 0x68. -/
def decCache (f : Fields) : Dec :=
  match f.z.toNat with
  | 0 => opX f fun x => opY f fun y => .ok (.cacheIcinv f.sb x y)
  | 1 => opX f fun x => opY f fun y => .ok (.cacheWb f.sb x y)
  | 2 => opX f fun x => opY f fun y => .ok (.cacheInv f.sb x y)
  | 3 => opX f fun x => opY f fun y => .ok (.cacheWbinv f.sb x y)
  | 4 => opX f fun x => opY f fun y => .ok (.cacheZero f.sb x y)
  | _ => .error .unassignedMinor

/-- R31, R22: the minors of major 0x72. -/
def decFence (f : Fields) : Dec :=
  match f.x.toNat with
  | 1 => own (Scope.ofByte f.y) fun sc => res f.z (.ok (.fenceAcq f.sb sc))
  | 2 => own (Scope.ofByte f.y) fun sc => res f.z (.ok (.fenceRel f.sb sc))
  | 3 => own (Scope.ofByte f.y) fun sc => res f.z (.ok (.fenceAr f.sb sc))
  | _ => .error .unassignedMinor

/-- R31, R22: the minors of major 0x78. -/
def decFut (f : Fields) : Dec :=
  match f.z.toNat with
  | 0 => res f.x (opY f fun y => .ok (.futInit f.sb y))
  | 1 => opX f fun x => opY f fun y => .ok (.futPub f.sb x y)
  | 2 => opX f fun x => opY f fun y => .ok (.futSig f.sb x y)
  | 3 => opX f fun x => opY f fun y => .ok (.futSet f.sb x y)
  | 4 => opX f fun x => opY f fun y => .ok (.futFail f.sb x y)
  | 5 => res f.x (opY f fun y => .ok (.futCancel f.sb y))
  | 6 => opX f fun x => opY f fun y => .ok (.futPeek f.sb x y)
  | _ => .error .unassignedMinor

/-- R31, R22: the minors of major 0x79. -/
def decTeam (f : Fields) : Dec :=
  match f.z.toNat with
  | 0 => opX f fun x => opY f fun y => .ok (.teamFork f.sb x y)
  | 1 => opX f fun x => opY f fun y => .ok (.teamEnter f.sb x y)
  | 2 => res f.x (opY f fun y => .ok (.teamLeave f.sb y))
  | 3 => opX f fun x => opY f fun y => .ok (.teamRank f.sb x y)
  | 4 => opX f fun x => opY f fun y => .ok (.teamSize f.sb x y)
  | _ => .error .unassignedMinor

/-- R31, R22: the minors of major 0x7A. -/
def decRsv (f : Fields) : Dec :=
  match f.z.toNat with
  | 0 => opX f fun x => opY f fun y => .ok (.rsvTake f.sb x y)
  | 1 => opX f fun x => opY f fun y => .ok (.rsvCommit f.sb x y)
  | _ => .error .unassignedMinor

/-- R31, R22: the minors of major 0x7B. -/
def decCrew (f : Fields) : Dec :=
  match f.z.toNat with
  | 0 => opX f fun x => opY f fun y => .ok (.crewFork f.sb x y)
  | 1 => opX f fun x => res f.y (.ok (.crewReport f.sb x))
  | 2 => stroke f (opX f fun x => res f.y (.ok (.crewAwait x)))
  | 3 => opX f fun x => opY f fun y => .ok (.crewCancel f.sb x y)
  | 4 => opX f fun x => opY f fun y => .ok (.crewInit f.sb x y)
  | 5 => opX f fun x => opY f fun y => .ok (.crewPeek f.sb x y)
  | _ => .error .unassignedMinor

/-- R31, R22: the minors of major 0x7E. -/
def decMop (f : Fields) : Dec :=
  match f.z.toNat with
  | 0 => own (Handle.ofByte f.x) fun h => opY f fun y => .ok (.mopDrain f.sb h y)
  | 1 => own (Handle.ofByte f.x) fun h => opY f fun y => .ok (.mopDrainn f.sb h y)
  | 2 => own (Handle.ofByte f.x) fun h => opY f fun y => .ok (.mopFdrain f.sb h y)
  | 3 => own (Handle.ofByte f.x) fun h => res f.y (.ok (.mopZero f.sb h))
  | 4 => opX f fun x => opY f fun y => .ok (.mopRdrow f.sb x y)
  | 5 => opX f fun x => opY f fun y => .ok (.mopWrrow f.sb x y)
  | 6 => stroke f (opX f fun x => own (WHandle.ofByte f.y) fun h => .ok (.mopWait x h))
  | 7 => opX f fun x => own (Handle.ofByte f.y) fun h => .ok (.mopCheck f.sb x h)
  | _ => .error .unassignedMinor

/-- R29, R30: the instruction of one first word, by its major. -/
def decodeFields (f : Fields) : Dec :=
  match f.maj.toNat with
  | 0x00 => res f.x (res f.y (res f.z (.ok (.nop f.sb))))
  | 0x01 => opX f fun x => opY f fun y => res f.z (.ok (.mov f.sb x y))
  | 0x02 => opX f fun x => opY f fun y => opZ f fun z => .ok (.sadd f.sb x y z)
  | 0x03 => opX f fun x => opY f fun y => opZ f fun z => .ok (.ssub f.sb x y z)
  | 0x04 => opX f fun x => opY f fun y => opZ f fun z => .ok (.smul f.sb x y z)
  | 0x05 => opX f fun x => opY f fun y => opZ f fun z => .ok (.smulh f.sb x y z)
  | 0x06 => opX f fun x => opY f fun y => opZ f fun z => .ok (.smulhu f.sb x y z)
  | 0x07 => opX f fun x => opY f fun y => opZ f fun z => .ok (.sand f.sb x y z)
  | 0x08 => opX f fun x => opY f fun y => opZ f fun z => .ok (.sor f.sb x y z)
  | 0x09 => opX f fun x => opY f fun y => opZ f fun z => .ok (.sxor f.sb x y z)
  | 0x0A => opX f fun x => opY f fun y => opZ f fun z => .ok (.sshl f.sb x y z)
  | 0x0B => opX f fun x => opY f fun y => opZ f fun z => .ok (.sshr f.sb x y z)
  | 0x0C => opX f fun x => opY f fun y => opZ f fun z => .ok (.ssar f.sb x y z)
  | 0x0D => opX f fun x => opY f fun y => opZ f fun z => .ok (.smin f.sb x y z)
  | 0x0E => opX f fun x => opY f fun y => opZ f fun z => .ok (.smax f.sb x y z)
  | 0x0F => opX f fun x => opY f fun y => opZ f fun z => .ok (.sminu f.sb x y z)
  | 0x10 => opX f fun x => opY f fun y => opZ f fun z => .ok (.smaxu f.sb x y z)
  | 0x11 => decSun f
  | 0x12 => opX f fun x => opY f fun y => opZ f fun z => .ok (.sbfx f.sb x y z)
  | 0x13 => opX f fun x => opY f fun y => opZ f fun z => .ok (.sbfi f.sb x y z)
  | 0x14 => own (condField f.x) fun cp => opY f fun y => opZ f fun z => .ok (.scmp f.sb cp.1 cp.2 y z)
  | 0x15 => opX f fun x => opY f fun y => opZ f fun z => .ok (.ssel f.sb x y z)
  | 0x16 => opX f fun x => opY f fun y => opZ f fun z => .ok (.dadd f.sb x y z)
  | 0x17 => opX f fun x => opY f fun y => opZ f fun z => .ok (.dsub f.sb x y z)
  | 0x18 => opX f fun x => opY f fun y => opZ f fun z => .ok (.dshl f.sb x y z)
  | 0x19 => opX f fun x => opY f fun y => opZ f fun z => .ok (.dshr f.sb x y z)
  | 0x1A => opX f fun x => opY f fun y => res f.z (.ok (.amov f.sb x y))
  | 0x1B => opX f fun x => opY f fun y => opZ f fun z => .ok (.aadd f.sb x y z)
  | 0x1C => opX f fun x => opY f fun y => opZ f fun z => .ok (.ascl f.sb x y z)
  | 0x1D => opX f fun x => opY f fun y => opZ f fun z => .ok (.ashl f.sb x y z)
  | 0x1E => opX f fun x => opY f fun y => opZ f fun z => .ok (.aexp f.sb x y z)
  | 0x1F => opX f fun x => opY f fun y => own (APart.ofByte f.z) fun part => .ok (.aget f.sb x y part)
  | 0x20 => opX f fun x => opY f fun y => opZ f fun z => .ok (.pand f.sb x y z)
  | 0x21 => opX f fun x => opY f fun y => opZ f fun z => .ok (.por f.sb x y z)
  | 0x22 => opX f fun x => opY f fun y => opZ f fun z => .ok (.pxor f.sb x y z)
  | 0x23 => decPun f
  | 0x24 => opX f fun x => opY f fun y => res f.z (.ok (.pmov f.sb x y))
  | 0x25 => opX f fun x => own (maskField f.y f.z) fun mask => .ok (.setm f.sb x mask)
  | 0x26 => opX f fun x => res f.y (res f.z (.ok (.getm f.sb x)))
  | 0x28 => stroke f (res f.x (res f.y (res f.z (ext1 f.rest fun off => .ok (.br off)))))
  | 0x29 => stroke f (opXB f fun x => res f.y (own (BTest.ofByte f.z) fun test => ext1 f.rest fun off => .ok (.brc x test off)))
  | 0x2A => stroke f (opXB f fun x => res f.y (res f.z (ext2 f.rest fun tgt join => .ok (.bsplit x tgt join))))
  | 0x2B => stroke f (res f.x (res f.y (res f.z (.ok (.sjoin)))))
  | 0x2C => stroke f (opXB f fun x => res f.y (res f.z (extTable f.rest fun targets => .ok (.brt x targets))))
  | 0x2D => stroke f (res f.x (res f.y (res f.z (ext1 f.rest fun off => .ok (.call off)))))
  | 0x2E => stroke f (opXB f fun x => res f.y (res f.z (extTable f.rest fun targets => .ok (.callt x targets))))
  | 0x2F => stroke f (res f.x (res f.y (res f.z (.ok (.ret)))))
  | 0x30 => stroke f (opXB f fun x => res f.y (res f.z (ext1 f.rest fun len => .ok (.loops x len))))
  | 0x31 => stroke f (res f.x (res f.y (res f.z (.ok (.exit)))))
  | 0x32 => stroke f (res f.x (res f.y (res f.z (.ok (.yield)))))
  | 0x33 => decSinfo f
  | 0x34 => decLive f
  | 0x35 => stroke f (opX f fun x => res f.y (.ok (.trap x f.z)))
  | 0x36 => stroke f (opX f fun x => res f.y (res f.z (.ok (.sysc x))))
  | 0x37 => stroke f (res f.x (res f.y (res f.z (.ok (.rft)))))
  | 0x38 => opX f fun x => .ok (.csrr f.sb x (f.y ++ f.z))
  | 0x39 => opX f fun x => .ok (csrwRow f.sb x (f.y ++ f.z))
  | 0x3A => stroke f (res f.x (res f.y (.ok (.bkpt f.z))))
  | 0x3B => opX f fun x => res f.z (.ok (.time f.sb x f.y))
  | 0x40 => opX f fun x => opY f fun y => opZ f fun z => .ok (.vadd f.sb x y z)
  | 0x41 => opX f fun x => opY f fun y => opZ f fun z => .ok (.vsub f.sb x y z)
  | 0x42 => opX f fun x => opY f fun y => opZ f fun z => .ok (.vmul f.sb x y z)
  | 0x43 => opX f fun x => opY f fun y => opZ f fun z => .ok (.vmulh f.sb x y z)
  | 0x44 => opX f fun x => opY f fun y => opZ f fun z => .ok (.vfma f.sb x y z)
  | 0x45 => opX f fun x => opY f fun y => opZ f fun z => .ok (.vfms f.sb x y z)
  | 0x46 => opX f fun x => opY f fun y => opZ f fun z => .ok (.vmin f.sb x y z)
  | 0x47 => opX f fun x => opY f fun y => opZ f fun z => .ok (.vmax f.sb x y z)
  | 0x48 => opX f fun x => opY f fun y => opZ f fun z => .ok (.vand f.sb x y z)
  | 0x49 => opX f fun x => opY f fun y => opZ f fun z => .ok (.vor f.sb x y z)
  | 0x4A => opX f fun x => opY f fun y => opZ f fun z => .ok (.vxor f.sb x y z)
  | 0x4B => opX f fun x => opY f fun y => opZ f fun z => .ok (.vshl f.sb x y z)
  | 0x4C => opX f fun x => opY f fun y => opZ f fun z => .ok (.vshr f.sb x y z)
  | 0x4D => own (condField f.x) fun cp => opY f fun y => opZ f fun z => .ok (.vcmp f.sb cp.1 cp.2 y z)
  | 0x4E => opX f fun x => opY f fun y => opZ f fun z => .ok (.vsel f.sb x y z)
  | 0x4F => decVun f
  | 0x50 => opX f fun x => opY f fun y => opZ f fun z => .ok (.vbfx f.sb x y z)
  | 0x51 => opX f fun x => opY f fun y => opZ f fun z => .ok (.vbfi f.sb x y z)
  | 0x52 => opX f fun x => opY f fun y => opZ f fun z => .ok (.vdot2 f.sb x y z)
  | 0x53 => opX f fun x => opY f fun y => opZ f fun z => .ok (.vscl f.sb x y z)
  | 0x54 => opX f fun x => opY f fun y => own (Code4.ofByte f.z) fun t => .ok (.cvt f.sb x y t)
  | 0x55 => opX f fun x => opY f fun y => opZ f fun z => .ok (.qnt f.sb x y z)
  | 0x56 => opX f fun x => opY f fun y => opZ f fun z => .ok (.dqnt f.sb x y z)
  | 0x57 => opX f fun x => opY f fun y => opZ f fun z => .ok (.pack f.sb x y z)
  | 0x58 => opX f fun x => opY f fun y => own (Half.ofByte f.z) fun half => .ok (.unpk f.sb x y half)
  | 0x59 => opX f fun x => opY f fun y => own (Fmt.ofByte f.z) fun fmt => .ok (.tag f.sb x y fmt)
  | 0x5A => opX f fun x => opY f fun y => res f.z (.ok (.ballot f.sb x y))
  | 0x5B => opX f fun x => opY f fun y => opZ f fun z => .ok (.xchg f.sb x y z)
  | 0x5C => opX f fun x => opY f fun y => opZ f fun z => .ok (.shuf f.sb x y z)
  | 0x5D => opX f fun x => opY f fun y => opZ f fun z => .ok (.bcast f.sb x y z)
  | 0x5E => opX f fun x => opY f fun y => own (RedOp.ofByte f.z) fun op => .ok (.scan f.sb x y op)
  | 0x5F => opX f fun x => opY f fun y => own (RedOp.ofByte f.z) fun op => .ok (.vred f.sb x y op)
  | 0x60 => opX f fun x => opY f fun y => opZ f fun z => .ok (.ld f.sb x y z)
  | 0x61 => opX f fun x => opY f fun y => opZ f fun z => .ok (.st f.sb x y z)
  | 0x62 => opX f fun x => opY f fun y => opZ f fun z => .ok (.lds f.sb x y z)
  | 0x63 => opX f fun x => opY f fun y => opZ f fun z => .ok (.sts f.sb x y z)
  | 0x64 => opX f fun x => opY f fun y => opZ f fun z => .ok (.rld f.sb x y z)
  | 0x65 => opX f fun x => opY f fun y => opZ f fun z => .ok (.rst f.sb x y z)
  | 0x66 => opX f fun x => opY f fun y => own (RSel.ofByte f.z) fun sel => .ok (.rset f.sb x y sel)
  | 0x67 => own (PLevel.ofByte f.x) fun lv => opY f fun y => opZ f fun z => .ok (.pref f.sb lv y z)
  | 0x68 => decCache f
  | 0x69 => opX f fun x => opY f fun y => opZ f fun z => .ok (.atadd f.sb x y z)
  | 0x6A => opX f fun x => opY f fun y => opZ f fun z => .ok (.atmin f.sb x y z)
  | 0x6B => opX f fun x => opY f fun y => opZ f fun z => .ok (.atmax f.sb x y z)
  | 0x6C => opX f fun x => opY f fun y => opZ f fun z => .ok (.atand f.sb x y z)
  | 0x6D => opX f fun x => opY f fun y => opZ f fun z => .ok (.ator f.sb x y z)
  | 0x6E => opX f fun x => opY f fun y => opZ f fun z => .ok (.atxor f.sb x y z)
  | 0x6F => opX f fun x => opY f fun y => opZ f fun z => .ok (.atxch f.sb x y z)
  | 0x70 => opX f fun x => opY f fun y => opZ f fun z => .ok (.atcas f.sb x y z)
  | 0x71 => opX f fun x => opY f fun y => opZ f fun z => .ok (.atbinc f.sb x y z)
  | 0x72 => decFence f
  | 0x73 => stroke f (opX f fun x => opY f fun y => opZ f fun z => .ok (.waitc x y z))
  | 0x74 => stroke f (own (Slot.ofByte f.x) fun slot => res f.y (res f.z (.ok (.bar slot))))
  | 0x75 => opX f fun x => opY f fun y => opZ f fun z => .ok (.spawn f.sb x y z)
  | 0x76 => opX f fun x => opY f fun y => opZ f fun z => .ok (.spawnl f.sb x y z)
  | 0x77 => stroke f (own (joinField f.x) fun tp => opY f fun y => opZ f fun z =>
      .ok (if tp.1 then .joinT tp.2 y z else .join tp.2 y z))
  | 0x78 => decFut f
  | 0x79 => decTeam f
  | 0x7A => decRsv f
  | 0x7B => decCrew f
  | 0x7C => own (Handle.ofByte f.x) fun h => opY f fun y => res f.z (.ok (.mcfg f.sb h y))
  | 0x7D => own (Handle.ofByte f.x) fun h => opY f fun y => res f.z (.ok (.mloop f.sb h y))
  | 0x7E => decMop f
  | 0x7F => opX f fun x => opY f fun y => opZ f fun z => .ok (.copy f.sb x y z)
  | _ => .error .unassignedMajor

/-- R10, R29, R31: the first word of an instruction; the rows that no word encodes have none. -/
def Instr.head : Instr → Option Word
  | .nop sb => some (wordOf sb 0x00 0 0 0)
  | .mov sb x y => some (wordOf sb 0x01 x.code y.code 0)
  | .sadd sb x y z => some (wordOf sb 0x02 x.code y.code z.code)
  | .ssub sb x y z => some (wordOf sb 0x03 x.code y.code z.code)
  | .smul sb x y z => some (wordOf sb 0x04 x.code y.code z.code)
  | .smulh sb x y z => some (wordOf sb 0x05 x.code y.code z.code)
  | .smulhu sb x y z => some (wordOf sb 0x06 x.code y.code z.code)
  | .sand sb x y z => some (wordOf sb 0x07 x.code y.code z.code)
  | .sor sb x y z => some (wordOf sb 0x08 x.code y.code z.code)
  | .sxor sb x y z => some (wordOf sb 0x09 x.code y.code z.code)
  | .sshl sb x y z => some (wordOf sb 0x0A x.code y.code z.code)
  | .sshr sb x y z => some (wordOf sb 0x0B x.code y.code z.code)
  | .ssar sb x y z => some (wordOf sb 0x0C x.code y.code z.code)
  | .smin sb x y z => some (wordOf sb 0x0D x.code y.code z.code)
  | .smax sb x y z => some (wordOf sb 0x0E x.code y.code z.code)
  | .sminu sb x y z => some (wordOf sb 0x0F x.code y.code z.code)
  | .smaxu sb x y z => some (wordOf sb 0x10 x.code y.code z.code)
  | .sunNot sb x y => some (wordOf sb 0x11 x.code y.code 0x00)
  | .sunNeg sb x y => some (wordOf sb 0x11 x.code y.code 0x01)
  | .sunAbs sb x y => some (wordOf sb 0x11 x.code y.code 0x02)
  | .sunClz sb x y => some (wordOf sb 0x11 x.code y.code 0x03)
  | .sunCtz sb x y => some (wordOf sb 0x11 x.code y.code 0x04)
  | .sunPopc sb x y => some (wordOf sb 0x11 x.code y.code 0x05)
  | .sunBrev sb x y => some (wordOf sb 0x11 x.code y.code 0x06)
  | .sunBswap sb x y => some (wordOf sb 0x11 x.code y.code 0x07)
  | .sunSext8 sb x y => some (wordOf sb 0x11 x.code y.code 0x08)
  | .sunSext16 sb x y => some (wordOf sb 0x11 x.code y.code 0x09)
  | .sunZext8 sb x y => some (wordOf sb 0x11 x.code y.code 0x0A)
  | .sunZext16 sb x y => some (wordOf sb 0x11 x.code y.code 0x0B)
  | .sbfx sb x y z => some (wordOf sb 0x12 x.code y.code z.code)
  | .sbfi sb x y z => some (wordOf sb 0x13 x.code y.code z.code)
  | .scmp sb cond pd y z => some (wordOf sb 0x14 (condByte cond pd) y.code z.code)
  | .ssel sb x y z => some (wordOf sb 0x15 x.code y.code z.code)
  | .dadd sb x y z => some (wordOf sb 0x16 x.code y.code z.code)
  | .dsub sb x y z => some (wordOf sb 0x17 x.code y.code z.code)
  | .dshl sb x y z => some (wordOf sb 0x18 x.code y.code z.code)
  | .dshr sb x y z => some (wordOf sb 0x19 x.code y.code z.code)
  | .amov sb x y => some (wordOf sb 0x1A x.code y.code 0)
  | .aadd sb x y z => some (wordOf sb 0x1B x.code y.code z.code)
  | .ascl sb x y z => some (wordOf sb 0x1C x.code y.code z.code)
  | .ashl sb x y z => some (wordOf sb 0x1D x.code y.code z.code)
  | .aexp sb x y z => some (wordOf sb 0x1E x.code y.code z.code)
  | .aget sb x y part => some (wordOf sb 0x1F x.code y.code (APart.byte part))
  | .pand sb x y z => some (wordOf sb 0x20 x.code y.code z.code)
  | .por sb x y z => some (wordOf sb 0x21 x.code y.code z.code)
  | .pxor sb x y z => some (wordOf sb 0x22 x.code y.code z.code)
  | .punNot sb x y => some (wordOf sb 0x23 x.code y.code 0x00)
  | .punFirst sb x y => some (wordOf sb 0x23 x.code y.code 0x01)
  | .punLast sb x y => some (wordOf sb 0x23 x.code y.code 0x02)
  | .punSet sb x y => some (wordOf sb 0x23 x.code y.code 0x03)
  | .punGet sb x y => some (wordOf sb 0x23 x.code y.code 0x04)
  | .punCnt sb x y => some (wordOf sb 0x23 x.code y.code 0x05)
  | .pmov sb x y => some (wordOf sb 0x24 x.code y.code 0)
  | .setm sb x mask => some (wordOf sb 0x25 x.code ((mask.setWidth 16).extractLsb' 8 8) ((mask.setWidth 16).extractLsb' 0 8))
  | .getm sb x => some (wordOf sb 0x26 x.code 0 0)
  | .br _ => some (wordOf true 0x28 0 0 0)
  | .brc x test _ => some (wordOf true 0x29 x.code 0 (BTest.byte test))
  | .bsplit x _ _ => some (wordOf true 0x2A x.code 0 0)
  | .sjoin => some (wordOf true 0x2B 0 0 0)
  | .brt x _ => some (wordOf true 0x2C x.code 0 0)
  | .call _ => some (wordOf true 0x2D 0 0 0)
  | .callt x _ => some (wordOf true 0x2E x.code 0 0)
  | .ret => some (wordOf true 0x2F 0 0 0)
  | .loops x _ => some (wordOf true 0x30 x.code 0 0)
  | .exit => some (wordOf true 0x31 0 0 0)
  | .yield => some (wordOf true 0x32 0 0 0)
  | .sinfoLanes sb x => some (wordOf sb 0x33 x.code 0 0x00)
  | .sinfoExec sb x => some (wordOf sb 0x33 x.code 0 0x01)
  | .sinfoCount sb x => some (wordOf sb 0x33 x.code 0 0x02)
  | .sinfoId sb x => some (wordOf sb 0x33 x.code 0 0x03)
  | .sinfoDepth sb x => some (wordOf sb 0x33 x.code 0 0x04)
  | .sinfoOvf sb x => some (wordOf sb 0x33 x.code 0 0x05)
  | .liveDead sb b n => some (wordOf sb 0x34 (finByte b) n 0x00)
  | .liveFetch sb b n => some (wordOf sb 0x34 (finByte b) n 0x01)
  | .trap x c => some (wordOf true 0x35 x.code 0 c)
  | .sysc x => some (wordOf true 0x36 x.code 0 0)
  | .rft => some (wordOf true 0x37 0 0 0)
  | .csrr sb x num => some (wordOf sb 0x38 x.code (num.extractLsb' 8 8) (num.extractLsb' 0 8))
  | .csrw sb x num => some (wordOf sb 0x39 x.code (num.extractLsb' 8 8) (num.extractLsb' 0 8))
  | .srSeedWrite sb x => some (wordOf sb 0x39 x.code 0x04 0x00)
  | .sliceClr sb x => some (wordOf sb 0x39 x.code 0x04 0x01)
  | .sliceSnap sb x => some (wordOf sb 0x39 x.code 0x04 0x02)
  | .cellarCarveWrite sb x => some (wordOf sb 0x39 x.code 0x00 0x20)
  | .bkpt c => some (wordOf true 0x3A 0 0 c)
  | .time sb x sel => some (wordOf sb 0x3B x.code sel 0)
  | .vadd sb x y z => some (wordOf sb 0x40 x.code y.code z.code)
  | .vsub sb x y z => some (wordOf sb 0x41 x.code y.code z.code)
  | .vmul sb x y z => some (wordOf sb 0x42 x.code y.code z.code)
  | .vmulh sb x y z => some (wordOf sb 0x43 x.code y.code z.code)
  | .vfma sb x y z => some (wordOf sb 0x44 x.code y.code z.code)
  | .vfms sb x y z => some (wordOf sb 0x45 x.code y.code z.code)
  | .vmin sb x y z => some (wordOf sb 0x46 x.code y.code z.code)
  | .vmax sb x y z => some (wordOf sb 0x47 x.code y.code z.code)
  | .vand sb x y z => some (wordOf sb 0x48 x.code y.code z.code)
  | .vor sb x y z => some (wordOf sb 0x49 x.code y.code z.code)
  | .vxor sb x y z => some (wordOf sb 0x4A x.code y.code z.code)
  | .vshl sb x y z => some (wordOf sb 0x4B x.code y.code z.code)
  | .vshr sb x y z => some (wordOf sb 0x4C x.code y.code z.code)
  | .vcmp sb cond pd y z => some (wordOf sb 0x4D (condByte cond pd) y.code z.code)
  | .vsel sb x y z => some (wordOf sb 0x4E x.code y.code z.code)
  | .vunNeg sb x y => some (wordOf sb 0x4F x.code y.code 0x00)
  | .vunAbs sb x y => some (wordOf sb 0x4F x.code y.code 0x01)
  | .vunNot sb x y => some (wordOf sb 0x4F x.code y.code 0x02)
  | .vunRcp sb x y => some (wordOf sb 0x4F x.code y.code 0x03)
  | .vunRsqrt sb x y => some (wordOf sb 0x4F x.code y.code 0x04)
  | .vunSqrt sb x y => some (wordOf sb 0x4F x.code y.code 0x05)
  | .vunExp2 sb x y => some (wordOf sb 0x4F x.code y.code 0x06)
  | .vunLog2 sb x y => some (wordOf sb 0x4F x.code y.code 0x07)
  | .vunFloor sb x y => some (wordOf sb 0x4F x.code y.code 0x08)
  | .vunCeil sb x y => some (wordOf sb 0x4F x.code y.code 0x09)
  | .vunTrunc sb x y => some (wordOf sb 0x4F x.code y.code 0x0A)
  | .vunRint sb x y => some (wordOf sb 0x4F x.code y.code 0x0B)
  | .vunClz sb x y => some (wordOf sb 0x4F x.code y.code 0x0C)
  | .vunPopc sb x y => some (wordOf sb 0x4F x.code y.code 0x0D)
  | .vbfx sb x y z => some (wordOf sb 0x50 x.code y.code z.code)
  | .vbfi sb x y z => some (wordOf sb 0x51 x.code y.code z.code)
  | .vdot2 sb x y z => some (wordOf sb 0x52 x.code y.code z.code)
  | .vscl sb x y z => some (wordOf sb 0x53 x.code y.code z.code)
  | .cvt sb x y t => some (wordOf sb 0x54 x.code y.code (Code4.byte t))
  | .qnt sb x y z => some (wordOf sb 0x55 x.code y.code z.code)
  | .dqnt sb x y z => some (wordOf sb 0x56 x.code y.code z.code)
  | .pack sb x y z => some (wordOf sb 0x57 x.code y.code z.code)
  | .unpk sb x y half => some (wordOf sb 0x58 x.code y.code (Half.byte half))
  | .tag sb x y fmt => some (wordOf sb 0x59 x.code y.code (Fmt.byte fmt))
  | .ballot sb x y => some (wordOf sb 0x5A x.code y.code 0)
  | .xchg sb x y z => some (wordOf sb 0x5B x.code y.code z.code)
  | .shuf sb x y z => some (wordOf sb 0x5C x.code y.code z.code)
  | .bcast sb x y z => some (wordOf sb 0x5D x.code y.code z.code)
  | .scan sb x y op => some (wordOf sb 0x5E x.code y.code (RedOp.byte op))
  | .vred sb x y op => some (wordOf sb 0x5F x.code y.code (RedOp.byte op))
  | .ld sb x y z => some (wordOf sb 0x60 x.code y.code z.code)
  | .st sb x y z => some (wordOf sb 0x61 x.code y.code z.code)
  | .lds sb x y z => some (wordOf sb 0x62 x.code y.code z.code)
  | .sts sb x y z => some (wordOf sb 0x63 x.code y.code z.code)
  | .rld sb x y z => some (wordOf sb 0x64 x.code y.code z.code)
  | .rst sb x y z => some (wordOf sb 0x65 x.code y.code z.code)
  | .rset sb x y sel => some (wordOf sb 0x66 x.code y.code (RSel.byte sel))
  | .pref sb lv y z => some (wordOf sb 0x67 (PLevel.byte lv) y.code z.code)
  | .cacheIcinv sb x y => some (wordOf sb 0x68 x.code y.code 0x00)
  | .cacheWb sb x y => some (wordOf sb 0x68 x.code y.code 0x01)
  | .cacheInv sb x y => some (wordOf sb 0x68 x.code y.code 0x02)
  | .cacheWbinv sb x y => some (wordOf sb 0x68 x.code y.code 0x03)
  | .cacheZero sb x y => some (wordOf sb 0x68 x.code y.code 0x04)
  | .atadd sb x y z => some (wordOf sb 0x69 x.code y.code z.code)
  | .atmin sb x y z => some (wordOf sb 0x6A x.code y.code z.code)
  | .atmax sb x y z => some (wordOf sb 0x6B x.code y.code z.code)
  | .atand sb x y z => some (wordOf sb 0x6C x.code y.code z.code)
  | .ator sb x y z => some (wordOf sb 0x6D x.code y.code z.code)
  | .atxor sb x y z => some (wordOf sb 0x6E x.code y.code z.code)
  | .atxch sb x y z => some (wordOf sb 0x6F x.code y.code z.code)
  | .atcas sb x y z => some (wordOf sb 0x70 x.code y.code z.code)
  | .atbinc sb x y z => some (wordOf sb 0x71 x.code y.code z.code)
  | .fenceAcq sb sc => some (wordOf sb 0x72 0x01 (Scope.byte sc) 0)
  | .fenceRel sb sc => some (wordOf sb 0x72 0x02 (Scope.byte sc) 0)
  | .fenceAr sb sc => some (wordOf sb 0x72 0x03 (Scope.byte sc) 0)
  | .waitc x y z => some (wordOf true 0x73 x.code y.code z.code)
  | .bar slot => some (wordOf true 0x74 (finByte slot) 0 0)
  | .spawn sb x y z => some (wordOf sb 0x75 x.code y.code z.code)
  | .spawnl sb x y z => some (wordOf sb 0x76 x.code y.code z.code)
  | .join pd y z => some (wordOf true 0x77 (BitVec.ofNat 8 pd.val) y.code z.code)
  | .joinT pd y z => some (wordOf true 0x77 (BitVec.ofNat 8 (8 + pd.val)) y.code z.code)
  | .futInit sb y => some (wordOf sb 0x78 0 y.code 0x00)
  | .futPub sb x y => some (wordOf sb 0x78 x.code y.code 0x01)
  | .futSig sb x y => some (wordOf sb 0x78 x.code y.code 0x02)
  | .futSet sb x y => some (wordOf sb 0x78 x.code y.code 0x03)
  | .futFail sb x y => some (wordOf sb 0x78 x.code y.code 0x04)
  | .futCancel sb y => some (wordOf sb 0x78 0 y.code 0x05)
  | .futPeek sb x y => some (wordOf sb 0x78 x.code y.code 0x06)
  | .teamFork sb x y => some (wordOf sb 0x79 x.code y.code 0x00)
  | .teamEnter sb x y => some (wordOf sb 0x79 x.code y.code 0x01)
  | .teamLeave sb y => some (wordOf sb 0x79 0 y.code 0x02)
  | .teamRank sb x y => some (wordOf sb 0x79 x.code y.code 0x03)
  | .teamSize sb x y => some (wordOf sb 0x79 x.code y.code 0x04)
  | .rsvTake sb x y => some (wordOf sb 0x7A x.code y.code 0x00)
  | .rsvCommit sb x y => some (wordOf sb 0x7A x.code y.code 0x01)
  | .crewFork sb x y => some (wordOf sb 0x7B x.code y.code 0x00)
  | .crewReport sb x => some (wordOf sb 0x7B x.code 0 0x01)
  | .crewAwait x => some (wordOf true 0x7B x.code 0 0x02)
  | .crewCancel sb x y => some (wordOf sb 0x7B x.code y.code 0x03)
  | .crewInit sb x y => some (wordOf sb 0x7B x.code y.code 0x04)
  | .crewPeek sb x y => some (wordOf sb 0x7B x.code y.code 0x05)
  | .mcfg sb h y => some (wordOf sb 0x7C (finByte h) y.code 0)
  | .mloop sb h y => some (wordOf sb 0x7D (finByte h) y.code 0)
  | .mopDrain sb h y => some (wordOf sb 0x7E (finByte h) y.code 0x00)
  | .mopDrainn sb h y => some (wordOf sb 0x7E (finByte h) y.code 0x01)
  | .mopFdrain sb h y => some (wordOf sb 0x7E (finByte h) y.code 0x02)
  | .mopZero sb h => some (wordOf sb 0x7E (finByte h) 0 0x03)
  | .mopRdrow sb x y => some (wordOf sb 0x7E x.code y.code 0x04)
  | .mopWrrow sb x y => some (wordOf sb 0x7E x.code y.code 0x05)
  | .mopWait x h => some (wordOf true 0x7E x.code (WHandle.byte h) 0x06)
  | .mopCheck sb x h => some (wordOf sb 0x7E x.code (finByte h) 0x07)
  | .copy sb x y z => some (wordOf sb 0x7F x.code y.code z.code)
  | .syscReply _ _ => none
  | .loadDataReturn _ => none
  | .crewDeadlineCheck _ => none
  | .copyCollectiveComplete _ _ => none
  | .matrixCommandStart _ _ => none
  | .matrixCommandComplete _ _ => none
  | .engineAccessFailure _ _ _ _ => none
  | .deferredTrap _ => none
  | .reductionRowArrive _ _ => none
  | .failureMarker _ _ => none
  | .issueCycle _ _ => none
  | .windowComplete _ _ => none
  | .residencyFill _ _ => none
  | .trapTaken _ => none
  | .watchdog _ => none
  | .pageWalkComplete _ _ _ => none
  | .pop _ => none
  | .prefetchTake _ => none
  | .stagingRowArrive _ _ => none
  | .stealRound _ => none
  | .stealProbe _ _ => none
  | .stealDelivery _ => none
  | .sliceRequestEnter _ => none
  | .carveChangeComplete _ _ => none
  | .cellarThermalThrottle _ _ => none
  | .perBankRefreshDue _ => none
  | .demandWindowExpiry _ _ => none
  | .tieringEpochEnd _ => none
  | .cxlLinkDown _ => none
  | .cxlCompletionTimeout _ => none
  | .cxlResponse _ _ => none
  | .dypiedFlitReceive _ => none
  | .dypiedRouteFailure _ => none
  | .sramUncorrectedError _ => none
  | .prodDoorbell _ _ _ => none
  | .resvRead _ _ => none
  | .commitDoorbell _ _ _ => none
  | .consDoorbell _ _ _ => none
  | .launchPacketTake _ => none
  | .rootTaskPlace _ => none
  | .heldPacketStart _ => none
  | .tenantCreate => none
  | .tenantDestroy => none
  | .queueSet => none
  | .queueClear => none
  | .queueGet => none
  | .preempt => none
  | .preemptCoreSave _ => none
  | .restore => none
  | .tlbInv => none
  | .faultReply => none
  | .windowOnline => none
  | .slotSet => none
  | .timeSet => none
  | .timeAdj => none
  | .powerLimit => none
  | .moduleId => none
  | .attest => none
  | .cxlTimeout => none
  | .powerThrottle _ _ _ => none
  | .shutdownTemperature _ => none
  | .powerOnBoot => none
  | .recoveryImageWrite _ => none
  | .undefinedEncoding => none
  | .hostWrite _ _ => none
  | .hostCompletion _ _ _ => none
  | .refreshComplete _ => none

/-- R26: the extension words of the branch-sequence forms, and the LIT word of every other form. -/
def Instr.ext (i : Instr) : List Word :=
  match i with
  | .br off | .call off | .brc _ _ off | .loops _ off => [off]
  | .bsplit _ t j => [t, j]
  | .brt _ ts | .callt _ ts => BitVec.ofNat 32 ts.length :: ts
  | i => i.slots.filterMap (fun sl => match sl.o with | .lit w => some w | _ => none)

/-- R27: the length of an instruction in words. -/
def Instr.len (i : Instr) : Nat := 1 + i.ext.length

/-- The words of an instruction, the first word first. -/
def encode (i : Instr) : Option (List Word) := i.head.map (fun w => w :: i.ext)

/-- R30: the instruction at the head of a list of words, and the words after it. -/
def decode (ws : List Word) : Except Reject (Instr × List Word) :=
  match ws with
  | [] => .error .truncated
  | w :: rest =>
    match decodeFields (fieldsOf w rest) with
    | .error e => .error e
    | .ok i => if 2 ≤ i.lits then .error .twoLiterals else .ok (i, rest.drop i.ext.length)

/-- The stroke bit of an instruction: 1 in every stroke-required word (R14). -/
def Instr.strokeBit (i : Instr) : Bool :=
  match i.head with
  | some w => w.getLsbD 31
  | none => false

/-- The words that `nbits` bits of `w` lay out, the first word lowest, followed by words of zeros up to the longest
instruction (R26: 2 + 256 words). -/
def tableWords (nbits w : Nat) : List Word :=
  (List.range ((nbits + 31) / 32)).map (fun k => BitVec.ofNat 32 ((w % 2 ^ nbits) / 2 ^ (32 * k))) ++ List.replicate 258 0

/-- The instruction the decoder reads from an instruction whose bits are `w`, numbered as the opcode table numbers
them; bits at and above `nbits` are zero. -/
def decodeTableWord (nbits w : Nat) : Option Instr :=
  match decode (tableWords nbits w) with
  | .ok (i, _) => some i
  | .error _ => none

end Sys2Proof
end

