-- ==== Sys2Proof/Machine/State.lean ====
section
/-!
DEFINITION. The state of the D9 as plain data: one whole module, sparse (what nothing has touched is not listed). The
group and the split that issue stand at the top level while they issue (`running`, `g`, `sp`, `todo`); everything else
is in lists keyed by number. `tick`, `agenda` and the identifiers `nextTid`, `nextId` are the model's own, not the
spec's (notes/assumptions/1.md, 2.md).
-/

namespace Sys2Proof.Machine

open Sys2Proof

/-- Reasons for which the model stops. Every fault of the spec is a trap that the machine takes and goes on. -/
inductive Fault where
  /-- Raised by the meaning of an instruction word when no split issues. `step` never does that: it runs a word only
  for an issuing split. Safe: nothing is claimed of such a state. -/
  | noIssuingSplit
  deriving DecidableEq, Repr

/-- Reasons for which the model has no meaning. -/
inductive Refusal where
  /-- Raised by a dispatch arm whose instruction has no meaning yet. Safe: it only stops. -/
  | notModelled (mnemonic : String)
  deriving DecidableEq, Repr

/-- R38, R46: a register tag: a format, or one of the tags that no format has. -/
inductive Tag where
  | fmt (f : Fmt)
  | dead
  | poison
  | invalid
  deriving DecidableEq, Repr

/-- One vector register: sixteen lanes, the tag (R47), the poison mask and the poison address (R50). -/
structure VRow where
  lanes : Vector Word 16
  tag : Tag
  pmask : BitVec 16
  paddr : DWord
  deriving DecidableEq, Repr

/-- R74: an affine register. -/
structure Affine where
  base : DWord
  stride : Word
  deriving DecidableEq, Repr

/-- R91: the state of a counted loop: passes left including the one running, the body's bounds and its copy. -/
structure LoopSt where
  left : Nat
  start : DWord
  stop : DWord
  words : List Word
  deriving DecidableEq, Repr

/-- R362: the trap codes. -/
inductive TrapCode where
  | invop | regalign | regrange | tagmismatch | poison | bounds | xlate | perm | misalign | brtarget | splitovf
  | splitwrite | joinmismatch | mxpartial | mxmismatch | mxcmd | cancel | modeval | watchdog | bkpt | user | stack
  /-- the code of a FAULT cell that JOIN.t raises again (R247) -/
  | code (c : Byte)
  deriving DecidableEq, Repr

/-- R371: the ACCESS field of a trap record. -/
inductive AccKind where
  | none | read | write | atomic | fetch
  deriving DecidableEq, Repr

/-- R9: what trap(code) is called with: the code, the failing address, DETAIL and ACCESS of the record (R370, R371). -/
structure TrapReq where
  code : TrapCode
  addr : DWord := 0
  detail : Byte := 0
  access : AccKind := .none
  fatal : Bool := false
  deriving DecidableEq, Repr

/-- R370, R371: what a raised trap carries: the split and the position that raised it, the faulting instruction's
address, the failing address, DETAIL, ACCESS and the execute mask at the instruction. -/
structure TrapInfo where
  code : TrapCode
  sid : Nat
  pc : DWord
  pos : Nat
  addr : DWord
  detail : Byte
  access : AccKind
  exec : BitVec 16
  /-- fatal whatever its class: JOIN.t (R247), a FAIL reply (R385), a deferred trap (R292) -/
  fatal : Bool
  /-- KIND of the record: 0 trap, 1 deferred (R371) -/
  kind : Nat
  deriving DecidableEq, Repr

/-- R249: a crew record: its address, and the storage keys of its three lines. -/
structure CrewRef where
  va : DWord
  k0 : Nat
  k1 : Nat
  k2 : Nat
  deriving DecidableEq, Repr

/-- R262, R263: a party: the task of a split (0 for any other party), the core it stands at (none: the module), and
the number of the module it stands in where that is another one. -/
structure Party where
  tid : Nat
  core : Option Nat
  away : Option (BitVec 16)
  deriving DecidableEq, Repr

/-- R268: the release tag of an aligned 8-byte word. -/
structure RTag where
  scope : Scope
  party : Party
  deriving DecidableEq, Repr

/-- R207: what a parked split waits for. -/
inductive Cause where
  /-- JOIN on the cell at a storage key; `rd` the image group, `pd` the predicate, `t` JOIN.t (R247); `got` holds the cell as it
  became final, where the split could not go on then (R220) -/
  | join (key : Nat) (va : DWord) (rd : Opnd) (pd : PReg) (t : Bool) (got : Option (BitVec 128))
  /-- WAITC on the counter at a storage key until it reaches the target (R232); none: no counter stands there; `got` holds the
  counter's release tag as it reached the target, where the split could not go on then (R220) -/
  | waitc (key : Option Nat) (va : DWord) (target : DWord) (got : Option (Option RTag))
  /-- BAR at the membership slot, which holds a team, in a phase of its barrier (R238) -/
  | bar (slot : Slot) (team phase : Nat)
  /-- SYSC with its service number and s0 to s7 (R99) -/
  | sysc (num : Word) (args : List Word)
  /-- CREW.await on a record (R256); `got` holds what NORMALIZE or a closing gave the seat (R350, R361) -/
  | crew (c : CrewRef) (rd : Opnd) (got : Option DWord)
  /-- MOP.wait on the commands listed (R296) -/
  | mop (ids : List Nat) (rd : Opnd)
  /-- CSRW to CELLAR.CARVE while a change is in progress (R186) -/
  | carve (die : Nat)
  /-- fault service of a 64 KiB page, with the fault of the split's own access (R384) -/
  | service (page : Nat) (i : TrapInfo)
  deriving DecidableEq, Repr

/-- Why a split is stalled in its table entry. -/
inductive StallCause where
  /-- the matrix queue is full (R289) -/
  | matrix
  /-- the transfer queues are full (R301) -/
  | copy
  /-- the tenant's cellar scratch changes (R186) -/
  | carve
  /-- the split's earlier loads have not returned: what changes the splits themselves waits for them -/
  | flight
  /-- the answer of another module is outstanding (R406) -/
  | remote
  deriving DecidableEq, Repr

/-- R206: the state of a live split. OVF is a split without an entry that stands on the overflow stack; STOP is the flag
`stopped` over the state the split stopped in. -/
inductive SState where
  | run
  | win
  /-- RES: the row of this register is fetched (R166) -/
  | res (reg : Nat)
  /-- a page walk is in flight (R382) -/
  | walk (page : Nat)
  /-- the instruction waits for something to free, and the split does not issue (R289, R301) -/
  | stall (c : StallCause)
  | park (c : Cause)
  /-- JOINWAIT at an address with a family (R88) -/
  | joinWait (addr : DWord) (fam : BitVec 16)
  deriving DecidableEq, Repr

/-- R160: the registers that a window log names. -/
inductive RegName where
  | s (n : Nat) | a (n : Nat) | v (n : Nat) | p (n : Nat) | q (n : Nat) | mode
  deriving DecidableEq, Repr

/-- R160: the value of a register of any class. -/
inductive RegVal where
  | w (x : Word) | a (x : Affine) | v (x : VRow) | p (x : BitVec 16) | q (x : BitVec 256)
  deriving DecidableEq, Repr

/-- R160, R164, R210: a register write of a window: its step and position, the register, the lanes or predicate bits it
writes, the value before it, what it writes, whether the register was left with it (`kept`), and whether it wrote both
halves of a pair (`whole`). -/
structure LogEntry where
  tick : Nat
  pos : Nat
  reg : RegName
  mask : BitVec 16
  old : RegVal
  new : RegVal
  kept : Bool
  whole : Bool
  deriving DecidableEq, Repr

/-- R406: an access to another module that has not been answered in full. -/
structure RemoteAsk where
  tag : Nat
  secs : List (Nat × Option (List Byte × Bool))
  tags : List (Nat × RTag)
  deriving DecidableEq, Repr

/-- R203: what each split owns. -/
structure Split where
  sid : Nat
  entry : Option Nat
  lanes : BitVec 16
  pc : DWord
  mode : Word
  slo : Vector Word 16
  alo : Vector Affine 8
  joins : List (DWord × BitVec 16)
  rets : List DWord
  loop : Option LoopSt
  wpc : DWord
  wcm : BitVec 64
  /-- the position of the next instruction in the window -/
  pos : Nat
  /-- where the split goes on after the instruction that parked it or ended its window (R164, R207) -/
  after : DWord
  /-- the selection count (R208) -/
  count : Nat
  /-- has just issued YIELD (R94) -/
  yielded : Bool
  st : SState
  stopped : Bool
  handler : Bool
  /-- registers written since the window was issued or replayed, newest first (R160) -/
  wlog : List LogEntry
  /-- registers that completed positions wrote before the replay that runs, newest first (R164) -/
  wdone : List LogEntry
  /-- the loop as it stood when the window began (R91, R164) -/
  wloop : Option LoopSt
  /-- where the last position of the window left pc and loop, once it has completed (R164) -/
  wend : Option (DWord × Option LoopSt)
  /-- a position of this window has raised a trap during execution (R163) -/
  tripped : Bool
  /-- the STATUS settings of this window that may not be made yet, each with its bits, and the bits that may read 0 for
  want of them (R101) -/
  wstatus : List (BitVec 4)
  wfresh : BitVec 4
  /-- the splits it was divided from, each with the step of the division (R86, R210) -/
  kin : List (Nat × Nat)
  /-- the stores of this window (R142): storage key and bytes, the one that falls last first; and what the bytes they
  touch held before them -/
  wstores : List (Nat × List Byte)
  wbase : List Host.Cell
  /-- snapshots of slice counters in this window (R146): the die, the block's key, and the words that are final -/
  wsnaps : List (Nat × Nat × List Nat)
  /-- the POISON trap that the end of the window will take (R140) -/
  wtrap : Option TrapInfo
  /-- the scope of the last release fence of an earlier window (R271) -/
  fenceRel : Option Scope
  /-- the last FENCE of this window, and the scope it releases at -/
  fenceNow : Option (Option Scope)
  /-- the tags that relaxed atomics of earlier windows read and no FENCE has acquired yet (R271) -/
  relaxed : List RTag
  /-- the tags that relaxed atomics of this window read -/
  relaxedNow : List RTag
  /-- R406: what this instruction has asked of another module: the request's tag, each sector asked for with its bytes once it has
  answered and whether they came poisoned, and the release tags of the words -/
  asked : Option RemoteAsk
  deriving DecidableEq, Repr

/-- R153, R154, R241: what a task inherits from its launch; `root` holds CCADDR and CCINC of a root task, and the queue
and index of its packet. -/
structure Launch where
  tvec : DWord
  fuse : Bool
  id : Nat
  root : Option (DWord × DWord)
  deriving DecidableEq, Repr

/-- R233: a membership slot: the team entry and the rank. -/
structure Member where
  team : Nat
  rank : Nat
  deriving DecidableEq, Repr

/-- R311: stage-area or attic space allotted to a task. -/
inductive Alloc where
  | stage (off len : Nat)
  | attic (n : Nat)
  deriving DecidableEq, Repr

/-- R364: a running handler: the trapping split, the trap record, TRAP.ACT, and the registers it has written (R164). -/
structure HandlerSt where
  trap : TrapInfo
  record : BitVec 512
  act : BitVec 2
  wrote : List RegName
  deriving DecidableEq, Repr

/-- R373: one group: the context of a started task. -/
structure Group where
  tid : Nat
  core : Nat
  slot : Option Nat
  tenant : Nat
  record : BitVec 2048
  launch : Launch
  vregs : Vector VRow 128
  shi : Vector Word 48
  ahi : Vector Affine 24
  preds : Vector (BitVec 16) 8
  qregs : Vector (BitVec 256) 16
  lfsr : Vector Word 16
  status : BitVec 4
  /-- the step at which a merge last set SMIX (R88, R101) -/
  smixAt : Option Nat
  vrfMiss : Word
  coxWin : Word
  latLast : Word
  latStall : Word
  mxKblk : Word
  splits : List Split
  /-- overflow stack, top first (R87) -/
  ovf : List Nat
  nextSid : Nat
  /-- traps raised and not yet taken (R220) -/
  traps : List TrapInfo
  /-- a CANCEL that has arrived and is not yet taken (R257) -/
  cancel : Bool
  /-- the future cell was cancelled (R257) -/
  cancelled : Bool
  /-- deferred traps the engines left (R292) -/
  deferred : List TrapReq
  /-- the watchdog limit has passed (R372) -/
  wdog : Bool
  /-- COX.WIN and the time base when COX.WIN last changed (R372) -/
  wdogMark : Word × Nat
  /-- since when the watchdog does not count: fault service or pre-emption (R372) -/
  wdogOff : Option Nat
  handler : Option HandlerSt
  teams : Vector (Option Member) 4
  alloc : List Alloc
  /-- vector registers whose row is not in the register file (R166) -/
  absent : List Nat
  /-- the step that last used each vector register; 0 where none is listed (R167) -/
  vuse : List (Nat × Nat)
  /-- issue credit and age (R323), and whether the group was ready at the last choice -/
  credit : Int
  age : Nat
  wasReady : Bool
  /-- a split has just issued YIELD: left out of one choice (R94) -/
  giveWay : Bool
  /-- no split issues: pre-emption brings the group to rest, or the crew of this seat is held (R375, R358) -/
  hold : Bool
  /-- pages whose fault the host has answered with RETRY while the crew of this seat is held (R357, R385) -/
  replies : List Nat
  /-- the step at which the group parked, and whether its image has gone to the spill area since (R374) -/
  parkedAt : Nat
  spilled : Bool
  deriving DecidableEq, Repr

/-- R175, R176: one 64-byte sector held in an L1: its number (storage key / 64), its bytes, the masks of the bytes it
holds and of the dirty ones, and whether it was filled poisoned. -/
structure L1Sector where
  key : Nat
  data : BitVec 512
  valid : BitVec 64
  dirty : BitVec 64
  poison : Bool
  deriving DecidableEq, Repr

/-- What made a task: SPAWN, SPAWNL or the front end; TEAM.fork of `n`; CREW.fork (R234, R239). -/
inductive Origin where
  | single
  | team (n : Nat)
  | seat
  deriving DecidableEq, Repr

/-- R148: a task that has not started: its id, its record, its launch and what made it. -/
structure TaskRec where
  tid : Nat
  record : BitVec 2048
  launch : Launch
  origin : Origin
  deriving DecidableEq, Repr

/-- R310: the states of an unstarted entry. -/
inductive EState where
  | waitStage | staging | runnable
  deriving DecidableEq, Repr

/-- R303: one named tile in flight: the member and the descriptor, its source record, where it goes, the rows that have
arrived. -/
structure TileIn where
  member : Nat
  desc : Nat
  src : BitVec 256
  dst : Alloc
  rows : Nat
  done : Nat
  deriving DecidableEq, Repr

/-- R306: a rack entry: an unstarted task or team unit, or (with `resume`) a task that has parked. -/
structure Entry where
  eid : Nat
  members : List TaskRec
  st : EState
  tiles : List TileIn
  skips : Nat
  /-- marked held (R358) -/
  held : Bool
  resume : Option Nat
  deriving DecidableEq, Repr

/-- R233, R235: a team table entry. `parent` is none for a slot-0 team, else the slot-0 team, MASK and KEY. -/
structure TeamEntry where
  id : Nat
  n : Nat
  parent : Option (Nat × BitVec 16 × Byte)
  /-- members: rank in this team, task id -/
  members : List (Nat × Nat)
  /-- ranks that have left or ended (R236) -/
  gone : List Nat
  phase : Nat
  arrived : List Nat
  /-- COPY collectives each rank has given a slice to (R300) -/
  copies : List (Nat × Nat)
  /-- COX count of each rank when it joined (R325); 0 where none is listed -/
  base : List (Nat × Nat)
  deriving DecidableEq, Repr

/-- R281: the state of an accumulator tile. -/
inductive TileState where
  | valid | invalid | poison
  deriving DecidableEq, Repr

/-- R282: who owns a tile. -/
inductive Owner where
  | team (id : Nat)
  | task (tid : Nat)
  deriving DecidableEq, Repr

/-- R284: a binding: the command block with its running values. -/
structure Binding where
  block : BitVec 512
  abase : Nat
  bk : Nat
  kpos : Nat
  deriving DecidableEq, Repr

/-- R281: one accumulator tile. `elems` lists the elements that are not +0, by 64 i + j, rising. -/
structure Tile where
  state : TileState
  owner : Option Owner
  /-- an MCFG has named it since it became owned (R287) -/
  named : Bool
  binding : Option Binding
  elems : List (Nat × Word)
  /-- R296: code, opcode, failures since the last check, first failing address -/
  err : Option (Byte × Byte × Nat × DWord)
  deriving DecidableEq, Repr

/-- R289: what a queued command does, with what it took at issue. -/
inductive MOp where
  | mcfg (block : BitVec 512)
  | mloop (n : Nat)
  | drain (rec : BitVec 256)
  | drainn (rec : BitVec 256)
  | fdrain (ops : BitVec 128)
  | zero
  | rdrow (row : Nat) (x : Option (Fin 128)) (exec : BitVec 16)
  | wrrow (row : Nat) (data : List Word) (exec : BitVec 16)
  deriving DecidableEq, Repr

/-- R289: the states of a command. -/
inductive MState where
  | queued | active
  /-- ACTIVE, waiting for fault service of a page (R293) -/
  | service (t : TrapReq)
  /-- ACTIVE, its rows sent and not yet taken by the reduction slot (R341) -/
  | sent
  | done
  | failed (code : TrapCode) (addr : DWord)
  deriving DecidableEq, Repr

/-- R289: one command of a core's matrix queue; `mode` is MODE at issue (R295). -/
structure MCmd where
  id : Nat
  tid : Nat
  sid : Nat
  pos : Nat
  pc : DWord
  tenant : Nat
  handle : Nat
  op : MOp
  mode : Word
  st : MState
  /-- what the command's reads of memory held when it began: storage key and bytes (R274, R290) -/
  snap : List (Nat × List Byte)
  /-- the tile, where its owner has ended while the command finishes (R282, R368) -/
  kept : Option Tile
  /-- the issue cycle and the table entry of its split (R219) -/
  cycle : Nat
  entry : Nat
  deriving DecidableEq, Repr

/-- R299, R300: one slice of a COPY collective. -/
structure Slice where
  id : Nat
  tid : Nat
  tenant : Nat
  team : Nat
  /-- which collective of the team, from 0 -/
  nth : Nat
  src : BitVec 256
  dst : BitVec 256
  rowBytes : Nat
  rows : Nat
  cc : DWord
  mode : Word
  started : Bool
  /-- the fault whose page it waits for (R293) -/
  service : Option TrapReq
  /-- what its source held when the collective began -/
  snap : List (Nat × List Byte)
  /-- none: not finished; some none: DONE; some (some code): FAILED -/
  result : Option (Option TrapCode)
  deriving DecidableEq, Repr

/-- R382: what a walk gave: tenant, 64 KiB page number, physical address of its frame, the size of the page its leaf maps,
bits 7:0 of the leaf, NX, and where the walk ended in a fault its DETAIL (R383), else 0. -/
structure TlbEntry where
  tenant : Nat
  page : Nat
  frame : Nat
  size : Nat
  flags : Byte
  nx : Bool
  fault : Byte
  deriving DecidableEq, Repr

/-- R317: an entry on its way from a victim to a thief. -/
structure Inbound where
  victim : Nat
  entry : Entry
  deriving DecidableEq, Repr

/-- One core. -/
structure CoreSt where
  id : Nat
  l1 : List L1Sector
  /-- instruction-fetch copies: sector number and bytes (R139) -/
  icopy : List (Nat × BitVec 512)
  /-- the rack, cold end first (R306) -/
  rack : List Entry
  /-- park reservations: task, and whether its cause has resolved during a hold (R308, R358) -/
  resv : List (Nat × Bool)
  pops : Word
  teams : List TeamEntry
  tiles : Vector Tile 8
  mq : List MCmd
  /-- the task whose ill-formed command halted the queue (R291) -/
  mqHalt : Option Nat
  copyq : List Slice
  tlb : List TlbEntry
  cycles : Nat
  /-- R316: the idle period has begun at this cycle count; a round of steps 1 and 2 found nothing -/
  idleSince : Option Nat
  nearRound : Bool
  /-- cores this round has still to probe -/
  probes : List Nat
  inbound : List Inbound
  /-- taken by a PREEMPT that is not complete (R375) -/
  preempting : Bool
  /-- where PREEMPT writes its save block (R376) -/
  saveAt : Nat
  /-- saved and not restored (R375) -/
  saved : Bool
  /-- waits for room in the backing region (R374) -/
  waits : Bool
  deriving DecidableEq, Repr

/-- R184 to R190: a tenant's share of a die. -/
structure TenantDie where
  tenant : Nat
  die : Nat
  scr : BitVec 16
  cache : BitVec 16
  /-- the carve a change in progress installs: SCR, CACHE (R185) -/
  change : Option (BitVec 16 × BitVec 16)
  carveDone : Word
  hotSeen : Bool
  /-- the set-duelling selector (R189) -/
  selector : Nat
  /-- SLICE.SNAP.OFF as last written (R145); that it is one register for each tenant and die is the model's choice
  (notes/assumptions/48.md) -/
  snapOff : Nat
  deriving DecidableEq, Repr

/-- R143: the counters of one tenant at one slice of a die. -/
structure SliceCnt where
  die : Nat
  slice : Nat
  tenant : Nat
  req : Word
  occ : Nat
  deriving DecidableEq, Repr

/-- R143, R144: a request that waits in the crossbar (`counted` false) or holds a queue entry. -/
structure SliceReq where
  id : Nat
  die : Nat
  slice : Nat
  tenant : Nat
  /-- the sector asked for -/
  sec : Nat
  counted : Bool
  /-- the in-flight load or atomic that waits for it; 0 for none -/
  load : Nat
  /-- the split whose window ends no earlier than the request is counted (R147) -/
  wait : Option (Nat × Nat)
  /-- a store or an atomic (R196) -/
  wr : Bool
  /-- a request that no L2 or cellar copy serves (R380) -/
  thru : Bool
  /-- the CXL port at which it is outstanding (R197) -/
  port : Option Nat
  deriving DecidableEq, Repr

/-- How a GLOBAL location is reached: through an L1, past it (R141, R177), past every cache (R380), or it is no GLOBAL
location. -/
inductive Path where
  | l1 | bypass | uncached | near
  deriving DecidableEq, Repr

/-- One access of an in-flight load: the lane, the storage key (none: dropped), the address and the path. -/
structure LoadAcc where
  lane : Nat
  key : Option Nat
  va : DWord
  path : Path
  deriving DecidableEq, Repr

/-- R228, R229: what an atomic did for one lane: the old value, whether it wrote, and the address of a poisoned sector. -/
structure AtomRes where
  lane : Nat
  old : Nat
  wrote : Bool
  bad : Option DWord
  deriving DecidableEq, Repr

/-- R225: the atomics. -/
abbrev AtomKind := LinkAtom

/-- R228: an atomic whose locations are not all performed: which atomic it is, MODE at issue, the width of a location, whether
it is the vector form, X, and its lanes with their data; `got` lists what the lanes already performed got. -/
structure AtomFly where
  kind : AtomKind
  mode : Word
  w : Nat
  vec : Bool
  x : Opnd
  lanes : List (Nat × Nat × Nat)
  got : List AtomRes
  deriving DecidableEq, Repr

/-- What an in-flight load writes. -/
inductive LoadKind where
  /-- LD: first register (none discards), lane width, format -/
  | vec (x : Option (Fin 128)) (w : Nat) (f : Fmt)
  /-- LDS: destination and width -/
  | scal (x : Opnd) (w : Nat)
  /-- RLD: destination -/
  | recd (q : Fin 16)
  /-- an atomic that is outstanding (R228, R229) -/
  | atom (a : AtomFly)
  deriving DecidableEq, Repr

/-- R159: a load or an atomic that has issued and whose data has not been written. -/
structure Load where
  id : Nat
  tid : Nat
  sid : Nat
  core : Nat
  tenant : Nat
  pos : Nat
  pc : DWord
  exec : BitVec 16
  kind : LoadKind
  accs : List LoadAcc
  /-- sectors it received poisoned (R140, R197) -/
  poisoned : List Nat
  /-- what it has received: for a load the bytes of a sector, by the sector's number; for an atomic the bytes of a location of another
  module before it was performed, by the location's key -/
  held : List (Nat × List Byte)
  /-- a request of it left L2 and the cellar (R192, R194) -/
  below : Bool
  /-- release tags that answers of other modules have brought, by 8-byte word (R268) -/
  farTags : List (Nat × RTag)
  deriving DecidableEq, Repr

/-- R399: one window of a tenant. -/
structure Window where
  base : Nat
  size : Nat
  kind : Nat
  die : Nat
  module : Nat
  medium : Nat
  offline : Bool
  deriving DecidableEq, Repr

/-- R383: an outstanding fault of a tenant: 64 KiB page and cause. -/
structure FaultSt where
  page : Nat
  cause : Byte
  deriving DecidableEq, Repr

/-- R398: a tenant. -/
structure Tenant where
  id : Nat
  cores : BitVec 1152
  allot : Vector (BitVec 16) 9
  ptroot : Nat
  spill : Nat
  spillSize : Nat
  wdog : Nat
  stage : Nat
  grants : Byte
  locDepth : Word
  locBytes : Word
  locIdle : Word
  errq : Nat
  tierq : Option Nat
  tierTh : Nat
  epoch : Nat
  windows : List Window
  faults : List FaultSt
  /-- the crew watch (R348) -/
  watch : List CrewRef
  /-- hot regions of the epoch: region, count, written, pinned, reported (R196) -/
  hot : List (Nat × Nat × Bool × Bool × Bool)
  epochNo : Word
  tierLost : Bool
  pwrSeen : Bool
  deriving DecidableEq, Repr

/-- R386: a queue's control entry with its commit bitmap (R391) and whether its interrupt is armed (R400). -/
structure Queue where
  num : Nat
  ring : DWord
  shadow : DWord
  prod : Word
  cons : Word
  resv : Word
  k : Nat
  flags : Byte
  kind : Nat
  tenant : Nat
  vector : Nat
  lost : Word
  /-- tickets committed out of order (R391) -/
  bits : List Nat
  armed : Bool
  deriving DecidableEq, Repr

/-- R393, R395: a launch packet that has been taken: queue, index, the root task's record and launch, START, the cores
its placement allows. -/
structure Packet where
  queue : Nat
  index : Word
  tenant : Nat
  record : BitVec 2048
  launch : Launch
  start : Nat
  cores : List Nat
  deriving DecidableEq, Repr

/-- R341, R405: a contribution whose rows are still arriving from another module: its module and tag, what its flits say of it, the
bytes that have arrived by their offset, and whether some came poisoned. -/
structure RowsIn where
  module : BitVec 16
  tag : Nat
  head : Contribution
  bytes : List (Nat × List Byte)
  bad : Bool
  deriving DecidableEq, Repr

/-- R339, R341: a reduction slot: its descriptor and the contributions of the rounds not complete. -/
structure RSlot where
  num : Nat
  desc : BitVec 512
  modLo : Nat
  modHi : Nat
  round : Nat
  /-- contributions that have arrived, in order of arrival, with their round and whether they are failure markers -/
  parts : List (Nat × Bool × Contribution)
  /-- contributions of which flits are still to come -/
  coming : List RowsIn
  deriving DecidableEq, Repr

/-- R376: the save block of one core: what pre-emption took from it. The bytes of its scratch and attic stand in HBM4E, at
`area` (notes/assumptions/30.md); the rest of the block stands here. -/
structure SaveBlock where
  core : Nat
  tenant : Nat
  area : Nat
  /-- release tags of its scratch and attic words, by their offsets -/
  nearTags : List (Nat × RTag)
  atticTags : List (Nat × RTag)
  state : CoreSt
  groups : List Group
  /-- replies that arrived during the hold: page and whether RETRY (R385), with the cause of the fault -/
  replies : List (Nat × Bool × Byte)
  deriving DecidableEq, Repr

/-- R357, R358: a held crew: the saved cores that held a seat of it, and the seats that have been restored while it is held. -/
structure HeldCrew where
  crew : CrewRef
  tenant : Nat
  cores : List Nat
  restored : List Nat
  deriving DecidableEq, Repr

/-- R389, R391: what a read of a queue's doorbell block returned to a function of the host. -/
structure HostRead where
  fn : Option Nat
  queue : Nat
  value : Word
  deriving DecidableEq, Repr

/-- R193: the refresh state of one HBM channel. -/
structure Chan where
  num : Nat
  owed : List Nat
  demand : List Nat
  forced : Bool
  busy : Option Nat
  due : Nat
  deriving DecidableEq, Repr

/-- Bring-up (R409, R411). -/
inductive Boot where
  | off
  /-- the ROM did not accept the image: only the recovery register block answers -/
  | recovery
  | running
  deriving DecidableEq, Repr

/-- R411, R190: one die: throttling and shutdown. -/
structure DieSt where
  id : Nat
  hot : Bool
  therm : Bool
  shut : Bool
  corrected : Nat
  deriving DecidableEq, Repr

/-- The whole module. -/
structure State where
  -- the issuing group and split
  running : Bool
  g : Group
  sp : Split
  todo : List Nat
  -- groups, cores, dies
  groups : List Group
  cores : List CoreSt
  dies : List DieSt
  tdies : List TenantDie
  slices : List SliceCnt
  sreqs : List SliceReq
  /-- R197: stores and other writes that have left their slice and are outstanding at a CXL port -/
  posted : List SliceReq
  loads : List Load
  /-- R382: the shared TLB of each die, by die -/
  dtlb : List (Nat × TlbEntry)
  -- memory
  mem : List Host.Cell
  poison : List Nat
  tags : List (Nat × RTag)
  /-- R197: bytes of CXL memory that a write has changed and that may not have reached the expander, with the byte the
  expander holds -/
  l2d : List Host.Cell
  -- tenants, queues, host
  tenants : List Tenant
  queues : List Queue
  packets : List Packet
  keptPackets : List Packet
  saves : List SaveBlock
  heldCrews : List HeldCrew
  fused : List Nat
  irqs : List (Option Nat × Nat)
  /-- R403: sectors of host memory that poisoned TLPs have written, the last first -/
  poisonTlps : List Nat
  /-- what reads of doorbell blocks have returned, the last first -/
  hostReads : List HostRead
  dropped : Nat
  aer : List Nat
  -- links and device
  rslots : List RSlot
  chans : List Chan
  portTimeout : List (Nat × Nat)
  time : Nat
  timeRate : Int
  moduleNo : Option (BitVec 16)
  flitSeen : Bool
  outFlits : List Flit
  routesDown : List Nat
  powerLimit : Nat
  powerLow : Bool
  boot : Boot
  image : FwImage
  bootNo : Nat
  queueBase : Nat
  adminBusy : Bool
  -- the model's own
  nextTid : Nat
  nextId : Nat
  tick : Nat
  /-- the step that began the issue cycle (R101, R219) -/
  cycleAt : Nat
  agenda : List Instr
  deriving DecidableEq, Repr

/-- A vector register at power-on: nothing reads it before a task start writes it (R155). -/
def VRow.init : VRow := ⟨Vector.replicate 16 0, .dead, 0, 0⟩

/-- R155: a split at the start of a task, before its entry address is set. -/
def Split.init : Split where
  sid := 0
  entry := none
  lanes := 0
  pc := 0
  mode := 0x18
  slo := Vector.replicate 16 0
  alo := Vector.replicate 8 ⟨0, 0⟩
  joins := []
  rets := []
  loop := none
  wpc := 0
  wcm := 0
  pos := 0
  after := 0
  count := 0
  yielded := false
  st := .run
  stopped := false
  handler := false
  wlog := []
  wdone := []
  wloop := none
  wend := none
  tripped := false
  wstatus := []
  wfresh := 0
  kin := []
  wstores := []
  wbase := []
  wsnaps := []
  wtrap := none
  fenceRel := none
  fenceNow := none
  relaxed := []
  relaxedNow := []
  asked := none

/-- R155: a group before a task is put into it. -/
def Group.init : Group where
  tid := 0
  core := 0
  slot := none
  tenant := 0
  record := 0
  launch := ⟨0, false, 0, none⟩
  vregs := Vector.replicate 128 VRow.init
  shi := Vector.replicate 48 0
  ahi := Vector.replicate 24 ⟨0, 0⟩
  preds := Vector.replicate 8 0
  qregs := Vector.replicate 16 0
  lfsr := Vector.replicate 16 1
  status := 0
  smixAt := none
  vrfMiss := 0
  coxWin := 0
  latLast := 0
  latStall := 0
  mxKblk := 0
  splits := []
  ovf := []
  nextSid := 0
  traps := []
  cancel := false
  cancelled := false
  deferred := []
  wdog := false
  wdogMark := (0, 0)
  wdogOff := none
  handler := none
  teams := Vector.replicate 4 none
  alloc := []
  absent := []
  vuse := []
  credit := 0
  age := 0
  wasReady := false
  giveWay := false
  hold := false
  replies := []
  parkedAt := 0
  spilled := false

/-- R281, R282: a free tile. -/
def Tile.init : Tile := ⟨.invalid, none, false, none, [], none⟩

/-- A core at power-on: nothing cached, an empty rack (R314: the pop count resets to 0). -/
def CoreSt.init (id : Nat) : CoreSt where
  id := id
  l1 := []
  icopy := []
  rack := []
  resv := []
  pops := 0
  teams := []
  tiles := Vector.replicate 8 Tile.init
  mq := []
  mqHalt := none
  copyq := []
  tlb := []
  cycles := 0
  idleSince := none
  nearRound := false
  probes := []
  inbound := []
  preempting := false
  saveAt := 0
  saved := false
  waits := false

/-- The module right after power-on, before the ROM has verified an image (R411): no tenant, no queue, no task, memory
with nothing listed. Values the spec does not state are named in notes/assumptions/3.md. -/
def State.reset : State where
  running := false
  g := Group.init
  sp := Split.init
  todo := []
  groups := []
  cores := []
  dies := []
  tdies := []
  slices := []
  sreqs := []
  posted := []
  loads := []
  dtlb := []
  mem := []
  poison := []
  tags := []
  l2d := []
  tenants := []
  queues := []
  packets := []
  keptPackets := []
  saves := []
  heldCrews := []
  fused := []
  irqs := []
  poisonTlps := []
  hostReads := []
  dropped := 0
  aer := []
  rslots := []
  chans := []
  portTimeout := [(0, 10000), (1, 10000)]
  time := 0
  timeRate := 0
  moduleNo := none
  flitSeen := false
  outFlits := []
  routesDown := []
  powerLimit := 7000
  powerLow := false
  boot := .off
  image := ⟨[], 0, [], []⟩
  bootNo := 0
  queueBase := 0
  adminBusy := false
  nextTid := 1
  nextId := 1
  tick := 0
  cycleAt := 0
  agenda := []

end Sys2Proof.Machine
end

