-- ==== Sys2Proof/Machine/Bits.lean ====
section
/-!
DEFINITION. Bit fields, byte order, lane sets, and the lists keyed by number that hold sparse state. Multi-byte values
are little-endian (R4).
-/

namespace Sys2Proof.Machine

/-- Bits `hi` to `lo` of a word, as a number (R4). -/
def field {n : Nat} (x : BitVec n) (hi lo : Nat) : Nat := (x.extractLsb' lo (hi - lo + 1)).toNat

/-- A word with bits `hi` to `lo` replaced. -/
def setField {n : Nat} (x : BitVec n) (hi lo : Nat) (v : Nat) : BitVec n :=
  let w := hi - lo + 1
  let m : BitVec n := BitVec.ofNat n ((2 ^ w - 1) * 2 ^ lo)
  (x &&& ~~~m) ||| (BitVec.ofNat n ((v % 2 ^ w) * 2 ^ lo))

/-- Byte `i` of a value, counted from the least significant (R4). -/
def byteOf {n : Nat} (x : BitVec n) (i : Nat) : Byte := x.extractLsb' (8 * i) 8

/-- The `n` bytes of a value, lowest address first (R4). -/
def toBytes {w : Nat} (n : Nat) (x : BitVec w) : List Byte := (List.range n).map (byteOf x)

/-- The value of a list of bytes, lowest address first (R4). -/
def natOfBytes : List Byte → Nat
  | [] => 0
  | b :: bs => b.toNat + 256 * natOfBytes bs

/-- The value of a list of bytes as a bit vector (R4). -/
def ofBytes (w : Nat) (bs : List Byte) : BitVec w := BitVec.ofNat w (natOfBytes bs)

/-- The number of one bits of a lane mask. -/
def popc {n : Nat} (x : BitVec n) : Nat := ((List.range n).filter (fun i => x.getLsbD i)).length

/-- The lanes of a mask, in increasing index (R9). -/
def lanesOf (m : BitVec 16) : List (Fin 16) := (List.finRange 16).filter (fun l => m.getLsbD l.val)

/-- The mask with one lane. -/
def laneBit (l : Nat) : BitVec 16 := BitVec.ofNat 16 (2 ^ l)

/-- The mask of the lanes for which a test holds. -/
def maskOf (p : Fin 16 → Bool) : BitVec 16 :=
  BitVec.ofNat 16 ((List.finRange 16).foldl (fun acc l => if p l then acc + 2 ^ l.val else acc) 0)

/-- The lowest lane of a mask. -/
def lowLane (m : BitVec 16) : Option (Fin 16) := (lanesOf m).head?

/-- R157: the quads that hold a lane of the mask. -/
def quadsOf (m : BitVec 16) : List Nat := (List.range 4).filter (fun q => (m.extractLsb' (4 * q) 4) != 0)

/-- Sign extension from 32 to 64 bits. -/
def sext64 (x : Word) : DWord := x.signExtend 64

/-- Count of leading zeros of a word of `n` bits. -/
def clzNat (n x : Nat) : Nat := if x = 0 then n else n - 1 - Nat.log2 x

/-- Count of trailing zeros of a word of `n` bits (R69: `n` for zero). -/
def ctzNat (n x : Nat) : Nat := ((List.range n).find? (fun i => x.testBit i)).getD n

/-- A vector with every element mapped. -/
def vmap {α β : Type} {n : Nat} (f : α → β) (v : Vector α n) : Vector β n := Vector.ofFn (fun i => f v[i])

/-- Element `i` of a vector, the default outside. -/
def vget {α : Type} {n : Nat} (v : Vector α n) (i : Nat) (d : α) : α := if h : i < n then v[i] else d

/-- A vector with element `i` replaced; unchanged where `i` is outside. -/
def vset {α : Type} {n : Nat} (v : Vector α n) (i : Nat) (x : α) : Vector α n := if h : i < n then v.set i x h else v

/-- XOR of a list of bytes. -/
def xorBytes (bs : List Byte) : Byte := bs.foldl (· ^^^ ·) 0

/-- Little-endian words of a byte string. -/
def wordsOf : List Byte → List Word
  | a :: b :: c :: d :: rest => ofBytes 32 [a, b, c, d] :: wordsOf rest
  | _ => []

/-- Insert or replace the value at a key of a list sorted by key, or remove it (`none`). -/
def putKey {α : Type} (k : Nat) (v : Option α) : List (Nat × α) → List (Nat × α)
  | [] => match v with
    | some x => [(k, x)]
    | none => []
  | (a, y) :: l =>
    if a < k then (a, y) :: putKey k v l
    else
      let tail := if a = k then l else (a, y) :: l
      match v with
      | some x => (k, x) :: tail
      | none => tail

/-- The value at a key. -/
def getKey {α : Type} (k : Nat) : List (Nat × α) → Option α
  | [] => none
  | (a, y) :: l => if a = k then some y else getKey k l

/-- Insert a number into a rising list without repeats. -/
def insertNat (k : Nat) : List Nat → List Nat
  | [] => [k]
  | a :: l => if a < k then a :: insertNat k l else if a = k then a :: l else k :: a :: l

/-- The element of a list with the greatest score, the first of equals. -/
def maxBy {α : Type} (f : α → Int) : List α → Option α
  | [] => none
  | a :: l => match maxBy f l with
    | none => some a
    | some b => if f b > f a then some b else some a

/-- Insertion into a list sorted by a test. -/
def insertBy {α : Type} (le : α → α → Bool) (x : α) : List α → List α
  | [] => [x]
  | a :: l => if le x a then x :: a :: l else a :: insertBy le x l

/-- A list sorted by a test, stable. -/
def sortBy {α : Type} (le : α → α → Bool) : List α → List α
  | [] => []
  | a :: l => insertBy le a (sortBy le l)

/-- The first element that a function maps to something. -/
def firstSome {α β : Type} (f : α → Option β) : List α → Option β
  | [] => none
  | a :: l => match f a with
    | some b => some b
    | none => firstSome f l

/-- Replace the elements of a list that pass a test. -/
def updWhere {α : Type} (p : α → Bool) (f : α → α) (l : List α) : List α := l.map (fun a => if p a then f a else a)

/-- Replace the first element that passes a test, or append a new one. -/
def upsert {α : Type} (p : α → Bool) (f : α → α) (new : α) : List α → List α
  | [] => [f new]
  | a :: l => if p a then f a :: l else a :: upsert p f new l

end Sys2Proof.Machine
end

