-- ==== Sys2Proof/Machine/Num.lean ====
section
/-!
DEFINITION. Numbers (spec 02): the formats, exact values, rounding, stochastic rounding, integer results, conversion,
and the exact functions of R112. A floating value is exact: NaN, an infinity, or a sign with a natural significand times
a power of two. Where a result is irrational or a quotient, the value carries enough bits and one sticky bit below them,
so that every rounding of R51 and R54 comes out as for the exact result.
-/

namespace Sys2Proof

/-- R39: exponent width, fraction width, bias, whether infinities exist. -/
structure FLayout where
  eb : Nat
  mb : Nat
  bias : Nat
  hasInf : Bool
  deriving DecidableEq, Repr

/-- R39: the layouts of the floating formats (of FP32 for any other, which no caller asks for). -/
def Fmt.layout : Fmt → FLayout
  | .bf16 => ⟨8, 7, 127, true⟩
  | .fp16 => ⟨5, 10, 15, true⟩
  | .e4m3 => ⟨4, 3, 7, false⟩
  | .e5m2 => ⟨5, 2, 15, true⟩
  | _ => ⟨8, 23, 127, true⟩

/-- R38: the floating formats. -/
def Fmt.isFloat : Fmt → Bool
  | .fp32 | .bf16 | .fp16 | .e4m3 | .e5m2 => true
  | _ => false

/-- R38: INT32, UINT32 and RAW32. -/
def Fmt.isInt : Fmt → Bool
  | .raw32 | .int32 | .uint32 => true
  | _ => false

/-- R38: elements per lane. -/
def Fmt.elems : Fmt → Nat
  | .raw32 | .int32 | .uint32 | .fp32 => 1
  | .bf16 | .fp16 => 2
  | .e4m3 | .e5m2 | .int8q => 4
  | .int4q => 8

/-- R38: element width in bits. -/
def Fmt.width (f : Fmt) : Nat := 32 / f.elems

end Sys2Proof

namespace Sys2Proof.Machine

open Sys2Proof

/-- An exact value: (-1)^neg × m × 2^e, an infinity, or NaN. -/
inductive FVal where
  | nan
  | inf (neg : Bool)
  | fin (neg : Bool) (m : Nat) (e : Int)
  deriving DecidableEq, Repr

/-- R42: element `i` of a lane. -/
def elem (f : Fmt) (lane : Word) (i : Nat) : Nat := lane.toNat / 2 ^ (f.width * i) % 2 ^ f.width

/-- R42: the lane that holds these elements, element 0 least significant. -/
def packElems (f : Fmt) (es : List Nat) : Word :=
  BitVec.ofNat 32 (es.foldr (fun x acc => x % 2 ^ f.width + 2 ^ f.width * acc) 0)

/-- R39: the exact value of an encoding. -/
def fdecode (f : Fmt) (bits : Nat) : FVal :=
  let L := f.layout
  let neg := bits.testBit (L.eb + L.mb)
  let E := bits / 2 ^ L.mb % 2 ^ L.eb
  let F := bits % 2 ^ L.mb
  if E = 2 ^ L.eb - 1 ∧ L.hasInf then (if F = 0 then .inf neg else .nan)
  else if E = 2 ^ L.eb - 1 ∧ F = 2 ^ L.mb - 1 then .nan
  else if E = 0 then .fin neg F (1 - (L.bias : Int) - L.mb)
  else .fin neg (2 ^ L.mb + F) ((E : Int) - L.bias - L.mb)

/-- R41: the canonical NaN. -/
def canonNaN : Fmt → Nat
  | .bf16 => 0x7FC0
  | .fp16 => 0x7E00
  | .e4m3 => 0x7F
  | .e5m2 => 0x7E
  | _ => 0x7FC00000

/-- The sign bit of a format, set or clear. -/
def signBits (f : Fmt) (neg : Bool) : Nat := if neg then 2 ^ (f.width - 1) else 0

/-- R39: the largest finite magnitude, as its encoding. -/
def maxBits (f : Fmt) : Nat :=
  let L := f.layout
  if L.hasInf then (2 ^ L.eb - 2) * 2 ^ L.mb + (2 ^ L.mb - 1) else 2 ^ (L.eb + L.mb) - 2

/-- R39: infinity, as its encoding. -/
def infBits (f : Fmt) : Nat := (2 ^ f.layout.eb - 1) * 2 ^ f.layout.mb

/-- R51, R78: what rounding takes from MODE: RM 0 RNE, 1 RTZ, 2 RDN, 3 RUP. -/
structure RCtx where
  rm : Nat
  sr : Bool
  sat : Bool
  ftz : Bool
  deriving DecidableEq, Repr

/-- R53: one step of a lane's LFSR. -/
def lfsrStep (s : Word) : Word :=
  let t := s >>> 1
  if s.getLsbD 0 then t ^^^ 0x80200003 else t

/-- R55: an LFSR state that is never zero. -/
def lfsrFix (s : Word) : Word := if s = 0 then 1 else s

/-- The result of a rounding: the encoding, whether STATUS.SAT is set, and the LFSR afterwards. -/
structure Rounded where
  bits : Nat
  sat : Bool
  lfsr : Word
  deriving DecidableEq, Repr

/-- Compare two magnitudes m × 2^e: is the first less than the second? -/
def magLt (m1 : Nat) (e1 : Int) (m2 : Nat) (e2 : Int) : Bool :=
  let e := min e1 e2
  m1 * 2 ^ (e1 - e).toNat < m2 * 2 ^ (e2 - e).toNat

/-- R51: is a nonzero magnitude below the smallest normal of the format? -/
def belowNormal (f : Fmt) (m : Nat) (e : Int) : Bool := magLt m e 1 (1 - (f.layout.bias : Int))

/-- R51: a subnormal floating input is flushed to a zero of its sign under MODE.FTZ. -/
def flushIn (f : Fmt) (ftz : Bool) (x : FVal) : FVal :=
  match x with
  | .fin neg m e => if ftz && m != 0 && belowNormal f m e then .fin neg 0 0 else x
  | _ => x

/-- R52: an overflowing result; `rm` is RNE for stochastic rounding. -/
def overflow (f : Fmt) (rm : Nat) (sat neg : Bool) : Nat × Bool :=
  let mx := maxBits f + signBits f neg
  let infinite := if f.layout.hasInf then infBits f + signBits f neg else canonNaN f
  if sat then (mx, true)
  else match rm with
    | 0 => (infinite, false)
    | 1 => (mx, false)
    | 2 => (if neg then infinite else mx, false)
    | _ => (if neg then mx else infinite, false)

/-- R51: does the rounding of I + r / 2^sh go up to I + 1? -/
def roundUp (rm : Nat) (neg : Bool) (i r sh : Nat) : Bool :=
  match rm with
  | 0 => 2 * r > 2 ^ sh || (2 * r == 2 ^ sh && i % 2 == 1 && sh != 0)
  | 1 => false
  | 2 => neg && r != 0
  | _ => !neg && r != 0

/-- R51, R52, R54: round an exact value to a floating format. `s` is the lane's LFSR. -/
def fround (f : Fmt) (c : RCtx) (s : Word) (x : FVal) : Rounded :=
  match x with
  | .nan => ⟨canonNaN f, false, s⟩
  | .inf neg =>
    if f.layout.hasInf then ⟨infBits f + signBits f neg, false, s⟩
    else if c.sat then ⟨maxBits f + signBits f neg, true, s⟩
    else ⟨canonNaN f, false, s⟩
  | .fin neg m e =>
    let L := f.layout
    if c.ftz && m != 0 && belowNormal f m e then ⟨signBits f neg, false, s⟩
    else
      let stoch := c.sr && f != .fp32
      let s' := if stoch then lfsrStep s else s
      if m = 0 then ⟨signBits f neg, false, s'⟩
      else
        let q : Int := max ((Nat.log2 m : Int) + e - L.mb) (1 - (L.bias : Int) - L.mb)
        let sh := (q - e).toNat
        let i := if e ≥ q then m * 2 ^ (e - q).toNat else m / 2 ^ sh
        let r := if e ≥ q then 0 else m % 2 ^ sh
        let up := if stoch then r * 2 ^ 24 > (s'.toNat % 2 ^ 24) * 2 ^ sh
                  else roundUp c.rm neg i r sh
        let i' := if up then i + 1 else i
        let mx := fdecode f (maxBits f)
        let tooBig := match mx with
          | .fin _ mm me => magLt mm me i' q
          | _ => false
        if tooBig then
          let o := overflow f (if stoch then 0 else c.rm) c.sat neg
          ⟨o.1, o.2, s'⟩
        else if i' < 2 ^ L.mb then ⟨i' + signBits f neg, false, s'⟩
        else
          let (i'', q') := if i' = 2 ^ (L.mb + 1) then (2 ^ L.mb, q + 1) else (i', q)
          let E := (q' + L.mb + L.bias).toNat
          ⟨(i'' - 2 ^ L.mb) + E * 2 ^ L.mb + signBits f neg, false, s'⟩

/-- A rounding context that leaves everything but RM at 0. -/
def rneCtx : RCtx := ⟨0, false, false, false⟩

/-- One IEEE 754 FP32 rounding to nearest even, subnormals kept (R59, R60, R225, R350). -/
def fp32RNE (x : FVal) : Word := BitVec.ofNat 32 (fround .fp32 rneCtx 0 x).bits

/-- The value of an FP32 word. -/
def fp32Val (w : Word) : FVal := fdecode .fp32 w.toNat

/-! ## Exact arithmetic -/

/-- Negation of a value. -/
def FVal.neg : FVal → FVal
  | .nan => .nan
  | .inf n => .inf (!n)
  | .fin n m e => .fin (!n) m e

/-- Is the value negative (its sign bit)? -/
def FVal.isNeg : FVal → Bool
  | .nan => false
  | .inf n => n
  | .fin n _ _ => n

/-- Is the value zero? -/
def FVal.isZero : FVal → Bool
  | .fin _ m _ => m == 0
  | _ => false

/-- Is the value NaN? -/
def FVal.isNaN : FVal → Bool
  | .nan => true
  | _ => false

/-- The value of an integer. -/
def FVal.ofInt (i : Int) : FVal := .fin (i < 0) i.natAbs 0

/-- R41: exact sum; an exact zero from operands of different signs is +0, and −0 under RDN. -/
def fadd (rdn : Bool) : FVal → FVal → FVal
  | .nan, _ => .nan
  | _, .nan => .nan
  | .inf a, .inf b => if a = b then .inf a else .nan
  | .inf a, _ => .inf a
  | _, .inf b => .inf b
  | .fin n1 m1 e1, .fin n2 m2 e2 =>
    let e := min e1 e2
    let a : Int := (m1 * 2 ^ (e1 - e).toNat : Nat)
    let b : Int := (m2 * 2 ^ (e2 - e).toNat : Nat)
    let t := (if n1 then -a else a) + (if n2 then -b else b)
    if t = 0 then .fin (if n1 = n2 then n1 else rdn) 0 0 else .fin (t < 0) t.natAbs e

/-- Exact product. -/
def fmul : FVal → FVal → FVal
  | .nan, _ => .nan
  | _, .nan => .nan
  | .inf a, .inf b => .inf (a != b)
  | .inf a, .fin b m _ => if m = 0 then .nan else .inf (a != b)
  | .fin a m _, .inf b => if m = 0 then .nan else .inf (a != b)
  | .fin a m1 e1, .fin b m2 e2 => .fin (a != b) (m1 * m2) (e1 + e2)

/-- A value with a sticky bit below its last one. -/
def sticky (neg : Bool) (m : Nat) (e : Int) (exact : Bool) : FVal :=
  if exact then .fin neg m e else .fin neg (2 * m + 1) (e - 1)

/-- Quotient, exact up to a sticky bit 128 bits below the leading one. -/
def fdiv : FVal → FVal → FVal
  | .nan, _ => .nan
  | _, .nan => .nan
  | .inf _, .inf _ => .nan
  | .inf a, .fin b _ _ => .inf (a != b)
  | .fin a _ _, .inf b => .fin (a != b) 0 0
  | .fin a m1 e1, .fin b m2 e2 =>
    if m2 = 0 then (if m1 = 0 then .nan else .inf (a != b))
    else
      let k := 128 + Nat.log2 m2
      sticky (a != b) (m1 * 2 ^ k / m2) (e1 - e2 - k) (m1 * 2 ^ k % m2 == 0)

/-- Integer square root, one bit at a time from bit `n - 1` of the root down. -/
def isqrtAux (x : Nat) : Nat → Nat → Nat
  | 0, r => r
  | n + 1, r =>
    let c := r + 2 ^ n
    isqrtAux x n (if c * c ≤ x then c else r)

/-- Integer square root. -/
def isqrt (x : Nat) : Nat := isqrtAux x (Nat.log2 x / 2 + 1) 0

/-- R113: square root. -/
def fsqrt : FVal → FVal
  | .nan => .nan
  | .inf n => if n then .nan else .inf false
  | .fin n m e =>
    if m = 0 then .fin n 0 0
    else if n then .nan
    else
      let k : Nat := 256 + (if (e % 2 = 0) then 0 else 1)
      let x := m * 2 ^ k
      let r := isqrt x
      sticky false r ((e - k) / 2) (r * r == x)

/-- R113: reciprocal square root. -/
def frsqrt : FVal → FVal
  | .nan => .nan
  | .inf n => if n then .nan else .fin false 0 0
  | .fin n m e =>
    if m = 0 then .inf n
    else if n then .nan
    else
      let l := Nat.log2 m + 256
      let k : Nat := l + (if ((l : Int) + e) % 2 = 0 then 0 else 1)
      let x := 2 ^ k / m
      let r := isqrt x
      sticky false r (-((k : Int) + e) / 2) (r * r * m == 2 ^ k)

/-- R113: reciprocal. -/
def frcp : FVal → FVal
  | .fin n m e => if m = 0 then .inf n else fdiv (.fin false 1 0) (.fin n m e)
  | x => fdiv (.fin false 1 0) x

/-- The width in bits of the fixed-point arithmetic of exp2 and log2. -/
def fixW : Nat := 320

/-- The partial sum of 2 × atanh(z) = 2 × Σ z^(2k+1) / (2k+1) in fixed point; `p` is z^(2k+1). -/
def atanhSum (z2 : Nat) : Nat → Nat → Nat → Nat → Nat
  | 0, _, _, acc => acc
  | n + 1, k, p, acc => atanhSum z2 n (k + 1) (p * z2 / 2 ^ fixW) (acc + 2 * p / (2 * k + 1))

/-- ln of a / b for 1 ≤ a / b ≤ 2, in fixed point. -/
def lnFix (a b : Nat) : Nat :=
  let z := (a - b) * 2 ^ fixW / (a + b)
  atanhSum (z * z / 2 ^ fixW) 110 0 z 0

/-- ln 2 in fixed point. -/
def ln2Fix : Nat := lnFix 2 1

/-- The partial sum of e^t = Σ t^n / n! in fixed point; `p` is t^n / n!. -/
def expSum (t : Nat) : Nat → Nat → Nat → Nat → Nat
  | 0, _, _, acc => acc
  | n + 1, k, p, acc => expSum t n (k + 1) (p * t / 2 ^ fixW / (k + 1)) (acc + p)

/-- R113: 2^x. An exponent beyond every format's range is cut to ±4,096, which rounds the same. -/
def fexp2 : FVal → FVal
  | .nan => .nan
  | .inf n => if n then .fin false 0 0 else .inf false
  | .fin n m e =>
    if m = 0 then .fin false 1 0
    else if (Nat.log2 m : Int) + e ≥ 12 then .fin false 1 (if n then -4096 else 4096)
    else if e ≥ 0 then .fin false 1 (if n then -((m * 2 ^ e.toNat : Nat) : Int) else ((m * 2 ^ e.toNat : Nat) : Int))
    else
      let d := (-e).toNat
      let ip := m / 2 ^ d
      let r := m % 2 ^ d
      if r = 0 then .fin false 1 (if n then -(ip : Int) else ip)
      else
        let i : Int := if n then -(ip : Int) - 1 else ip
        let f := if n then 2 ^ d - r else r
        sticky false (expSum (f * ln2Fix / 2 ^ d) 80 0 (2 ^ fixW) 0) (i - fixW) false

/-- R113: log2 x. -/
def flog2 : FVal → FVal
  | .nan => .nan
  | .inf n => if n then .nan else .inf false
  | .fin n m e =>
    if m = 0 then .inf true
    else if n then .nan
    else
      let k := Nat.log2 m
      let i : Int := k + e
      if m = 2 ^ k then FVal.ofInt i
      else
        let fr := lnFix m (2 ^ k) * 2 ^ fixW / ln2Fix
        let t : Int := i * ((2 ^ fixW : Nat) : Int) + fr
        sticky (t < 0) t.natAbs (-(fixW : Int)) false

/-- The integers a value rounds to: R56 and the integral minors of R112, under a rounding mode. -/
def roundInt (rm : Nat) (neg : Bool) (m : Nat) (e : Int) : Int :=
  if e ≥ 0 then (if neg then -((m * 2 ^ e.toNat : Nat) : Int) else ((m * 2 ^ e.toNat : Nat) : Int))
  else
    let sh := (-e).toNat
    let i := m / 2 ^ sh
    let i' := if roundUp rm neg i (m % 2 ^ sh) sh then i + 1 else i
    if neg then -(i' : Int) else i'

/-- R112: floor, ceil, trunc, rint (rounding mode 2, 3, 1 or MODE.RM): an integral value of the same format. -/
def fintegral (f : Fmt) (rm : Nat) (x : FVal) : Nat :=
  match x with
  | .fin neg m e =>
    let i := roundInt rm neg m e
    (fround f rneCtx 0 (.fin neg i.natAbs 0)).bits
  | x => (fround f rneCtx 0 x).bits

/-- R21: order of two values that are not NaN. -/
def fltVal : FVal → FVal → Bool
  | .nan, _ => false
  | _, .nan => false
  | .inf a, .inf b => a && !b
  | .inf a, .fin _ _ _ => a
  | .fin _ _ _, .inf b => !b
  | .fin n1 m1 e1, .fin n2 m2 e2 =>
    if m1 = 0 ∧ m2 = 0 then false
    else if m1 = 0 then !n2
    else if m2 = 0 then n1
    else match n1, n2 with
      | false, false => magLt m1 e1 m2 e2
      | true, true => magLt m2 e2 m1 e1
      | true, false => true
      | false, true => false

/-- R21: equality of two values that are not NaN. -/
def feqVal (a b : FVal) : Bool := !a.isNaN && !b.isNaN && !fltVal a b && !fltVal b a

/-- R107: minimum and maximum: −0 below +0, a NaN loses to a number. -/
def fminmax (isMax : Bool) (a b : FVal) : FVal :=
  if a.isNaN then b
  else if b.isNaN then a
  else if feqVal a b then (if a.isNeg = isMax then b else a)
  else if fltVal a b = isMax then b else a

/-! ## Integers -/

/-- The integer a lane holds: unsigned under UINT32, else signed. -/
def intVal (f : Fmt) (w : Word) : Int := if f = .uint32 then w.toNat else w.toInt

/-- R56: an integer result, wrapped or clamped, and whether it was clamped. -/
def intResult (f : Fmt) (sat : Bool) (x : Int) : Word × Bool :=
  let lo : Int := if f = .uint32 then 0 else -(2 ^ 31)
  let hi : Int := if f = .uint32 then 2 ^ 32 - 1 else 2 ^ 31 - 1
  if sat && (x < lo || x > hi) then (BitVec.ofInt 32 (if x < lo then lo else hi), true)
  else (BitVec.ofInt 32 x, false)

/-- R56: conversion of a floating value to INT32 or UINT32: clamped, NaN gives 0, either sets STATUS.SAT. -/
def floatToInt (f : Fmt) (rm : Nat) (x : FVal) : Word × Bool :=
  match x with
  | .nan => (0, true)
  | .inf n => intResult f true (if n then -(2 ^ 40) else 2 ^ 40)
  | .fin n m e => intResult f true (roundInt rm n m e)

/-- R56: INT32 and UINT32 with each other. -/
def intToInt (src dst : Fmt) (w : Word) : Word × Bool := intResult dst true (intVal src w)

/-- R49: in-flight conversion of one element; stochastic rounding off. -/
def convElem (src dst : Fmt) (c : RCtx) (x : Nat) : Nat × Bool :=
  if src.isFloat then
    let v := flushIn src c.ftz (fdecode src x)
    if dst.isFloat then
      let r := fround dst { c with sr := false } 0 v
      (r.bits, r.sat)
    else
      let r := floatToInt dst c.rm v
      (r.1.toNat, r.2)
  else if dst.isFloat then
    let r := fround dst { c with sr := false } 0 (FVal.ofInt (intVal src (BitVec.ofNat 32 x)))
    (r.bits, r.sat)
  else
    let r := intToInt src dst (BitVec.ofNat 32 x)
    (r.1.toNat, r.2)

/-- R49: in-flight conversion of a lane. -/
def convLane (src dst : Fmt) (c : RCtx) (lane : Word) : Word × Bool :=
  let rs := (List.range src.elems).map (fun i => convElem src dst c (elem src lane i))
  (packElems dst (rs.map (·.1)), rs.any (·.2))

/-! ## Quantised values -/

/-- R44: the scale of a sideband entry. -/
def sbScale (entry : Word) : FVal := fdecode .fp16 (entry.toNat % 2 ^ 16)

/-- R44: the zero point. -/
def sbZp (f : Fmt) (entry : Word) : Nat := if f = .int4q then field entry 19 16 else field entry 23 16

/-- R43: the exact value of a code. -/
def dequant (f : Fmt) (entry : Word) (q : Nat) : FVal :=
  match sbScale entry with
  | .nan => .nan
  | .inf n => if q = sbZp f entry then .nan else .inf (n != decide (q < sbZp f entry))
  | sc => fmul sc (FVal.ofInt ((q : Int) - sbZp f entry))

/-- R56, R117: the code of an FP32 value, whether it was clamped, and the LFSR afterwards. A scale of zero, infinity or
NaN, and a NaN value, give the zero point. -/
def quant (f : Fmt) (c : RCtx) (s : Word) (entry : Word) (x : FVal) : Nat × Bool × Word :=
  let zp := sbZp f entry
  let sc := sbScale entry
  let mx : Int := 2 ^ f.width - 1
  let bad := match sc with
    | .fin _ m _ => m == 0
    | _ => true
  if bad || x.isNaN then (zp, false, s)
  else match fadd false (fdiv x sc) (FVal.ofInt zp) with
    | .nan => (zp, false, s)
    | .inf n => if n then (0, true, s) else (mx.toNat, true, s)
    | .fin n m e =>
      let s' := if c.sr then lfsrStep s else s
      let i : Int :=
        if c.sr then
          let sh := (-e).toNat
          let ip := if e ≥ 0 then m * 2 ^ e.toNat else m / 2 ^ sh
          let r := if e ≥ 0 then 0 else m % 2 ^ sh
          let i' := if r * 2 ^ 24 > (s'.toNat % 2 ^ 24) * 2 ^ sh then ip + 1 else ip
          if n then -(i' : Int) else i'
        else roundInt c.rm n m e
      if i < 0 then (0, true, s') else if i > mx then (mx.toNat, true, s') else (i.toNat, false, s')

/-- R105: every format. -/
def fmtAll (_ : Fmt) : Bool := true

end Sys2Proof.Machine
end

