-- ==== Sys2Proof/Machine/Records.lean ====
section
/-!
DEFINITION. The layouts of the records the D9 reads and writes: buffer records (R126), task records (R148 to R151), the
command block (R283), future cells (R242), page table entries (R380), trap records (R370, R371), and MODE (R78).
-/

namespace Sys2Proof.Machine

open Sys2Proof

/-! ## MODE (R78) -/

/-- R78: MODE.GP. -/
def modeGP (m : Word) : Nat := field m 2 0
/-- R78: MODE.FMT; SETM lets no reserved code in. -/
def modeFmt (m : Word) : Fmt := (Fmt.ofCode (field m 6 3)).getD .fp32
/-- R78, R51: what rounding takes from MODE. -/
def modeR (m : Word) : RCtx := ⟨field m 8 7, m.getLsbD 9, m.getLsbD 10, m.getLsbD 12⟩
/-- R78: MODE.TP. -/
def modeTP (m : Word) : Bool := m.getLsbD 11
/-- R78: MODE.AORD asks for an acquire. -/
def modeAcq (m : Word) : Bool := m.getLsbD 13
/-- R78: MODE.AORD asks for a release. -/
def modeRel (m : Word) : Bool := m.getLsbD 14
/-- R78: MODE.ASCOPE. -/
def modeScope (m : Word) : Scope := (Scope.ofCode (field m 17 15)).getD .task
/-- R78: MODE.QG. -/
def modeQG (m : Word) : Nat := field m 19 18

/-- R79: the bits of each field of MODE, by mask bit. -/
def modeFields : List (Nat × Nat) :=
  [(2, 0), (6, 3), (8, 7), (9, 9), (10, 10), (11, 11), (12, 12), (14, 13), (17, 15), (19, 18)]

/-- R79: MODE with the selected fields taken from a value. -/
def modeMerge (old v : Word) (mask : BitVec 10) : Word :=
  modeFields.zipIdx.foldl (fun m p => if mask.getLsbD p.2 then setField m p.1.1 p.1.2 (field v p.1.1 p.1.2) else m) old

/-- R79: does the value hold only what MODE allows? -/
def modeLegal (m : Word) : Bool := field m 6 3 < 10 && field m 17 15 < 6 && field m 19 18 < 3

/-! ## Buffer records (R126) -/

/-- A buffer record. -/
abbrev Rec := BitVec 256

/-- R126: BASE. -/
def Rec.base (r : Rec) : Nat := field r 63 0
/-- R126: EXTENT. -/
def Rec.extent (r : Rec) : Nat := field r 103 64
/-- R126: STRIDE0, signed. -/
def Rec.stride0 (r : Rec) : Int := (r.extractLsb' 104 32).toInt
/-- R126: STRIDE1, signed. -/
def Rec.stride1 (r : Rec) : Int := (r.extractLsb' 136 32).toInt
/-- R126: FMT. -/
def Rec.fmt (r : Rec) : Fmt := (Fmt.ofCode (field r 171 168)).getD .raw32
/-- R126: LW. -/
def Rec.lw (r : Rec) : Nat := field r 173 172
/-- R126: the lane width in bytes. -/
def Rec.laneBytes (r : Rec) : Nat := 4 * 2 ^ r.lw
/-- R126: BOUNDS: 0 TRAP, 1 ZERO, 2 CLAMP, 3 NONE. -/
def Rec.bounds (r : Rec) : Nat := field r 175 174
/-- R126: SPACE: 0 GLOBAL, 1 SCRATCH, 2 PEER, 3 CELLAR, 4 ATTIC, 5 STAGE. -/
def Rec.space (r : Rec) : Nat := field r 178 176
/-- R126: POLICY. -/
def Rec.policy (r : Rec) : Nat := field r 181 179
/-- R126: quantisation group code. -/
def Rec.qg (r : Rec) : Nat := field r 183 182
/-- R126: the check byte of bytes 0 to 30. -/
def Rec.checkOf (r : Rec) : Byte := xorBytes (toBytes 31 r)
/-- R126: the record with a right check byte. -/
def Rec.seal (r : Rec) : Rec := setField r 255 248 (Rec.checkOf r).toNat
/-- R127: the checks made at each use that need no state. -/
def Rec.ok (r : Rec) : Bool :=
  field r 255 248 = (Rec.checkOf r).toNat && field r 247 224 = 0 && r.qg < 3 && r.policy < 5 && r.space < 6 &&
    r.lw < 3 && field r 171 168 < 10
/-- R141, R177: the policies that bypass L1. -/
def Rec.bypass (r : Rec) : Bool := r.policy == 3 || r.policy == 4

/-! ## Task records (R148) -/

/-- R148: ENTRY. -/
def tEntry (r : BitVec 2048) : DWord := r.extractLsb' 0 64
/-- R148: FUTURE. -/
def tFuture (r : BitVec 2048) : DWord := r.extractLsb' 64 64
/-- R149: FLAGS. -/
def tFlags (r : BitVec 2048) : DWord := r.extractLsb' 128 64
/-- R149: VREGS. -/
def tVregs (r : BitVec 2048) : Nat := field (tFlags r) 7 0
/-- R149: PRIO. -/
def tPrio (r : BitVec 2048) : Nat := field (tFlags r) 9 8
/-- R149: TEAM. -/
def tTeam (r : BitVec 2048) : Nat := field (tFlags r) 14 10
/-- R149: TENANT. -/
def tTenant (r : BitVec 2048) : Nat := field (tFlags r) 21 16
/-- R150: CREWSEAT. -/
def tSeatField (r : BitVec 2048) : DWord := r.extractLsb' 192 64
/-- R150: CREW; 0 for a task that is no seat. -/
def tCrew (r : BitVec 2048) : DWord := BitVec.ofNat 64 (field (tSeatField r) 47 0)
/-- R150: SEAT. -/
def tSeat (r : BitVec 2048) : Nat := field (tSeatField r) 53 48
/-- R148: ARGS word `j`. -/
def tArg (r : BitVec 2048) (j : Nat) : Word := r.extractLsb' (1024 + 32 * j) 32
/-- R151: named-tile descriptor `k`. -/
def tTile (r : BitVec 2048) (k : Nat) : BitVec 192 := r.extractLsb' (256 + 192 * k) 192

/-- R151: the fields of a descriptor. -/
structure TileDesc where
  recAddr : Nat
  row0 : Nat
  col0 : Nat
  rows : Nat
  cols : Nat
  qreg : Nat
  attic : Bool
  present : Bool
  bad : Bool
  deriving DecidableEq, Repr

/-- R151: a descriptor's fields; `bad` where it fails the record (R148), its q register apart. -/
def tileDesc (d : BitVec 192) : TileDesc :=
  let rows := field d 143 128
  let cols := field d 159 144
  let q := field d 167 160
  let fl := field d 175 168
  ⟨field d 63 0, field d 95 64, field d 127 96, rows, cols, q, fl.testBit 1, fl.testBit 0,
    rows == 0 || cols == 0 || 16 ≤ q || fl / 4 != 0 || field d 191 176 != 0⟩

/-- R151: the present descriptors of a record, with their numbers. -/
def presentTiles (r : BitVec 2048) : List (Nat × TileDesc) :=
  ((List.range 4).map (fun k => (k, tileDesc (tTile r k)))).filter (fun p => p.2.present)

/-- R148 to R151: the checks of a record that need no memory: `tenant` is the writer's tenant (R149). -/
def taskRecordOk (r : BitVec 2048) (tenant : Nat) : Bool :=
  let fl := tFlags r
  let v := tVregs r
  let ts := presentTiles r
  field (tEntry r) 1 0 = 0 && field (tFuture r) 3 0 = 0 && field fl 63 22 = 0 && field fl 15 15 = 0 &&
    tTenant r = tenant && tTeam r ≤ 16 && v % 8 = 0 && 8 ≤ v && v ≤ 128 &&
    field (tSeatField r) 63 54 = 0 && field (tCrew r) 7 0 = 0 && (tCrew r != 0 || tSeat r = 0) &&
    ts.all (fun p => !p.2.bad) && (ts.map (fun p => p.2.qreg)).dedup.length = ts.length

/-! ## Command block and binding (R283) -/

/-- A field of a command block: `size` bytes at `off`. -/
def cb (b : BitVec 512) (off size : Nat) : Nat := field b (8 * (off + size) - 1) (8 * off)
/-- R285: ACQ. -/
def cbAcq (b : BitVec 512) : Bool := b.getLsbD 56
/-- R285: REL. -/
def cbRel (b : BitVec 512) : Bool := b.getLsbD 57
/-- R283: SCOPE. -/
def cbScope (b : BitVec 512) : Nat := field b 60 58
/-- R285: DUAL. -/
def cbDual (b : BitVec 512) : Bool := b.getLsbD 61
/-- R285: ACCZ. -/
def cbAccz (b : BitVec 512) : Bool := b.getLsbD 62
/-- R283: AFMT. -/
def cbA (b : BitVec 512) : Nat := field b 35 32
/-- R283: BFMT. -/
def cbB (b : BitVec 512) : Nat := field b 39 36
/-- R45: the group size of a code. -/
def groupSize (c : Nat) : Nat := 32 * 2 ^ c

/-! ## Future cells (R242) -/

/-- R242: STATE. -/
def cellState (c : BitVec 128) : Nat := field c 127 124
/-- R242: CODE. -/
def cellCode (c : BitVec 128) : Nat := field c 103 96
/-- R242: COUNT. -/
def cellCount (c : BitVec 128) : Nat := field c 95 64
/-- R242: VALUE. -/
def cellValue (c : BitVec 128) : DWord := c.extractLsb' 0 64
/-- R244: a reserved STATE or a nonzero reserved field. -/
def cellBad (c : BitVec 128) : Bool := 6 ≤ cellState c || field c 123 104 != 0
/-- R243: READY, FAULT and CANCELLED. -/
def cellFinal (c : BitVec 128) : Bool := 3 ≤ cellState c
/-- R242: a cell image. -/
def mkCell (st code count : Nat) (v : DWord) : BitVec 128 :=
  BitVec.ofNat 128 (v.toNat + count * 2 ^ 64 + code * 2 ^ 96 + st * 2 ^ 124)
/-- R244: what JOIN and FUT.peek read: a malformed cell reads as FAULT(INVOP, its address). -/
def cellImage (c : BitVec 128) (va : DWord) : BitVec 128 := if cellBad c then mkCell 4 1 0 va else c

/-- R243: the operations on a cell. -/
abbrev CellOp := LinkCell

/-- R243, R244: the state table of a future cell. -/
def cellStep (c : BitVec 128) (op : CellOp) : BitVec 128 :=
  if cellBad c then c
  else match op with
    | .init => 0
    | op =>
      if cellFinal c then c
      else match op with
        | .init => 0
        | .set v => mkCell 3 0 0 v
        | .fail code a => mkCell 4 code.toNat 0 a
        | .cancel => mkCell 5 0 0 0
        | .pub n =>
          if cellState c = 0 then (if n = 0 then mkCell 3 0 0 0 else mkCell 1 0 n.toNat 0)
          else if cellState c = 1 then c
          else if cellCount c ≥ n.toNat then mkCell 3 0 0 (cellValue c)
          else mkCell 1 0 (n.toNat - cellCount c) 0
        | .sig v =>
          if cellState c = 0 then mkCell 2 0 1 v
          else if cellState c = 1 then
            if cellCount c = 1 then mkCell 3 0 0 v
            else mkCell 1 0 (if cellCount c = 0 then (Config.pendingZero v).toNat else cellCount c - 1) 0
          else mkCell 2 0 (min (cellCount c + 1) (2 ^ 32 - 1)) v

/-! ## Words that always trap (R24, R71) -/

/-- R24: the CSRs the D9 implements: those with a name, the counters of the slices (R143) and the words of the trap record
(R366). -/
def csrKnown (n : Nat) : Bool :=
  ([0x0001, 0x0002, 0x0003, 0x0010, 0x0011, 0x0012, 0x0020, 0x0021, 0x0030, 0x0040, 0x0041, 0x0420, 0x0421] : List Nat).contains n ||
    (0x0400 ≤ n && n < 0x040A) || (0x0200 ≤ n && n < 0x0300) || (0x0410 ≤ n && n < 0x0420)

/-- R24, R71: the words that pass the checks of R30 and trap INVOP all the same, whatever the state: a condition SCMP does not
take, a CSR the D9 does not implement. -/
def alwaysInvop : Instr → Bool
  | .scmp _ .ord .. | .scmp _ .uno .. => true
  | .csrr _ _ n | .csrw _ _ n => !csrKnown n.toNat
  | _ => false

/-! ## Trap records (R362, R370, R371) -/

/-- R362: the code of a trap. -/
def TrapCode.num : TrapCode → Nat
  | .invop => 0x01 | .regalign => 0x02 | .regrange => 0x03 | .tagmismatch => 0x04 | .poison => 0x05 | .bounds => 0x06
  | .xlate => 0x07 | .perm => 0x08 | .misalign => 0x09 | .brtarget => 0x0A | .splitovf => 0x0B | .splitwrite => 0x0C
  | .joinmismatch => 0x0D | .mxpartial => 0x0E | .mxmismatch => 0x0F | .mxcmd => 0x10 | .cancel => 0x11
  | .modeval => 0x12 | .watchdog => 0x13 | .bkpt => 0x14 | .user => 0x15 | .stack => 0x16 | .code c => c.toNat

/-- R363: the codes a handler takes. -/
def TrapCode.handled : TrapCode → Bool
  | .tagmismatch | .bounds | .cancel | .bkpt | .user => true
  | _ => false

/-- R371: the code of an access. -/
def AccKind.num : AccKind → Nat
  | .none => 0 | .read => 1 | .write => 2 | .atomic => 3 | .fetch => 4

/-- R371: INFO. -/
def infoWord (fatal nested : Bool) (kind access detail pos code : Nat) : Nat :=
  (if fatal then 2 ^ 31 else 0) + (if nested then 2 ^ 30 else 0) + kind % 4 * 2 ^ 28 + access % 16 * 2 ^ 24 +
    detail % 256 * 2 ^ 16 + pos % 64 * 2 ^ 8 + code % 256

/-- R370: the 64 bytes of a trap record. -/
def trapRecord (task pc addr wpc wcm time info core tenant entry lanes exec : Nat) : BitVec 512 :=
  BitVec.ofNat 512 (task % 2 ^ 64 + pc % 2 ^ 64 * 2 ^ 64 + addr % 2 ^ 64 * 2 ^ 128 + wpc % 2 ^ 64 * 2 ^ 192 +
    wcm % 2 ^ 64 * 2 ^ 256 + time % 2 ^ 64 * 2 ^ 320 + info % 2 ^ 32 * 2 ^ 384 + core % 2 ^ 32 * 2 ^ 416 +
    tenant % 256 * 2 ^ 448 + entry % 256 * 2 ^ 456 + lanes % 2 ^ 16 * 2 ^ 464 + exec % 2 ^ 16 * 2 ^ 480)

/-- R402: the 64 bytes of any other record: type, task, address, count, detail, time, CORE.ID, tenant. -/
def errRecord (type task addr count detail time core tenant : Nat) : BitVec 512 :=
  BitVec.ofNat 512 (task % 2 ^ 64 + addr % 2 ^ 64 * 2 ^ 64 + count % 2 ^ 64 * 2 ^ 128 + detail % 2 ^ 128 * 2 ^ 192 +
    time % 2 ^ 64 * 2 ^ 320 + core % 2 ^ 32 * 2 ^ 416 + tenant % 256 * 2 ^ 448 + type % 256 * 2 ^ 504)

/-- R172: CORE.ID of a core number 128 d + 32 c + k. -/
def coreIdWord (core : Nat) : Word := BitVec.ofNat 32 (core / 128 * 256 + core / 32 % 4 * 32 + core % 32)
/-- R172: the die of a core number. -/
def dieOf (core : Nat) : Nat := core / 128
/-- The cluster of a core number, counted over the module. -/
def clusterOf (core : Nat) : Nat := core / 32

end Sys2Proof.Machine
end

