-- ==== Sys2Proof/Machine/Access.lean ====
section
/-!
DEFINITION. Reaching the parts of the state: the free values of the step, cores, groups, splits, the focus on the issuing
split, and every register of the issuing split and its group with the window rules of R160 and R82.
-/

namespace Sys2Proof.Machine

open Sys2Proof

/-! ## Free values -/

/-- A free value of this step (Config.free). -/
def State.free (s : State) (site : Site) (idx : Nat) : Nat := Config.free site s.tick idx
/-- Act as the position `pos` of the issuing split. -/
def State.atPos (s : State) (pos : Nat) (f : State → State) : State :=
  let t := f { s with sp := { s.sp with pos := pos } }
  { t with sp := { t.sp with pos := s.sp.pos } }
/-- A free choice of this step. -/
def State.coin (s : State) (site : Site) (idx : Nat) : Bool := s.free site idx % 2 == 1
/-- One of a list of values the spec allows: `cur` where the list offers nothing else, so that a choice that changes
nothing asks nothing. -/
def State.pick {α : Type} [DecidableEq α] (s : State) (site : Site) (idx : Nat) (cur : α) (others : List α) : α :=
  if others.all (fun o => decide (o = cur)) then cur
  else (cur :: others).getD (s.free site idx % (others.length + 1)) cur

/-- An order of some numbers that nothing fixes. -/
def State.shuffle (s : State) (site : Site) (l : List Nat) : List Nat :=
  match l with
  | [] => []
  | [a] => [a]
  | l => sortBy (fun a b => decide (s.free site a ≤ s.free site b)) l

/-! ## Cores, groups, splits -/

/-- The state of a core. -/
def State.core? (s : State) (c : Nat) : CoreSt := (s.cores.find? (fun k => k.id == c)).getD (CoreSt.init c)
/-- Change a core. -/
def State.updCore (s : State) (c : Nat) (f : CoreSt → CoreSt) : State :=
  { s with cores := upsert (fun k => k.id == c) f (CoreSt.init c) s.cores }
/-- The state of a die. -/
def State.die? (s : State) (d : Nat) : DieSt := (s.dies.find? (fun k => k.id == d)).getD ⟨d, false, false, false, 0⟩
/-- Change a die. -/
def State.updDie (s : State) (d : Nat) (f : DieSt → DieSt) : State :=
  { s with dies := upsert (fun k => k.id == d) f ⟨d, false, false, false, 0⟩ s.dies }
/-- A tenant. -/
def State.tenant? (s : State) (t : Nat) : Option Tenant := s.tenants.find? (fun k => k.id == t)
/-- Change a tenant. -/
def State.updTenant (s : State) (t : Nat) (f : Tenant → Tenant) : State :=
  { s with tenants := updWhere (fun k => k.id == t) f s.tenants }
/-- A tenant's share of a die. -/
def State.tdie? (s : State) (t d : Nat) : TenantDie :=
  (s.tdies.find? (fun k => k.tenant == t && k.die == d)).getD ⟨t, d, 0, 0, none, 0, false, 512, 0⟩
/-- Change a tenant's share of a die. -/
def State.updTdie (s : State) (t d : Nat) (f : TenantDie → TenantDie) : State :=
  { s with tdies := upsert (fun k => k.tenant == t && k.die == d) f ⟨t, d, 0, 0, none, 0, false, 512, 0⟩ s.tdies }
/-- A queue. -/
def State.queue? (s : State) (q : Nat) : Option Queue := s.queues.find? (fun k => k.num == q)
/-- Change a queue. -/
def State.updQueue (s : State) (q : Nat) (f : Queue → Queue) : State :=
  { s with queues := updWhere (fun k => k.num == q) f s.queues }
/-- R174: the tenant that owns a core. -/
def State.coreTenant (s : State) (c : Nat) : Option Nat :=
  (s.tenants.find? (fun t => t.cores.getLsbD c)).map (·.id)
/-- A group that does not issue. -/
def State.group? (s : State) (tid : Nat) : Option Group := s.groups.find? (fun g => g.tid == tid)
/-- Change a group that does not issue. -/
def State.updGroup (s : State) (tid : Nat) (f : Group → Group) : State :=
  { s with groups := updWhere (fun g => g.tid == tid) f s.groups }
/-- A split of a group. -/
def Group.split? (g : Group) (sid : Nat) : Option Split := g.splits.find? (fun p => p.sid == sid)
/-- Change a split of a group. -/
def Group.updSplit (g : Group) (sid : Nat) (f : Split → Split) : Group :=
  { g with splits := updWhere (fun p => p.sid == sid) f g.splits }
/-- R63: the live splits of a group, the handler split not counted (R213). -/
def Group.live (g : Group) : List Split := g.splits.filter (fun p => !p.handler && p.lanes != 0)

/-! ## The issuing split -/

/-- Put the issuing group and split back among the groups. -/
def State.unfocus (s : State) : State :=
  if s.running then
    { s with running := false, g := Group.init, sp := Split.init, todo := [],
             groups := { s.g with splits := s.sp :: s.g.splits } :: s.groups }
  else s

/-- Let a split of a group issue; where it is gone, nothing issues. -/
def State.refocus (s : State) (tid sid : Nat) (todo : List Nat) : State :=
  match s.group? tid with
  | none => s
  | some g =>
    match g.split? sid with
    | none => s
    | some p =>
      { s with running := true, g := { g with splits := g.splits.filter (fun q => q.sid != sid) }, sp := p, todo := todo,
               groups := s.groups.filter (fun q => q.tid != tid) }

/-- Do something to the whole machine in the middle of an instruction, the issuing split among the others. -/
def State.wide (s : State) (f : State → State) : State :=
  if s.running then (f s.unfocus).refocus s.g.tid s.sp.sid s.todo else f s

/-- R203: all splits of the issuing group. -/
def State.allSplits (s : State) : List Split := s.sp :: s.g.splits
/-- R63: the group has more than one live split. -/
def State.divided (s : State) : Bool :=
  1 < (s.allSplits.filter (fun p => !p.handler && p.lanes != 0)).length
/-- The core of the issuing group. -/
def State.here (s : State) : Nat := s.g.core

/-! ## Registers -/

/-- The current value of s`n`. -/
def State.curS (s : State) (n : Nat) : Word := if n < 16 then vget s.sp.slo n 0 else vget s.g.shi (n - 16) 0
/-- The current value of the pair of s`n` (R6). -/
def State.curD (s : State) (n : Nat) : DWord := s.curS (n + 1) ++ s.curS n
/-- The current value of a`n`. -/
def State.curA (s : State) (n : Nat) : Affine :=
  if n < 8 then vget s.sp.alo n ⟨0, 0⟩ else vget s.g.ahi (n - 8) ⟨0, 0⟩
/-- The current value of v`n`. -/
def State.curV (s : State) (n : Nat) : VRow := vget s.g.vregs n VRow.init
/-- The current value of p`n`; p0 reads all ones (R76, R155). -/
def State.curP (s : State) (n : Nat) : BitVec 16 := if n = 0 then 0xFFFF else vget s.g.preds n 0
/-- The current value of q`n`. -/
def State.curQ (s : State) (n : Nat) : Rec := vget s.g.qregs n 0

/-- The current value of a register. -/
def State.cur (s : State) : RegName → RegVal
  | .s n => .w (s.curS n)
  | .a n => .a (s.curA n)
  | .v n => .v (s.curV n)
  | .p n => .p (s.curP n)
  | .q n => .q (s.curQ n)
  | .mode => .w s.sp.mode

/-- Put a value into a register. -/
def State.store (s : State) (r : RegName) (x : RegVal) : State :=
  match r, x with
  | .s n, .w x =>
    if n < 16 then { s with sp := { s.sp with slo := vset s.sp.slo n x } }
    else { s with g := { s.g with shi := vset s.g.shi (n - 16) x } }
  | .a n, .a x =>
    if n < 8 then { s with sp := { s.sp with alo := vset s.sp.alo n x } }
    else { s with g := { s.g with ahi := vset s.g.ahi (n - 8) x } }
  | .v n, .v x => { s with g := { s.g with vregs := vset s.g.vregs n x } }
  | .p n, .p x => { s with g := { s.g with preds := vset s.g.preds n x } }
  | .q n, .q x => { s with g := { s.g with qregs := vset s.g.qregs n x } }
  | .mode, .w x => { s with sp := { s.sp with mode := x } }
  | _, _ => s

/-- R46, R47, R50: a row after a write of the lanes of a mask under a tag. A zero mask changes nothing. -/
def writeRow (r : VRow) (e : BitVec 16) (f : Fin 16 → Word) (t : Tag) : VRow :=
  if e = 0 then r
  else
    let lanes := Vector.ofFn (fun l => if e.getLsbD l.val then f l else r.lanes[l])
    if r.tag = .poison ∧ r.pmask &&& ~~~e ≠ 0 then ⟨lanes, .poison, r.pmask &&& ~~~e, r.paddr⟩
    else ⟨lanes, t, 0, 0⟩

/-- R50, R140: a row that poisoned lanes join; a register already tagged POISON keeps its address. -/
def poisonRow (r : VRow) (m : BitVec 16) (addr : DWord) : VRow :=
  if m = 0 then r
  else { r with tag := .poison, pmask := r.pmask ||| m, paddr := if r.tag = .poison then r.paddr else addr }

/-- The bits of a mask from one value, the others from another. -/
def bitMix (m old cur : BitVec 16) : BitVec 16 := (old &&& m) ||| (cur &&& ~~~m)
/-- A row with the lanes of a mask, bits and poison, taken from another, which also gives the tag. -/
def rowMix (m : BitVec 16) (old cur : VRow) : VRow :=
  ⟨Vector.ofFn (fun l => if m.getLsbD l.val then old.lanes[l] else cur.lanes[l]), old.tag, bitMix m old.pmask cur.pmask, old.paddr⟩

/-- What a write leaves of a value: a vector register and a predicate are written under the mask (R46, R64), any other
register whole. The row written gives the lanes, their tag, and which of them are poisoned with which address: first the
written lanes lose their poison, then the new poison is added, so that a register whose whole poison mask is written takes the
new address (R50), which is the model's choice (notes/assumptions/50.md). -/
def RegVal.over (m : BitVec 16) (base x : RegVal) : RegVal :=
  match base, x with
  | .v r, .v y => .v (poisonRow (writeRow r m (fun l => y.lanes[l]) y.tag) (y.pmask &&& m) y.paddr)
  | .p b, .p y => .p (bitMix m y b)
  | _, x => x

/-- A value without a write that found `old`. -/
def RegVal.back (m : BitVec 16) (cur old : RegVal) : RegVal :=
  match cur, old with
  | .v c, .v o => .v (rowMix m o c)
  | .p c, .p o => .p (bitMix m o c)
  | _, o => o

/-! ## The registers of a window (R160, R164, R210) -/

/-- A number for a register name: the index of its free choices. -/
def RegName.idx : RegName → Nat
  | .v n => n | .s n => 128 + n | .a n => 192 + n | .p n => 224 + n | .q n => 232 + n | .mode => 248
/-- R160: the index that both halves of a pair share. -/
def RegName.pairIdx : RegName → Nat
  | .v n => 256 + n / 2 * 2
  | r => 256 + (128 + (r.idx - 128) / 2 * 2)
/-- R203, R210: registers that the splits of a divided group share. -/
def RegName.common : RegName → Bool
  | .v _ | .p _ | .q _ => true
  | _ => false

/-- The writes of a register in a window log, newest first. -/
def logOf (log : List LogEntry) (r : RegName) : List LogEntry := log.filter (fun e => decide (e.reg = r))

/-- R160, R164: has no instruction of the window written a register yet, in this issue or before a replay? -/
def Split.unwritten (p : Split) (r : RegName) : Bool := (logOf p.wlog r).isEmpty && (logOf p.wdone r).isEmpty

/-- R210: the writes of a register by siblings whose instructions may not have completed yet. -/
def State.siblingLog (s : State) (r : RegName) : List LogEntry :=
  if r.common then (s.g.splits.filter (fun q => !q.stopped)).flatMap (fun q => logOf q.wlog r) else []

/-- R86, R210: those of a sibling's writes that may fall after a write of the issuing split: not the ones that the split it was
divided from had issued before the division. -/
def State.siblingLate (s : State) (r : RegName) : List LogEntry :=
  if r.common then
    (s.g.splits.filter (fun q => !q.stopped)).flatMap (fun q =>
      (logOf q.wlog r).filter (fun e => s.sp.kin.all (fun k => k.1 != q.sid || k.2 < e.tick)))
  else []

/-- No write of a register by the issuing split's window, nor by a sibling's, may still be on its way. -/
def State.unwritten (s : State) (r : RegName) : Bool := s.sp.unwritten r && (s.siblingLog r).isEmpty

/-- The writes that a read of a register has to do with, newest first: `none` where the reader may see the write or not
(R160, R210), else whether it does (R164: completed positions before a replay). -/
def State.writes (s : State) (r : RegName) : List (LogEntry × Option Bool) :=
  sortBy (fun a b => decide (b.1.tick ≤ a.1.tick))
    ((logOf s.sp.wlog r ++ s.siblingLog r).map (fun e => (e, none)) ++
      (logOf s.sp.wdone r).map (fun e => (e, some (e.kept && decide (e.pos < s.sp.pos)))))

/-- The value of a register before some writes, newest first. -/
def undo (es : List LogEntry) (x : RegVal) : RegVal := es.foldl (fun x e => x.back e.mask e.old) x
/-- The value of a register after some writes, oldest first. -/
def redo (es : List LogEntry) (x : RegVal) : RegVal := es.foldl (fun x e => x.over e.mask e.new) x

/-- R160: the index of the choices about a write of a register; both halves of a pair share it. -/
def RegName.choiceIdx (r : RegName) (whole : Bool) : Nat := if whole then r.pairIdx else r.idx

/-- R160: the index of the choice whether a read sees a write. -/
def LogEntry.coinIdx (e : LogEntry) : Nat := 512 * e.tick + e.reg.choiceIdx e.whole

/-- R160, R164, R210: a register as an instruction of the window reads it: each write that may not have completed is seen
whole or not at all. -/
def State.seen (s : State) (r : RegName) : RegVal :=
  match s.writes r with
  | [] => s.cur r
  | ws =>
    let vis := ws.filter (fun w => w.2.getD (s.coin .windowRead w.1.coinIdx))
    redo (vis.reverse.map (·.1)) (undo (ws.map (·.1)) (s.cur r))

/-- R160: what a write leaves in a register that the window has written before, with the log entry it makes: nothing where it
does not fall after every earlier write (`last`); else its own result, over what the earlier writes left, or over what they found
(`alone`). -/
def ownWrite (own : List LogEntry) (cur : RegVal) (e : LogEntry) (last alone : Bool) : RegVal × LogEntry :=
  let m := own.foldl (fun m w => m ||| w.mask) e.mask
  let lone := (undo own cur).over e.mask e.new
  let fill (x : RegVal) : RegVal := match x, e.new with
    | .v l, .v y => .v { y with lanes := l.lanes }
    | x, _ => x
  if !last then (cur, { e with kept := false })
  else if alone && m != e.mask then (lone, { e with mask := m, new := fill lone })
  else (cur.over e.mask e.new, e)

/-- R160, R210: write a register of the issuing split under a mask. It falls before or after each earlier write of the window, one
choice for both halves of a pair. Where a sibling's write of it may still be on its way, that one may land after this. -/
def State.write (s : State) (r : RegName) (m : BitVec 16) (x : RegVal) (whole : Bool) : State :=
  let own := logOf s.sp.wlog r ++ logOf s.sp.wdone r
  let e : LogEntry := ⟨s.tick, s.sp.pos, r, m, s.cur r, x, true, whole⟩
  let idx := r.choiceIdx whole
  let pick : RegVal × LogEntry :=
    if own.isEmpty then ((s.cur r).over m x, e)
    else ownWrite own (s.cur r) e (own.all (fun w => s.coin .windowWrite (1024 * w.tick + idx))) (s.coin .windowWrite (1024 * s.tick + 512 + idx))
  let sib := s.siblingLate r
  let v := if !sib.isEmpty && s.coin .order (16 * idx + 13) then redo sib.reverse pick.1 else pick.1
  let t := s.store r v
  { t with sp := { t.sp with wlog := pick.2 :: t.sp.wlog } }

/-- The word of a register value. -/
def RegVal.word : RegVal → Word
  | .w x => x
  | _ => 0

/-- R160: s`n` as an instruction of the window reads it. -/
def State.getS (s : State) (n : Nat) : Word := (s.seen (.s n)).word
/-- R160: write s`n`. -/
def State.setS (s : State) (n : Nat) (x : Word) : State := s.write (.s n) 0xFFFF (.w x) false
/-- R6, R160: the pair of s`n` as an instruction of the window reads it; a write of the pair is seen in both halves or in
none. -/
def State.getD (s : State) (n : Nat) : DWord := s.getS (n + 1) ++ s.getS n
/-- R6, R160: write the pair of s`n`. -/
def State.setD (s : State) (n : Nat) (x : DWord) : State :=
  (s.write (.s n) 0xFFFF (.w (x.extractLsb' 0 32)) true).write (.s (n + 1)) 0xFFFF (.w (x.extractLsb' 32 32)) true

/-- R160: a`n` as an instruction of the window reads it. -/
def State.getA (s : State) (n : Nat) : Affine :=
  match s.seen (.a n) with
  | .a x => x
  | _ => ⟨0, 0⟩
/-- R160: write a`n`. -/
def State.setA (s : State) (n : Nat) (x : Affine) : State := s.write (.a n) 0xFFFF (.a x) false

/-- R160, R210: p`n` as an instruction of the window reads it. -/
def State.getP (s : State) (n : Nat) : BitVec 16 :=
  match s.seen (.p n) with
  | .p x => x
  | _ => 0
/-- R64: the bits a split may write: the lanes that no other live split holds. A handler split stands for the trapping
split, whose lanes it holds (R213). -/
def State.predMask (s : State) : BitVec 16 :=
  let others := (s.g.splits.filter (fun p => !p.handler && !(s.sp.handler && p.lanes == s.sp.lanes))).map (·.lanes)
  ~~~(others.foldl (· ||| ·) 0)
/-- R64: pwrite. -/
def State.pwrite (s : State) (n : Nat) (v : BitVec 16) : State :=
  if n = 0 then s else s.write (.p n) s.predMask (.p v) false

/-- R160, R210: q`n` as an instruction of the window reads it. -/
def State.getQ (s : State) (n : Nat) : Rec :=
  match s.seen (.q n) with
  | .q x => x
  | _ => 0
/-- R137, R160: write q`n`, whole. -/
def State.setQ (s : State) (n : Nat) (x : Rec) : State := s.write (.q n) 0xFFFF (.q x) false

/-- R82: MODE as an instruction of the window sees it: for each field the old or the new value. -/
def State.mode (s : State) : Word :=
  match s.writes .mode with
  | [] => s.sp.mode
  | ws =>
    let sure := ws.filter (fun w => w.2.getD false)
    let base := (redo (sure.reverse.map (·.1)) (undo (ws.map (·.1)) (s.cur .mode))).word
    let news := (ws.filter (fun w => w.2.isNone)).map (fun w => w.1.new.word)
    modeFields.zipIdx.foldl (fun m p =>
      setField m p.1.1 p.1.2 (s.pick .windowMode p.2 (field base p.1.1 p.1.2) (news.map (fun o => field o p.1.1 p.1.2)))) base
/-- R79, R160: write MODE. -/
def State.setMode (s : State) (x : Word) : State := s.write .mode 0xFFFF (.w x) false

/-- R9: exec(split): the lane set ANDed with the guard predicate. -/
def State.exec (s : State) : BitVec 16 := s.sp.lanes &&& s.getP (modeGP s.mode)

/-! ## Vector registers and their rows (R165 to R168) -/

/-- R206: PARK. -/
def Split.parked (p : Split) : Bool := match p.st with
  | .park _ => true
  | _ => false

/-- R165: the vector registers of a group whose rows are in the register file. -/
def Group.rows (g : Group) : List Nat := (List.range (tVregs g.record)).filter (fun n => !g.absent.contains n)
/-- R167: the rows of a core's groups that are in its register file. -/
def State.heldRows (s : State) (core : Nat) : List (Nat × Nat) :=
  (s.groups.filter (fun g => g.core == core)).flatMap (fun g => g.rows.map (fun n => (g.tid, n)))

/-- The registers that loads in flight and MOP.rdrow are going to write: their rows stay (notes/assumptions/13.md). -/
def State.awaitsRow (s : State) (core : Nat) (r : Nat × Nat) : Bool :=
  s.loads.any (fun l => l.tid == r.1 && (match l.kind with
    | .vec (some x) w _ => x.val ≤ r.2 && r.2 < x.val + w / 4
    | .atom a => (match a.x with
      | .v x => x.val ≤ r.2 && r.2 < x.val + a.w / 4
      | _ => false)
    | _ => false)) ||
  (s.core? core).mq.any (fun m => m.tid == r.1 && (match m.op with
    | .rdrow _ (some x) _ => x.val ≤ r.2 && r.2 < x.val + 4
    | _ => false))

/-- R167: a row leaves the register file of a core to make room: one of a group whose splits are all parked before any
other, then the least recently used. -/
def State.evictOne (s : State) (core : Nat) (kept : Nat × Nat) : State :=
  let rows := (s.heldRows core).filter (fun r => r ≠ kept && !s.awaitsRow core r)
  let idle := rows.filter (fun r => ((s.group? r.1).map (fun g => g.splits.all Split.parked)).getD false)
  let used (r : Nat × Nat) : Nat := ((s.group? r.1).bind (fun g => getKey r.2 g.vuse)).getD 0
  let out := match idle with
    | [] => maxBy (fun r => -(used r : Int)) rows
    | _ => idle[s.free .order (16 * rows.length + 10) % idle.length]?
  match out with
  | some r => s.updGroup r.1 (fun g => { g with absent := r.2 :: g.absent })
  | none => s

/-- R167: rows leave until a core's register file, of 8,192 rows, holds no more than it can. -/
def State.makeRoom (s : State) (core : Nat) (kept : Nat × Nat) : State :=
  (List.range ((s.heldRows core).length - 8192)).foldl (fun s _ => s.evictOne core kept) s

/-- R168: one more residency miss of the issuing task. -/
def Group.missed (g : Group) : Group := { g with vrfMiss := if g.vrfMiss = 0xFFFFFFFF then g.vrfMiss else g.vrfMiss + 1 }

/-- R166: a write to a register whose row is absent allocates the row. -/
def State.gotRow (s : State) (n : Nat) : State :=
  if s.g.absent.contains n then
    { s with g := { s.g with absent := s.g.absent.filter (fun m => m != n) }.missed }.wide (fun t => t.makeRoom s.here (s.g.tid, n))
  else s

/-- R160, R210: v`n` as an instruction of the window reads it. -/
def State.getV (s : State) (n : Nat) : VRow :=
  match s.seen (.v n) with
  | .v x => x
  | _ => VRow.init
/-- R46, R160, R166: write the lanes of a mask of v`n`; the row gives their bits, their tag and their poison. `pair`: the
instruction writes the register next to it as the other half of a pair. -/
def State.setV (s : State) (n : Nat) (m : BitVec 16) (x : VRow) (pair : Bool) : State :=
  (s.write (.v n) m (.v x) pair).gotRow n

end Sys2Proof.Machine
end

