-- ==== Sys2Proof/Machine/Flags.lean ====
section
/-!
DEFINITION. Status and condition computations: the sticky STATUS bits (R57, R101), the conditions of compares (R21), the
tests of BRC (R85), the per-lane LFSR (R53 to R55), and why an instruction does not take effect.
-/

namespace Sys2Proof.Machine

open Sys2Proof

/-- Why an instruction does not take effect now: it traps; a register row is absent (R166); a page walk is needed
(R382); a queue is full (R289, R301) or a carve change is in progress (R186); or the split issues no further position of
a window in which one has trapped (R163). -/
inductive Stop where
  | trap (t : TrapReq)
  | res (reg : Nat)
  | walk (page : Nat)
  | stall (c : StallCause)
  | halt
  deriving DecidableEq, Repr

/-- A computation that may stop. -/
abbrev Res := Except Stop

/-- A trap with an address and an access. -/
def trapAt {α : Type} (c : TrapCode) (a : DWord) (k : AccKind) (d : Byte := 0) : Res α :=
  .error (.trap { code := c, addr := a, access := k, detail := d })
/-- A trap without an address. -/
def trapOf {α : Type} (c : TrapCode) : Res α := .error (.trap { code := c })
/-- R9: trap unless a condition holds. -/
def need (b : Bool) (c : TrapCode) : Res Unit := if b then .ok () else trapOf c

/-- R57: STATUS.SCOPEMISS. -/
def stMiss : BitVec 4 := 1
/-- R57: STATUS.SMIX. -/
def stSmix : BitVec 4 := 2
/-- R57: STATUS.CVT. -/
def stCvt : BitVec 4 := 4
/-- R57: STATUS.SAT. -/
def stSat : BitVec 4 := 8
/-- STATUS.SAT where a result was clamped. -/
def satIf (b : Bool) : BitVec 4 := if b then stSat else 0

/-- R57, R101: set STATUS bits of the issuing task. Until its window completes the setting may not be made yet. -/
def State.setStatus (s : State) (b : BitVec 4) : State :=
  { s with sp := { s.sp with wstatus := (if b = 0 then [] else [b]) ++ s.sp.wstatus,
                             wfresh := s.sp.wfresh ||| (b &&& ~~~s.g.status) },
           g := { s.g with status := s.g.status ||| b } }

/-- R101: the bits of STATUS that may read 0, because the windows that have set them are still running. -/
def State.openStatus (s : State) : BitVec 4 :=
  (s.g.splits.filter (fun p => !p.stopped)).foldl (fun m p => m ||| p.wfresh) s.sp.wfresh

/-- R101: a bit of STATUS as a CSRR reads it: one that only windows still running have set is seen or not. -/
def State.statusBit (s : State) (i : Nat) : Bool :=
  s.g.status.getLsbD i && (if s.openStatus.getLsbD i then s.pick .windowStatus i true [false] else true)

/-- R101: STATUS as a CSRR reads it. -/
def State.readStatus (s : State) : Word :=
  BitVec.ofNat 32 ((List.range 4).foldl (fun acc i => if s.statusBit i then acc + 2 ^ i else acc) 0)

/-- R101: the settings of a bit that may not be made yet: the split, and its place in the split's list. -/
def State.settings (s : State) (i : Nat) : List (Nat × Nat) :=
  (s.allSplits.filter (fun p => !p.stopped)).flatMap (fun p =>
    (p.wstatus.zipIdx.filter (fun b => b.1.getLsbD i)).map (fun b => (p.sid, b.2)))

/-- R101: some settings of a bit are made or undone: their splits owe them no longer. `fresh` says for which splits the bit may
read 0 from now on. -/
def State.settingsGone (s : State) (i : Nat) (gone : List (Nat × Nat)) (fresh : Nat → Bool) : State :=
  let bit : BitVec 4 := BitVec.ofNat 4 (2 ^ i)
  let f (p : Split) : Split :=
    { p with wstatus := p.wstatus.zipIdx.map (fun b => if gone.contains (p.sid, b.2) then b.1 &&& ~~~bit else b.1),
             wfresh := if fresh p.sid then p.wfresh ||| bit else p.wfresh &&& ~~~bit }
  { s with sp := f s.sp, g := { s.g with splits := s.g.splits.map f } }

/-- R101: a choice about one setting of a bit. -/
def State.settingCoin (s : State) (i : Nat) (x : Nat × Nat) : Bool := s.coin .windowStatus (64 + 4 * (1024 * x.1 + x.2) + i)

/-- R101: a CSRR has read STATUS: of a bit that it has seen set, one or more of the settings are made, so that a later CSRR reads
1 and a later CSRW clears them. -/
def State.statusSeen (s : State) : State :=
  (List.range 4).foldl (fun s i =>
    if s.openStatus.getLsbD i && s.statusBit i then
      let all := s.settings i
      let one := all[s.free .windowStatus (32 + i) % all.length]?
      s.settingsGone i (all.filter (fun x => some x = one || s.settingCoin i x)) (fun _ => false)
    else s) s

/-- R21, R71: a condition over two 32-bit integers, signed in `lt` to `ge` unless `uns`; ord and uno are not defined. -/
def condInt (uns : Bool) (c : Cond) (a b : Word) : Option Bool :=
  let lt := if uns then a.ult b else a.slt b
  let gt := if uns then b.ult a else b.slt a
  match c with
  | .eq => some (a == b)
  | .ne => some (a != b)
  | .lt => some lt
  | .le => some (!gt)
  | .gt => some gt
  | .ge => some (!lt)
  | .ltu => some (a.ult b)
  | .leu => some (!b.ult a)
  | .gtu => some (b.ult a)
  | .geu => some (!a.ult b)
  | .any => some (a &&& b != 0)
  | .none => some (a &&& b == 0)
  | .ord | .uno => none

/-- R21: a condition over two floating values; the integer conditions are not defined. -/
def condFloat (c : Cond) (a b : FVal) : Option Bool :=
  match c with
  | .eq => some (feqVal a b)
  | .ne => some (!feqVal a b)
  | .lt => some (fltVal a b)
  | .le => some (fltVal a b || feqVal a b)
  | .gt => some (fltVal b a)
  | .ge => some (fltVal b a || feqVal a b)
  | .ord => some (!a.isNaN && !b.isNaN)
  | .uno => some (a.isNaN || b.isNaN)
  | _ => none

/-- R85: the test of BRC over the predicate ANDed with the lane set. -/
def branchTest (t : BTest) (p lanes : BitVec 16) : Bool :=
  let c := p &&& lanes
  match t with
  | .any => c != 0
  | .all => c == lanes
  | .none => c == 0
  | .nall => c != lanes

/-- R53: a lane's LFSR. -/
def State.lfsr (s : State) (l : Fin 16) : Word := s.g.lfsr[l]
/-- R53: set the LFSRs. -/
def State.setLfsr (s : State) (v : Vector Word 16) : State := { s with g := { s.g with lfsr := v } }

end Sys2Proof.Machine
end

