-- ==== Sys2Proof/Machine/Operands.lean ====
section
/-!
DEFINITION. Operand forms (R15 to R20): reading scalar, pair, affine, predicate and vector operands, the tag check
(R48, R49) and the raw reads (R121), writing scalar, pair and vector destinations (R19, R46, R47, R50), and how many
registers an operand covers (R6, R108, R115, R132, R170, R226).
-/

namespace Sys2Proof.Machine

open Sys2Proof

/-! ## Scalar, affine and predicate operands -/

/-- R16, R18, R20: a 32-bit scalar source. -/
def State.sval (s : State) (o : Opnd) : Word :=
  match o with
  | .s n => s.getS n
  | .ones => 0xFFFFFFFF
  | .one => 1
  | .lit w => w
  | _ => 0

/-- R6, R18, R20: a 64-bit scalar source. -/
def State.dval (s : State) (o : Opnd) : DWord :=
  match o with
  | .s n => s.getD n
  | .ones => BitVec.allOnes 64
  | .one => 1
  | .lit w => sext64 w
  | _ => 0

/-- A group of four scalars (R246, R252, R294, R299). -/
def State.quad (s : State) (o : Opnd) (i : Nat) : Word :=
  match o with
  | .s n => s.getS (n + i)
  | _ => 0

/-- R74: an affine source; ZERO reads as base 0 and stride 0. -/
def State.aval (s : State) (o : Opnd) : Affine :=
  match o with
  | .a n => s.getA n
  | _ => ⟨0, 0⟩

/-- R16, R18, R20: a predicate source. -/
def State.pval (s : State) (o : Opnd) : BitVec 16 :=
  match o with
  | .p n => s.getP n
  | .ones => 0xFFFF
  | .lit w => w.setWidth 16
  | _ => 0

/-- R127: the record a q operand names. -/
def State.qval (s : State) (o : Opnd) : Rec :=
  match o with
  | .q n => s.getQ n
  | _ => 0

/-- R19: write a 32-bit scalar destination. -/
def State.wS (s : State) (o : Opnd) (x : Word) : State :=
  match o with
  | .s n => s.setS n x
  | _ => s

/-- R6, R19: write a pair. -/
def State.wD (s : State) (o : Opnd) (x : DWord) : State :=
  match o with
  | .s n => s.setD n x
  | _ => s

/-- R160: write a group of four scalars, two pairs, from its 128 bits. -/
def State.wQuad (s : State) (o : Opnd) (x : BitVec 128) : State :=
  match o with
  | .s n => (List.range 4).foldl (fun s i => s.write (.s (n + i)) 0xFFFF (.w (x.extractLsb' (32 * i) 32)) true) s
  | _ => s

/-- R74: write an affine destination. -/
def State.wA (s : State) (o : Opnd) (x : Affine) : State :=
  match o with
  | .a n => s.setA n x
  | _ => s

/-- R64: write a predicate destination. -/
def State.wP (s : State) (o : Opnd) (x : BitVec 16) : State :=
  match o with
  | .p n => s.pwrite n x
  | _ => s

/-! ## Vector operands -/

/-- R17, R74: the low 32 bits of base + l × stride. -/
def affLane (a : Affine) (l : Nat) : Word :=
  (a.base + BitVec.ofNat 64 l * sext64 a.stride).setWidth 32

/-- R18: FONE under a format. -/
def foneOf : Fmt → Word
  | .fp32 => 0x3F800000
  | .bf16 => 0x3F803F80
  | .fp16 => 0x3C003C00
  | .e4m3 => 0x38383838
  | .e5m2 => 0x3C3C3C3C
  | _ => 1

/-- R17, R18, R20: the lane of a vector source that is no vector register. -/
def State.laneOf (s : State) (f : Fmt) (o : Opnd) (l : Fin 16) : Word :=
  match o with
  | .a n => affLane (s.getA n) l
  | .lane => BitVec.ofNat 32 l
  | .quad => BitVec.ofNat 32 (l / 4)
  | .fone => foneOf f
  | o => s.sval o

/-- R18: FONE traps INVOP under INT8Q and INT4Q. -/
def foneBad (f : Fmt) (o : Opnd) : Bool := o == .fone && (f == .int8q || f == .int4q)

/-- The lanes of a vector source that is no vector register. -/
def State.lanesOfOpnd (s : State) (f : Fmt) (o : Opnd) : Vector Word 16 := Vector.ofFn (fun l => s.laneOf f o l)

/-- R48, R49: the tag check of a register against a format: the lanes read as `f`, and the STATUS bits it sets. Under RAW32, a register
of INT32, UINT32 or FP32 is converted as to INT32 and CVT is set, which is the model's choice (notes/assumptions/12.md). -/
def tagcheckRow (f : Fmt) (tp : Bool) (c : RCtx) (r : VRow) : Res (Vector Word 16 × BitVec 4) :=
  match r.tag with
  | .poison => .error (.trap { code := .poison, addr := r.paddr })
  | .invalid => trapOf .tagmismatch
  | .dead => .ok (Vector.replicate 16 0, 0)
  | .fmt t =>
    if t = .raw32 ∨ t = f then .ok (r.lanes, 0)
    else if tp then trapOf .tagmismatch
    else if t.elems ≠ f.elems ∨ t = .int8q ∨ t = .int4q ∨ f = .int8q ∨ f = .int4q then trapOf .tagmismatch
    else if f = .raw32 then
      .ok (vmap (fun w => (convLane t .int32 c w).1) r.lanes,
        stCvt ||| satIf ((List.finRange 16).any (fun l => (convLane t .int32 c r.lanes[l]).2)))
    else .ok (vmap (fun w => (convLane t f c w).1) r.lanes,
        stCvt ||| satIf ((List.finRange 16).any (fun l => (convLane t f c r.lanes[l]).2)))

/-- R48: tagcheck of a vector source against a format. Only the lanes of the execute mask count for STATUS.SAT. -/
def State.tagcheck (s : State) (f : Fmt) (o : Opnd) : Res (Vector Word 16 × BitVec 4) :=
  match o with
  | .v n =>
    let r := s.getV n
    let e := s.exec
    -- lanes outside the execute mask take no part in the conversion
    tagcheckRow f (modeTP s.mode) (modeR s.mode)
      { r with lanes := Vector.ofFn (fun l => if e.getLsbD l.val then r.lanes[l] else 0) }
  | o => if foneBad f o then trapOf .invop else .ok (s.lanesOfOpnd f o, 0)

/-- R121, R109, R117: a vector source read raw: DEAD gives zero bits, POISON traps, INVALID traps unless allowed. -/
def State.rawRead (s : State) (allowInvalid : Bool) (o : Opnd) : Res (Vector Word 16) :=
  match o with
  | .v n =>
    let r := s.getV n
    match r.tag with
    | .poison => .error (.trap { code := .poison, addr := r.paddr })
    | .invalid => if allowInvalid then .ok r.lanes else trapOf .tagmismatch
    | .dead => .ok (Vector.replicate 16 0)
    | .fmt _ => .ok r.lanes
  | o => if foneBad (modeFmt s.mode) o then trapOf .invop else .ok (s.lanesOfOpnd (modeFmt s.mode) o)

/-- R46: write lanes of register `n` of the issuing group. -/
def State.wV (s : State) (n : Nat) (e : BitVec 16) (f : Fin 16 → Word) (t : Tag) (pair : Bool := false) : State :=
  if e = 0 then s else s.setV n e ⟨Vector.ofFn f, t, 0, 0⟩ pair

/-- R19, R46: write a vector destination. -/
def State.wVO (s : State) (o : Opnd) (e : BitVec 16) (f : Fin 16 → Word) (t : Tag) : State :=
  match o with
  | .v n => s.wV n e f t
  | _ => s

/-! ## Widths -/

/-- R116: the target format of CVT. -/
def cvtFmt (t : Code4) : Fmt := (Fmt.ofCode t.toNat).getD .fp32

/-- R115: registers on the source side of a conversion from `a` to `b`. -/
def srcRegs (a b : Fmt) : Nat := if b.elems > a.elems then b.elems / a.elems else 1
/-- R115: registers on the destination side. -/
def dstRegs (a b : Fmt) : Nat := if b.elems < a.elems then a.elems / b.elems else 1

/-- R6, R108, R115, R132, R134, R170, R226: how many registers an operand covers under MODE.FMT and a record's LW. A
format the instruction does not accept, or a reserved LW, traps INVOP later and is counted as one register here. -/
def widthCount (w : Width) (f : Fmt) (lw : Nat) : Nat :=
  match w with
  | .w1 => 1
  | .w2 => 2
  | .w4 => 4
  | .lwV => if lw = 1 then 2 else if lw = 2 then 4 else 1
  | .lwS | .lwA => if lw = 1 then 2 else 1
  | .lwC => if lw = 1 then 4 else 2
  | .cvtSrc t => if f = .int8q ∨ f = .int4q then 1 else srcRegs f (cvtFmt t)
  | .cvtDst t => if f = .int8q ∨ f = .int4q then 1 else dstRegs f (cvtFmt t)
  | .qntSrc | .dqntDst => if f = .int8q ∨ f = .int4q then f.elems else 1
  | .dot => if f = .fp32 ∨ f.isInt then 2 else 1

/-- The number of a register operand within its class. -/
def regNo : Opnd → Option Nat
  | .v n => some n
  | .s n => some n
  | .a n => some n
  | _ => none

/-- R6, R170: a wide operand starts at a multiple of its width. -/
def slotAligned (sl : OSlot) (k : Nat) : Bool :=
  match regNo sl.o with
  | some n => n % k == 0
  | none => true

/-- R169: every vector register of the operand is below the declared count. -/
def slotInRange (sl : OSlot) (k vregs : Nat) : Bool :=
  match sl.o with
  | .v n => n + k ≤ vregs
  | _ => true

/-- R96, R169: the end of the range of vector registers that LIVE names. -/
def liveRange : Instr → Nat
  | .liveDead _ b n | .liveFetch _ b n => b.val + n.toNat
  | _ => 0

/-- R16: positions that write a scalar or affine register. -/
def clsWrites : Cls → Bool
  | .vd | .vdr | .vsd | .vzw | .sd | .sdr | .d64 | .sfork | .sefork | .d4 | .ad | .at => true
  | _ => false

/-- R117, R166: positions that write a vector register: a vector Z of QNT is only read. -/
def clsWritesV : Cls → Bool
  | .vzw => false
  | c => clsWrites c

/-- Positions that read a vector register. -/
def clsReadsV : Cls → Bool
  | .vs | .vp | .vr | .vdr | .vz | .vzw | .bal | .sh | .ix | .off | .at => true
  | _ => false

/-- R63: the operand writes a register that belongs to the group: s16 to s63 or a8 to a31. -/
def slotGroupWide (sl : OSlot) : Bool :=
  clsWrites sl.cls && match sl.o with
    | .s n => 16 ≤ n.val
    | .a n => 8 ≤ n.val
    | _ => false

end Sys2Proof.Machine
end

