-- ==== Sys2Proof/Machine/Memory.lean ====
section
/-!
DEFINITION. Memory (spec 04, 05, 07, 12, 19): storage keys, translation (R379 to R383, R399), the resolution of record
accesses (R127 to R131), the L1s (R175 to R178), writes that reach their place (R268, R276), release tags (R268, R269),
releases and acquires (R266), slice requests (R143, R144) and the bytes of a window (R142).

Storage keys, one per byte of the module and of what it reaches (notes/assumptions/4.md): physical addresses below 2^52;
then a block of 2^64 keys each for the host bus, near stores, attics and cellar scratch; then one block per remote module.
-/

namespace Sys2Proof.Machine

open Sys2Proof

/-! ## Storage keys -/

/-- The key of a host bus address. -/
def keyHost (a : Nat) : Nat := 2 ^ 64 + a
/-- The key of byte `off` of a core's 1,280 KiB scratch, stage area included. -/
def keyNear (core off : Nat) : Nat := 2 * 2 ^ 64 + core * 2 ^ 21 + off
/-- The key of byte `off` of a core's attic. -/
def keyAttic (core off : Nat) : Nat := 3 * 2 ^ 64 + core * 2 ^ 20 + off
/-- The key of a byte of a cellar way. -/
def keyCellar (die way off : Nat) : Nat := 4 * 2 ^ 64 + die * 2 ^ 30 + way * 2 ^ 26 + off
/-- The key of an address of another module. -/
def keyRemote (module a : Nat) : Nat := (16 + module) * 2 ^ 64 + a

/-- Bytes of a core's scratch and stage area (R174). -/
def nearSize : Nat := 1310720

/-! ## Agents -/

/-- Who accesses memory: the tenant whose tables translate, the core it stands at, its party (R262), and whether a
translation that the core does not hold makes it wait (R382). -/
structure Agent where
  tenant : Nat
  core : Nat
  party : Party
  waits : Bool
  deriving DecidableEq, Repr

/-- The issuing split. -/
def State.me (s : State) : Agent := ⟨s.g.tenant, s.here, ⟨s.g.tid, some s.here, none⟩, true⟩
/-- A split of a task, acting when it does not issue. -/
def agentOf (g : Group) : Agent := ⟨g.tenant, g.core, ⟨g.tid, some g.core, none⟩, false⟩
/-- An engine or the staging of a core (R262). -/
def agentEngine (tenant core : Nat) : Agent := ⟨tenant, core, ⟨0, some core, none⟩, false⟩
/-- The front end or the reduction engine (R262). -/
def agentFront (tenant : Nat) : Agent := ⟨tenant, 0, ⟨0, none, none⟩, false⟩

/-- What an access needs: the ACCESS of its trap record (R371), whether the page must allow writes, and whether it is one
that a HOST page does not allow (R381). -/
structure How where
  kind : AccKind
  wr : Bool
  sync : Bool
  fetch : Bool := false
  deriving DecidableEq, Repr

/-- A plain read. -/
def hRead : How := ⟨.read, false, false, false⟩
/-- A plain write. -/
def hWrite : How := ⟨.write, true, false, false⟩
/-- An atomic or another operation that writes at a home slice. -/
def hAtomic : How := ⟨.atomic, true, true, false⟩
/-- WAITC, JOIN and the peeks. -/
def hWait : How := ⟨.read, false, true, false⟩
/-- An instruction fetch. -/
def hFetch : How := ⟨.fetch, false, false, true⟩

/-! ## Translation -/

/-- A byte of memory at its place. -/
def State.rd8 (s : State) (k : Nat) : Byte := (getKey k s.mem).getD 0
/-- Bytes of memory at their place. -/
def State.rdN (s : State) (k n : Nat) : List Byte := (List.range n).map (fun i => s.rd8 (k + i))
/-- A little-endian value of memory at its place. -/
def State.rdV (s : State) (k n : Nat) : Nat := natOfBytes (s.rdN k n)

/-- R380: a malformed valid entry of level `lvl`. -/
def pteBad (lvl : Nat) (e : DWord) : Bool :=
  let leaf := e.getLsbD 1
  let addr := field e 51 8 * 256
  field e 63 56 != 0 || field e 54 52 != 0 || field e 5 4 == 3 || field e 7 6 == 3 ||
    (lvl == 0 && leaf) || (lvl == 3 && !leaf) ||
    (if leaf then addr % (if lvl = 1 then 2 ^ 30 else if lvl = 2 then 2 ^ 21 else 2 ^ 16) != 0
     else addr % (if lvl = 2 then 256 else 4096) != 0)

/-- R379: the index of a level. -/
def pteIndex (lvl va : Nat) : Nat :=
  if lvl = 0 then va / 2 ^ 39 % 512 else if lvl = 1 then va / 2 ^ 30 % 512 else if lvl = 2 then va / 2 ^ 21 % 512
  else va / 2 ^ 16 % 32

/-- R379, R383: a walk from a node at physical address `node`, with the levels still to read: the frame of the 64 KiB
page, the size of the page the leaf maps, the leaf's low byte and NX, or the DETAIL of the fault. -/
def State.walk (s : State) (va : Nat) : (levels : List Nat) → (node : Nat) → Except Byte (Nat × Nat × Byte × Bool)
  | [], _ => .error 1
  | lvl :: rest, node =>
    let e := BitVec.ofNat 64 (s.rdV (node + 8 * pteIndex lvl va) 8)
    if !e.getLsbD 0 then .error 1
    else if pteBad lvl e then .error 2
    else
      let addr := field e 51 8 * 256
      if e.getLsbD 1 then
        let page := if lvl = 1 then 2 ^ 30 else if lvl = 2 then 2 ^ 21 else 2 ^ 16
        .ok (addr + va % page / 2 ^ 16 * 2 ^ 16, page, e.extractLsb' 0 8, e.getLsbD 55)
      else State.walk s va rest addr

/-- R382: the result of a walk for a 64 KiB page of a tenant, as memory holds the tables now. -/
def State.walkNow (s : State) (tenant page : Nat) : TlbEntry :=
  let root := ((s.tenant? tenant).map (·.ptroot)).getD 0
  match s.walk (page * 2 ^ 16) [0, 1, 2, 3] root with
  | .ok (f, sz, fl, nx) => ⟨tenant, page, f, sz, fl, nx, 0⟩
  | .error d => ⟨tenant, page, 0, 0, 0, false, d⟩

/-- R382: the translations of a page that the shared TLB of a core's die holds. -/
def State.sharedTlb (s : State) (core tenant page : Nat) : List TlbEntry :=
  (s.dtlb.filter (fun p => p.1 == dieOf core && p.2.tenant == tenant && p.2.page == page)).map (·.2)

/-- A location: its storage key, its address as the program gave it, its path, and the home die of a line that has
one (R179). -/
structure Loc where
  key : Nat
  va : DWord
  path : Path
  home : Option Nat
  deriving DecidableEq, Repr

/-- R179: the home die of a physical line in an INTERLEAVED window. -/
def homeInterleaved (pa : Nat) : Nat :=
  (Nat.xor (Nat.xor (pa / 2 ^ 8 % 2 ^ 16) (pa / 2 ^ 24 % 2 ^ 16)) (pa / 2 ^ 40 % 2 ^ 12)) % 9

/-- R180: the home slice of a physical line. -/
def homeSlice (pa : Nat) : Nat :=
  [8, 15, 22, 29, 36, 43].foldl (fun acc i => Nat.xor acc (pa / 2 ^ i % 128)) 0

/-- R399: does a page of SPACE `sp` match a window? -/
def Window.takes (w : Window) (sp : Nat) : Bool :=
  if sp = 0 then (w.kind == 2 || (w.kind < 2 && w.medium == 0))
  else if sp = 1 then w.kind < 2 && w.medium != 0
  else w.kind == 3

/-- R399: the window of a tenant that an address of a page of SPACE `sp` lies in. -/
def Tenant.windowAt (t : Tenant) (sp pa : Nat) : Option Window :=
  t.windows.find? (fun w => w.base ≤ pa && pa < w.base + w.size && w.takes sp)

/-- R399: do windows that match SPACE `sp` cover the addresses from `lo` up to `hi`? At most `n` windows are tried. -/
def Tenant.covers (t : Tenant) (sp : Nat) : (n lo hi : Nat) → Bool
  | 0, lo, hi => hi ≤ lo
  | n + 1, lo, hi => decide (hi ≤ lo) || (match t.windowAt sp lo with
    | some w => t.covers sp n (w.base + w.size) hi
    | none => false)

/-- R399: the window of an entry's frame, where the whole page that its leaf maps lies inside the tenant's windows. -/
def Tenant.windowOfPage (t : Tenant) (e : TlbEntry) : Option Window :=
  let lo := e.frame / e.size * e.size
  if t.covers (field e.flags 5 4) t.windows.length lo (lo + e.size) then t.windowAt (field e.flags 5 4) e.frame else none

/-- Why a translation fails. -/
inductive TrFail where
  | perm
  | xlate (detail : Byte)
  | walk (page : Nat)
  deriving DecidableEq, Repr

/-- R379 to R383, R399: translate a GLOBAL virtual address for an agent. A location of an access lies in one page. -/
def State.translate (s : State) (a : Agent) (h : How) (bypass : Bool) (va : DWord) : Except TrFail Loc :=
  let v := va.toNat
  if 2 ^ 48 ≤ v then .error (.xlate 4)
  else
    let page := v / 2 ^ 16
    let cur := s.walkNow a.tenant page
    let old := (s.core? a.core).tlb.filter (fun e => e.tenant == a.tenant && e.page == page) ++ s.sharedTlb a.core a.tenant page
    let held : Option TlbEntry :=
      if a.waits && !(s.core? a.core).tlb.any (fun e => e.tenant == a.tenant && e.page == page) then none
      else some (s.pick .memoryRace (16 * page + 8) cur old)
    match held with
    | none => .error (.walk page)
    | some e =>
      if e.fault ≠ 0 then .error (.xlate e.fault)
      else
        let sp := field e.flags 5 4
        match (s.tenant? a.tenant).bind (fun t => t.windowOfPage e) with
        | none => .error .perm
        | some w =>
          if (h.wr && !e.flags.getLsbD 2) || (h.fetch && e.nx) || (h.sync && sp == 2) then .error .perm
          else if w.offline then .error (.xlate 3)
          else
            let pa := e.frame + v % 2 ^ 16
            let unc := field e.flags 7 6 == 2 || sp == 2
            .ok { key := if sp = 2 then keyHost pa else if w.kind = 2 then keyRemote w.module pa else pa,
                  va := va, path := if unc then .uncached else if bypass || w.kind == 2 then .bypass else .l1,
                  home := if w.kind = 0 then some (homeInterleaved pa) else if w.kind = 1 then some w.die else none }

/-! ## Record accesses -/

/-- R127, R128: the check of a record at each use. -/
def recUse (r : Rec) : Res Unit := need (r.ok && (r.space != 2 || field r 63 37 == 0)) .invop

/-- R129: the offset of lane `l` under an offset operand. Vector offsets are read raw. -/
def State.laneOff (s : State) (r : Rec) (z : Opnd) (vec : Vector Word 16) (l : Fin 16) : Int :=
  match z with
  | .v _ => vec[l].toInt
  | .a n => let a := s.getA n; (a.base + BitVec.ofNat 64 l * sext64 a.stride).toInt
  | z => (BitVec.ofInt 64 ((s.sval z).toInt + (l.val : Int) * r.stride0)).toInt

/-- R134: the offset of a scalar access. -/
def State.scalOff (s : State) (z : Opnd) : Int :=
  match z with
  | .a n => (s.getA n).base.toInt
  | z => (s.sval z).toInt

/-- R130: the bounds mode of a record; `none` is DROP, an error is BOUNDS. -/
def resolveOff (r : Rec) (o : Int) (w : Nat) : Except Unit (Option Int) :=
  let inside := 0 ≤ o ∧ o + w ≤ r.extent
  if r.bounds = 0 then (if inside then .ok (some o) else .error ())
  else if r.bounds = 1 then (if inside then .ok (some o) else .ok none)
  else if r.bounds = 2 then (if r.extent < w then .ok none else .ok (some (min (max o 0) ((r.extent : Int) - w))))
  else .ok (some o)

/-- The stage area of a tenant in bytes (R174). -/
def State.stageBytes (s : State) (tenant : Nat) : Nat := ((s.tenant? tenant).map (·.stage)).getD 0 * 65536
/-- R188: the ways of a tenant's cellar scratch, in increasing number. -/
def scrWays (m : BitVec 16) : List Nat := (List.range 16).filter (fun i => m.getLsbD i)
/-- The address a trap record gives for an offset of a record. -/
def recAddr (r : Rec) (o : Int) : DWord := BitVec.ofInt 64 ((r.base : Int) + o)

/-- R128, R174, R188: where a resolved offset lands: its address for alignment, and its key unless it is GLOBAL. -/
def State.whereIs (s : State) (a : Agent) (r : Rec) (o : Int) (w : Nat) : Except TrapCode (Nat × Option Nat) :=
  let loc : Int := (r.base : Int) + o
  let inside (lim : Nat) : Bool := 0 ≤ loc && loc + w ≤ lim
  let scr := nearSize - s.stageBytes a.tenant
  match r.space with
  | 0 => .ok ((recAddr r o).toNat, none)
  | 1 => if inside scr then .ok (loc.toNat, some (keyNear a.core loc.toNat)) else .error .bounds
  | 2 =>
    let loc : Int := (field r 31 0 : Int) + o
    let peer := a.core / 32 * 32 + field r 36 32
    if s.coreTenant peer ≠ some a.tenant then .error .perm
    else if 0 ≤ loc ∧ loc + w ≤ scr then .ok (loc.toNat, some (keyNear peer loc.toNat))
    else .error .bounds
  | 3 =>
    let d := dieOf a.core
    let ways := scrWays (s.tdie? a.tenant d).scr
    if inside (ways.length * 2 ^ 26) then
      .ok (loc.toNat, some (keyCellar d (ways.getD (loc.toNat / 2 ^ 26) 0) (loc.toNat % 2 ^ 26)))
    else .error .bounds
  | 4 => if inside (2 ^ 20) then .ok (loc.toNat, some (keyAttic a.core loc.toNat)) else .error .bounds
  | _ => if inside (s.stageBytes a.tenant) then .ok (loc.toNat, some (keyNear a.core (scr + loc.toNat))) else .error .bounds

/-- The failure with the lowest address. -/
def lowestFail {α : Type} (l : List (DWord × α)) : Option (DWord × α) := maxBy (fun p => -(p.1.toNat : Int)) l

/-- R131, R383: the trap of a set of failed translations: PERM before XLATE, the lowest address. A page still to be
walked makes the instruction wait first. -/
def trapXlate {α : Type} (h : How) (fails : List (DWord × TrFail)) (k : Res α) : Res α :=
  match firstSome (fun p => match p.2 with | TrFail.walk pg => some pg | _ => none) fails with
  | some pg => .error (.walk pg)
  | none =>
    match lowestFail (fails.filter (fun p => p.2 == .perm)) with
    | some p => trapAt .perm p.1 h.kind
    | none =>
      match lowestFail fails with
      | some (va, .xlate d) => trapAt .xlate va h.kind d
      | _ => k

/-- Translate a list of GLOBAL addresses, all or none (R131). -/
def State.translateAll (s : State) (a : Agent) (h : How) (bypass : Bool) (vas : List DWord) : Res (List Loc) :=
  let rs := vas.map (fun va => (va, s.translate a h bypass va))
  trapXlate h (rs.filterMap (fun p => match p.2 with | .error f => some (p.1, f) | _ => none))
    (.ok (rs.filterMap (fun p => p.2.toOption)))

/-- R186: a cellar access waits while a carve change of the tenant is in progress on the die. -/
def State.carveWait (s : State) (a : Agent) (r : Rec) : Bool :=
  r.space == 3 && (s.tdie? a.tenant (dieOf a.core)).change.isSome

/-- R127 to R131, the first three checks, and R186 before any that the carve decides: the offset of each lane of an access of `w` bytes whose locations are
multiples of `al`, none where it is dropped; or the first check that fails, at its lowest address. -/
def State.resolveOffs (s : State) (a : Agent) (r : Rec) (h : How) (w al : Nat) (offs : List (Nat × Int)) :
    Res (List (Nat × Option Int)) := do
  recUse r
  if s.carveWait a r then .error (.stall .carve) else .ok ()
  let bnd := offs.map (fun p => (p, resolveOff r p.2 w))
  let kept : List (Nat × Option Int) := bnd.filterMap (fun p => p.2.toOption.map (fun o => (p.1.1, o)))
  let placed := kept.filterMap (fun p => p.2.map (fun o => (o, s.whereIs a r o w)))
  let fails : List (DWord × TrapCode) :=
    bnd.filterMap (fun p => match p.2 with | .error _ => some (recAddr r p.1.2, .bounds) | _ => none) ++
    placed.filterMap (fun p => match p.2 with | .error c => some (recAddr r p.1, c) | _ => none)
  match lowestFail fails with
  | some (va, c) => trapAt c va h.kind
  | none =>
    match lowestFail (placed.filterMap (fun p => match p.2 with
        | .ok (x, _) => if x % al ≠ 0 then some (recAddr r p.1, ()) else none
        | _ => none)) with
    | some (va, _) => trapAt .misalign va h.kind
    | none => .ok kept

/-- The location of a resolved offset: near, or translated. -/
def State.locOf (s : State) (a : Agent) (r : Rec) (h : How) (o : Int) (w : Nat) : Except TrFail Loc :=
  match s.whereIs a r o w with
  | .ok (_, some k) => .ok ⟨k, recAddr r o, .near, none⟩
  | _ => s.translate a h r.bypass (recAddr r o)

/-- R127 to R131: a location for each lane, none where it is dropped. -/
def State.resolve (s : State) (a : Agent) (r : Rec) (h : How) (w al : Nat) (offs : List (Nat × Int)) :
    Res (List (Nat × Option Loc)) := do
  let kept ← s.resolveOffs a r h w al offs
  let rs := kept.map (fun p => (p.1, p.2.map (fun o => (recAddr r o, s.locOf a r h o w))))
  trapXlate h (rs.filterMap (fun p => match p.2 with | some (va, .error f) => some (va, f) | _ => none))
    (.ok (rs.map (fun p => (p.1, p.2.bind (fun q => q.2.toOption)))))

/-! ## Writes that reach their place -/

/-- A byte of memory written at its place, the list kept canonical: an unlisted address reads 0. -/
def memPut (m : List Host.Cell) (k : Nat) (b : Byte) : List Host.Cell := putKey k (if b = 0 then none else some b) m

/-- Consecutive bytes written at their place. -/
def memPutN (m : List Host.Cell) (k : Nat) : List Byte → List Host.Cell
  | [] => m
  | b :: bs => memPutN (memPut m k b) (k + 1) bs

/-- R399: the CXL port behind a storage key, over every tenant's windows. -/
def State.portOf (s : State) (k : Nat) : Option Nat :=
  firstSome (fun t => firstSome (fun (w : Window) =>
    if w.kind < 2 && w.medium != 0 && w.base ≤ k && k < w.base + w.size then some (w.medium - 1) else none)
    t.windows) s.tenants

/-- R179: the home die of a storage key, where one of the tenants' windows gives it one. -/
def State.homeOf (s : State) (k : Nat) : Option Nat :=
  firstSome (fun t => firstSome (fun (w : Window) =>
    if w.base ≤ k && k < w.base + w.size then
      (if w.kind = 0 then some (homeInterleaved k) else if w.kind = 1 then some w.die else none)
    else none) t.windows) s.tenants

/-- R197, R199: does a storage key lie in a window that a failed port has taken offline? -/
def State.portDead (s : State) (k : Nat) : Bool :=
  s.tenants.any (fun t => t.windows.any (fun w =>
    w.kind < 2 && w.medium != 0 && w.offline && w.base ≤ k && k < w.base + w.size))

/-- R196: the hot-page tracker counts a request that reaches a CXL port; the record, where one falls due, is the caller's
(`State.hotRecords`). -/
def Tenant.hotCount (t : Tenant) (region : Nat) (wr : Bool) : Tenant :=
  let hot := upsert (fun (h : Nat × Nat × Bool × Bool × Bool) => h.1 == region)
    (fun h => (h.1, h.2.1 + 1, h.2.2.1 || wr, h.2.2.2.1, h.2.2.2.2)) (region, 0, false, false, false) t.hot
  { t with hot := hot }

/-- R196: a request of a tenant reaches a CXL port at a storage key. -/
def State.countHot (s : State) (tenant k : Nat) (wr : Bool) : State :=
  s.updTenant tenant (fun t => if t.tierq.isSome then t.hotCount (k / 2 ^ 21) wr else t)

/-- R196, R380: bytes that an L1 writes back, or that an engine, the front end or the staging reaches: whether the access goes on to
a CXL port is policy (a free choice) unless no cache may serve it (`thru`); each tenant whose window holds the key is counted. -/
def State.touchPort (s : State) (thru : Bool) (k : Nat) (wr : Bool) : State :=
  if (s.portOf k).isSome && (thru || s.coin .order (16 * k + 1)) then
    (s.tenants.filter (fun t => t.windows.any (fun w => w.base ≤ k && k < w.base + w.size))).foldl
      (fun s t => s.countHot t.id k wr) s
  else s

/-! ## Sector checks (R407) and what leaves for another module (R405, R406) -/

/-- R407: one step of the CRC over a bit. -/
def crcBit (c : BitVec 16) : BitVec 16 := if c.getLsbD 15 then (c <<< 1) ^^^ 0x8BB7#16 else c <<< 1
/-- R407: the CRC over a byte. -/
def crcByte (c : BitVec 16) (b : Byte) : BitVec 16 :=
  (List.range 8).foldl (fun c _ => crcBit c) (c ^^^ (b.setWidth 16 <<< 8))
/-- R407: the CRC-16 check of a sector. -/
def crc16 (bs : List Byte) : BitVec 16 := bs.foldl crcByte 0

/-- R407: a sector as it leaves, with its check. -/
def sectorOut (bs : List Byte) : List Byte × BitVec 16 := (bs, crc16 bs)

/-- R407: the poison bits of up to three sectors. -/
def poisonBits (l : List Bool) : BitVec 3 := BitVec.ofNat 3 (l.zipIdx.foldl (fun n p => if p.1 then n + 2 ^ p.2 else n) 0)

/-- The module whose memory a storage key lies in, unless it is this one. -/
def remoteModule (k : Nat) : Option Nat := if keyRemote 0 0 ≤ k then some (k / 2 ^ 64 - 16) else none

/-- R405: the sectors that `n` bytes at a key touch, three to a flit. -/
def flitRuns (k n : Nat) : List (List Nat) :=
  let ss := (List.range ((k + n - 1) / 64 - k / 64 + 1)).map (fun i => k / 64 + i)
  (List.range ((ss.length + 2) / 3)).map (fun i => (ss.drop (3 * i)).take 3)

/-- Does a storage key lie in another module's memory? Nothing of it stands here. -/
def farKey (k : Nat) : Bool := keyRemote 0 0 ≤ k

/-- R405, R406: the flits that go to the home of `n` bytes of another module's memory: each carries what `f` gives for its sectors. -/
def State.flitsTo (s : State) (kind : FlitKind) (tenant tag k n : Nat) (f : List Nat → List (List Byte × BitVec 16)) : List Flit :=
  match remoteModule k with
  | none => []
  | some m => (flitRuns k n).map (fun secs =>
      let lo := max k (64 * secs.headD 0)
      let hi := min (k + n) (64 * (secs.headD 0 + secs.length))
      { kind := kind, src := s.moduleNo.getD 0, dst := BitVec.ofNat 16 m, tenant := tenant, tag := tag,
        addr := BitVec.ofNat 64 (lo % 2 ^ 64), length := hi - lo, sectors := f secs, row := none, crcOk := true })

/-- R405, R406: `n` bytes of another module's memory are asked for under a tag. -/
def State.sendRead (s : State) (tenant tag k n : Nat) : State :=
  { s with outFlits := s.outFlits ++ s.flitsTo .read tenant tag k n (fun _ => []) }

/-- R405, R406: bytes go to their place in another module's memory. -/
def State.sendWrite (s : State) (tenant k : Nat) (bs : List Byte) : State :=
  let sector (sec : Nat) : List Byte := (List.range 64).map (fun i =>
    if k ≤ 64 * sec + i then bs.getD (64 * sec + i - k) 0 else 0)
  { s with outFlits := s.outFlits ++ s.flitsTo .write tenant 0 k bs.length (fun secs => secs.map (fun sec => sectorOut (sector sec))) }

/-- R405, R407: a range of another module's memory is written poisoned. -/
def State.sendPoison (s : State) (tenant k n : Nat) : State :=
  let fs := s.flitsTo .write tenant 0 k n (fun secs => secs.map (fun _ => sectorOut (List.replicate 64 0)))
  { s with outFlits := s.outFlits ++ fs.map (fun f => { f with bad := poisonBits (f.sectors.map (fun _ => true)) }) }

/-- R405, R406: an operation is asked of another module, which answers under a tag with what the location held; `rel` is the release
tag that it leaves. -/
def State.sendOp (s : State) (tenant tag k n : Nat) (op : LinkOp) (rel : Option RTag) : State :=
  let kind : FlitKind := match op with
    | .atomic _ _ _ => .atomic
    | .cell _ => .future
  let me := s.moduleNo.getD 0
  let tags : List LinkTag := match rel with
    | some t => [⟨k % 2 ^ 64 / 8, t.scope, t.party.away.getD me, t.party.tid, t.party.core⟩]
    | none => []
  { s with outFlits := s.outFlits ++ (s.flitsTo kind tenant tag k n (fun _ => [])).map (fun f =>
      { f with op := some op, tags := tags }) }

/-- R405: what a part of this module sees of another module's memory where nothing waits for the answer: bytes that are not this
module's (free values; notes/assumptions/38.md). -/
def State.farBytes (s : State) (k n : Nat) : List Byte :=
  (List.range n).map (fun i => BitVec.ofNat 8 (s.free .device (16 + k + i)))

/-- R197: remember what the expander still holds of a byte that is about to change. -/
def State.keepOld (s : State) (k : Nat) : State :=
  if (s.portOf k).isSome && (getKey k s.l2d).isNone then { s with l2d := putKey k (some (s.rd8 k)) s.l2d } else s

/-- The 8-byte words that `n` bytes at `k` touch (R268). -/
def wordsAt (k n : Nat) : List Nat := (List.range ((k + n - 1) / 8 - k / 8 + 1)).map (fun i => k / 8 + i)
/-- The 64-byte sectors that `n` bytes at `k` touch. -/
def sectorsAt (k n : Nat) : List Nat := (List.range ((k + n - 1) / 64 - k / 64 + 1)).map (fun i => k / 64 + i)

/-- R268: clear the release tags of the words a plain write touches. -/
def State.clearTags (s : State) (k n : Nat) : State :=
  if s.tags.isEmpty then s
  else { s with tags := s.tags.filter (fun p => !(k / 8 ≤ p.1 && p.1 ≤ (k + n - 1) / 8)) }

/-- R140, R407: a write gives its bytes a fresh check: the poison of a sector written whole goes. -/
def State.clearPoison (s : State) (k n : Nat) : State :=
  if s.poison.isEmpty then s
  else { s with poison := s.poison.filter (fun q => !(k ≤ 64 * q && 64 * q + 64 ≤ k + n)) }

/-- R2: lines of 256 bytes that an L2 slice of 1 MiB holds, and that a cellar way of 64 MiB holds. -/
def l2Lines : Nat := 4096
/-- R2: lines that a cellar way holds. -/
def wayLines : Nat := 2 ^ 18

/-- R2, R197: a slice that dirty lines have filled beyond its size passes lines on to the ways of its die's cellar that cache, and
these pass on what is more than they hold to the expander; which line is policy (a free choice). -/
def State.l2Fit (s : State) (line : Nat) : State :=
  match s.homeOf (256 * line) with
  | none => s
  | some d =>
    let lines := ((s.l2d.map (fun c => c.1 / 256)).dedup).filter (fun l => s.homeOf (256 * l) == some d)
    let at_ (sl : Nat) : Nat := (lines.filter (fun l => homeSlice (256 * l) == sl)).length
    let spill := ((List.range 128).map (fun sl => at_ sl - l2Lines)).sum
    let room := wayLines * ((s.tdies.filter (fun t => t.die == d)).map (fun t => popc t.cache)).sum
    if spill ≤ room then s
    else
      let full := lines.filter (fun l => l2Lines < at_ (homeSlice (256 * l)))
      let out := full.getD (s.free .order (16 * line + 14) % full.length) line
      { s with l2d := s.l2d.filter (fun c => c.1 / 256 != out) }

/-- R2, R197: the dirty lines of L2 and the cellar after a write of `n` bytes at a key. -/
def State.l2Settle (s : State) (k n : Nat) : State :=
  if (s.portOf k).isNone || s.l2d.length ≤ l2Lines then s
  else (List.range ((k + n - 1) / 256 - k / 256 + 1)).foldl (fun s i => s.l2Fit (k / 256 + i)) s

/-- Bytes that reach their place, whatever the tags. -/
def State.place (s : State) (k : Nat) (bs : List Byte) : State :=
  let s := (List.range bs.length).foldl (fun s i => s.keepOld (k + i)) s
  ({ s with mem := memPutN s.mem k bs }.clearPoison k bs.length).l2Settle k bs.length

/-- R197, R380: a write that no cache may hold has reached the expander when its instruction, or the engine that made it, goes on. -/
def State.through (s : State) (path : Path) (k n : Nat) : State :=
  if path = .uncached then { s with l2d := s.l2d.filter (fun c => !(k ≤ c.1 && c.1 < k + n)) } else s

/-- R268: bytes of a plain write that reach their place. -/
def State.placePlain (s : State) (k : Nat) (bs : List Byte) : State := (s.place k bs).clearTags k bs.length

/-! ## L1 -/

/-- R178: is the core's cluster fused? -/
def State.isFused (s : State) (core : Nat) : Bool := s.fused.contains (clusterOf core)
/-- R177, R178: the core whose L1 holds a line for a core. -/
def State.l1Core (s : State) (core k : Nat) : Nat :=
  if s.isFused core then core / 32 * 32 + Nat.xor (Nat.xor (k / 2 ^ 8 % 32) (k / 2 ^ 13 % 32)) (k / 2 ^ 18 % 32)
  else core
/-- A sector held by an L1. -/
def State.l1Find (s : State) (c sec : Nat) : Option L1Sector := (s.core? c).l1.find? (fun x => x.key == sec)
/-- Remove a sector from an L1. -/
def State.l1Drop (s : State) (c sec : Nat) : State :=
  if (s.l1Find c sec).isNone then s
  else s.updCore c (fun k => { k with l1 := k.l1.filter (fun x => x.key != sec) })
/-- Put a sector into an L1. -/
def State.l1Set (s : State) (c : Nat) (x : L1Sector) : State :=
  s.updCore c (fun k => { k with l1 := upsert (fun y => y.key == x.key) (fun _ => x) x k.l1 })

/-- The runs of consecutive marked bytes of a sector, as writes of one byte each. -/
def dirtyBytes (x : L1Sector) : List (Nat × Byte) :=
  ((List.range 64).filter (fun i => x.dirty.getLsbD i)).map (fun i => (64 * x.key + i, byteOf x.data i))

/-- R176: send the dirty bytes of a sector to their place. -/
def State.wbBytes (s : State) (x : L1Sector) : State :=
  let s := s.touchPort false (64 * x.key) true
  if x.dirty = BitVec.allOnes 64 then s.placePlain (64 * x.key) (toBytes 64 x.data)
  else (dirtyBytes x).foldl (fun s p => s.placePlain p.1 [p.2]) s

/-- R139, R177: write back the dirty bytes of a sector of an L1; the copy stays. A write-back is no request that R143 counts, which is
the model's choice (notes/assumptions/48.md). -/
def State.l1Wb (s : State) (c sec : Nat) : State :=
  match s.l1Find c sec with
  | some x => if x.dirty = 0 then s else (s.wbBytes x).l1Set c { x with dirty := 0 }
  | none => s

/-- R2: the lines an L1 of 512 KiB holds. -/
def l1Lines : Nat := 2048

/-- R2, R177: an L1 that a new line has filled beyond its size evicts another; which one is policy (a free choice). -/
def State.l1Fit (s : State) (c sec : Nat) : State :=
  let lines := ((s.core? c).l1.map (fun x => x.key / 4)).dedup
  let others := lines.filter (fun l => l != sec / 4)
  if lines.length ≤ l1Lines then s
  else
    let out := others.getD (s.free .order (16 * sec + 7) % others.length) 0
    (List.range 4).foldl (fun s i => (s.l1Wb c (4 * out + i)).l1Drop c (4 * out + i)) s

/-- R177, R276: other L1s may evict dirty bytes of a sector at any time; before bytes of the sector are read or written
at their place by anyone but core `except`, each such L1 has or has not. -/
def State.settle (s : State) (sec : Nat) (except : Option Nat) : State :=
  (s.cores.filter (fun c => some c.id ≠ except && c.l1.any (fun x => x.key == sec && x.dirty != 0))).foldl
    (fun s c => if s.coin .memoryRace (16 * (4096 * sec + c.id) + 4) then (s.l1Wb c.id sec).l1Drop c.id sec else s) s

/-- R175, R177: a clean copy of a sector that differs from its place may have been evicted. -/
def State.l1Age (s : State) (c sec : Nat) : State :=
  match s.l1Find c sec with
  | none => s
  | some x =>
    let hv : BitVec 512 := ofBytes 512 (s.rdN (64 * sec) 64)
    let clean := x.valid &&& ~~~x.dirty
    let stale := (List.range 64).any (fun i => clean.getLsbD i && byteOf x.data i != byteOf hv i)
    if (stale || (clean != 0 && x.poison != s.poison.contains sec)) && s.coin .memoryRace (16 * (4096 * sec + c) + 3) then
      (if x.dirty = 0 then s.l1Drop c sec else s.l1Set c { x with valid := x.dirty, poison := false })
    else s

/-- R175: a sector of an L1 made ready to serve the bytes of a mask. Where some of them are missing the sector is filled: every
byte that is not dirty comes from its place, so that no unit joins bytes of two moments (R274). -/
def State.l1Ready (s : State) (c sec : Nat) (need : BitVec 64) : State × L1Sector :=
  let s := (s.settle sec (some c)).l1Age c sec
  let home := s.rdN (64 * sec) 64
  let hp := s.poison.contains sec
  let full := BitVec.allOnes 64
  match s.l1Find c sec with
  | none =>
    let x : L1Sector := ⟨sec, ofBytes 512 home, full, 0, hp⟩
    ((s.l1Set c x).l1Fit c sec, x)
  | some x =>
    if need &&& ~~~x.valid = 0 then (s, x)
    else
      let bs := home.zipIdx.map (fun b => if x.dirty.getLsbD b.2 then byteOf x.data b.2 else b.1)
      let x := { x with data := ofBytes 512 bs, valid := full, poison := hp }
      (s.l1Set c x, x)

/-- The mask of `n` bytes from byte `i` of a sector. -/
def byteMask (i n : Nat) : BitVec 64 := BitVec.ofNat 64 ((2 ^ n - 1) * 2 ^ i)

/-! ## Reading and writing locations -/

/-- What a read returns: the bytes, and the sectors that were poisoned. -/
structure Got where
  bytes : List Byte
  bad : List Nat
  deriving DecidableEq, Repr

/-- R177, R274, R275: a read past the L1 of core `c` at byte `i`, `n` bytes: the dirty bytes of its L1 go back first, and its copy
of the sector goes where it is older in one of these bytes, so that no later read of the split returns it in whole or in part. -/
def State.passL1 (s : State) (c sec i n : Nat) : State :=
  let s := (s.l1Wb c sec).settle sec (some c)
  match s.l1Find c sec with
  | some x =>
    if (List.range n).all (fun j => !x.valid.getLsbD (i + j) || byteOf x.data (i + j) == s.rd8 (64 * sec + i + j)) then s
    else s.l1Drop c sec
  | none => s

/-- Read the part of a sector at byte `i`, `n` bytes, for core `c`. -/
def State.readPart (s : State) (core : Nat) (path : Path) (sec i n : Nat) : State × Got :=
  match path with
  | .l1 =>
    let r := s.l1Ready (s.l1Core core (64 * sec)) sec (byteMask i n)
    (r.1, ⟨(List.range n).map (fun j => byteOf r.2.data (i + j)), if r.2.poison then [sec] else []⟩)
  | .bypass | .uncached =>
    if farKey (64 * sec) then (s, ⟨s.farBytes (64 * sec + i) n, []⟩)
    else
    let s := s.passL1 (s.l1Core core (64 * sec)) sec i n
    (s, ⟨s.rdN (64 * sec + i) n, if s.poison.contains sec then [sec] else []⟩)
  | .near => (s, ⟨s.rdN (64 * sec + i) n, if s.poison.contains sec then [sec] else []⟩)

/-- The parts of `n` bytes at a key, by sector: sector, first byte, count, and where the part begins. -/
def partsAt (k n : Nat) : List (Nat × Nat × Nat × Nat) :=
  (sectorsAt k n).map (fun sec =>
    let lo := max k (64 * sec)
    let hi := min (k + n) (64 * sec + 64)
    (sec, lo - 64 * sec, hi - lo, lo - k))

/-- Read `n` bytes of a location for a core. -/
def State.readLoc (s : State) (core : Nat) (l : Loc) (n : Nat) : State × Got :=
  (partsAt l.key n).foldl (fun acc p =>
    let r := acc.1.readPart core l.path p.1 p.2.1 p.2.2.1
    (r.1, ⟨acc.2.bytes ++ r.2.bytes, acc.2.bad ++ r.2.bad⟩)) (s, ⟨[], []⟩)

/-- The first poisoned address of a read of a location. -/
def Loc.badAddr (l : Loc) (bad : List Nat) : Option DWord :=
  bad.head?.map (fun sec => l.va + BitVec.ofNat 64 (64 * sec - l.key))

/-- Write the part of a sector that starts at byte `i`, for a core. -/
def State.writePart (s : State) (core : Nat) (path : Path) (sec i : Nat) (bs : List Byte) : State :=
  let n := bs.length
  match path with
  | .l1 =>
    let c := s.l1Core core (64 * sec)
    let x := (s.l1Find c sec).getD ⟨sec, 0, 0, 0, false⟩
    let data := bs.zipIdx.foldl (fun d p => setField d (8 * (i + p.2) + 7) (8 * (i + p.2)) p.1.toNat) x.data
    let dirty := x.dirty ||| byteMask i n
    (s.l1Set c { x with data := data, valid := x.valid ||| byteMask i n, dirty := dirty,
                        poison := x.poison && dirty != BitVec.allOnes 64 }).l1Fit c sec
  | .bypass | .uncached =>
    if farKey (64 * sec) then s.sendWrite ((s.coreTenant core).getD 0) (64 * sec + i) bs
    else
    -- R177: an L1 copy of the bytes written goes
    let c := s.l1Core core (64 * sec)
    let s := match s.l1Find c sec with
      | some x => s.l1Set c { x with valid := x.valid &&& ~~~byteMask i n, dirty := x.dirty &&& ~~~byteMask i n }
      | none => s
    (s.settle sec (some c)).placePlain (64 * sec + i) bs
  | .near => s.placePlain (64 * sec + i) bs

/-- Write bytes to a location for a core. -/
def State.writeLoc (s : State) (core : Nat) (l : Loc) (bs : List Byte) : State :=
  (partsAt l.key bs.length).foldl (fun s p =>
    s.writePart core l.path p.1 p.2.1 ((bs.drop p.2.2.2).take p.2.2.1)) s

/-- What a core would read of a byte now, nothing changed: its own L1 copy, else the byte at its place. -/
def State.peek8 (s : State) (core : Nat) (path : Path) (k : Nat) : Byte :=
  let home := s.rd8 k
  match path with
  | .near => home
  | _ =>
    match s.l1Find (s.l1Core core k) (k / 64) with
    | some x => if x.valid.getLsbD (k % 64) then byteOf x.data (k % 64) else home
    | none => home

/-! ## The bytes of a window (R142) -/

/-- Does a store of a window touch a range? -/
def storeMeets (k n : Nat) (w : Nat × List Byte) : Bool := w.1 < k + n && k < w.1 + w.2.length

/-- The byte that the first of some stores to write it gives. -/
def storeByte (ws : List (Nat × List Byte)) (k : Nat) : Option Byte :=
  firstSome (fun (w : Nat × List Byte) => if w.1 ≤ k && k < w.1 + w.2.length then w.2[k - w.1]? else none) ws

/-- R142, R273, R274: an aligned unit as a load of the window reads it: as it is, or as it was before the last stores of the
window to it. -/
def Split.winUnit (p : Split) (s : State) (k : Nat) (bs : List Byte) : List Byte :=
  let ws := p.wstores.filter (storeMeets k bs.length)
  let before (j : Nat) : List Byte := bs.zipIdx.map (fun b =>
    match storeByte (ws.drop j) (k + b.2) with
    | some x => x
    | none => (getKey (k + b.2) p.wbase).getD b.1)
  s.pick .windowRead (1024 + k) bs ((List.range ws.length).map (fun j => before (j + 1)))

/-- R274: the aligned units of some bytes at a key, each with its key. -/
def unitsAt (k : Nat) (bs : List Byte) : List (Nat × List Byte) :=
  if bs.length ≤ 8 then [(k, bs)] else (List.range ((bs.length + 7) / 8)).map (fun i => (k + 8 * i, (bs.drop (8 * i)).take 8))

/-- The bytes of a read of a split with the choices of R142. -/
def Split.winBytes (p : Split) (s : State) (k : Nat) (bs : List Byte) : List Byte :=
  if p.wstores.isEmpty then bs else (unitsAt k bs).flatMap (fun u => p.winUnit s u.1 u.2)

/-- R142: a store of the window falls after the stores of the window that the list holds, but for the first `j` of those it
meets. -/
def fallAt (w : Nat × List Byte) : Nat → List (Nat × List Byte) → List (Nat × List Byte)
  | _, [] => [w]
  | 0, l => w :: l
  | j + 1, x :: l => if storeMeets w.1 w.2.length x then x :: fallAt w j l else x :: fallAt w (j + 1) l

/-- R142: one aligned unit that the issuing split stores: it falls before or after each store to it that the window's earlier
instructions made. -/
def State.storeUnit (s : State) (prior : List (Nat × List Byte)) (l : Loc) (bs : List Byte) : State :=
  let met := prior.filter (storeMeets l.key bs.length)
  let j := if met.isEmpty then 0 else s.free .windowWrite (1024 + l.key) % (met.length + 1)
  let now (i : Nat) : Byte := s.peek8 s.here l.path (l.key + i)
  let left := if j = 0 then bs
    else bs.zipIdx.map (fun b => if (storeByte (met.take j) (l.key + b.2)).isSome then now b.2 else b.1)
  let base := (List.range bs.length).foldl (fun (m : List Host.Cell) i =>
    if (getKey (l.key + i) m).isSome then m else putKey (l.key + i) (some (now i)) m) s.sp.wbase
  let t := if farKey l.key then s.writeLoc s.here l bs else s.writeLoc s.here l left
  { t with sp := { t.sp with wstores := fallAt (l.key, bs) j t.sp.wstores, wbase := base } }

/-- A location `i` bytes into another. -/
def Loc.plus (l : Loc) (i : Nat) : Loc := { l with key := l.key + i, va := l.va + BitVec.ofNat 64 i }

/-- R142, R133: the stores of one instruction of the issuing split, in lane order: they fall in any order with those of
earlier instructions of the window, and one after another where lanes meet. -/
def State.storeLocs (s : State) (ls : List (Loc × List Byte)) : State :=
  let prior := s.sp.wstores
  ls.foldl (fun s p => (unitsAt p.1.key p.2).foldl (fun s u => s.storeUnit prior (p.1.plus (u.1 - p.1.key)) u.2) s) s

/-- One store of the issuing split. -/
def State.storeLoc (s : State) (l : Loc) (bs : List Byte) : State := s.storeLocs [(l, bs)]

/-! ## Releases, acquires and release tags -/

/-- R263: the instance test: is `q` in the instance of `p` at a scope? A party that has no task stands at CORE where the
scope is TASK. -/
def inInstance (sc : Scope) (p q : Party) : Bool :=
  let same (f : Nat → Nat) : Bool := p.away == q.away &&
    match p.core, q.core with
    | some a, some b => f a == f b
    | _, _ => false
  match sc with
  | .task => if p.tid = 0 then same id else p.tid == q.tid && p.away == q.away
  | .core => same id
  | .cluster => same clusterOf
  | .die => same dieOf
  | .module => p.away == q.away
  | .system => true

/-- The cores whose L1s act for a release or an acquire of a core at a scope (R266). -/
def State.actors (s : State) (core : Nat) (sc : Scope) : List Nat :=
  if s.isFused core then
    (if sc.code ≤ 2 then [] else (List.range 32).map (fun k => core / 32 * 32 + k))
  else if sc.code ≤ 1 then [] else [core]

/-- Write back every dirty byte of an L1. -/
def State.l1WbAll (s : State) (c : Nat) : State :=
  (s.core? c).l1.foldl (fun s x => if x.dirty = 0 then s else s.l1Wb c x.key) s

/-- R266: discard every byte of an L1 that is not dirty. -/
def State.l1Discard (s : State) (c : Nat) : State :=
  if (s.core? c).l1.isEmpty then s
  else
    let keep (x : L1Sector) : L1Sector := { x with valid := x.dirty, poison := false }
    s.updCore c (fun k => { k with l1 := (k.l1.filter (fun x => x.dirty != 0)).map keep })

/-- R266: the stores of some splits that are outstanding at a CXL port are acknowledged; `mine` tells by the task and the split. -/
def State.acknowledge (s : State) (mine : Nat × Nat → Bool) : State :=
  let hit (r : SliceReq) : Bool := r.wr && r.port.isSome && r.load == 0 && r.wait.any mine
  let secs := ((s.sreqs ++ s.posted).filter (fun r => hit r && r.thru)).map (·.sec)
  { s with sreqs := s.sreqs.filter (fun r => !hit r), posted := s.posted.filter (fun r => !hit r),
           l2d := s.l2d.filter (fun c => !secs.contains (c.1 / 64)) }

/-- R266: the actions of a release by a party at a core. -/
def State.release (s : State) (core : Nat) (sc : Scope) : State :=
  let s := (s.actors core sc).foldl State.l1WbAll s
  if sc = .system && s.running then s.acknowledge (fun w => w == (s.g.tid, s.sp.sid)) else s
/-- R266: the actions of an acquire by a party at a core. -/
def State.acquire (s : State) (core : Nat) (sc : Scope) : State := (s.actors core sc).foldl State.l1Discard s

/-- R268: tag the words of a releasing operation. -/
def State.tagWords (s : State) (k n : Nat) (t : RTag) : State :=
  { s with tags := (wordsAt k n).foldl (fun ts w => putKey w (some t) ts) s.tags }

/-- R263, R269: does an acquire at a scope by a party synchronise with the release that a tag records? Every scope's instance
of a party holds the splits of its own task. -/
def RTag.meets (t : RTag) (sc : Scope) (q : Party) : Bool :=
  inInstance t.scope t.party q && ((t.party.tid != 0 && t.party.tid == q.tid && t.party.away == q.away) || inInstance sc q t.party)

/-- R269: does an acquire of a word at a scope by a party synchronise? `none`: the word carries no tag. -/
def State.judge (s : State) (word : Nat) (sc : Scope) (q : Party) : Option Bool :=
  (getKey word s.tags).map (fun t => t.meets sc q)

/-- R266, R269: the outcome of an acquire over a tag: a scope miss, which does nothing else, or the acquire's actions. The
flag is the miss. -/
def State.acquireTag (s : State) (core : Nat) (sc : Scope) (v : Option Bool) : State × Bool :=
  if v = some false then (s, true) else (s.acquire core sc, false)

/-- R182: the L1 copy of a line, of the issuing core or fused, written back and invalidated. -/
def State.lineHome (s : State) (core : Nat) (l : Loc) : State :=
  match l.path with
  | .near => s
  | _ =>
    let line := l.key / 256
    (List.range 4).foldl (fun s i =>
      let c := s.l1Core core l.key
      (s.l1Wb c (4 * line + i)).l1Drop c (4 * line + i)) s

/-- R275: a read of `n` bytes at a key at its place, past the L1 of a core: no later read of the split returns an older copy. -/
def State.passHome (s : State) (core k n : Nat) : State :=
  if keyNear 0 0 ≤ k && k < keyRemote 0 0 then s
  else (partsAt k n).foldl (fun s p => s.passL1 (s.l1Core core (64 * p.1)) p.1 p.2.1 p.2.2.1) s

/-- R182, R227: an operation at a location's place begins: the line goes home, and others may have evicted. -/
def State.atHome (s : State) (core : Nat) (l : Loc) (n : Nat) : State :=
  match l.path with
  | .near => s
  | _ => (sectorsAt l.key n).foldl (fun s sec => s.settle sec none) (s.lineHome core l)

/-- Is a byte of a location in a poisoned sector, at its place? -/
def State.badAt (s : State) (k n : Nat) : List Nat := (sectorsAt k n).filter (fun q => s.poison.contains q)

/-! ## Slice requests (R143, R144, R196) -/

/-- R143: the counters of a tenant at a slice. -/
def State.sliceCnt (s : State) (die slice tenant : Nat) : SliceCnt :=
  (s.slices.find? (fun c => c.die == die && c.slice == slice && c.tenant == tenant)).getD ⟨die, slice, tenant, 0, 0⟩

/-- The queue entries of a slice in use (R144). -/
def State.sliceUse (s : State) (die slice : Nat) : Nat :=
  (s.sreqs.filter (fun r => r.counted && r.die == die && r.slice == slice)).length

/-- R143: count one request of a tenant that enters a slice. -/
def State.countReq (s : State) (die slice tenant : Nat) : State :=
  let occ := min 32 (s.sliceUse die slice + 1)
  let cs := upsert (fun (c : SliceCnt) => c.die == die && c.slice == slice && c.tenant == tenant)
    (fun c => { c with req := if c.req = 0xFFFFFFFF then c.req else c.req + 1, occ := max c.occ occ })
    ⟨die, slice, tenant, 0, 0⟩ s.slices
  { s with slices := cs }

/-- R189: the set-duelling selector of a tenant after a cellar miss in a set. -/
def duelStep (sel pa : Nat) : Nat :=
  let set := Nat.xor (pa / 2 ^ 8 % 2 ^ 18) (pa / 2 ^ 26 % 2 ^ 18)
  let m := set % 1024
  if m < 32 then min 1023 (sel + 1) else if 512 ≤ m ∧ m < 544 then sel - 1 else sel

/-- R189, R195, R196, R380: what a request does below its slice: whether it misses L2 and the cellar is policy (a free choice)
unless no copy may serve it; a miss in the cellar moves the selector; what reaches a CXL port is counted. The flag says that
it left L2 and the cellar, and the number is the port. -/
def State.belowSlice (s : State) (r : SliceReq) : State × Bool × Option Nat :=
  if !(r.thru || s.coin .order (16 * r.sec)) then (s, false, none)
  else
    let td := s.tdie? r.tenant r.die
    let s := if td.cache = 0 || r.thru then s
             else s.updTdie r.tenant r.die (fun t => { t with selector := duelStep t.selector (64 * r.sec) })
    match s.portOf (64 * r.sec) with
    | none => (s, true, none)
    | some p => (s.countHot r.tenant (64 * r.sec) r.wr, true, some p)

/-- R143: the sectors of a location of `n` bytes that need a request: those that no L1 serves. -/
def State.needSecs (s : State) (core : Nat) (l : Loc) (n : Nat) : List Nat :=
  match l.path with
  | .near => []
  | .bypass | .uncached => sectorsAt l.key n
  | .l1 =>
    (partsAt l.key n).filterMap (fun p =>
      match s.l1Find (s.l1Core core (64 * p.1)) p.1 with
      | some x => if byteMask p.2.1 p.2.2.1 &&& ~~~x.valid = 0 then none else some p.1
      | none => some p.1)

/-- A sector that is asked for: its number, its home die, and whether no L2 or cellar copy may serve it. -/
abbrev Ask := Nat × Nat × Bool

/-- The distinct sectors of a set of locations of `n` bytes. -/
def homeSectors (ls : List Loc) (n : Nat) : List Ask :=
  (ls.flatMap (fun l => match l.home with
    | some d => (sectorsAt l.key n).map (fun sec => (sec, d, l.path == .uncached))
    | none => [])).dedup

/-- R143: the distinct sectors that an access to some locations asks their home slices for. -/
def State.asksOf (s : State) (core : Nat) (ls : List Loc) (n : Nat) : List Ask :=
  (ls.flatMap (fun l => match l.home with
    | some d => (s.needSecs core l n).map (fun sec => (sec, d, l.path == .uncached))
    | none => [])).dedup

/-- R175, R177: the L1 copies of the sectors of some locations that differ from their place may have gone before an access. -/
def State.ageAll (s : State) (core : Nat) (ls : List Loc) (n : Nat) : State :=
  (((ls.filter (fun l => l.path == .l1)).flatMap (fun l => sectorsAt l.key n)).dedup).foldl
    (fun s sec => s.l1Age (s.l1Core core (64 * sec)) sec) s

/-- R143, R144: requests of a tenant wait in the crossbar to enter their slices. -/
def State.ask (s : State) (tenant load : Nat) (wait : Option (Nat × Nat)) (wr : Bool) (secs : List Ask) : State :=
  let reqs : List SliceReq := secs.zipIdx.map (fun p =>
    ⟨s.nextId + p.2, p.1.2.1, homeSlice (64 * p.1.1), tenant, p.1.1, false, load, wait, wr, p.1.2.2, none⟩)
  { s with sreqs := s.sreqs ++ reqs, nextId := s.nextId + reqs.length }

/-- R405, R406: other modules are asked for the locations of an access that are theirs; one sector is asked for once. -/
def State.askFar (s : State) (tenant tag : Nat) (ls : List Loc) (n : Nat) : State :=
  (((ls.filter (fun l => farKey l.key)).flatMap (fun l => sectorsAt l.key n)).dedup).foldl
    (fun s sec => s.sendRead tenant tag (64 * sec) 64) s

/-- R143, R147: the requests of an access of the issuing split that no load stands for; its window ends no earlier than they are
counted. That its effect may come before its requests are counted is the model's choice (notes/assumptions/48.md). -/
def State.request (s : State) (ls : List Loc) (n : Nat) (wr : Bool) : State :=
  s.ask s.g.tenant 0 (some (s.g.tid, s.sp.sid)) wr (homeSectors ls n)

/-- R143: the requests of a read of the issuing split that completes at issue: those of its sectors that its L1 lacks. -/
def State.requestRead (s : State) (ls : List Loc) (n : Nat) : State :=
  let s := s.ageAll s.here ls n
  s.ask s.g.tenant 0 (some (s.g.tid, s.sp.sid)) false (s.asksOf s.here ls n)

/-! ## Instruction fetch (R139) -/

/-- R139: a word at a storage key as the core's fetch sees it: its fetch copy, which may be old, or memory. -/
def State.fetchWord (s : State) (core k : Nat) : Word :=
  let home : Word := ofBytes 32 (if farKey k then s.farBytes k 4 else s.rdN k 4)
  match getKey (k / 64) (s.core? core).icopy with
  | some x => s.pick .memoryRace (16 * (k / 4) + 9) home [x.extractLsb' (8 * (k % 64)) 32]
  | none => home

/-- R139: the core keeps a fetch copy of a sector. -/
def State.keepCopy (s : State) (core sec : Nat) : State :=
  if (getKey sec (s.core? core).icopy).isSome then s
  else s.updCore core (fun c => { c with icopy := putKey sec (some (ofBytes 512 (s.rdN (64 * sec) 64))) c.icopy })

end Sys2Proof.Machine
end

