-- ==== Sys2Proof/Machine/Front.lean ====
section
/-!
DEFINITION. What the front end and the home slices do for everyone: the time base (R396), records on queues (R386 to
R390, R402), interrupts (R400), operations at a location's place (R182, R227), future cells (R243, R245) and completion
counters (R154, R230).
-/

namespace Sys2Proof.Machine

open Sys2Proof

/-! ## Time -/

/-- R102, R396: a 64-bit count that moves on by some amount; it never wraps, so that it never decreases. -/
def countOn (n by_ : Nat) : Nat := if n + by_ < 2 ^ 64 then n + by_ else n

/-- R396, R102: the time base moves on by an amount that nothing fixes before it is read. -/
def State.clock (s : State) : State := { s with time := countOn s.time (s.free .timeBase 0) }

/-- R102: the cycle counter of a core moves on before it is read. -/
def State.cycle (s : State) (core : Nat) : State :=
  s.updCore core (fun c => { c with cycles := countOn c.cycles (s.free .cycles core) })

/-! ## Operations at a place -/

/-- Everything that may reach the place of a location before an operation there does so (R182, R276). -/
def State.openAt (s : State) (core : Option Nat) (l : Loc) (n : Nat) : State :=
  match core with
  | some c => s.atHome c l n
  | none => match l.path with
    | .near => s
    | _ => (sectorsAt l.key n).foldl (fun s sec => s.settle sec none) s

/-- R228, R230: add to a 64-bit counter at its place. -/
def State.counterAdd (s : State) (core : Option Nat) (l : Loc) (inc : DWord) (t : Option RTag) : State :=
  let s := s.openAt core l 8
  let v : DWord := BitVec.ofNat 64 (s.rdV l.key 8) + inc
  let s := s.place l.key (toBytes 8 v)
  match t with
  | some t => s.tagWords l.key 8 t
  | none => s

/-- R243, R268: an operation on a cell at its place. A release is recorded where the cell changes; init clears the tag. -/
def State.cellAt (s : State) (core : Option Nat) (k : Loc) (op : CellOp) (t : RTag) : State :=
  let s := s.openAt core k 16
  let old : BitVec 128 := BitVec.ofNat 128 (s.rdV k.key 16)
  let new := cellStep old op
  if op = .init then (if cellBad old then s else s.placePlain k.key (toBytes 16 new))
  else if new = old then s
  else (s.place k.key (toBytes 16 new)).tagWords k.key 16 t

/-- The trap code of a failed translation (R381, R383). -/
def TrFail.code : TrFail → TrapCode
  | .perm => .perm
  | _ => .xlate

/-! ## Queues -/

/-- R386: FLAGS bits. -/
def Queue.enabled (q : Queue) : Bool := q.flags.getLsbD 0
/-- R386: SHARED. -/
def Queue.shared (q : Queue) : Bool := q.flags.getLsbD 1
/-- R386: the slot size. -/
def Queue.slotSize (q : Queue) : Nat := if q.flags.getLsbD 2 then 256 else 64
/-- R386: ASPACE. -/
def Queue.virt (q : Queue) : Bool := q.flags.getLsbD 3
/-- R388: the address of the slot of an index. -/
def Queue.slotAddr (q : Queue) (i : Word) : DWord := q.ring + BitVec.ofNat 64 (i.toNat % 2 ^ q.k * q.slotSize)
/-- R388: PROD − CONS. -/
def Queue.used (q : Queue) : Nat := (q.prod - q.cons).toNat

/-- R386: a location that a queue names: a bus address, or a GLOBAL virtual address of its tenant. -/
def State.queueLoc (s : State) (q : Queue) (h : How) (a : DWord) : Except TrFail Loc :=
  if q.virt then s.translate (agentFront q.tenant) h true a else .ok ⟨keyHost a.toNat, a, .bypass, none⟩

/-- R386, R406: bytes that a queue's agent writes go to their place, here or in another module. -/
def State.queuePut (s : State) (q : Queue) (l : Loc) (bs : List Byte) : State :=
  if farKey l.key then s.sendWrite q.tenant l.key bs else (s.openAt none l bs.length).placePlain l.key bs

/-- Write bytes at an address a queue names; nothing where the translation fails. -/
def State.queueWrite (s : State) (q : Queue) (a : DWord) (bs : List Byte) : State :=
  match s.queueLoc q hWrite a with
  | .ok l => s.queuePut q l bs
  | .error _ => s

/-- R390: mirror an index at SHADOW. -/
def State.shadow (s : State) (q : Queue) (i : Word) : State :=
  if q.shadow = 0 then s else s.queueWrite q q.shadow (toBytes 4 i)

/-- R400: the MSI-X vectors of a queue's owner: the physical function's, or those of a tenant's virtual function. -/
def Queue.vectors (q : Queue) : Nat := if q.kind = 4 then 2048 else 64

/-- R400: send the queue's interrupt where it is armed and its vector is one of its owner's table, and disarm it. -/
def State.signal (s : State) (q : Queue) : State :=
  if q.flags.getLsbD 4 && q.armed && q.vector < q.vectors then
    { s with irqs := (if q.kind = 4 then none else some q.tenant, q.vector) :: s.irqs }.updQueue q.num
      (fun q => { q with armed := false })
  else s

/-- R388, R390: a record for a module-produced queue: its slot's address, or 0 where the ring is full (LOST counts it) or
cannot be written. -/
def State.pushRecord (s : State) (num : Nat) (rec : BitVec 512) : State × DWord :=
  match s.queue? num with
  | none => (s, 0)
  | some q =>
    if !q.enabled then (s, 0)
    else if q.used ≥ 2 ^ q.k then (s.updQueue num (fun q => { q with lost := q.lost + 1 }), 0)
    else
      let a := q.slotAddr q.prod
      match s.queueLoc q hWrite a with
      | .error _ => (s.updQueue num (fun q => { q with lost := q.lost + 1 }), 0)
      | .ok l =>
        let s := (s.queuePut q l (toBytes 64 rec)).updQueue num
          (fun q => { q with prod := q.prod + 1 })
        ((s.shadow q (q.prod + 1)).signal q, a)

/-- R402: an error record other than a trap record, on the tenant's error queue. `core` none stands for no core. -/
def State.errRec (s : State) (tenant type task addr count detail : Nat) (core : Option Nat) : State :=
  match s.tenant? tenant with
  | none => s
  | some t =>
    let s := s.clock
    (s.pushRecord t.errq (errRecord type task addr count detail s.time
      ((core.map (fun c => (coreIdWord c).toNat)).getD 0xFFFFFFFF) tenant)).1

/-! ## Tickets (R391) -/

/-- R391: take a ticket of a shared queue, or FULL. -/
def State.ticketTake (s : State) (num : Nat) : State × Word :=
  match s.queue? num with
  | none => (s, 0xFFFFFFFF)
  | some q =>
    if 2 ^ q.k ≤ (q.resv - q.cons).toNat || 1024 ≤ (q.resv - q.prod).toNat then (s, 0xFFFFFFFF)
    else (s.updQueue num (fun q => { q with resv := q.resv + 1 }), q.resv)

/-- R391: PROD advances over the tickets that are committed. -/
def publish : Nat → Word → List Nat → Word × List Nat
  | 0, prod, bits => (prod, bits)
  | n + 1, prod, bits =>
    if bits.contains (prod.toNat % 1024) then publish n (prod + 1) (bits.filter (fun b => b != prod.toNat % 1024))
    else (prod, bits)

/-- R391: commit a ticket. A ticket that is not outstanding sends a type 5 record to a tenant's error queue. PROD of a queue
that the host consumes is mirrored where the commit advances it (R386, R390). -/
def State.ticketCommit (s : State) (num : Nat) (t : Word) (tenant task : Nat) (core : Option Nat) : State :=
  match s.queue? num with
  | none => s
  | some q =>
    if (q.resv - q.prod).toNat ≤ (t - q.prod).toNat || q.bits.contains (t.toNat % 1024) then
      s.errRec tenant 5 task num t.toNat 0 core
    else
      let r := publish 1024 q.prod ((t.toNat % 1024) :: q.bits)
      let s := s.updQueue num (fun q => { q with prod := r.1, bits := r.2 })
      if r.1 = q.prod then s else (if q.kind = 3 then s.shadow q r.1 else s).signal q

/-! ## Poisoned reads -/

/-- R140, R402: the type 1 record of an instruction that received poison; its detail says where the poison was found, in a code
of the device's own (a free value). -/
def State.poisonRec (s : State) (tenant task : Nat) (addr : DWord) (sectors : Nat) (core : Option Nat) : State :=
  s.errRec tenant 1 task addr.toNat sectors (s.free .device 9) core

/-! ## The end of a task at its cell (R245, R154) -/

/-- R245: the cell operation of a task's end, made under the tenant's translation after a release at SYSTEM; a type 9
record where it cannot be made. It sends no request that R143 counts, which is the model's choice (notes/assumptions/48.md). -/
def State.endCell (s : State) (tenant core tid : Nat) (va : DWord) (op : CellOp) : State :=
  let s := (s.release core .system).acknowledge (fun w => w.1 == tid)
  if va = 0 then s
  else
    let bad (s : State) (c : TrapCode) : State := s.errRec tenant 9 tid va.toNat 1 c.num (some core)
    let t : RTag := ⟨.system, ⟨tid, some core, none⟩⟩
    if va.toNat % 16 ≠ 0 then bad s .misalign
    else match s.translate (agentEngine tenant core) hAtomic true va with
      | .error f => bad s f.code
      | .ok l =>
        if farKey l.key then s.sendOp tenant 0 l.key 16 (.cell op) (if op = .init then none else some t)
        else if !(s.badAt l.key 16).isEmpty then bad s .poison
        else (((s.cellAt (some core) l op t).through l.path l.key 16).touchPort (l.path == .uncached) l.key true)

/-- R154, R297, R300: an agent of the module adds to a completion counter, with a release tag or none; a type 9 record
where the addition cannot be made. Address 0 stands for no counter. -/
def State.counterOp (s : State) (a : Agent) (core : Option Nat) (tid : Nat) (va inc : DWord) (t : Option RTag) : State :=
  if va = 0 then s
  else
    let bad (s : State) (c : TrapCode) : State := s.errRec a.tenant 9 tid va.toNat 1 c.num core
    if va.toNat % 8 ≠ 0 then bad s .misalign
    else match s.translate a hAtomic true va with
      | .error f => bad s f.code
      | .ok l =>
        if farKey l.key then s.sendOp a.tenant 0 l.key 8 (.atomic .add .int32 [(inc.toNat, 0)]) t
        else if !(s.badAt l.key 8).isEmpty then bad s .poison
        else (((s.counterAdd core l inc t).through l.path l.key 8).touchPort (l.path == .uncached) l.key true)

/-- R154: the addition to a launch's completion counter, by the front end, with release at SYSTEM. -/
def State.rootCounter (s : State) (tenant tid : Nat) (root : Option (DWord × DWord)) : State :=
  match root with
  | none => s
  | some (va, inc) => s.counterOp (agentFront tenant) none tid va inc (some ⟨.system, ⟨0, none, none⟩⟩)

end Sys2Proof.Machine
end

