-- ==== Sys2Proof/Machine/AtomCore.lean ====
section
/-!
DEFINITION. What an atomic does at its locations (R225, R228, R229), whoever waits for it.
-/

namespace Sys2Proof.Machine

open Sys2Proof

/-- R269: set SCOPEMISS of the issuing task where an acquire missed. -/
def State.noteMiss (r : State × Bool) : State := if r.2 then r.1.setStatus stMiss else r.1

/-- R269: the acquire of WAITC on a counter whose word carries a tag or none. -/
def State.waitcMet (s : State) (t : Option RTag) : State :=
  State.noteMiss (s.acquireTag s.here (modeScope s.mode) (t.map (fun t => t.meets (modeScope s.mode) s.me.party)))

/-- R225, R226: what tells one atomic from another: whether X holds two values (ATCAS), whether vector data is read raw,
the formats it accepts, the tag of the old value, the new value from the old one and the data (none: nothing written),
and whether it is ATBINC. -/
structure AtomOp where
  pairs : Bool
  raw : Bool
  ok : Fmt → Bool
  tag : Fmt → Tag
  new : (f : Fmt) → (bits old d d2 : Nat) → Option Nat
  binc : Bool

/-- The lanes of one location, in increasing index (R228): the value after them, and what each got. -/
def atomLanes (new : Nat → Nat → Option Nat) (cur : Nat) : List Nat → Nat × List AtomRes
  | [] => (cur, [])
  | l :: ls =>
    let n := new l cur
    let r := atomLanes new (n.getD cur) ls
    (r.1, ⟨l, cur, n.isSome, none⟩ :: r.2)

/-- R225: the formats of ATADD, ATMIN and ATMAX. -/
def fmtAtom (f : Fmt) : Bool := f.isInt || f == .fp32

/-- The signed value of the low bits of a number. -/
def signedOf (bits x : Nat) : Int := if x < 2 ^ (bits - 1) then x else (x : Int) - 2 ^ bits

/-- R225: the sum. -/
def atomAdd (f : Fmt) (_ old d _ : Nat) : Option Nat :=
  some (if f = .fp32 then (fp32RNE (fadd false (fdecode .fp32 old) (fdecode .fp32 d))).toNat else old + d)

/-- R225, R107: the minimum or maximum. -/
def atomPick (isMax : Bool) (f : Fmt) (bits old d _ : Nat) : Option Nat :=
  some (
    if f = .fp32 then (fp32RNE (fminmax isMax (fdecode .fp32 old) (fdecode .fp32 d))).toNat
    else
      let lt := if f = .uint32 then old < d else signedOf bits old < signedOf bits d
      if lt = isMax then d else old)

/-- R225: ATCAS. -/
def atomCas (_ : Fmt) (_ old d d2 : Nat) : Option Nat := if old = d then some d2 else none

/-- R225: ATBINC. -/
def atomBinc (_ : Fmt) (_ old d _ : Nat) : Option Nat := if old < d then some (old + 1) else none

/-- R225: an atomic whose vector data passes tagcheck and whose old value takes MODE.FMT. -/
def typedAtom (new : Fmt → Nat → Nat → Nat → Nat → Option Nat) : AtomOp := ⟨false, false, fmtAtom, Tag.fmt, new, false⟩

/-- R225: an atomic on raw bits. -/
def rawAtom (new : Fmt → Nat → Nat → Nat → Nat → Option Nat) : AtomOp := ⟨false, true, fmtAll, fun _ => .fmt .raw32, new, false⟩

/-- R225: the table of the atomics. -/
def AtomKind.op : AtomKind → AtomOp
  | .add => typedAtom atomAdd
  | .min => typedAtom (atomPick false)
  | .max => typedAtom (atomPick true)
  | .and => rawAtom (fun _ _ old d _ => some (Nat.land old d))
  | .or => rawAtom (fun _ _ old d _ => some (Nat.lor old d))
  | .xor => rawAtom (fun _ _ old d _ => some (Nat.xor old d))
  | .xch => rawAtom (fun _ _ _ d _ => some d)
  | .cas => { rawAtom atomCas with pairs := true }
  | .binc => { rawAtom atomBinc with binc := true }

/-- R271, R268: the tag an atomic of the issuing split leaves, issued under a MODE. -/
def State.atomTag (s : State) (m : Word) : Option RTag :=
  if modeRel m then some ⟨modeScope m, s.me.party⟩
  else if modeAcq m then none
  else s.sp.fenceRel.map (fun sc => ⟨sc, s.me.party⟩)

/-- R228, R269, R271: what the tag of a word read does: an acquire at MODE.ASCOPE, or kept for a later FENCE. -/
def State.atomRead (s : State) (m : Word) (t : Option RTag) : State :=
  if modeAcq m then State.noteMiss (s.acquireTag s.here (modeScope m) (t.map (fun t => t.meets (modeScope m) s.me.party)))
  else if modeRel m then s
  else { s with sp := { s.sp with relaxedNow := s.sp.relaxedNow ++ t.toList } }

/-- The new value that an atomic gives a lane's location. -/
def AtomFly.new (a : AtomFly) (lane old : Nat) : Option Nat :=
  let d := (getKey lane a.lanes).getD (0, 0)
  (a.kind.op.new (modeFmt a.mode) (8 * a.w) old d.1 d.2).map (fun v => v % 2 ^ (8 * a.w))

/-- R228, R229: what the lanes of a location that is poisoned get. The vector form makes its acquire all the same. -/
def State.atomBad (s : State) (a : AtomFly) (l : Loc) (lanes : List Nat) : State × List AtomRes :=
  (if a.vec then s.atomRead a.mode none else s, lanes.map (fun ln => ⟨ln, 0, false, some l.va⟩))

/-- R182, R228, R229: the lanes of one location, performed at its place as one indivisible group. -/
def State.atomAt (s : State) (a : AtomFly) (bad : List Nat) (l : Loc) (lanes : List Nat) : State × List AtomRes :=
  let s := s.openAt (some s.here) l a.w
  let cur := s.rdV l.key a.w
  if !(s.badAt l.key a.w).isEmpty || (sectorsAt l.key a.w).any bad.contains then s.atomBad a l lanes
  else
    let before := getKey (l.key / 8) s.tags
    let r := atomLanes a.new cur lanes
    let s := if r.2.any (·.wrote) then s.place l.key (toBytes a.w (BitVec.ofNat 64 r.1)) else s
    let s := match s.atomTag a.mode with
      | some t => s.tagWords l.key a.w t
      | none => s
    (s.atomRead a.mode before, r.2)

/-- R228, R406: the lanes of one location of another module, which its home has performed: what the answer says. -/
def State.atomFarAt (s : State) (a : AtomFly) (f : Load) (l : Loc) (lanes : List Nat) : State × List AtomRes :=
  match getKey l.key f.held with
  | none => s.atomBad a l lanes
  | some bs =>
    if f.poisoned.contains (l.key / 64) then s.atomBad a l lanes
    else (s.atomRead a.mode (getKey (l.key / 8) f.farTags), (atomLanes a.new (natOfBytes bs) lanes).2)

/-- The distinct locations of an access, in the order of their lowest lanes. -/
def distinctLocs (ls : List (Nat × Loc)) : List Loc :=
  ls.foldl (fun acc p => if acc.any (fun l => l.key == p.2.key) then acc else acc ++ [p.2]) []

/-- Some locations of an atomic, one after another. -/
def State.atomAll (s : State) (a : AtomFly) (bad : List Nat) (ls : List (Nat × Loc)) : State × List AtomRes :=
  (distinctLocs ls).foldl (fun acc l =>
    let lanes := (ls.filter (fun p => p.2.key == l.key)).map (·.1)
    let r := acc.1.atomAt a bad l lanes
    (r.1, acc.2 ++ r.2)) (s, [])

/-- Some locations of an outstanding atomic that are performed now, each at its place or as another module has answered. A write
past every cache has reached an expander by then (R380). -/
def State.atomPart (s : State) (f : Load) (a : AtomFly) (ls : List (Nat × Loc)) : State × List AtomRes :=
  let near := ls.filter (fun p => !farKey p.2.key)
  let far := ls.filter (fun p => farKey p.2.key)
  let r := s.atomAll a f.poisoned near
  let s := near.foldl (fun s p => s.through p.2.path p.2.key a.w) r.1
  (distinctLocs far).foldl (fun acc l =>
    let lanes := (far.filter (fun p => p.2.key == l.key)).map (·.1)
    let q := acc.1.atomFarAt a f l lanes
    (q.1, acc.2 ++ q.2)) (s, r.2)

/-- The locations that an outstanding atomic has still to perform. -/
def Load.atomLocs (f : Load) : List (Nat × Loc) :=
  f.accs.filterMap (fun x => x.key.map (fun k => (x.lane, ⟨k, x.va, x.path, none⟩)))

end Sys2Proof.Machine
end

