-- ==== Sys2Proof/Machine/Tasks.lean ====
section
/-!
DEFINITION. Tasks between instructions: split table entries (R87, R88), parking and waking (R206, R207, R217, R321),
teams and barriers (R233, R236, R238), the rack (R306 to R309), cluster fusion (R178) and the end of a task (R245, R368).
Every function here works on the whole machine with nothing issuing.
-/

namespace Sys2Proof.Machine

open Sys2Proof

/-! ## States of a split -/

/-- R206: JOINWAIT. -/
def Split.joining (p : Split) : Bool := match p.st with
  | .joinWait _ _ => true
  | _ => false
/-- R220: a split that issues no new window and need not stop: parked, waiting at SJOIN, or on the overflow stack. -/
def Split.still (p : Split) : Bool := p.parked || p.joining || (p.entry.isNone && !p.handler)
/-- Does the split stand in its entry without issuing until something frees? -/
def Split.stalled (p : Split) : Bool := match p.st with
  | .stall _ => true
  | _ => false
/-- R159: at a window boundary: nothing of the next window has issued. -/
def Split.atBoundary (p : Split) : Bool := (p.st == .run || p.stalled) && p.pos == 0 && p.wcm == 0

/-! ## Table entries -/

/-- R87: the lowest free table entry. -/
def Group.freeEntry (g : Group) (also : Option Nat) : Option Nat :=
  (List.range 8).find? (fun e => some e ≠ also && g.splits.all (fun p => p.entry ≠ some e))

/-- R87: place(): the split's entry, or the overflow stack. The split is not yet among the group's. -/
def Group.placeNew (g : Group) (also : Option Nat) (p : Split) : Group :=
  match g.freeEntry also with
  | some e => { g with splits := g.splits ++ [{ p with entry := some e, count := 0 }] }
  | none => { g with splits := g.splits ++ [{ p with entry := none, count := 0 }], ovf := p.sid :: g.ovf }

/-- R87: the top of the overflow stack moves into a free entry. -/
def Group.refill (g : Group) (also : Option Nat) : Group :=
  match g.ovf, g.freeEntry also with
  | sid :: rest, some e => { g with ovf := rest }.updSplit sid (fun p => { p with entry := some e, count := 0 })
  | _, _ => g

/-- R87: place() for a split that is among the group's without an entry. -/
def Group.placeAgain (g : Group) (sid : Nat) : Group :=
  match g.split? sid with
  | some p =>
    if p.entry.isSome || p.handler || g.ovf.contains sid then g
    else { g with splits := g.splits.filter (fun q => q.sid != sid) }.placeNew none p
  | none => g

/-! ## Windows -/

/-- R101, R160, R210: the writes of a split's window are complete: what other splits' older writes found takes them in, so
that they stand whether or not a reader sees those; the STATUS bits it has set are set. -/
def Group.absorb (g : Group) (q : Split) : Group :=
  if q.wlog.isEmpty && q.wstatus.isEmpty then g
  else
    let take (e : LogEntry) : LogEntry :=
      if e.reg.common then
        { e with old := redo ((logOf q.wlog e.reg).reverse.filter (fun w => w.kept && e.tick < w.tick)) e.old }
      else e
    { g with splits := g.splits.map (fun p =>
        if p.sid = q.sid then p
        else { p with wlog := p.wlog.map take, wdone := p.wdone.map take, wfresh := p.wfresh &&& ~~~q.wstatus.foldl (· ||| ·) 0 }) }

/-- R101, R210: the writes and settings of a split that parks or stops are made; a replay still knows the writes (R164). -/
def Split.settled (p : Split) : Split := { p with wdone := p.wlog ++ p.wdone, wlog := [], wstatus := [], wfresh := 0 }

/-- R101, R210: a split of the group parks or stops: what its window has done so far is made. -/
def Group.settleSplit (g : Group) (sid : Nat) : Group :=
  match g.split? sid with
  | some p => (g.absorb p).updSplit sid Split.settled
  | none => g

/-! ## Merging (R88) -/

/-- The window of a split begins at its pc (R162). -/
def Split.newWindow (p : Split) : Split :=
  { p with st := .run, wpc := p.pc, wcm := 0, pos := 0, after := p.pc, wlog := [], wdone := [], wloop := p.loop, wend := none,
           tripped := false, wstatus := [], wfresh := 0, wstores := [], wbase := [], wsnaps := [], wtrap := none,
           fenceRel := match p.fenceNow with
             | some r => r
             | none => p.fenceRel,
           fenceNow := none,
           asked := none,
           relaxed := p.relaxed ++ p.relaxedNow, relaxedNow := [] }

/-- R88: does a split own a state that differs from the merged one's? -/
def Split.differs (p w : Split) : Bool :=
  p.slo != w.slo || p.alo != w.alo || p.mode != w.mode || p.rets != w.rets

/-- R88: merge the splits that wait at (J, f), if no other live split holds (J, f). -/
def Group.mergeAt (g : Group) (tick : Nat) (j : DWord) (f : BitVec 16) : Group :=
  let mix (w : Split) (wait : List Split) : Bool := wait.any (fun p => p.differs w)
  let wait := g.splits.filter (fun p => p.st == .joinWait j f)
  let others := g.splits.filter (fun p => !p.handler && p.st != .joinWait j f && p.lanes != 0 && p.joins.contains (j, f))
  if !others.isEmpty || wait.any (·.stopped) then g
  else match maxBy (fun (p : Split) => -((lowLane p.lanes).map (fun l => (l.val : Int))).getD 16) wait with
    | none => g
    | some w =>
      let m : Split := { w with lanes := wait.foldl (fun a (p : Split) => a ||| p.lanes) 0, joins := w.joins.drop 1, pc := j + 4 }
      let g := { g with splits := g.splits.filter (fun p => p.st != SState.joinWait j f),
                        status := if mix w wait then g.status ||| stSmix else g.status,
                        smixAt := if mix w wait then some tick else g.smixAt }
      g.placeNew none m.newWindow

/-- R88: merge every family that has come together. -/
def Group.mergeAll (g : Group) (tick : Nat) : Group :=
  (g.splits.filterMap (fun p => match p.st with | .joinWait j f => some (j, f) | _ => none)).dedup.foldl
    (fun g p => g.mergeAt tick p.1 p.2) g

/-! ## The rack -/

/-- R306: the slots an entry takes. -/
def Entry.slots (e : Entry) : Nat := if e.resume.isSome then 1 else e.members.length
/-- R308: the free slots of a rack. -/
def CoreSt.rackFree (c : CoreSt) : Nat := 1024 - ((c.rack.map Entry.slots).sum + c.resv.length)
/-- R309: the depth of a rack. -/
def CoreSt.depth (c : CoreSt) : Nat := ((c.rack.filter (fun e => e.resume.isNone)).map Entry.slots).sum

/-- R316: the core's idle period ends. -/
def CoreSt.unidle (c : CoreSt) : CoreSt := { c with idleSince := none, nearRound := false, probes := [] }

/-- A fresh number for a rack entry, a load, a command or a slice. -/
def State.fresh (s : State) : State × Nat := ({ s with nextId := s.nextId + 1 }, s.nextId)

/-- R306: a new entry at the hot end of a rack. -/
def State.rackPush (s : State) (core : Nat) (e : Entry) : State :=
  s.updCore core (fun c => { c with rack := c.rack ++ [e] }.unidle)

/-- R172: a task id: not 0 and unlike any other. Ids rise, so no two are equal; beyond that a program learns nothing. -/
def State.freshTid (s : State) : State × Nat :=
  ({ s with nextTid := s.nextTid + 1 + s.free .taskId s.nextTid % 2 ^ 20 }, s.nextTid)

/-- R239: place unstarted tasks as one entry; each has its id already. -/
def State.rackTasks (s : State) (core : Nat) (ts : List TaskRec) : State :=
  let r := s.fresh
  r.1.rackPush core ⟨r.2, ts, .waitStage, [], 0, false, none⟩

/-- R321: the cause of a park has resolved: the reservation becomes a resume entry, or is marked during a hold (R358). -/
def State.rejoin (s : State) (tid : Nat) : State :=
  match s.group? tid with
  | none => s
  | some g =>
    if g.slot.isSome || !((s.core? g.core).resv.any (fun r => r.1 == tid)) then s
    else if g.hold then
      s.updCore g.core (fun c => { c with resv := c.resv.map (fun r => if r.1 = tid then (tid, true) else r) })
    else
      let r := s.fresh
      (r.1.updCore g.core (fun c => { c with resv := c.resv.filter (fun r => r.1 != tid) })).rackPush g.core
        ⟨r.2, [], .runnable, [], 0, false, some tid⟩

/-- R217, R308: a group with no split that may issue gives up its slot for a reservation, where one is to be had. -/
def State.giveUp (s : State) (tid : Nat) : State :=
  match s.group? tid with
  | none => s
  | some g =>
    let idle := g.splits.all (fun p => !p.stopped && (p.parked || p.joining)) && g.handler.isNone
    if g.slot.isNone || g.splits.isEmpty || !idle || (s.core? g.core).rackFree = 0 then s
    else (s.updGroup tid (fun g => { g with slot := none, parkedAt := s.tick, spilled := false })).updCore g.core
      (fun c => { c with resv := (tid, false) :: c.resv })

/-! ## Waking -/

/-- Do something as a split that does not issue. -/
def State.onSplit (s : State) (tid sid : Nat) (f : State → State) : State :=
  let r := s.refocus tid sid []
  if r.running then
    let t := f r
    let still := t.sp.parked || t.sp.stopped
    let u := t.unfocus
    -- what reaches a split that has parked or stopped is made at once
    if still then u.updGroup tid (fun g => g.settleSplit sid) else u
  else s

/-- The window completion mask with a position's bit set (R162). -/
def setWcm (m : BitVec 64) (pos : Nat) : BitVec 64 := m ||| BitVec.ofNat 64 (2 ^ pos)

/-- R207: a parked split completes its instruction: it writes its results and leaves for its window's end, through
place(). `ok` is false where the instruction raises a trap at the end of its window instead of completing. -/
def State.wake (s : State) (tid sid : Nat) (ok : Bool) (f : State → State) : State :=
  let s := s.onSplit tid sid (fun s =>
    let s := f s
    let p := s.sp
    { s with sp := { p with st := .win, pc := p.after, wcm := if ok then setWcm p.wcm p.pos else p.wcm, pos := p.pos + 1 } })
  (s.updGroup tid (fun g => g.placeAgain sid)).rejoin tid

/-- R207, R186, R385: a parked split issues its instruction again. -/
def State.retry (s : State) (tid sid : Nat) : State :=
  let s := s.updGroup tid (fun g => g.updSplit sid (fun p => { p with st := .run }))
  (s.updGroup tid (fun g => g.placeAgain sid)).rejoin tid

/-- What the record of a trap says of the issuing split and instruction (R370). -/
def State.trapInfo (s : State) (t : TrapReq) : TrapInfo :=
  ⟨t.code, s.sp.sid, s.sp.pc, s.sp.pos, t.addr, t.detail, t.access, s.exec, t.fatal, 0⟩

/-- R140, R163: a trap for the end of the window; the lowest position wins. -/
def Split.late (p : Split) (i : TrapInfo) : Split :=
  match p.wtrap with
  | some j => if i.pos < j.pos then { p with wtrap := some i } else p
  | none => { p with wtrap := some i }

/-- A trap of the issuing instruction for the end of the window. -/
def State.late (s : State) (t : TrapReq) : State := { s with sp := s.sp.late (s.trapInfo t) }

/-- R140: the POISON of the issuing instruction, with its type 1 record. -/
def State.latePoison (s : State) (addr : DWord) (sectors : Nat) (k : AccKind) : State :=
  (s.poisonRec s.g.tenant s.g.tid addr sectors (some s.here)).late { code := .poison, addr := addr, access := k }

/-! ## Teams (R233, R236, R238) -/

/-- A team of a core. -/
def State.team? (s : State) (core id : Nat) : Option TeamEntry := (s.core? core).teams.find? (fun t => t.id == id)

/-- Change a team of a core. -/
def CoreSt.updTeam (c : CoreSt) (id : Nat) (f : TeamEntry → TeamEntry) : CoreSt :=
  { c with teams := updWhere (fun t => t.id == id) f c.teams }

/-- A rank added to a list of ranks. -/
def addRank (r : Nat) (l : List Nat) : List Nat := if l.contains r then l else r :: l

/-- R238: has every member arrived, left or ended? -/
def TeamEntry.complete (t : TeamEntry) : Bool :=
  (List.range t.n).all (fun r => t.arrived.contains r || t.gone.contains r)

/-- Is a split parked at the barrier of a team? -/
def Split.barAt (p : Split) (team phase : Nat) : Bool :=
  match p.st with
  | .park (.bar _ t ph) => t == team && ph == phase
  | _ => false

/-- R216: the splits of a group that are parked on a phase of the barrier of a team and that no trap has stopped. -/
def Group.atBar (g : Group) (team phase : Nat) : List Nat :=
  (g.splits.filter (fun p => p.barAt team phase && !p.stopped)).map (·.sid)

/-- R216: has every live split of the group come to the barrier of a slot, which holds a team, in its phase? -/
def Group.arrives (g : Group) (slot : Slot) (team phase : Nat) : Bool :=
  g.live.all (fun p => p.st == .park (.bar slot team phase)) && !g.live.isEmpty

/-- R238: a phase that is complete advances, and every split parked on it wakes; one that a trap has stopped wakes once it
resumes (R220). -/
def State.barCheck (s : State) (core id : Nat) : State :=
  match s.team? core id with
  | none => s
  | some t =>
    if !t.complete then s
    else
      let s := s.updCore core (fun c => c.updTeam id (fun t => { t with phase := t.phase + 1, arrived := [] }))
      let woken := (s.groups.filter (fun g => g.core == core)).flatMap (fun g =>
        (g.atBar id t.phase).map (fun sid => (g.tid, sid)))
      woken.foldl (fun s p => s.wake p.1 p.2 true (fun s => s)) s

/-- R216: the group's arrivals at the barriers it has come to. -/
def State.arriveAll (s : State) (tid : Nat) : State :=
  match s.group? tid with
  | none => s
  | some g =>
    (List.finRange 4).foldl (fun s sl => match g.teams[sl] with
      | some m =>
        if ((s.team? g.core m.team).map (fun t => g.arrives sl m.team t.phase)).getD false then
          (s.updCore g.core (fun c => c.updTeam m.team (fun t => { t with arrived := addRank m.rank t.arrived }))).barCheck g.core m.team
        else s
      | none => s) s

/-- R289: does a command hold the sequencer or an engine? -/
def MCmd.begun (m : MCmd) : Bool :=
  match m.st with
  | .active | .service _ | .sent => true
  | _ => false

/-- R282, R368: free the tiles whose owner has ended: a team whose entry is gone, or a task. A command that has begun
finishes on the tile as it was. -/
def State.freeTiles (s : State) (core : Nat) : State :=
  let c := s.core? core
  let dead (o : Option Owner) : Bool := match o with
    | some (.team id) => c.teams.all (fun t => t.id != id)
    | some (.task tid) => s.groups.all (fun g => g.tid != tid)
    | none => false
  let keep (m : MCmd) : MCmd :=
    let t := vget c.tiles m.handle Tile.init
    if m.begun && dead t.owner then { m with kept := some t } else m
  if (List.finRange 8).all (fun h => !dead c.tiles[h].owner) then s
  else s.updCore core (fun c => { c with tiles := vmap (fun t => if dead t.owner then Tile.init else t) c.tiles,
                                         mq := c.mq.map keep })

/-- R236: a member leaves a team, by TEAM.leave or by ending. -/
def State.leaveTeam (s : State) (core : Nat) (m : Member) : State :=
  let s := s.updCore core (fun c => c.updTeam m.team (fun t => { t with gone := addRank m.rank t.gone }))
  let s := s.barCheck core m.team
  s.updCore core (fun c => { c with teams := c.teams.filter (fun t =>
    t.id != m.team || (List.range t.n).any (fun r => !t.gone.contains r)) })

/-- R235: the rank in a team of MASK that a slot-0 rank has. -/
def maskRank (mask : BitVec 16) (r : Nat) : Nat := popc (mask &&& BitVec.ofNat 16 (2 ^ r - 1))

/-- R236: the task of a slot-0 rank ends: every team formed from that team whose MASK names the rank loses it. -/
def State.leaveDerived (s : State) (core : Nat) (m : Member) : State :=
  let ids := (s.core? core).teams.filterMap (fun t => match t.parent with
    | some (p, mask, _) => if p = m.team ∧ mask.getLsbD m.rank then some (t.id, maskRank mask m.rank) else none
    | none => none)
  ids.foldl (fun s p => s.leaveTeam core ⟨p.1, p.2⟩) s

/-! ## Fusion (R178) -/

/-- The cores of a cluster. -/
def clusterCores (cl : Nat) : List Nat := (List.range 32).map (fun k => 32 * cl + k)

/-- R178: write back and invalidate every L1 of a cluster. -/
def State.flushCluster (s : State) (cl : Nat) : State :=
  (clusterCores cl).foldl (fun s c =>
    if (s.core? c).l1.isEmpty then s else (s.l1WbAll c).updCore c (fun k => { k with l1 := [] })) s

/-- R178: a cluster fuses. -/
def State.fuse (s : State) (cl : Nat) : State :=
  if s.fused.contains cl then s else { s.flushCluster cl with fused := insertNat cl s.fused }

/-- R178: a cluster on which no task of a fusing launch remains unfuses. -/
def State.unfuse (s : State) (cl : Nat) : State :=
  let fusing (e : Entry) : Bool := e.members.any (fun t => t.launch.fuse)
  let here := s.groups.any (fun g => g.launch.fuse && clusterOf g.core == cl) ||
    (s.running && s.g.launch.fuse && clusterOf s.g.core == cl) ||
    s.cores.any (fun c => clusterOf c.id == cl && (c.rack.any fusing || c.inbound.any (fun i => fusing i.entry)))
  if s.fused.contains cl && !here then { s.flushCluster cl with fused := s.fused.filter (fun c => c != cl) } else s

/-! ## The end of a task -/

/-- R131, R368: an atomic of an ending task whose locations are not all performed is performed whole, or, where none is performed
yet, not at all (a free choice). -/
def State.wholeAtomics (s : State) (tid : Nat) : State :=
  (s.loads.filter (fun l => l.tid == tid)).foldl (fun s l => match l.kind with
    | .atom a =>
      if !a.got.isEmpty || l.atomLocs.any (fun p => farKey p.2.key) || s.coin .order (16 * l.id + 13) then
        s.onSplit l.tid l.sid (fun s => (s.atomPart l a l.atomLocs).1)
      else s
    | _ => s) s

/-- Drop what the task had in flight: loads, requests, queued commands and slices that have not started (R368). -/
def State.dropWork (s : State) (g : Group) : State :=
  let gone := (s.loads.filter (fun l => l.tid == g.tid)).map (·.id)
  let s := { s with loads := s.loads.filter (fun l => l.tid != g.tid),
                    sreqs := s.sreqs.filter (fun r => !gone.contains r.load && !(r.wait.any (fun (w : Nat × Nat) => w.1 == g.tid) && !r.counted)) }
  let live (m : MCmd) : Bool := m.tid != g.tid || m.begun
  s.updCore g.core (fun c => { c with mq := c.mq.filter live,
                                      mqHalt := if c.mqHalt = some g.tid then none else c.mqHalt })

/-- R368, R236, R282, R312: the task is gone from its core: its memberships end, its space and tiles are released. -/
def State.removeTask (s : State) (g : Group) : State :=
  let s := { s with groups := s.groups.filter (fun q => q.tid != g.tid) }
  let s := s.dropWork g
  let s := (List.finRange 4).foldl (fun s sl => match g.teams[sl] with
    | some m => s.leaveTeam g.core m
    | none => s) s
  let s := match g.teams[(0 : Fin 4)] with
    | some m => s.leaveDerived g.core m
    | none => s
  let s := s.updCore g.core (fun c => { c with resv := c.resv.filter (fun r => r.1 != g.tid),
                                               rack := c.rack.filter (fun e => e.resume != some g.tid) })
  (s.freeTiles g.core).unfuse (clusterOf g.core)

/-- R245, R154, R368: a task ends, with an operation on its cell, and the addition to its launch's counter. -/
def State.endTask (s : State) (tid : Nat) (op : CellOp) : State :=
  match s.group? tid with
  | none => s
  | some g =>
    let s := (s.wholeAtomics tid).endCell g.tenant g.core tid (tFuture g.record) op
    (s.rootCounter g.tenant tid g.launch.root).removeTask g

/-- R148, R303, R310: a task that never ran takes an operation on its cell. -/
def State.failUnstarted (s : State) (core tenant : Nat) (t : TaskRec) (op : CellOp) : State :=
  (s.endCell tenant core t.tid (tFuture t.record) op).rootCounter tenant t.tid t.launch.root

end Sys2Proof.Machine
end

