-- ==== Sys2Proof/Machine/Ops.lean ====
section
/-!
DEFINITION. The shared operations of every meaning: issue with its checks (R30, R63, R166) and its end (R91, R158, R162),
window completion (R159), taking a trap (R163, R220, R364, R369) and the return from a handler (R367), parking (R207),
waking (R321), fault service (R384), and the loads in flight (R132, R140, R159).
-/

namespace Sys2Proof.Machine

open Sys2Proof

/-! ## Taking a trap -/

/-- R213: the table entry that a split's record and SINFO.id give: its own, or for a handler that of its trapping split. -/
def Group.entryOf (g : Group) (p : Split) : Option Nat :=
  if p.handler then g.handler.bind (fun h => (g.split? h.trap.sid).bind (·.entry)) else p.entry

/-- R370: the record of a trap that a split takes now. -/
def State.recordOf (s : State) (g : Group) (p : Split) (i : TrapInfo) (fatal : Bool) : BitVec 512 :=
  let own := i.code == .cancel || i.kind == 1 || i.code == .watchdog
  trapRecord g.tid (if own then p.wpc else i.pc).toNat i.addr.toNat p.wpc.toNat p.wcm.toNat s.time
    (infoWord fatal p.handler i.kind i.access.num i.detail.toNat (if own then 0 else i.pos) i.code.num)
    (coreIdWord g.core).toNat g.tenant ((g.entryOf p).getD 0xFF) p.lanes.toNat i.exec.toNat

/-- R363, R154, R365: is a trap of a split fatal? -/
def Group.isFatal (g : Group) (p : Split) (i : TrapInfo) : Bool :=
  i.fatal || i.kind != 0 || p.handler || !i.code.handled || g.launch.tvec == 0

/-- R97, R162, R364: the trapping split when its trap is taken: TRAP and BKPT set their own completion bit. -/
def trapped (i : TrapInfo) (p : Split) : Split :=
  if i.code = .user ∨ i.code = .bkpt then { p with wcm := setWcm p.wcm i.pos, stopped := true } else { p with stopped := true }

/-- R369, R245: a fatal trap writes its record and ends the task with fail(CODE, slot address) on its cell; a CANCEL with
no handler ends it with cancel and writes no record. -/
def State.takeFatal (s : State) (g : Group) (p : Split) (i : TrapInfo) : State :=
  if i.code = .cancel ∧ !p.handler ∧ !i.fatal then s.endTask g.tid .cancel
  else
    let s := s.clock
    let r := s.pushRecord (((s.tenant? g.tenant).map (·.errq)).getD 0) (s.recordOf g (trapped i p) i true)
    r.1.endTask g.tid (.fail (BitVec.ofNat 8 i.code.num) r.2)

/-- R364: the handler split of a handled trap. -/
def handlerSplit (g : Group) (p : Split) : Split :=
  { Split.init with sid := g.nextSid, lanes := p.lanes, pc := g.launch.tvec, wpc := g.launch.tvec, after := g.launch.tvec,
                    mode := p.mode, slo := p.slo, alo := p.alo, joins := p.joins, rets := p.rets, handler := true }


/-- R364: a handled trap starts the handler split at TVEC; the other pending traps arise again on replay (R220). -/
def State.takeHandled (s : State) (g : Group) (i : TrapInfo) : State :=
  let s := s.clock
  let g1 := g.updSplit i.sid (trapped i)
  let p := (g1.split? i.sid).getD Split.init
  let h : HandlerSt := ⟨i, s.recordOf g1 p i false, 0, []⟩
  let stopOne (q : Split) : Split := if q.still && q.sid != i.sid then q else { q with stopped := true }
  let g2 := { g1 with splits := g1.splits.map stopOne ++ [handlerSplit g1 p], nextSid := g1.nextSid + 1,
                      handler := some h, traps := [], cancel := if i.code = .cancel then false else g1.cancel }
  (s.updGroup g.tid (fun _ => g2)).rejoin g.tid

/-- R220, R365: the trap that is taken among those pending: a fatal one, else that of the split in the lowest entry; while
a handler runs, only one of its own. -/
def Group.chosenTrap (g : Group) : Option (Split × TrapInfo) :=
  let ts := (g.traps.filterMap (fun i => (g.split? i.sid).map (fun p => (p, i)))).filter (fun x => x.1.handler || g.handler.isNone)
  let fatal := ts.filter (fun x => g.isFatal x.1 x.2)
  maxBy (fun x => -((x.1.entry.getD 255 : Nat) : Int)) (if fatal.isEmpty then ts else fatal)

/-- Does the split have loads in flight, requests that no slice has counted (R147), or rows to be written (R159)? -/
def State.inFlight (s : State) (g : Group) (sid : Nat) : Bool :=
  s.loads.any (fun l => l.tid == g.tid && l.sid == sid) ||
    s.sreqs.any (fun r => !r.counted && r.wait == some (g.tid, sid)) ||
    (s.core? g.core).mq.any (fun m => m.tid == g.tid && m.sid == sid && (match m.op with
      | .rdrow _ _ _ => true
      | _ => false) && (match m.st with
      | .done | .failed _ _ => false
      | _ => true))

/-- R163, R220: has every split of the group stopped, for a trap of one of them? -/
def State.allStopped (s : State) (g : Group) (sid : Nat) : Bool :=
  g.splits.all (fun p => p.stopped || p.still || p.atBoundary) && !s.inFlight g sid

/-- R375: a group at rest: every split has stopped, waits, or stands at a window boundary, and nothing is in flight. -/
def State.atRest (s : State) (g : Group) : Bool :=
  g.splits.all (fun p => (p.stopped || p.still || p.atBoundary) && !s.inFlight g p.sid)

/-- R372: the split that the record of a WATCHDOG names, and what the record says. -/
def Group.watchInfo (g : Group) : Option (Split × TrapInfo) :=
  let ps := g.live
  let e := ps.filter (fun p => p.entry.isSome)
  let low := if e.isEmpty then maxBy (fun (p : Split) => -((lowLane p.lanes).map (fun l => (l.val : Int))).getD 16) ps
             else maxBy (fun (p : Split) => -((p.entry.getD 255 : Nat) : Int)) e
  low.map (fun p => (p, ⟨.watchdog, p.sid, p.wpc, 0, 0, 0, .none,
    p.lanes &&& (if modeGP p.mode = 0 then 0xFFFF else vget g.preds (modeGP p.mode) 0), true, 0⟩))

/-- R372: a task whose limit has passed ends once every split has stopped. -/
def State.takeWatch (s : State) (g : Group) : State :=
  if !g.wdog || !g.splits.all (fun p => p.stopped || p.still || p.atBoundary) then s
  else match g.watchInfo with
    | some (p, i) => s.takeFatal g p i
    | none => s

/-- TAKING A TRAP (R163, R220, R363, R364, R369). A pending trap of a group is taken once the group has stopped, a fatal
one at once; while a handler runs, only its own traps are. -/
def State.takeTrap (s : State) (tid : Nat) : State :=
  match s.group? tid with
  | none => s
  | some g =>
    match g.chosenTrap with
    | none => s.takeWatch g
    | some (p, i) =>
      if g.isFatal p i then s.takeFatal g p i
      else if s.allStopped g i.sid then s.takeHandled g i
      else s

/-- R163: a split raises a trap: it issues nothing more, the lowest position of the window wins, and the group stops. -/
def State.raise (s : State) (tid : Nat) (i : TrapInfo) : State :=
  match (s.group? tid).bind (fun g => g.split? i.sid) with
  | none => s
  | some p =>
    let i := match p.wtrap with
      | some j => if j.pos < i.pos then j else i
      | none => i
    (s.updGroup tid (fun g => { (g.settleSplit i.sid).updSplit i.sid (fun p =>
        { p with stopped := true, wtrap := if p.parked then p.wtrap else none }) with
      traps := g.traps ++ [i] })).takeTrap tid

/-- R257, R220: the CANCEL that a split takes. -/
def cancelInfo (p : Split) : TrapInfo := ⟨.cancel, p.sid, p.wpc, 0, 0, 0, .none, p.lanes, false, 0⟩

/-- The execute mask of a split at rest. -/
def Group.execOf (g : Group) (p : Split) : BitVec 16 :=
  p.lanes &&& (if modeGP p.mode = 0 then 0xFFFF else vget g.preds (modeGP p.mode) 0)

/-- R292: the first deferred trap of a group, as a split raises it. -/
def deferredInfo (g : Group) (p : Split) : TrapInfo :=
  let d := g.deferred.head?.getD { code := .mxcmd }
  ⟨d.code, p.sid, p.wpc, 0, d.addr, d.detail, d.access, g.execOf p, true, 1⟩

/-! ## The return from a handler -/

/-- R164: a split that replays its window. -/
def Split.replay (p : Split) : Split :=
  { p with pc := p.wpc, pos := 0, loop := p.wloop, wlog := [], wdone := p.wlog ++ p.wdone, st := .run, wtrap := none,
           tripped := false, asked := none }

/-- R164: a window in which a handler has written registers: a replay reads the handler's values. -/
def Split.handled (p : Split) (names : List RegName) : Split :=
  let keep (e : LogEntry) : Bool := !names.contains e.reg
  { p with wlog := p.wlog.filter keep, wdone := p.wdone.filter keep }

/-- The registers a window log names. -/
def Split.written (p : Split) : List RegName := ((p.wlog ++ p.wdone).map (·.reg)).dedup

/-- Is a register one that the splits of a divided group share whole (R204)? -/
def RegName.shared : RegName → Bool
  | .q _ => true
  | _ => false

/-- R206, R220, R367: a stopped split resumes: it replays its window, or goes on waiting where it was parked. -/
def Split.resume (p : Split) : Split :=
  if !p.stopped then p
  else if p.parked || p.joining then { p with stopped := false }
  else { p.replay with stopped := false }

/-- R367: every stopped split resumes, but for one whose own trap is still pending (R365). What its window has written is
complete. -/
def Group.resumeAll (g : Group) : Group :=
  let g := (g.splits.filter (·.stopped)).foldl Group.absorb g
  { g with splits := g.splits.map (fun p => if g.traps.any (fun i => i.sid == p.sid) then p else p.resume) }

/-- R367: FAIL: the record of the trap, now fatal, goes to the error queue, and the task ends with its code. -/
def State.takeFail (s : State) (g : Group) (h : HandlerSt) : State :=
  let r := s.pushRecord (((s.tenant? g.tenant).map (·.errq)).getD 0) (h.record ||| BitVec.ofNat 512 (2 ^ 415))
  r.1.endTask g.tid (.fail (BitVec.ofNat 8 h.trap.code.num) r.2)

/-- THE RETURN FROM A TRAP (R98, R213, R367): the handler split of the group ends and acts by TRAP.ACT. -/
def State.returnFromTrap (s : State) (g : Group) (h : Split) (hs : HandlerSt) : State :=
  if hs.act = 2 then s.takeFail g hs
  else
    let names := h.written ++ hs.wrote
    let take (p : Split) : Split :=
      if p.sid = hs.trap.sid then
        { p.handled names with
          slo := h.slo, alo := h.alo, mode := h.mode,
          wcm := if hs.act = 1 ∧ hs.trap.code ≠ .cancel then setWcm p.wcm hs.trap.pos else p.wcm }
      else p.handled (names.filter RegName.shared)
    let g := g.absorb h
    let g := Group.resumeAll { g with splits := (g.splits.filter (fun p => p.sid != h.sid)).map take, handler := none }
    ((((s.updGroup g.tid (fun _ => g)).updGroup g.tid (fun g => g.mergeAll s.tick)).takeTrap g.tid).giveUp g.tid)

/-! ## Fault service (R384) -/

/-- R384: record a serviceable fault of a tenant, unless one is outstanding on the page. -/
def State.faultRecord (s : State) (tenant : Nat) (va : DWord) (cause : Byte) (rec : State → BitVec 512) : State :=
  match s.tenant? tenant with
  | none => s
  | some t =>
    let page := va.toNat / 2 ^ 16
    if t.faults.any (fun f => f.page == page) then s
    else
      let s := s.updTenant tenant (fun t => { t with faults := ⟨page, cause⟩ :: t.faults })
      let s := s.clock
      (s.pushRecord t.errq (rec s)).1

/-- R384: is a trap one that the host's fault service takes? -/
def TrapInfo.serviced (i : TrapInfo) : Bool := i.code == .xlate && i.detail != 4 && !i.fatal

/-- R293, R384: the same of an engine's trap. -/
def TrapReq.serviced (t : TrapReq) : Bool := t.code == .xlate && t.detail != 4 && !t.fatal

/-- R384: a split parks for service of a page, its window unfinished. -/
def State.service (s : State) (tid : Nat) (i : TrapInfo) : State :=
  let i := { i with kind := 2 }
  match s.group? tid with
  | none => s
  | some g =>
    let p := (g.split? i.sid).getD Split.init
    let s := s.faultRecord g.tenant i.addr i.detail (fun s => s.recordOf g p i false)
    let s := s.updGroup tid (fun g => ((g.settleSplit i.sid).updSplit i.sid (fun p =>
      { p with st := .park (.service (i.addr.toNat / 2 ^ 16) i), entry := none, wtrap := none })).refill none)
    (s.updGroup tid (fun g => { g with wdogOff := some (g.wdogOff.getD s.time) })).giveUp tid

/-- R163, R384: a trap whose split has nothing more in flight goes to the host's service or is raised. -/
def State.meet (s : State) (tid : Nat) (i : TrapInfo) : State :=
  if i.serviced then s.service tid i else s.raise tid i

/-! ## Issue -/

/-- What the meaning of an instruction word leaves: its effect is complete and the split goes on behind it (`done`) or at a
target (`jump`); it has issued and completes later (`pending`); it raises a trap at the end of its window (`late`); it
parks; it traps and yet has changed something outside the task (`trap`); it has asked another module and issues again when that has
answered (`wait`); or it has dealt with the split itself, the window
over (`over`, nothing issuing). -/
inductive Act where
  | done (s : State)
  | jump (s : State) (target : DWord)
  | pending (s : State)
  | late (s : State)
  | park (s : State) (c : Cause)
  | trap (s : State) (t : TrapReq)
  | wait (s : State)
  | over (s : State)

/-- R406: has another module answered in full? -/
def RemoteAsk.answered (a : RemoteAsk) : Bool := a.secs.all (fun p => p.2.isSome)
/-- R406: bytes of an answer. -/
def RemoteAsk.bytes (a : RemoteAsk) (k n : Nat) : List Byte :=
  (List.range n).map (fun i => (((getKey ((k + i) / 64) a.secs).join).map (fun d => d.1.getD ((k + i) % 64) 0)).getD 0)
/-- R406: the sectors of a range that an answer has brought poisoned. -/
def RemoteAsk.bad (a : RemoteAsk) (k n : Nat) : List Nat :=
  (sectorsAt k n).filter (fun q => (((getKey q a.secs).join).map (·.2)).getD false)

/-- R406: an instruction that needs something of another module asks for it under a fresh number and stalls; once the answer is there
it issues again and goes on with it. That the split keeps its entry meanwhile is the model's choice (notes/assumptions/38.md). -/
def State.askAway (s : State) (secs : List Nat) (send : State → Nat → State) (go : RemoteAsk → Res Act) : Res Act :=
  match s.sp.asked with
  | some a => if a.answered then go a else .ok (.wait s)
  | none =>
    let r := s.fresh
    .ok (.wait (send { r.1 with sp := { r.1.sp with asked := some ⟨r.2, secs.map (fun q => (q, none)), []⟩ } } r.2))

/-- The lane width a record gives the widths of an instruction. -/
def State.slotLw (s : State) (i : Instr) : Nat :=
  match i.slots.find? (fun sl => sl.cls == .q) with
  | some sl => (s.qval sl.o).lw
  | none => 0

/-- How many registers an operand covers when the instruction issues, whatever the execute mask (R30). -/
def State.slotCount (s : State) (i : Instr) (sl : OSlot) : Nat := widthCount sl.width (modeFmt s.mode) (s.slotLw i)

/-- R30, R63: the checks before an instruction takes effect, in order. -/
def State.precheck (s : State) (i : Instr) : Res Unit :=
  let sls := i.slots
  if !i.accepted then trapOf .invop
  else if sls.any (fun sl => !slotAligned sl (s.slotCount i sl)) then trapOf .regalign
  else if sls.any (fun sl => !slotInRange sl (s.slotCount i sl) (tVregs s.g.record)) || tVregs s.g.record < liveRange i then
    trapOf .regrange
  else if s.divided && sls.any slotGroupWide then trapOf .splitwrite
  else .ok ()

/-- The vector registers an operand covers. -/
def State.slotRegs (s : State) (i : Instr) (sl : OSlot) : List Nat :=
  match sl.o with
  | .v n => (List.range (s.slotCount i sl)).map (fun j => n.val + j)
  | _ => []

/-- R166, R226: the vector registers an operand writes: of the two values of an ATCAS only the first takes the old value. -/
def State.slotWrites (s : State) (i : Instr) (sl : OSlot) : List Nat :=
  if !clsWritesV sl.cls then []
  else if sl.width = .lwC then (s.slotRegs i sl).take (s.slotCount i sl / 2)
  else s.slotRegs i sl

/-- R166: the first vector register whose row the instruction waits for: one that it reads and that is not DEAD, or one
that it writes under a partial mask. -/
def State.missing (s : State) (i : Instr) : Option Nat :=
  if s.g.absent.isEmpty || s.exec = 0 then none
  else firstSome (fun sl => (s.slotRegs i sl).find? (fun r => s.g.absent.contains r &&
    ((clsReadsV sl.cls && (s.curV r).tag != .dead) || (s.exec != 0xFFFF && (s.slotWrites i sl).contains r)))) i.slots

/-- The other splits chosen for this cycle issue next (R208). -/
def State.advance (s : State) : State :=
  let tid := s.g.tid
  match s.todo with
  | [] => s.unfocus
  | t :: ts =>
    let r := s.unfocus
    match (r.group? tid).bind (fun g => g.split? t) with
    | some p => if p.st = .run && !p.stopped then r.refocus tid t ts else r
    | none => r

/-- After something that leaves nothing issuing, the rest of the cycle's splits issue. -/
def State.carryOn (s : State) (tid : Nat) (todo : List Nat) : State :=
  match todo with
  | [] => s
  | t :: ts =>
    match (s.group? tid).bind (fun g => g.split? t) with
    | some p => if p.st = .run && !p.stopped then s.refocus tid t ts else s
    | none => s

/-- R91: where a split that completes an instruction in sequence at `next` goes on: back to the body's start while passes
remain. The flag is a return to the start. -/
def loopNext (l : Option LoopSt) (next : DWord) : Option LoopSt × DWord × Bool :=
  match l with
  | none => (none, next, false)
  | some l =>
    if next = l.stop then
      if l.left > 1 then (some { l with left := l.left - 1 }, l.start, true) else (none, next, false)
    else (some l, next, false)

/-- R91: a branch ends the loop unless its target lies inside the body. -/
def loopJump (l : Option LoopSt) (t : DWord) : Option LoopSt :=
  match l with
  | some l => if l.start ≤ t && t < l.stop then some l else none
  | none => none

/-- R12, R91, R158, R162: the position ends: its completion bit, the next pc, and the end of the window. -/
def State.retire (s : State) (i : Instr) (bit : Bool) (target : Option DWord) : State :=
  let p := s.sp
  let seq := p.pc + BitVec.ofNat 64 (4 * i.len)
  let nx : Option LoopSt × DWord × Bool := match target with
    | some t => (loopJump p.loop t, t, false)
    | none => loopNext p.loop seq
  let wcm := if bit then setWcm p.wcm p.pos else p.wcm
  let last := i.strokeBit || p.pos == 63 || nx.2.2
  { s with g := { s.g with vuse := (i.slots.flatMap (s.slotRegs i)).foldl (fun u r => putKey r (some s.tick) u) s.g.vuse },
           sp := { p with pc := nx.2.1, after := nx.2.1, loop := nx.1, wcm := wcm, pos := p.pos + 1, asked := none,
                          wend := if last && bit then some (nx.2.1, nx.1) else p.wend,
                          st := if last then .win else .run } }

/-- R207: the issuing split parks: it leaves its entry, and the group may give up its slot. -/
def State.parkSplit (s : State) (i : Instr) (c : Cause) : State :=
  let tid := s.g.tid
  let p := s.sp
  let after := (loopNext p.loop (p.pc + BitVec.ofNat 64 (4 * i.len)))
  let sp := { p with st := .park c, entry := none, asked := none,
                     after := match c with
                       | .carve _ => p.pc
                       | _ => after.2.1,
                     loop := match c with
                       | .carve _ => p.loop
                       | _ => after.1 }
  let todo := s.todo
  let s := ({ s with sp := sp }).unfocus
  let s := s.updGroup tid (fun g => (g.settleSplit sp.sid).refill none)
  ((s.arriveAll tid).giveUp tid).carryOn tid todo

/-- What an instruction that does not take effect leaves behind. -/
def State.stop (s : State) (st : Stop) : State :=
  let tid := s.g.tid
  let todo := s.todo
  match st with
  | .trap t =>
    let i := s.trapInfo t
    -- R163: positions already issued run on first, and the lowest position that traps wins
    if s.inFlight s.g s.sp.sid || s.sp.wtrap.isSome then ({ s with sp := { s.sp.late i with st := .win } }).advance
    else ((s.unfocus).meet tid i).carryOn tid todo
  | .res r => ({ s with sp := { s.sp with st := .res r }, g := s.g.missed }).advance
  | .walk pg => ({ s with sp := { s.sp with st := .walk pg } }).advance
  | .stall c => ({ s with sp := { s.sp with st := .stall c } }).advance
  | .halt => ({ s with sp := { s.sp with st := .win } }).advance

/-- R163: an instruction traps during execution. The split issues no further position of its window, at once or after as
many more as had issued when the trap became known, which the spec leaves to timing. -/
def State.trips (s : State) (i : Instr) (t : TrapReq) : State :=
  if i.strokeBit || s.sp.pos == 63 || s.coin .trapKnown 0 then s.stop (.trap t)
  else (({ s with sp := { s.sp.late (s.trapInfo t) with tripped := true } }).retire i false none).advance

/-- Issue of one instruction word: the checks of R30 and R63, the rows it needs, then its own effect. -/
def issue (i : Instr) (s : State) (body : State → Res Act) : Host.Outcome State Fault Refusal :=
  if !s.running then .fault .noIssuingSplit
  else
    match s.precheck i with
    | .error e => .next (s.stop e)
    | .ok _ =>
      match s.missing i with
      | some r => .next (s.stop (.res r))
      | none =>
        match body s with
        | .error (.trap e) => .next (s.trips i e)
        | .error e => .next (s.stop e)
        | .ok (.done t) => .next ((t.retire i true none).advance)
        | .ok (.jump t a) => .next ((t.retire i true (some a)).advance)
        | .ok (.pending t) => .next ((t.retire i false none).advance)
        | .ok (.late t) => .next ((t.retire i false none).advance)
        | .ok (.park t c) => .next (t.parkSplit i c)
        | .ok (.trap t e) => .next (t.trips i e)
        | .ok (.wait t) => .next (t.stop (.stall .remote))
        | .ok (.over t) => .next (t.carryOn s.g.tid s.todo)

/-- An instruction whose whole effect is a change of the state (R62, R104). -/
def issueDone (i : Instr) (s : State) (f : State → Res State) : Host.Outcome State Fault Refusal :=
  issue i s (fun s => (f s).map Act.done)

/-- A step that no instruction word asks for: it acts on the whole machine, nothing issuing. -/
def event (s : State) (f : State → State) : Host.Outcome State Fault Refusal := .next (f s.unfocus)

/-- R159, R88: instructions that change the splits themselves issue once the split's earlier loads have returned; nothing
else of the window is still running then. -/
def State.settled (s : State) : Res Unit := if s.inFlight s.g s.sp.sid then .error (.stall .flight) else .ok ()

/-! ## The end of a window (R159, R162) -/

/-- R326: one more window completed; where the count changes, the watchdog's clock restarts (R372). -/
def Group.countWindow (g : Group) (time : Nat) : Group :=
  if g.coxWin = 0xFFFFFFFF then g
  else { g with coxWin := g.coxWin + 1, wdogMark := (g.coxWin + 1, time), wdogOff := g.wdogOff.map (fun _ => time) }

/-- R164: what a handler wrote in a window that ends. -/
def Group.noteHandler (g : Group) (p : Split) : Group :=
  if p.handler then { g with handler := g.handler.map (fun h => { h with wrote := (p.written ++ h.wrote).dedup }) } else g

/-- R206, R220, R257, R292: what a split in a table entry meets at a window boundary: a stopping group, a failure that an
engine left, or a cancellation. While a handler runs, no other trap of its group is taken (R365); a limit that has passed stops it too (R372). -/
def State.atEdge (s : State) (tid sid : Nat) : State :=
  match s.group? tid with
  | none => s
  | some g =>
    match g.split? sid with
    | none => s
    | some p =>
      if p.entry.isNone && !p.handler then s
      else if g.handler.isNone && !g.deferred.isEmpty && g.traps.isEmpty then s.raise tid (deferredInfo g p)
      else if p.handler && !g.wdog then s
      else if !g.traps.isEmpty || g.wdog then
        (s.updGroup tid (fun g => g.updSplit sid (fun p => { p with stopped := true }))).takeTrap tid
      else if g.handler.isSome then s.updGroup tid (fun g => g.updSplit sid (fun p => { p with stopped := true }))
      else if g.cancel then s.raise tid { cancelInfo p with exec := g.execOf p }
      else s

/-- R144, R159: the requests that a window has made hold no entry of a slice after its end: its data, or its completion, has left.
What is outstanding at a CXL port is so still. -/
def State.leaveEntries (s : State) (tid sid : Nat) : State :=
  let mine (r : SliceReq) : Bool := r.counted && r.wait == some (tid, sid)
  { s with sreqs := s.sreqs.filter (fun r => !mine r), posted := s.posted ++ s.sreqs.filter (fun r => mine r && r.port.isSome) }

/-- R159, R163: every position of the window of a split has completed or trapped: its lowest trap is taken (R140), or the
next window begins. A split that has woken onto the overflow stack waits for an entry first (R206). -/
def State.completeWindow (s : State) (tid sid : Nat) : State :=
  match s.group? tid with
  | none => s
  | some g =>
    match g.split? sid with
    | none => s
    | some p =>
      if p.st ≠ .win || p.stopped || (p.entry.isNone && !p.handler) || s.inFlight g sid then s
      else match p.wtrap with
        | some i => s.meet tid i
        | none =>
          let s := s.leaveEntries tid sid
          let s := s.updGroup tid (fun g => (((g.absorb p).noteHandler p).updSplit sid Split.newWindow).countWindow s.time)
          s.atEdge tid sid

/-! ## Loads in flight (R132, R140, R159) -/

/-- R194: the latency of the load that completes now; a refresh may have delayed what it had from HBM. -/
def State.noteLatency (s : State) (tid : Nat) (idx : Nat) (below : Bool) : State :=
  let cap (n : Nat) : Word := BitVec.ofNat 32 (min n (2 ^ 32 - 1))
  let stall := if below then s.free .latency (2 * idx + 1) else 0
  s.updGroup tid (fun g => { g with latLast := cap (s.free .latency (2 * idx)), latStall := cap (g.latStall.toNat + stall) })

/-- R197: bytes of a load's data, those of sectors it had received before a port failed among them. -/
def Load.heldBytes (l : Load) (k : Nat) (bs : List Byte) : List Byte :=
  if l.held.isEmpty then bs
  else bs.zipIdx.map (fun b => match getKey ((k + b.2) / 64) l.held with
    | some d => d.getD ((k + b.2) % 64) b.1
    | none => b.1)

/-- The lowest of some addresses. -/
def lowAddr (l : List DWord) : Option DWord := maxBy (fun a => -(a.toNat : Int)) l

/-- R175: the sectors of an access that the L1 of the issuing core serves, as they are at issue. -/
def State.l1Hits (s : State) (ls : List Loc) (n : Nat) : List L1Sector :=
  let asked := (ls.flatMap (fun l => s.needSecs s.here l n)).dedup
  ((((ls.filter (fun l => l.path == .l1)).flatMap (fun l => sectorsAt l.key n)).dedup).filter (fun sec => !asked.contains sec)).filterMap
    (fun sec => s.l1Find (s.l1Core s.here (64 * sec)) sec)

/-- R143, R144, R175: an issued load takes its number; it has the sectors that its L1 serves at once, and asks for the others. -/
def State.enqueueLoad (s : State) (mk : Nat → Load) (ls : List Loc) (n : Nat) : State :=
  let s := s.ageAll s.here ls n
  let hits := s.l1Hits ls n
  let asks := s.asksOf s.here ls n
  let r := s.fresh
  let l := mk r.2
  let l := { l with held := hits.map (fun x => (x.key, toBytes 64 x.data)),
                    poisoned := (hits.filter (·.poison)).map (·.key) }
  ((({ r.1 with loads := r.1.loads ++ [l] } : State).ask l.tenant l.id none false asks)).askFar l.tenant l.id ls n

end Sys2Proof.Machine
end

