-- ==== Sys2Proof/Machine/Engine.lean ====
section
/-!
DEFINITION. The engines of a core and of the module (spec 13, 16): accumulator tiles, the command block's checks (R291),
what a command reads and writes (R284, R287, R295 to R298), its failures (R293), its counters (R297), reduction slots
(R339 to R342), and COPY collectives (R299 to R301).
-/

namespace Sys2Proof.Machine

open Sys2Proof

/-! ## Tiles (R281) -/

/-- R281: element (i, j) of a tile. -/
def Tile.elem (t : Tile) (i j : Nat) : Word := (getKey (64 * i + j) t.elems).getD 0
/-- A list of elements from a function of row and column; +0 is not listed. -/
def elemsOf (f : Nat → Nat → Word) : List (Nat × Word) :=
  (List.range 4096).filterMap (fun k => let w := f (k / 64) (k % 64); if w = 0 then none else some (k, w))
/-- The tile of a handle. -/
def State.tile (s : State) (core h : Nat) : Tile := vget (s.core? core).tiles h Tile.init
/-- Change the tile of a handle. -/
def State.updTile (s : State) (core h : Nat) (f : Tile → Tile) : State :=
  s.updCore core (fun c => { c with tiles := vset c.tiles h (f (vget c.tiles h Tile.init)) })
/-- R285, R296: every element +0 and the state VALID. -/
def Tile.zeroed (t : Tile) : Tile := { t with elems := [], state := .valid }
/-- R295: the rows and columns a drain covers. -/
def Tile.span (t : Tile) : Nat × Nat :=
  match t.binding with
  | some b => (cb b.block 0 1, cb b.block 1 1)
  | none => (64, 64)
/-- R285: is the binding DUAL? -/
def Tile.dual (t : Tile) : Bool := (t.binding.map (fun b => cbDual b.block)).getD false
/-- R284: CCADDR of the binding. -/
def Tile.counter (t : Tile) : DWord := BitVec.ofNat 64 ((t.binding.map (fun b => cb b.block 48 8)).getD 0)
/-- R295, R338: the first difference that the comparator finds, in row-major order. -/
def Tile.mismatch (t : Tile) : Option (Nat × Nat) :=
  if !t.dual then none
  else firstSome (fun i => firstSome (fun j => if t.elem i j ≠ t.elem (i + 32) j then some (i, j) else none)
    (List.range t.span.2)) (List.range t.span.1)

/-! ## Blocks and what an MLOOP reads (R283, R284, R291) -/

/-- R39: a format code of a block as a format. -/
def codeFmt (n : Nat) : Fmt := (Fmt.ofCode n).getD .bf16
/-- R288: a format code that is quantised. -/
def codeQ (n : Nat) : Bool := n == 8 || n == 9
/-- R288: may the two formats be multiplied? -/
def pairOk (a b : Nat) : Bool :=
  4 ≤ a && a ≤ 9 && 4 ≤ b && b ≤ 9 &&
    (if codeQ a || codeQ b then codeQ a && codeQ b else a == b || (a == 6 && b == 7) || (a == 7 && b == 6))
/-- R284: GA, from QGA. -/
def cbGA (b : BitVec 512) : Nat := groupSize (field b 41 40)
/-- R284: GB, from QGB. -/
def cbGB (b : BitVec 512) : Nat := groupSize (field b 43 42)
/-- R288: do `n` K-blocks end at a group boundary? -/
def groupsEnd (b : BitVec 512) (n : Nat) : Bool := !codeQ (cbA b) || 16 * n % max (cbGA b) (cbGB b) == 0

/-- R291: a command block that is ill-formed when its MCFG takes effect. -/
def blockBad (b : BitVec 512) : Bool :=
  let m := cb b 0 1
  let n := cb b 1 1
  let kb := cb b 2 2
  let mult (off size k : Nat) : Bool := cb b off size % k == 0
  m == 0 || 64 < m || n == 0 || 64 < n || kb == 0 || 4096 < kb || !pairOk (cbA b) (cbB b) ||
    (codeQ (cbA b) && (field b 41 40 == 3 || field b 43 42 == 3)) || field b 47 44 != 0 || field b 55 53 != 0 ||
    field b 63 63 != 0 || 6 ≤ cbScope b || field b 167 166 != 0 || cb b 21 1 != 0 || cb b 30 2 != 0 || cb b 56 8 != 0 ||
    (cbDual b && 32 < m) || !mult 8 4 16 || !mult 12 4 16 || !mult 16 4 16 || !mult 24 4 16 || !mult 48 8 8 ||
    !groupsEnd b kb

/-- Granules of 16 bytes that 16 elements of A take. -/
def granulesOf (f : Fmt) : Nat := if f.width = 16 then 2 else 1
/-- R284: where granule `x` of row `i` and K-block `t` of A is read. Offsets are 32-bit values. -/
def Binding.granule (b : Binding) (i t x : Nat) : Nat :=
  let off := (b.abase + i * cb b.block 12 4 + t * cb b.block 16 4) % 2 ^ 32 + 16 * x
  Nat.xor (off % 2 ^ 32 / 16) (Nat.land i (field b.block 165 160)) * 16
/-- R284: the entries of A's sideband that row `i` uses, for `n` K-blocks: their SCRATCH offsets. -/
def Binding.entriesA (b : Binding) (n i : Nat) : List Nat :=
  (List.range (16 * n / cbGA b.block)).map (fun g => cb b.block 32 4 + i * cb b.block 36 4 + 4 * (b.kpos / cbGA b.block + g))
/-- R284: the entries of B's sideband that column `j` uses. -/
def Binding.entriesB (b : Binding) (n j : Nat) : List Nat :=
  (List.range (16 * n / cbGB b.block)).map (fun g => cb b.block 40 4 + j * cb b.block 44 4 + 4 * (b.kpos / cbGB b.block + g))
/-- R191, R284: where column `j` of B begins in the attic, and how many bytes hold `n` K-blocks. -/
def Binding.column (b : Binding) (n j : Nat) : Nat × Nat :=
  let w := (codeFmt (cbB b.block)).width
  let lo := b.bk * w / 8
  (field b.block 51 48 * 0x10000 + j * 0x400 + lo, ((b.bk + 16 * n) * w + 7) / 8 - lo)

/-- The offsets of all of A that `n` K-blocks read. -/
def Binding.granules (b : Binding) (n : Nat) : List Nat :=
  (List.range (cb b.block 0 1)).flatMap (fun i => (List.range n).flatMap (fun t =>
    (List.range (granulesOf (codeFmt (cbA b.block)))).map (fun x => b.granule i t x)))
/-- The offsets of all sideband entries that `n` K-blocks read. -/
def Binding.entries (b : Binding) (n : Nat) : List Nat :=
  if codeQ (cbA b.block) then
    (List.range (cb b.block 0 1)).flatMap (b.entriesA n) ++ (List.range (cb b.block 1 1)).flatMap (b.entriesB n)
  else []

/-- R284, R174: the first byte of ASPACE in the near store, and its extent. -/
def State.aspace (s : State) (tenant : Nat) (b : Binding) : Nat × Nat :=
  let stage := s.stageBytes tenant
  if b.block.getLsbD 52 then (nearSize - stage, stage) else (0, nearSize - stage)

/-- R291: an MLOOP of `n` K-blocks that is ill-formed when it begins. -/
def State.loopBad (s : State) (tenant n : Nat) (b : Binding) : Bool :=
  let lim := (s.aspace tenant b).2
  let scr := nearSize - s.stageBytes tenant
  (b.granules n).any (fun a => lim < a + 16) || 1024 * 8 < (b.bk + 16 * n) * (codeFmt (cbB b.block)).width ||
    (b.entries n).any (fun a => scr < a + 4) || !groupsEnd b.block n

/-- Every range of memory that an MLOOP reads: key and length. -/
def State.loopReads (s : State) (core tenant n : Nat) (b : Binding) : List (Nat × Nat) :=
  (b.granules n).map (fun a => (keyNear core ((s.aspace tenant b).1 + a), 16)) ++
    (List.range (cb b.block 1 1)).map (fun j => (keyAttic core (b.column n j).1, (b.column n j).2)) ++
    (b.entries n).map (fun a => (keyNear core a, 4))

/-! ## Racing reads (R274, R290) -/

/-- R274: a read that raced writes takes for each aligned 4-byte unit its bytes at the start or at the end. -/
def State.mixUnits (s : State) (k : Nat) (old cur : List Byte) : List Byte :=
  cur.zipIdx.map (fun p =>
    let o := old.getD p.2 p.1
    if o = p.1 then p.1 else if s.coin .memoryRace (16 * ((k + p.2) / 4) + 10) then o else p.1)

/-- Bytes of a near location as a command reads them that began with a snapshot. -/
def State.readMixed (s : State) (snap : List (Nat × List Byte)) (k n : Nat) : List Byte :=
  match getKey k snap with
  | some old => s.mixUnits k old (s.rdN k n)
  | none => s.rdN k n

/-! ## The arithmetic of the array (R60, R61) -/

/-- Elements of `w` bits of a byte string, from element `first` on. -/
def codesOf (w first n : Nat) (bs : List Byte) : List Nat :=
  let x := natOfBytes bs
  (List.range n).map (fun k => x / 2 ^ (w * (first + k)) % 2 ^ w)

/-- R60: the exact sum of a block of products, rounded once. -/
def blockSum (fa fb : Fmt) (as bs : List Nat) : Word :=
  match (as.zip bs).map (fun p => fmul (fdecode fa p.1) (fdecode fb p.2)) with
  | [] => 0
  | p :: ps => fp32RNE (ps.foldl (fadd false) p)

/-- R60: a rounded block sum added to the accumulator. -/
def accAdd (acc x : Word) : Word := fp32RNE (fadd false (fp32Val acc) (fp32Val x))

/-- R60: one element over the K-blocks of an MLOOP. -/
def floatElem (fa fb : Fmt) (n : Nat) (acc : Word) (as bs : List Nat) : Word :=
  (List.range n).foldl (fun acc t =>
    accAdd acc (blockSum fa fb ((as.drop (16 * t)).take 16) ((bs.drop (16 * t)).take 16))) acc

/-- R61: one group step: S, then the scale. -/
def groupTerm (fa fb : Fmt) (ea eb : Word) (as bs : List Nat) : Word :=
  let x : Int := ((as.zip bs).map (fun p => ((p.1 : Int) - sbZp fa ea) * ((p.2 : Int) - sbZp fb eb))).sum
  let sc := fp32Val (fp32RNE (fmul (sbScale ea) (sbScale eb)))
  fp32RNE (fmul (fp32Val (fp32RNE (FVal.ofInt x))) sc)

/-- R61: one element over the groups of an MLOOP; `ea` and `eb` are the entries of its groups. -/
def quantElem (b : Binding) (n : Nat) (acc : Word) (as bs : List Nat) (ea eb : List Word) : Word :=
  let ga := cbGA b.block
  let gb := cbGB b.block
  let st := min ga gb
  (List.range (16 * n / st)).foldl (fun acc g =>
    accAdd acc (groupTerm (codeFmt (cbA b.block)) (codeFmt (cbB b.block)) (ea.getD (g * st / ga) 0) (eb.getD (g * st / gb) 0)
      ((as.drop (st * g)).take st) ((bs.drop (st * g)).take st))) acc

/-- R284, R287: the elements of a tile after an MLOOP of `n` K-blocks. -/
def State.loopElems (s : State) (core tenant n : Nat) (b : Binding) (snap : List (Nat × List Byte)) (t : Tile) :
    List (Nat × Word) :=
  let fa := codeFmt (cbA b.block)
  let fb := codeFmt (cbB b.block)
  let base := (s.aspace tenant b).1
  let row (i : Nat) : List Nat := (List.range n).flatMap (fun k =>
    codesOf fa.width 0 16 ((List.range (granulesOf fa)).flatMap (fun x => s.readMixed snap (keyNear core (base + b.granule i k x)) 16)))
  let col (j : Nat) : List Nat :=
    codesOf fb.width (if fb.width = 4 then b.bk % 2 else 0) (16 * n)
      (s.readMixed snap (keyAttic core (b.column n j).1) (b.column n j).2)
  let ent (as : List Nat) : List Word := as.map (fun a => ofBytes 32 (s.readMixed snap (keyNear core a) 4))
  let m := cb b.block 0 1
  let nc := cb b.block 1 1
  let rows := (List.range m).map (fun i => (row i, if codeQ (cbA b.block) then ent (b.entriesA n i) else []))
  let cols := (List.range nc).map (fun j => (col j, if codeQ (cbA b.block) then ent (b.entriesB n j) else []))
  let val (i j : Nat) (acc : Word) : Word :=
    let a := rows.getD i ([], [])
    let c := cols.getD j ([], [])
    if codeQ (cbA b.block) then quantElem b n acc a.1 c.1 a.2 c.2 else floatElem fa fb n acc a.1 c.1
  let old := t.elems
  elemsOf (fun i j =>
    let acc := (getKey (64 * i + j) old).getD 0
    if nc ≤ j then acc
    else if i < m then val i j acc
    else if cbDual b.block && 32 ≤ i && i < m + 32 then val (i - 32) j acc
    else acc)

/-- R287: the elements of a tile that an operand poisoned: unspecified, alike in both copies of DUAL (R338). -/
def State.looseElems (s : State) (id : Nat) (b : Binding) (t : Tile) : List (Nat × Word) :=
  let m := cb b.block 0 1
  let loose (i j : Nat) : Word := BitVec.ofNat 32 (s.free .tileValue (4096 * id + 64 * i + j))
  let old := t.elems
  elemsOf (fun i j =>
    let acc := (getKey (64 * i + j) old).getD 0
    if cb b.block 1 1 ≤ j then acc
    else if i < m then loose i j
    else if cbDual b.block && 32 ≤ i && i < m + 32 then loose (i - 32) j
    else acc)

/-! ## Rows of memory that an engine reaches -/

/-- A part of a row that lies in one page: where it stands in the row, its length, its address, its location or why it
has none. -/
structure RowPart where
  off : Nat
  len : Nat
  va : DWord
  loc : Except TrFail Loc

/-- R131: the parts of `n` bytes at offset `o` of a record, cut where a page ends. -/
def State.rowParts (s : State) (a : Agent) (r : Rec) (h : How) (o : Int) (n : Nat) : List RowPart :=
  let start := (recAddr r o).toNat % 2 ^ 16
  (List.range ((start + n - 1) / 2 ^ 16 + 1)).map (fun i =>
    let lo := i * 2 ^ 16 - start
    let len := min n ((i + 1) * 2 ^ 16 - start) - lo
    ⟨lo, len, recAddr r (o + lo), s.locOf a r h (o + lo) len⟩)

/-- R131: the rows of an engine's access of `w` bytes each, none where a row is dropped; the checks before translation have
passed. -/
def State.rowsOf (s : State) (a : Agent) (r : Rec) (h : How) (w al : Nat) (offs : List (Nat × Int)) :
    Res (List (Nat × List RowPart)) := do
  let kept ← s.resolveOffs a r h w al offs
  .ok (kept.map (fun p => (p.1, match p.2 with
    | some o => s.rowParts a r h o w
    | none => [])))

/-- The failed translations of some rows. -/
def rowFails (k : AccKind) (rows : List (Nat × List RowPart)) : List (DWord × TrFail × AccKind) :=
  rows.flatMap (fun r => r.2.filterMap (fun p => match p.loc with
    | .error f => some (p.va, f, k)
    | .ok _ => none))

/-- R297: the failed translation of a completion counter. -/
def State.counterFails (s : State) (a : Agent) (va : DWord) : List (DWord × TrFail × AccKind) :=
  if va = 0 then []
  else match s.translate a hAtomic true va with
    | .error f => [(va, f, .atomic)]
    | .ok _ => []

/-- R131: PERM before XLATE, the lowest address. -/
def transFail (fails : List (DWord × TrFail × AccKind)) : Res Unit :=
  match lowestFail (fails.filter (fun p => p.2.1 == .perm)) with
  | some (va, _, k) => trapAt .perm va k
  | none =>
    match lowestFail fails with
    | some (va, .xlate d, k) => trapAt .xlate va k d
    | _ => .ok ()

/-- R196, R405: an engine's access to a part of a row may reach a CXL port; a read of another module asks it (a write goes there as
`State.writePart` says). -/
def State.touchPart (s : State) (tenant : Nat) (l : Loc) (n : Nat) (wr : Bool) : State :=
  if farKey l.key then (if wr then s else s.sendRead tenant 0 l.key n)
  else if (s.portOf l.key).isSome then
    (sectorsAt l.key n).foldl (fun s sec => s.touchPort (l.path == .uncached) (64 * sec) wr) s
  else s

/-- An engine writes bytes of a part of a row; past every cache they have reached an expander before it goes on (R380). -/
def State.writePartOf (s : State) (core tenant : Nat) (l : Loc) (bs : List Byte) : State :=
  ((s.touchPart tenant l bs.length true).writeLoc core l bs).through l.path l.key bs.length

/-- Write the parts of a row. -/
def State.writeRowParts (s : State) (core tenant : Nat) (ps : List RowPart) (bs : List Byte) : State :=
  ps.foldl (fun s p => match p.loc with
    | .ok l => s.writePartOf core tenant l ((bs.drop p.off).take p.len)
    | .error _ => s) s

/-! ## Reduction slots (R339 to R342) -/

/-- R339: a field of a slot descriptor. -/
def RSlot.get (q : RSlot) (off size : Nat) : Nat := cb q.desc off size
/-- R339: VALID. -/
def RSlot.valid (q : RSlot) : Bool := q.desc.getLsbD 200
/-- A configured slot. -/
def State.rslot? (s : State) (n : Nat) : Option RSlot := s.rslots.find? (fun q => q.num == n && q.valid)

/-- R298, R340: why a slot refuses a contribution. -/
def RSlot.refuses (q : RSlot) (c : Contribution) : Option TrapCode :=
  if c.count ≠ q.get 15 1 + 1 ∨ c.n ≠ q.get 14 1 ∨ q.get 12 2 < c.row0 + c.m then some .invop
  else if c.module < q.modLo ∨ q.modHi < c.module ∨ c.tenant ≠ q.get 24 1 then some .perm
  else none

/-- R341: the round a rank's next contribution belongs to. -/
def RSlot.roundOf (q : RSlot) (rank : Nat) : Nat := q.round + (q.parts.filter (fun p => p.2.2.rank == rank)).length

/-- R341: the sum of one column of a buffer row, in increasing rank. -/
def foldRank : List Word → Word
  | [] => 0
  | c :: cs => cs.foldl accAdd c

/-- R341, R342: what a round leaves in a buffer row: nothing, poison, or its words. -/
def roundRow (parts : List (Bool × Contribution)) (r : Nat) : Option (Option (List Word)) :=
  let cov := parts.filter (fun p => p.2.row0 ≤ r && r < p.2.row0 + p.2.m)
  match cov with
  | [] => none
  | (_, c) :: _ =>
    if cov.any (·.1) then some none
    else some (some ((List.range c.n).map (fun j => foldRank (cov.map (fun p => ((p.2.rows.getD (r - p.2.row0) []).getD j 0))))))

/-- Mark the sectors of a range poisoned (R140, R342, R408). -/
def State.poisonAt (s : State) (k n : Nat) : State :=
  { s with poison := (sectorsAt k n).foldl (fun p q => insertNat q p) s.poison }

/-- R403, R405, R342: a row of a round reaches its buffer, `none` as poison: a buffer of the host takes a poisoned TLP for each
sector, one of another module a flit with its poison bits set. -/
def State.writeRound (s : State) (tenant : Nat) (l : Loc) (n : Nat) (row : Option (List Word)) : State :=
  if farKey l.key then (match row with
    | some ws => s.sendWrite tenant l.key (ws.flatMap (toBytes 4))
    | none => s.sendPoison tenant l.key n)
  else
    let s := s.openAt none l n
    match row with
    | some ws => (s.placePlain l.key (ws.flatMap (toBytes 4))).through l.path l.key n
    | none =>
      let s := (s.clearTags l.key n).poisonAt l.key n
      if keyHost 0 ≤ l.key && l.key < keyNear 0 0 then { s with poisonTlps := (sectorsAt l.key n).reverse ++ s.poisonTlps } else s

/-- R341, R342: the rows of a complete round are written, the counter moves. A row whose address no longer translates is
not written. -/
def State.roundWrite (s : State) (q : RSlot) (parts : List (Bool × Contribution)) : State :=
  let tenant := q.get 24 1
  let a := agentFront tenant
  let cols := 4 * q.get 14 1
  let s := (List.range (q.get 12 2)).foldl (fun s r =>
    match roundRow parts r with
    | none => s
    | some row =>
      match s.translate a hWrite true (BitVec.ofNat 64 (q.get 0 8 + r * q.get 8 4)) with
      | .error _ => s
      | .ok l => s.writeRound tenant l cols row) s
  let widest := parts.foldl (fun (w : Scope) p => if w.code < p.2.scope.code then p.2.scope else w) .task
  s.counterOp a none 0 (BitVec.ofNat 64 (q.get 16 8)) 1 (some ⟨widest, ⟨0, none, none⟩⟩)

/-- R341: a slot whose current round every rank has contributed to completes it. -/
def State.roundDone (s : State) (n : Nat) : State :=
  match s.rslot? n with
  | none => s
  | some q =>
    let now := (q.parts.filter (fun p => p.1 == q.round)).map (·.2)
    if !(List.range (q.get 15 1 + 1)).all (fun r => now.any (fun p => p.2.rank == r)) then s
    else
      let sorted := sortBy (fun x y => x.2.rank ≤ y.2.rank) now
      let next (p : RSlot) : RSlot := { p with round := p.round + 1, parts := p.parts.filter (fun x => x.1 != q.round) }
      State.roundWrite { s with rslots := updWhere (fun p => p.num == n) next s.rslots } q sorted

/-- R341, R342: a contribution that a slot accepts, or a failure marker, takes its place in its round. -/
def State.contribute (s : State) (n : Nat) (failed : Bool) (c : Contribution) : State :=
  match s.rslot? n with
  | none => s
  | some q =>
    if (q.refuses c).isSome || c.count ≤ c.rank then s
    else
      let rd := q.roundOf c.rank
      let s := { s with rslots := updWhere (fun p => p.num == n) (fun p => { p with parts := p.parts ++ [(rd, failed, c)] }) s.rslots }
      let s := if failed then s.errRec (q.get 24 1) 3 0 0 n (rd % 2 ^ 32 * 2 ^ 32 + c.rank * 2 ^ 64) none else s
      s.roundDone n

/-! ## Commands of the matrix queue -/

/-- A command of a core. -/
def State.cmd? (s : State) (core id : Nat) : Option MCmd := (s.core? core).mq.find? (fun m => m.id == id)
/-- R289: change the state of a command. -/
def State.setCmd (s : State) (core id : Nat) (f : MCmd → MCmd) : State :=
  s.updCore core (fun c => { c with mq := updWhere (fun m => m.id == id) f c.mq })
/-- R282, R368: the tile of a command: the one it kept where its owner has ended. -/
def State.tileOf (s : State) (core : Nat) (m : MCmd) : Tile :=
  match (s.cmd? core m.id).bind (·.kept) with
  | some t => t
  | none => s.tile core m.handle
/-- Change the tile of a command. -/
def State.updTileOf (s : State) (core : Nat) (m : MCmd) (f : Tile → Tile) : State :=
  match (s.cmd? core m.id).bind (·.kept) with
  | some t => s.setCmd core m.id (fun m => { m with kept := some (f t) })
  | none => s.updTile core m.handle f
/-- R289: is the command final? -/
def MCmd.final (m : MCmd) : Bool := match m.st with
  | .done | .failed _ _ => true
  | _ => false
/-- Is it an MLOOP? -/
def MCmd.isLoop (m : MCmd) : Bool := match m.op with
  | .mloop _ => true
  | _ => false
/-- R296: the opcode that MOP.check gives. -/
def MOp.opcode : MOp → Nat
  | .drain _ => 0 | .drainn _ => 1 | .fdrain _ => 2 | .zero => 3 | .rdrow _ _ _ => 4 | .wrrow _ _ _ => 5
  | .mcfg _ => 0x7C | .mloop _ => 0x7D
/-- R297: does the command add to its binding's counter? -/
def MOp.counts : MOp → Bool
  | .mloop _ | .drain _ | .drainn _ | .fdrain _ => true
  | _ => false
/-- R262: the party of an engine of a core. -/
def engineParty (core : Nat) : Party := ⟨0, some core, none⟩

/-- R285, R297: the release after the last write, and the addition to the counter. -/
def State.countCmd (s : State) (core : Nat) (m : MCmd) (reach : Bool) : State :=
  match m.op.counts, (s.tileOf core m).binding with
  | true, some b =>
    let sc := (Scope.ofCode (cbScope b.block)).getD .task
    let s := if cbRel b.block then s.release core sc else s
    if reach then
      s.counterOp (agentEngine m.tenant core) (some core) m.tid (BitVec.ofNat 64 (cb b.block 48 8)) 1
        (if cbRel b.block then some ⟨sc, engineParty core⟩ else none)
    else s
  | _, _ => s

/-- R296: the tile remembers a failure for MOP.check. -/
def Tile.note (t : Tile) (code : TrapCode) (op : Nat) (addr : DWord) : Tile :=
  { t with err := some (match t.err with
    | none => (BitVec.ofNat 8 code.num, BitVec.ofNat 8 op, 1, addr)
    | some (c, o, n, a) => (c, o, n + 1, a)) }

/-- R289, R368: a command that completes after its task has ended leaves the queue. -/
def State.reap (s : State) (core : Nat) (m : MCmd) : State :=
  if s.groups.any (fun g => g.tid == m.tid) then s
  else s.updCore core (fun c => { c with mq := c.mq.filter (fun x => x.id != m.id) })

/-- R292: a deferred trap is reported to the task, if it still lives. -/
def State.defer (s : State) (tid : Nat) (t : TrapReq) : State :=
  s.updGroup tid (fun g => { g with deferred := g.deferred ++ [t] })

/-- R298: what an fdrain sends: its operand group holds OWNER, SLOT, COUNT, RANK and ROW0. -/
def State.contributionOf (s : State) (core : Nat) (m : MCmd) (ops : BitVec 128) : Contribution :=
  let t := s.tileOf core m
  { rank := field ops 39 32, count := field ops 47 40 + 1, row0 := field ops 79 64, m := t.span.1, n := t.span.2,
    module := (s.moduleNo.map (·.toNat)).getD 0, tenant := m.tenant,
    scope := (t.binding.bind (fun b => Scope.ofCode (cbScope b.block))).getD .task,
    rows := (List.range t.span.1).map (fun i => (List.range t.span.2).map (fun j => t.elem i j)),
    sender := some (core, m.id) }
/-- R298: OWNER. -/
def fdOwner (ops : BitVec 128) : BitVec 16 := ops.extractLsb' 8 16
/-- R298: SLOT. -/
def fdSlot (ops : BitVec 128) : Nat := field ops 7 0
/-- R298: does the slot stand on this module? -/
def State.ownsSlot (s : State) (ops : BitVec 128) : Bool := s.moduleNo == some (fdOwner ops)

/-- R405: a flit of a reduction that leaves for another module: `off` is the first of its sectors among those of the contribution, and
its address holds the slot and `off`, in a layout of the model's own (notes/assumptions/38.md). -/
def State.rowFlit (s : State) (k : FlitKind) (m : MCmd) (ops : BitVec 128) (c : Contribution) (off : Nat) (bs : List Byte) : Flit :=
  let sector (i : Nat) : List Byte := (List.range 64).map (fun j => bs.getD (64 * i + j) 0)
  { kind := k, src := s.moduleNo.getD 0, dst := fdOwner ops, tenant := m.tenant, tag := m.id,
    addr := BitVec.ofNat 64 (fdSlot ops + 256 * off), length := bs.length,
    sectors := (List.range ((bs.length + 63) / 64)).map (fun i => sectorOut (sector i)), row := some { c with rows := [] }, crcOk := true }

/-- R341, R405: the rows of a contribution as flits of three sectors each. -/
def State.rowFlits (s : State) (m : MCmd) (ops : BitVec 128) (c : Contribution) : List Flit :=
  let bs := c.rows.flatMap (fun r => r.flatMap (toBytes 4))
  (List.range ((bs.length + 191) / 192)).map (fun i => s.rowFlit .reductionRow m ops c (3 * i) ((bs.drop (192 * i)).take 192))

/-- R342: a failure marker in place of the rows of a failed fdrain. -/
def State.sendMarker (s : State) (core : Nat) (m : MCmd) : State :=
  match m.op with
  | .fdrain ops =>
    let c := { s.contributionOf core m ops with rows := [] }
    if s.ownsSlot ops then s.contribute (fdSlot ops) true c
    else { s with outFlits := s.outFlits ++ [s.rowFlit .failureMarker m ops c 0 []] }
  | _ => s

/-- R293, R295: the detail of a type 3 record: the code, and for MXMISMATCH the first differing element. -/
def failDetail (t : Tile) (code : TrapCode) : Nat :=
  code.num + match code, t.mismatch with
    | .mxmismatch, some (i, j) => (j + i * 2 ^ 16) * 2 ^ 32
    | _, _ => 0

/-- R289, R293, R297: a command fails. A failure of rdrow traps in its split and sends no record (R296); `refused` is a
slot's refusal, after which no marker stands for the rows (R340). -/
def State.failCmd (s : State) (core : Nat) (m : MCmd) (f : TrapReq) (refused : Bool) : State :=
  let t := s.tileOf core m
  let s := (s.setCmd core m.id (fun m => { m with st := .failed f.code f.addr, snap := [] })).updTileOf core m
    (fun t => t.note f.code m.op.opcode f.addr)
  let quiet := match m.op with
    | .rdrow _ _ _ => true
    | _ => false
  let s := if quiet then s
           else (s.errRec m.tenant 3 m.tid f.addr.toNat m.handle (failDetail t f.code) (some core)).defer m.tid f
  let s := if refused then s else s.sendMarker core m
  (s.countCmd core m (!(f.addr == t.counter && (f.code == .perm || f.code == .xlate)))).reap core m

/-- R289, R297: a command completes. -/
def State.doneCmd (s : State) (core : Nat) (m : MCmd) : State :=
  ((s.setCmd core m.id (fun m => { m with st := .done, snap := [] })).countCmd core m true).reap core m

/-- R291: the commands of a task that stand queued behind one of its commands leave the queue. -/
def dropBehind (m : MCmd) (l : List MCmd) : List MCmd :=
  let ahead := l.takeWhile (fun x => x.id != m.id)
  ahead ++ (l.drop ahead.length).filter (fun x => x.id == m.id || !(x.tid == m.tid && x.st == .queued))

/-- R291: an ill-formed command. -/
def State.illFormed (s : State) (core : Nat) (m : MCmd) : State :=
  let s := s.updTileOf core m (fun t => { t with state := .invalid })
  let s := s.updCore core (fun c => { c with mqHalt := some m.tid, mq := dropBehind m c.mq })
  s.failCmd core m { code := .mxcmd } false

/-- R295: a tile that may be drained. -/
def Tile.drainable (t : Tile) : Res Unit :=
  match t.state with
  | .invalid => trapOf .mxcmd
  | .poison => trapOf .poison
  | .valid => if t.mismatch.isSome then trapOf .mxmismatch else .ok ()

/-- R295: the width in bytes of a drained element. -/
def drainBytes (r : Rec) : Nat := r.fmt.width / 8

/-- R293, R295, R297: the checks of a drain into memory, and its rows. -/
def State.drainRows (s : State) (core : Nat) (m : MCmd) (r : Rec) : Res (List (Nat × List RowPart)) := do
  let t := s.tileOf core m
  let a := agentEngine m.tenant core
  t.drainable
  let rows ← s.rowsOf a r hWrite (t.span.2 * drainBytes r) (drainBytes r)
    ((List.range t.span.1).map (fun i => (i, (i : Int) * r.stride1)))
  transFail (rowFails .write rows ++ s.counterFails a t.counter)
  .ok rows

/-- R298, R340, R406: the checks of an fdrain. The flag says that its slot refuses it. -/
def State.fdrainCheck (s : State) (core : Nat) (m : MCmd) (ops : BitVec 128) : Except (Stop × Bool) Unit :=
  let t := s.tileOf core m
  let plain (r : Res Unit) : Except (Stop × Bool) Unit := r.mapError (fun e => (e, false))
  let no (c : TrapCode) : Except (Stop × Bool) Unit := .error (.trap { code := c }, true)
  do
    plain t.drainable
    plain (transFail (s.counterFails (agentEngine m.tenant core) t.counter))
    if s.ownsSlot ops then
      match s.rslot? (fdSlot ops) with
      | none => no .invop
      | some q => match q.refuses (s.contributionOf core m ops) with
        | some c => no c
        | none => .ok ()
    else if s.moduleNo.isNone || s.routesDown.contains (fdOwner ops).toNat then no .poison
    else .ok ()

/-- R293: the checks of a command against memory as it stands; the flag is a slot's refusal. -/
def State.cmdCheck (s : State) (core : Nat) (m : MCmd) : Except (Stop × Bool) (List (Nat × List RowPart)) :=
  match m.op with
  | .mloop _ =>
    ((transFail (s.counterFails (agentEngine m.tenant core) (s.tileOf core m).counter)).map (fun _ => [])).mapError
      (fun e => (e, false))
  | .drain r | .drainn r => (s.drainRows core m r).mapError (fun e => (e, false))
  | .fdrain ops => (s.fdrainCheck core m ops).map (fun _ => [])
  | _ => .ok []

/-- R293, R384: a translation fault of an engine is reported as a task's would be. -/
def State.engineFault (s : State) (core tenant tid : Nat) (t : TrapReq) : State :=
  s.faultRecord tenant t.addr t.detail (fun s =>
    trapRecord tid 0 t.addr.toNat 0 0 s.time (infoWord false false 2 t.access.num t.detail.toNat 0 7)
      (coreIdWord core).toNat tenant 0xFF 0 0)

/-- R293: a failed check of a command: service, a wait for a carve change, or FAILED. -/
def State.cmdStop (s : State) (core : Nat) (m : MCmd) (e : Stop) (refused : Bool) : State :=
  match e with
  | .trap t =>
    if t.serviced then
      (s.setCmd core m.id (fun m => { m with st := .service t })).engineFault core m.tenant m.tid t
    else s.failCmd core m t refused
  | _ => s

/-! ## Effects of commands -/

/-- R286: an MCFG takes effect. -/
def State.takeBlock (s : State) (core : Nat) (m : MCmd) (block : BitVec 512) : State :=
  if blockBad block then (s.updTileOf core m (fun t => { t with binding := none })).illFormed core m
  else s.updTileOf core m (fun t =>
    let t := { t with binding := some ⟨block, cb block 8 4, cb block 22 2, 0⟩ }
    if cbAccz block then t.zeroed else t)

/-- R287: the K-blocks of an MLOOP. -/
def loopBlocks (b : Binding) (n : Nat) : Nat := if n = 0 then cb b.block 2 2 else n

/-- R284: the running values after an MLOOP. -/
def Binding.advance (b : Binding) (n : Nat) : Binding :=
  { b with abase := (b.abase + cb b.block 24 4) % 2 ^ 32, bk := b.bk + cb b.block 28 2, kpos := b.kpos + 16 * n }

/-- R344: MX.KBLK. -/
def Group.addBlocks (g : Group) (n : Nat) : Group :=
  { g with mxKblk := BitVec.ofNat 32 (min (g.mxKblk.toNat + n) (2 ^ 32 - 1)) }

/-- R287: the effect of an MLOOP. -/
def State.runLoop (s : State) (core : Nat) (m : MCmd) (b : Binding) (n : Nat) : State :=
  let t := s.tileOf core m
  let bad := (s.loopReads core m.tenant n b).any (fun p => !(s.badAt p.1 p.2).isEmpty)
  let elems := if bad then s.looseElems m.id b t else s.loopElems core m.tenant n b m.snap t
  let st := match t.state with
    | .valid => if bad then .poison else .valid
    | x => x
  (s.updTileOf core m (fun t => { t with elems := elems, state := st, binding := some (b.advance n) })).updGroup m.tid
    (fun g => g.addBlocks n)

/-- R295: the bytes a drain writes for an element, and whether it saturates. -/
def drainElem (r : Rec) (mode : Word) (x : Word) : List Byte × Bool :=
  if r.fmt = .fp32 ∨ r.fmt = .raw32 then (toBytes 4 x, false)
  else
    let c := { modeR mode with sr := false, ftz := false }
    let q := fround r.fmt c 0 (fp32Val x)
    (toBytes (drainBytes r) (BitVec.ofNat 32 q.bits), q.sat)

/-- R295: the effect of drain and drainn. -/
def State.runDrain (s : State) (core : Nat) (m : MCmd) (r : Rec) (rows : List (Nat × List RowPart)) : State :=
  let t := s.tileOf core m
  let q := rows.foldl (fun (acc : State × Bool) row =>
    let es := (List.range t.span.2).map (fun j => drainElem r m.mode (t.elem row.1 j))
    (acc.1.writeRowParts core m.tenant row.2 (es.flatMap (·.1)), acc.2 || (!row.2.isEmpty && es.any (·.2)))) (s, false)
  if q.2 then q.1.updGroup m.tid (fun g => { g with status := g.status ||| stSat }) else q.1

/-- R296: the effect of wrrow. -/
def Tile.putRow (t : Tile) (row : Nat) (data : List Word) (exec : BitVec 16) : Tile :=
  let put (es : List (Nat × Word)) (r : Nat) : List (Nat × Word) :=
    (List.range 64).foldl (fun es j =>
      if exec.getLsbD (j % 16) then
        let w := data.getD j 0
        putKey (64 * r + j) (if w = 0 then none else some w) es
      else es) es
  let es := put t.elems row
  { t with elems := if t.dual && row < 32 then put es (row + 32) else es }

/-- R296: the effect of rdrow on the registers of its split. -/
def State.putRegs (s : State) (m : MCmd) (t : Tile) (row : Nat) (x : Option (Fin 128)) (exec : BitVec 16) : State :=
  let val (k : Nat) (l : Fin 16) : Word :=
    if t.state = .invalid then BitVec.ofNat 32 (s.free .tileValue (4096 * m.id + 64 * row + 16 * k + l.val))
    else t.elem row (16 * k + l.val)
  let s := match x with
    | none => s
    | some n => (List.range 4).foldl (fun s k =>
        s.setV (n + k) exec ⟨Vector.ofFn (val k), if t.state = TileState.invalid then .invalid else .fmt .fp32,
          if t.state = TileState.poison then exec else 0, 0⟩ true) s
  { s with sp := { s.sp with wcm := setWcm s.sp.wcm m.pos } }

/-- R296: rdrow is done, or traps MXMISMATCH at its position. -/
def State.runRdrow (s : State) (core : Nat) (m : MCmd) (row : Nat) (x : Option (Fin 128)) (exec : BitVec 16) : State :=
  let t := s.tileOf core m
  let differ := t.dual && row < 32 && (List.range 64).any (fun j => t.elem row j != t.elem (row + 32) j)
  if differ then
    let i : TrapInfo := ⟨.mxmismatch, m.sid, m.pc, m.pos, 0, 0, .none, exec, false, 0⟩
    ((s.failCmd core m { code := .mxmismatch } false).onSplit m.tid m.sid (fun s => { s with sp := s.sp.late i })).takeTrap m.tid
  else ((s.doneCmd core m).onSplit m.tid m.sid (fun s => s.atPos m.pos (fun s => s.putRegs m t row x exec))).takeTrap m.tid

/-! ## The steps of the sequencer -/

/-- R289, R291, R333: may the sequencer take a command, as the queue stands? -/
def CoreSt.mayStart (c : CoreSt) (m : MCmd) : Bool :=
  let before (x : MCmd) : List MCmd := c.mq.takeWhile (fun y => y.id != x.id)
  let free (x : MCmd) : Bool := x.st == .queued && (before x).all (fun y => y.handle != x.handle || y.final)
  free m && c.mqHalt.isNone &&
    (!m.isLoop || c.mq.all (fun y => !y.isLoop || y.final || (y.st == .queued && (!(before m).contains y || !free y))))

/-- R375: under pre-emption a QUEUED command begins only while a group is still on its way to rest (step 2). -/
def State.mayStart (s : State) (core : Nat) (m : MCmd) : Bool :=
  let c := s.core? core
  c.mayStart m && !(s.die? (dieOf core)).shut &&
    (!c.preempting || s.groups.any (fun g => g.core == core && !s.atRest g))

/-- R285: the acquire of a command before its first read. -/
def State.cmdAcquire (s : State) (core : Nat) (m : MCmd) : State :=
  match m.op.counts, (s.tileOf core m).binding with
  | true, some b => if cbAcq b.block then s.acquire core ((Scope.ofCode (cbScope b.block)).getD .task) else s
  | _, _ => s

/-- R298, R341: an fdrain sends its rows: to a slot of this module, or in flits to another. -/
def State.sendRows (s : State) (core : Nat) (m : MCmd) : State :=
  match m.op with
  | .fdrain ops =>
    let s := s.setCmd core m.id (fun m => { m with st := .sent })
    if s.ownsSlot ops then s
    else { s with outFlits := s.outFlits ++ s.rowFlits m ops (s.contributionOf core m ops) }
  | _ => s

/-- R289 to R293, R297: the sequencer takes a command: its block takes effect, an ill-formed command fails, the checks
are made, and an fdrain sends its rows. -/
def State.startCmd (s : State) (core id : Nat) : State :=
  match s.cmd? core id with
  | none => s
  | some m =>
    if !s.mayStart core m then s
    else
      let s := (s.setCmd core id (fun m => { m with st := .active })).cmdAcquire core m
      let go (s : State) : State :=
        match s.cmdCheck core m with
        | .error (e, refused) => s.cmdStop core m e refused
        | .ok _ => s.sendRows core m
      match m.op with
      | .mcfg block => s.takeBlock core m block
      | .mloop n =>
        match (s.tileOf core m).binding with
        | none => s.illFormed core m
        | some b =>
          if s.loopBad m.tenant (loopBlocks b n) b then s.illFormed core m
          else
            let reads := s.loopReads core m.tenant (loopBlocks b n) b
            go (s.setCmd core id (fun m => { m with snap := reads.map (fun p => (p.1, s.rdN p.1 p.2)) }))
      | _ => go s

/-- R289, R293, R296, R297: an active command makes its last write and its release, or fails. An fdrain that another
module's slot took completes here; one of this module completes when its slot takes it. -/
def State.completeCmd (s : State) (core id : Nat) : State :=
  match s.cmd? core id with
  | none => s
  | some m =>
    match m.st, m.op with
    | .sent, .fdrain ops => if s.ownsSlot ops then s else s.doneCmd core m
    | .active, op =>
      match s.cmdCheck core m with
      | .error (e, refused) => s.cmdStop core m e refused
      | .ok rows =>
        match op with
        | .mcfg _ | .fdrain _ => s.doneCmd core m
        | .mloop n =>
          match (s.tileOf core m).binding with
          | some b => (s.runLoop core m b (loopBlocks b n)).doneCmd core m
          | none => s.doneCmd core m
        | .drain r | .drainn r => (s.runDrain core m r rows).doneCmd core m
        | .zero => (s.updTileOf core m Tile.zeroed).doneCmd core m
        | .wrrow row data exec => (s.updTileOf core m (fun t => t.putRow row data exec)).doneCmd core m
        | .rdrow row x exec => s.runRdrow core m row x exec
    | _, _ => s

/-- R385: a reply to the fault that a command waits for: its checks are made again, or it fails. -/
def State.replyCmd (s : State) (core : Nat) (m : MCmd) (page : Nat) (retry : Bool) : State :=
  match m.st with
  | .service t =>
    if t.addr.toNat / 2 ^ 16 ≠ page then s
    else if retry then
      let s := s.setCmd core m.id (fun m => { m with st := .active })
      match s.cmdCheck core m with
      | .error (e, refused) => s.cmdStop core m e refused
      | .ok _ => s.sendRows core m
    else s.failCmd core m t false
  | _ => s

/-! ## COPY collectives (R299 to R301) -/

/-- R300: the agent of a core's block-transfer engine for a slice. -/
def Slice.agent (x : Slice) (core : Nat) : Agent := agentEngine x.tenant core
/-- R301: the queue entries in use. -/
def CoreSt.copyUse (c : CoreSt) : Nat := (c.copyq.filter (fun x => x.result.isNone)).length
/-- The rows of a slice. -/
def Slice.offs (x : Slice) (r : Rec) : List (Nat × Int) := (List.range x.rows).map (fun i => (i, (i : Int) * Rec.stride1 r))

/-- R293, R299: the checks of a slice as a whole, and its rows: source, destination. -/
def State.sliceRows (s : State) (core : Nat) (x : Slice) : Res (List (Nat × List RowPart) × List (Nat × List RowPart)) := do
  let a := x.agent core
  let src ← s.rowsOf a x.src hRead x.rowBytes 4 (x.offs x.src)
  let dst ← s.rowsOf a x.dst hWrite x.rowBytes 4 (x.offs x.dst)
  transFail (rowFails .read src ++ rowFails .write dst)
  .ok (src, dst)

/-- Change a slice. -/
def State.setSlice (s : State) (core id : Nat) (f : Slice → Slice) : State :=
  s.updCore core (fun c => { c with copyq := updWhere (fun x => x.id == id) f c.copyq })

/-- R293: a slice fails. -/
def State.failSlice (s : State) (core : Nat) (x : Slice) (t : TrapReq) : State :=
  ((s.setSlice core x.id (fun x => { x with result := some (some t.code), service := none, snap := [] })).errRec x.tenant 3 x.tid
    t.addr.toNat 0 t.code.num (some core)).defer x.tid t

/-- R293: a failed check of a slice: service, a wait for a carve change, or FAILED. -/
def State.sliceStop (s : State) (core : Nat) (x : Slice) (e : Stop) : State :=
  match e with
  | .trap t =>
    if t.serviced then
      (s.setSlice core x.id (fun x => { x with service := some t })).engineFault core x.tenant x.tid t
    else s.failSlice core x t
  | _ => s

/-- R274: what the parts of a row hold now: key and bytes. -/
def State.partBytes (s : State) (core tenant : Nat) (ps : List RowPart) : State × List (Nat × List Byte) × List DWord :=
  ps.foldl (fun acc p => match p.loc with
    | .ok l =>
      let r := (acc.1.touchPart tenant l p.len false).readLoc core l p.len
      (r.1, acc.2.1 ++ [(l.key, r.2.bytes)], acc.2.2 ++ (l.badAddr r.2.bad).toList)
    | .error _ => acc) (s, [], [])

/-- R274: the bytes of a row of the source; a dropped row reads as zeros (R130). -/
def State.sourceRow (s : State) (core : Nat) (x : Slice) (ps : List RowPart) : State × List Byte × List DWord :=
  if ps.isEmpty then (s, List.replicate x.rowBytes 0, [])
  else
    let r := s.partBytes core x.tenant ps
    (r.1, r.2.1.flatMap (fun p => match getKey p.1 x.snap with
      | some old => r.1.mixUnits p.1 old p.2
      | none => p.2), r.2.2)

/-- R300: a slice's write where an earlier slice of the collective wrote: each aligned unit keeps either value. -/
def State.writeShared (s : State) (core tenant : Nat) (ps : List RowPart) (bs : List Byte) (seen : List (Nat × Nat)) : State :=
  ps.foldl (fun s p => match p.loc with
    | .error _ => s
    | .ok l =>
      let new := ((bs.drop p.off).take p.len).zipIdx.map (fun b =>
        let k := l.key + b.2
        if seen.any (fun r => r.1 ≤ k && k < r.1 + r.2) && s.coin .memoryRace (16 * (k / 4) + 5) then s.peek8 core l.path k
        else b.1)
      s.writePartOf core tenant l new) s

/-- R300, R301: one slice that is not finished and waits for no fault service is read and written, or fails. An engine's accesses
are no requests that R143 counts, which is the model's choice (notes/assumptions/48.md). -/
def State.runSlice (acc : State × List (Nat × Nat)) (core : Nat) (x : Slice) : State × List (Nat × Nat) :=
  let s := acc.1
  if x.result.isSome || x.service.isSome then acc
  else match s.sliceRows core x with
    | .error e => (s.sliceStop core x e, acc.2)
    | .ok (src, dst) =>
      let r := src.foldl (fun (q : State × List (Nat × List Byte) × List DWord) row =>
        let g := q.1.sourceRow core x row.2
        (g.1, q.2.1 ++ [(row.1, g.2.1)], q.2.2 ++ g.2.2)) (s, [], [])
      match lowAddr r.2.2 with
      | some a => (r.1.failSlice core x { code := .poison, addr := a, access := .read }, acc.2)
      | none =>
        let t := dst.foldl (fun s row => s.writeShared core x.tenant row.2 ((getKey row.1 r.2.1).getD []) acc.2) r.1
        let keys := dst.flatMap (fun row => row.2.filterMap (fun p => p.loc.toOption.map (fun l => (l.key, p.len))))
        (t.setSlice core x.id (fun x => { x with result := some none, snap := [] }), acc.2 ++ keys)

/-- R300: the number of the collective of a team that is next, or running. -/
def CoreSt.copyNow (c : CoreSt) (team : Nat) : Option Nat :=
  (c.copyq.filter (fun x => x.team == team)).foldl (fun a x => match a with
    | some n => some (min n x.nth)
    | none => some x.nth) none

/-- R300: has every member of a team given its slice to a collective, left or ended? -/
def CoreSt.copyReady (c : CoreSt) (team nth : Nat) : Bool :=
  match c.teams.find? (fun t => t.id == team) with
  | none => true
  | some t => (List.range t.n).all (fun r => t.gone.contains r || t.copies.any (fun p => p.1 == r && nth < p.2))

/-- R300: a collective starts: one acquire, and every slice is checked. -/
def State.copyStart (s : State) (core team : Nat) : State :=
  match (s.core? core).copyNow team with
  | none => s
  | some nth =>
    let xs := (s.core? core).copyq.filter (fun x => x.team == team && x.nth == nth)
    if !(s.core? core).copyReady team nth || xs.any (·.started) then s
    else
      let scopes := (xs.filter (fun x => modeAcq x.mode)).map (fun x => modeScope x.mode)
      let s := match maxBy (fun (sc : Scope) => (sc.code : Int)) scopes with
        | some sc => s.acquire core sc
        | none => s
      xs.foldl (fun s x =>
        let s := s.setSlice core x.id (fun x => { x with started := true })
        match s.sliceRows core x with
        | .error e => s.sliceStop core x e
        | .ok (src, _) =>
          let r := src.foldl (fun (q : State × List (Nat × List Byte)) row =>
            let g := q.1.partBytes core x.tenant row.2
            (g.1, q.2 ++ g.2.1)) (s, [])
          r.1.setSlice core x.id (fun x => { x with snap := r.2 })) s

/-- R300: a started collective runs; it ends when every slice is DONE or FAILED: each member's release, and its counter. -/
def State.copyComplete (s : State) (core team : Nat) : State :=
  match (s.core? core).copyNow team with
  | none => s
  | some nth =>
    let mine (x : Slice) : Bool := x.team == team && x.nth == nth
    let xs := (s.core? core).copyq.filter mine
    if xs.any (fun x => !x.started) then s
    else
      let s := (xs.foldl (fun acc x => State.runSlice acc core x) (s, [])).1
      let ys := (s.core? core).copyq.filter mine
      if ys.any (fun x => x.result.isNone) then s
      else
        let s := s.updCore core (fun c => { c with copyq := c.copyq.filter (fun x => !mine x) })
        ys.foldl (fun s x =>
          let sc := modeScope x.mode
          let s := if modeRel x.mode then s.release core sc else s
          s.counterOp (x.agent core) (some core) x.tid x.cc 1
            (if modeRel x.mode then some ⟨sc, engineParty core⟩ else none)) s

/-- R300: every collective that may start does. -/
def State.copyStarts (s : State) : State :=
  (s.cores.filter (fun c => !c.copyq.isEmpty)).foldl (fun s c =>
    ((c.copyq.map (·.team)).dedup).foldl (fun s t => s.copyStart c.id t) s) s

/-- R385: a reply to the fault that a slice waits for. -/
def State.replySlice (s : State) (core : Nat) (x : Slice) (page : Nat) (retry : Bool) : State :=
  match x.service with
  | some t =>
    if t.addr.toNat / 2 ^ 16 ≠ page then s
    else if retry then s.setSlice core x.id (fun x => { x with service := none })
    else s.failSlice core x t
  | none => s

end Sys2Proof.Machine
end

