-- ==== Sys2Proof/Machine/Wake.lean ====
section
/-!
DEFINITION. When a parked split's cause has resolved (R207, R232, R243, R256, R296, R186), what it then writes, and the
traps that parked splits take (R220, R292). `State.wakes` (Cycle.lean) asks for all of this after every step.
-/

namespace Sys2Proof.Machine

open Sys2Proof

/-- R247, R270: the acquire of JOIN and FUT.peek, at SYSTEM and never through a tag. -/
def State.joinAcquire (s : State) : State := s.acquire s.here .system

/-- R247: JOIN completes: the image, the predicate, and under JOIN.t the trap of a FAULT cell. -/
def State.joinDone (s : State) (c : BitVec 128) (va : DWord) (rd : Opnd) (pd : PReg) (t : Bool) : State :=
  let img := cellImage c va
  let s := s.joinAcquire
  if t && cellState img = 4 then
    s.late { code := .code (BitVec.ofNat 8 (cellCode img)), addr := cellValue img, fatal := true }
  else (s.wQuad rd img).pwrite pd (if cellState img = 3 then 0xFFFF else 0)

/-- Does JOIN.t trap on the cell? -/
def joinTraps (c : BitVec 128) (va : DWord) (t : Bool) : Bool := t && cellState (cellImage c va) = 4

/-- R256: the status of a seat's await on a DONE record; the header fields are given. -/
def awaitStatus (ctrl : Nat) (cbit rbit : Bool) : Nat :=
  if ctrl.testBit 18 then 3 else if cbit then 4 else if !rbit then 2 else if ctrl.testBit 17 then 1 else 0

/-- R256: what CREW.await writes for a seat of a DONE record. -/
def State.awaitValue (s : State) (c : CrewRef) (seat : Nat) : DWord :=
  let ctrl := s.rdV (c.k0 + 8) 4
  let cb := (s.rdV (c.k0 + 40) 8).testBit seat
  let rb := (s.rdV (c.k0 + 32) 8).testBit seat
  BitVec.ofNat 32 (awaitStatus ctrl cb rb) ++ BitVec.ofNat 32 (s.rdV (c.k2 + 4 * seat) 4)

/-- R256: CREW.await completes on a DONE record. -/
def State.awaitDone (s : State) (c : CrewRef) (seat : Nat) (rd : Opnd) : State :=
  (s.acquire s.here .module).wD rd (s.awaitValue c seat)

/-- R350, R361: a crew becomes DONE: every seat parked in CREW.await on it has its result, wherever its group stands. -/
def State.crewDone (s : State) (c : CrewRef) : State :=
  let give (seat : Nat) (p : Split) : Split := match p.st with
    | .park (.crew d rd none) => if d.k0 = c.k0 then { p with st := .park (.crew d rd (some (s.awaitValue c seat))) } else p
    | _ => p
  let all (g : Group) : Group := { g with splits := g.splits.map (give (tSeat g.record)) }
  { s with g := all s.g, groups := s.groups.map all,
           saves := s.saves.map (fun b => { b with groups := b.groups.map all }) }

/-- R296: the commands listed have all left the queue or finished; the status that MOP.wait writes. -/
def State.mopStatus (s : State) (core : Nat) (ids : List Nat) : Option Word :=
  let cs := (s.core? core).mq.filter (fun m => ids.contains m.id)
  let fin (m : MCmd) : Bool := match m.st with
    | .done | .failed _ _ => true
    | _ => false
  if cs.all fin then
    some (((cs.filterMap (fun m => match m.st with
      | .failed c _ => some (BitVec.ofNat 32 c.num)
      | _ => none)).head?).getD 0)
  else none

/-- R372: time on hold does not count for the watchdog. -/
def Group.pauseClock (g : Group) (time : Nat) : Group := { g with wdogOff := some (g.wdogOff.getD time) }

/-- R372: time under fault service or on hold has ended for a group, if none of its splits is still parked for service and the
group is not on hold. -/
def Group.serviceEnd (g : Group) (time : Nat) : Group :=
  let still := g.hold || g.splits.any (fun p => match p.st with
    | .park (.service _ _) => true
    | _ => false)
  match g.wdogOff with
  | some t => if still then g else { g with wdogMark := (g.wdogMark.1, g.wdogMark.2 + (time - t)), wdogOff := none }
  | none => g

/-- R358, R372: a seat of a crew goes on hold or comes back from it; the watchdog does not count the time between. -/
def Group.setHold (g : Group) (on : Bool) (time : Nat) : Group :=
  if on then { g.pauseClock time with hold := true } else { g with hold := false }.serviceEnd time

/-- R357, R358: is a group a seat of a held crew, on hold? -/
def State.seatHeld (s : State) (g : Group) : Bool :=
  g.hold && tCrew g.record != 0 && s.heldCrews.any (fun h => h.tenant == g.tenant && h.crew.va == tCrew g.record)

/-- R359: restored seats of a crew that has become DONE while it was held go on. -/
def State.freeRestored (s : State) : State :=
  (s.heldCrews.filter (fun h => !h.restored.isEmpty && s.rdV (h.crew.k0 + 8) 4 / 256 % 4 == 3)).foldl (fun s h =>
    let s := { s with heldCrews := updWhere (fun x => x.crew.k0 == h.crew.k0) (fun x => { x with restored := [] }) s.heldCrews,
                      groups := updWhere (fun g => h.restored.contains g.tid) (fun g => g.setHold false s.time) s.groups }
    (h.restored.filter (fun t => (s.groups.any (fun g => g.tid == t && (s.core? g.core).resv.contains (t, true))))).foldl State.rejoin s) s

/-- The storage key of what a parked split waits for, and its bytes, where it stands in memory. -/
def Cause.watches : Cause → Option (Nat × Nat)
  | .join key _ _ _ _ none => some (key, 16)
  | .waitc (some key) _ _ none => some (key, 8)
  | _ => none

/-- R220, R232, R247: the cell is final, or the counter has reached its target: the cause that says so, from what stands in memory
or has been answered. -/
def Cause.met (c : Cause) (bs : List Byte) (t : Option RTag) : Option Cause :=
  match c with
  | .join key va rd pd tr none =>
    let v : BitVec 128 := ofBytes 128 bs
    if cellFinal (cellImage v va) then some (.join key va rd pd tr (some v)) else none
  | .waitc key va target none => if target.toNat ≤ natOfBytes bs then some (.waitc key va target (some t)) else none
  | _ => none

/-- R220: what a split that cannot go on now waits for: it goes on with it as it is now, once it can. -/
def Split.keep (s : State) (p : Split) : Split :=
  match p.st with
  | .park c => (match c.watches with
    | some (k, n) =>
      if !(s.badAt k n).isEmpty then p
      else (match c.met (s.rdN k n) (getKey (k / 8) s.tags) with
        | some d => { p with st := .park d }
        | none => p)
    | none => p)
  | _ => p

/-- R406: a split parked on another module's memory asks for it, again and again, until the answer is what it waits for; the flag
is an answer that came poisoned. -/
def State.pollFar (s : State) (tid : Nat) (p : Split) (c : Cause) (k n : Nat) : State × Bool :=
  match p.asked with
  | none =>
    let r := s.fresh
    (((r.1.updGroup tid (fun g => g.updSplit p.sid (fun p =>
      { p with asked := some ⟨r.2, (sectorsAt k n).map (fun q => (q, none)), []⟩ }))).sendRead
        (((s.group? tid).map (·.tenant)).getD 0) r.2 k n), false)
  | some a =>
    if !a.answered then (s, false)
    else
      let st : SState := match c.met (a.bytes k n) (getKey (k / 8) a.tags) with
        | some d => .park d
        | none => p.st
      if (a.bad k n).isEmpty then (s.updGroup tid (fun g => g.updSplit p.sid (fun p => { p with asked := none, st := st })), false)
      else (s.updGroup tid (fun g => g.updSplit p.sid (fun p => { p with asked := none })), true)

/-- R220: a stopped split that is parked on a cell or a counter keeps it as it comes to what the split waits for. -/
def State.keepWait (s : State) (tid : Nat) (p : Split) : State :=
  match p.st with
  | .park c => (match c.watches with
    | some (k, n) =>
      if farKey k then (s.pollFar tid p c k n).1
      else
        let s := s.settle (k / 64) none
        s.updGroup tid (fun g => g.updSplit p.sid (Split.keep s))
    | none => s)
  | _ => s

/-- Does a storage key lie in near memory that a save block holds now? -/
def State.saved? (s : State) (k : Nat) : Bool :=
  keyNear 0 0 ≤ k && k < keyCellar 0 0 0 &&
    (s.core? (if k < keyAttic 0 0 then (k - keyNear 0 0) / 2 ^ 21 else (k - keyAttic 0 0) / 2 ^ 20)).saved

/-- R220, R376: the same for the parked splits of saved groups. Those parked on another module's memory ask again once they are
restored. -/
def State.keepSaved (s : State) : State :=
  let mine (p : Split) : Bool := match p.st with
    | .park c => c.watches.any (fun k => !farKey k.1 && !s.saved? k.1)
    | _ => false
  let ps := (s.saves.flatMap (fun b => b.groups.flatMap (·.splits))).filter mine
  let keys := ps.filterMap (fun p => match p.st with
    | .park c => c.watches.map (·.1)
    | _ => none)
  let t := keys.foldl (fun s k => s.settle (k / 64) none) s
  let go (p : Split) : Split := if mine p then p.keep t else p
  if ps.isEmpty then s
  else { t with saves := t.saves.map (fun b => { b with groups := b.groups.map (fun g => { g with splits := g.splits.map go }) }) }

/-- Why a stalled split need not stand any longer. -/
def State.stallOver (s : State) (g : Group) (p : Split) : StallCause → Bool
  | .matrix => ((s.core? g.core).mq.filter (fun m => !m.final)).length < 8
  | .copy => (s.core? g.core).copyUse < 16
  | .carve => (s.tdie? g.tenant (dieOf g.core)).change.isNone
  | .flight => !s.inFlight g p.sid
  | .remote => p.asked.all RemoteAsk.answered

/-- R289, R301, R186: the stalled splits of a task that need not stand any longer run again. -/
def State.unstall (s : State) (tid : Nat) : State :=
  match s.group? tid with
  | none => s
  | some g =>
    let go (p : Split) : Split := match p.st with
      | .stall c => if s.stallOver g p c then { p with st := .run } else p
      | _ => p
    if g.splits.any Split.stalled then s.updGroup tid (fun g => { g with splits := g.splits.map go }) else s

/-- R406: a parked split asks another module, and takes POISON where the answer is poisoned. -/
def State.awaitFar (s : State) (tid : Nat) (p : Split) (c : Cause) (k n : Nat) (va : DWord) : State :=
  let r := s.pollFar tid p c k n
  if r.2 then r.1.wake tid p.sid false (fun s => s.latePoison va 1 .read) else r.1

/-- R207: a parked split whose cause has resolved goes on. -/
def State.tryWake (s : State) (tid sid : Nat) : State :=
  match s.group? tid with
  | none => s
  | some g =>
    match g.split? sid with
    | none => s
    | some p =>
      if p.stopped then s.keepWait tid p
      else
        let kind : AccKind := .read
        let bad (s : State) (k n : Nat) (va : DWord) (go : State) : State :=
          match (s.badAt k n).head? with
          | none => go
          | some sec => s.wake tid sid false (fun s =>
              s.latePoison (va + BitVec.ofNat 64 (64 * sec - k)) (s.badAt k n).length kind)
        match p.st with
        | .park (.join key va rd pd t got) =>
          let go (s : State) (c : BitVec 128) : State := s.wake tid sid (!joinTraps c va t) (fun s => s.joinDone c va rd pd t)
          match got with
          | some c => go s c
          | none =>
            if farKey key then s.awaitFar tid p (.join key va rd pd t none) key 16 va
            else
              let s := s.settle (key / 64) none
              let c : BitVec 128 := BitVec.ofNat 128 (s.rdV key 16)
              bad s key 16 va (if cellFinal (cellImage c va) then go s c else s)
        | .park (.waitc (some key) va target got) =>
          let go (s : State) (t : Option RTag) : State := s.wake tid sid true (fun s => s.waitcMet t)
          match got with
          | some t => go s t
          | none =>
            if farKey key then s.awaitFar tid p (.waitc (some key) va target none) key 8 va
            else
              let s := (s.settle (key / 64) none).passHome g.core key 8
              bad s key 8 va (if target.toNat ≤ s.rdV key 8 then go s (getKey (key / 8) s.tags) else s)
        | .park (.bar _ team phase) =>
          -- R220: the phase has ended, or the team is gone (R236)
          if ((s.team? g.core team).map (fun t => t.phase == phase)).getD false then s else s.wake tid sid true (fun s => s)
        | .park (.crew c rd got) =>
          if s.rdV (c.k0 + 8) 4 / 256 % 4 = 3 then
            s.wake tid sid true (fun s => s.awaitDone c (tSeat g.record) rd)
          else match got with
            | some v => s.wake tid sid true (fun s => (s.acquire s.here .module).wD rd v)
            | none => s
        | .park (.mop ids rd) =>
          match s.mopStatus g.core ids with
          | some st => s.wake tid sid true (fun s => s.wS rd st)
          | none => s
        | .park (.carve d) =>
          if (s.tdie? g.tenant d).change.isNone && !s.seatHeld g then s.retry tid sid else s
        | _ => s

/-- R220, R292: a CANCEL that has arrived while no split of the group is on its way to a boundary is taken by the parked
split with the lowest lane. -/
def State.cancelParked (s : State) (tid : Nat) : State :=
  match s.group? tid with
  | none => s
  | some g =>
    if !g.cancel || g.handler.isSome || !g.traps.isEmpty || g.splits.any (fun p => !p.still) then s
    else
      let ps := g.splits.filter (fun p => p.parked || p.joining)
      match maxBy (fun (p : Split) => -((lowLane p.lanes).map (fun l => (l.val : Int))).getD 16) ps with
      | some p => s.raise tid { cancelInfo p with exec := g.execOf p }
      | none => s

/-- R358: a seat held in place on a core that is not pre-empted frees its slot once its group is at rest. -/
def State.setAside (s : State) (tid : Nat) : State :=
  match s.group? tid with
  | none => s
  | some g =>
    let c := s.core? g.core
    if !g.hold || g.slot.isNone || c.preempting || !s.atRest g then s
    else (s.updGroup tid (fun g => { g with slot := none, parkedAt := s.tick, spilled := false })).updCore g.core
      (fun c => { c with resv := (tid, true) :: c.resv })

/-- R196: the record of a hot region. -/
def hotRec (region count epoch time : Nat) (lost written pinned : Bool) : BitVec 512 :=
  BitVec.ofNat 512 (region * 2 ^ 21 + count % 2 ^ 32 * 2 ^ 64 + epoch * 2 ^ 96 + time % 2 ^ 64 * 2 ^ 128 +
    ((if lost then 4 else 0) + (if written then 2 else 0) + (if pinned then 1 else 0)) * 2 ^ 192)

/-- R196, R379: does some page of a region that a tenant's tables map, from a node on with the levels still to read, have
PINNED set? -/
def State.pinnedBelow (s : State) (region : Nat) : (levels : List Nat) → (node : Nat) → Bool
  | [], _ => false
  | lvl :: rest, node => (List.range (if lvl = 3 then 32 else 512)).any (fun i =>
      let e := BitVec.ofNat 64 (s.rdV (node + 8 * i) 8)
      let addr := field e 51 8 * 256
      if !e.getLsbD 0 || pteBad lvl e then false
      else if e.getLsbD 1 then
        let page := if lvl = 1 then 2 ^ 30 else if lvl = 2 then 2 ^ 21 else 2 ^ 16
        e.getLsbD 3 && decide (addr < (region + 1) * 2 ^ 21) && decide (region * 2 ^ 21 < addr + page)
      else State.pinnedBelow s region rest addr)

/-- R196: is some page of a region pinned? -/
def State.regionPinned (s : State) (tenant region : Nat) : Bool :=
  match s.tenant? tenant with
  | some t => s.pinnedBelow region [0, 1, 2, 3] t.ptroot
  | none => false

/-- R196: the records of a tenant's regions that have reached the threshold, one for each region and epoch. -/
def State.hotRecords (s : State) (tenant : Nat) : State :=
  match s.tenant? tenant with
  | none => s
  | some t =>
    match t.tierq with
    | none => s
    | some q =>
      (t.hot.filter (fun h => t.tierTh ≤ h.2.1 && !h.2.2.2.2)).foldl (fun s h =>
        let s := s.clock
        let lost := ((s.tenant? tenant).map (·.tierLost)).getD false
        let pin := h.2.2.2.1 || s.regionPinned tenant h.1
        let n (s : State) : Option Word := (s.queue? q).map (·.prod)
        let t' := (s.pushRecord q (hotRec h.1 h.2.1 t.epochNo.toNat s.time lost h.2.2.1 pin)).1
        t'.updTenant tenant (fun t =>
          { t with tierLost := n t' = n s,
                   hot := updWhere (fun x => x.1 == h.1) (fun x => (x.1, x.2.1, x.2.2.1, pin, true)) t.hot })) s

end Sys2Proof.Machine
end

