-- ==== Sys2Proof/Machine/Fetch.lean ====
section
/-!
DEFINITION. Instruction fetch of the issuing split (R13, R91, R139, R381), positions that a replay skips (R164), and the
set-up that places an instruction where the next step fetches it.
-/

namespace Sys2Proof.Machine

open Sys2Proof

/-- R91: inside a LOOPS body the words come from the loop's own copy. An instruction begun in it whose extension words lie past the
end of the copy is no instruction and traps INVOP, which is the model's choice (notes/assumptions/49.md). -/
def Split.loopWords (p : Split) : Option (List Word) :=
  match p.loop with
  | some l => if l.start ≤ p.pc && p.pc < l.stop then some (l.words.drop ((p.pc - l.start).toNat / 4)) else none
  | none => none

/-- The word at an address, fetched for the issuing split, and the core keeps its fetch copy. A fetch from a poisoned
sector traps POISON, one from an address that is no multiple of 4 traps MISALIGN (notes/assumptions/6.md). -/
def State.fetchAt (s : State) (pc : DWord) : Res (State × Word) :=
  if pc.toNat % 4 ≠ 0 then trapAt .misalign pc .fetch
  else
    match s.translate s.me hFetch true pc with
    | .error (.walk pg) => .error (.walk pg)
    | .error .perm => trapAt .perm pc .fetch
    | .error (.xlate d) => trapAt .xlate pc .fetch d
    | .ok l =>
      if s.poison.contains (l.key / 64) then trapAt .poison pc .fetch
      else
        let s := s.settle (l.key / 64) none
        .ok (s.keepCopy s.here (l.key / 64), s.fetchWord s.here l.key)

/-- Words from an address on. -/
def State.fetchMore (s : State) (pc : DWord) : Nat → Res (State × List Word)
  | 0 => .ok (s, [])
  | n + 1 => do
    let r ← s.fetchAt pc
    let t ← r.1.fetchMore (pc + 4) n
    .ok (t.1, r.2 :: t.2)

/-- Fetch `n` words and decode them. -/
def State.fetchTry (s : State) (pc : DWord) (n : Nat) : Res (State × List Word × Except Reject Instr) := do
  let r ← s.fetchMore pc n
  .ok (r.1, r.2, (decode r.2).map (·.1))

/-- Does a list of words end before the instruction does? -/
def short (r : State × List Word × Except Reject Instr) : Bool :=
  match r.2.2 with
  | .error .truncated => true
  | _ => false

/-- R27, R30: the instruction that a first word begins, with extension words that pass; none where the first word alone traps
INVOP. -/
def headProbe (w : Word) : Option Instr :=
  match decode [w, 4, 0, 0, 0, 0] with
  | .ok (i, _) => if i.accepted && !alwaysInvop i then some i else none
  | .error _ => none

/-- R27, R30: the words at an address that one instruction takes. The first word decides whether it has one word, two, three,
or as many as the count word of BRT and CALLT says; only those words are fetched, and none where the first word traps. -/
def State.fetchWords (s : State) (pc : DWord) : Res (State × List Word) := do
  let r ← s.fetchTry pc 1
  if !short r || ((r.2.1.head?).bind headProbe).isNone then .ok (r.1, r.2.1)
  else
    let r ← s.fetchTry pc 2
    if !short r then .ok (r.1, r.2.1)
    else
      let r ← s.fetchTry pc 3
      if !short r then .ok (r.1, r.2.1)
      else
        let r ← s.fetchTry pc (2 + min 256 (r.2.1.getD 1 0).toNat)
        .ok (r.1, r.2.1)

/-- R27, R91: the instruction at the pc of the issuing split, or none where the words are no instruction. After a trap in
its window the split may issue no further position (R163). -/
def State.fetch (s : State) : Res (State × Option Instr) :=
  if s.sp.tripped && s.coin .trapKnown 1 then .error .halt
  else match s.sp.loopWords with
  | some ws => .ok (s, (decode ws).toOption.map (·.1))
  | none =>
    match s.fetchWords s.sp.pc with
    | .ok r => .ok (r.1, (decode r.2).toOption.map (·.1))
    | .error e =>
      -- R30: the checks of the first word come before what its extension words meet
      match (s.fetchAt s.sp.pc).toOption.bind (fun r => headProbe r.2) with
      | some i => match s.precheck i with
        | .error c => .error c
        | .ok _ => .error e
      | none => .error e

/-- R164: is the position of the issuing split completed, or still in flight, so that a replay does not issue it? -/
def State.skips (s : State) : Bool :=
  let p := s.sp
  p.wcm.getLsbD p.pos || s.loads.any (fun l => l.tid == s.g.tid && l.sid == p.sid && l.pos == p.pos) ||
    (s.core? s.here).mq.any (fun m => m.tid == s.g.tid && m.sid == p.sid && m.pos == p.pos && (match m.op with
      | .rdrow _ _ _ => true
      | _ => false) && (match m.st with
      | .done | .failed _ _ => false
      | _ => true))

/-- R164: a replay goes past a completed position; its effect is not repeated. Behind the last position of the window the
split goes on where that position led. -/
def State.skip (s : State) (i : Instr) : State :=
  let t := s.retire i false none
  let t : State := match t.sp.st, s.sp.wend with
    | .win, some (a, l) => { t with sp := { t.sp with pc := a, after := a, loop := l } }
    | _, _ => t
  t.advance

/-- Rows of the table that no word encodes, and that a step performs when nothing issues. -/
def isEvent (i : Instr) : Bool := i.head.isNone && i != .undefinedEncoding

/-! ## Placing an instruction -/

/-- The words of an instruction of `nbits` bits as bytes, with the zeros that the table leaves out (R26: at most 258 words). -/
def tableBytes (nbits w : Nat) : List Byte := ((tableWords nbits w).take 258).flatMap (fun x => toBytes 4 x)

/-- The tenant, tables and task under which a placed instruction runs: one window over all memory, one 1 GiB page that
maps virtual addresses to the same physical ones, and one undivided group on core 0. -/
def State.fetchBase (s : State) : State :=
  let win : Window := ⟨0, 2 ^ 51, 0, 0, 0, 0, false⟩
  let ten : Tenant := ⟨0, 1, Vector.replicate 9 0, 2 ^ 30, 0, 0, 0, 0, 0, 16, 0x40000, 4096, 1, none, 0, 0, [win], [], [], [],
    0, false, false⟩
  let m := memPutN s.mem (2 ^ 30) (toBytes 8 (BitVec.ofNat 64 (2 ^ 30 + 4096 + 1)))
  let m := memPutN m (2 ^ 30 + 4096) (toBytes 8 (BitVec.ofNat 64 7))
  let rec256 : BitVec 2048 := BitVec.ofNat 2048 (0x100000 + 128 * 2 ^ 128)
  let sp := { Split.init with entry := some 0, lanes := 0xFFFF, pc := 0x100000, wpc := 0x100000, after := 0x100000 }
  let g := { Group.init with tid := 1, slot := some 0, record := rec256, nextSid := 1 }
  let tlb : TlbEntry := ⟨0, 16, 0x100000, 2 ^ 30, 7, false, 0⟩
  let s := s.updCore 0 (fun c => { c with tlb := [tlb], icopy := [] })
  { s with mem := m, tenants := [ten], running := true, g := g, sp := sp, todo := [], nextTid := max s.nextTid 2,
           boot := .running }

/-- An instruction of the opcode table placed where the next step fetches it: at the pc of the issuing split where one
issues and its code page is held, else at the entry of the task that `fetchBase` sets up. -/
def State.placeWord (s : State) (nbits w : Nat) : State :=
  let s := if s.running && (s.translate s.me hFetch true s.sp.pc).toOption.isSome then s else s.fetchBase
  match (s.translate s.me hFetch true s.sp.pc).toOption with
  | some l =>
    { s with mem := memPutN s.mem l.key (tableBytes nbits w) }.updCore s.here (fun c => { c with icopy := [] })
  | none => s

end Sys2Proof.Machine
end

