-- ==== Sys2Proof/Machine/Control.lean ====
section
/-!
DEFINITION. Control transfer (R84, R85, R89, R90), division and merging (R86 to R88), counted loops (R91, R92), EXIT,
YIELD, SINFO, LIVE, the traps a program raises, RFT and SYSC (R93 to R99).
-/

namespace Sys2Proof.Machine

open Sys2Proof

/-- R91, R92: does the issuing split stand inside the body of its loop? -/
def Split.inLoop (p : Split) : Bool :=
  match p.loop with
  | some l => l.start ≤ p.pc && p.pc < l.stop
  | none => false

/-- R83: the address behind an offset. -/
def State.target (s : State) (off : Word) : DWord := s.sp.pc + sext64 off

/-- The address of the next instruction in sequence (R83). -/
def State.nextPc (s : State) (i : Instr) : DWord := s.sp.pc + BitVec.ofNat 64 (4 * i.len)

/-- R84: BR. -/
def execBr (off : Word) (s : State) : Host.Outcome State Fault Refusal :=
  issue (.br off) s (fun s => .ok (.jump s (s.target off)))

/-- R85: BRC. -/
def execBrc (x : Opnd) (test : BTest) (off : Word) (s : State) : Host.Outcome State Fault Refusal :=
  issue (.brc x test off) s (fun s =>
    .ok (if branchTest test (s.pval x) s.sp.lanes then .jump s (s.target off) else .done s))

/-- R86: a family id that no join stack of the group holds. -/
def State.freshFamily (s : State) : BitVec 16 :=
  let used := s.allSplits.flatMap (fun p => p.joins.map (·.2))
  let start := s.free .family 0
  ((List.range (used.length + 1)).map (fun k => BitVec.ofNat 16 (start + k))).find? (fun f => !used.contains f) |>.getD 0

/-- R86, R90: a copy of the issuing split with other lanes and another pc, at the start of a window. -/
def State.child (s : State) (lanes : BitVec 16) (pc : DWord) : Split :=
  { { s.sp with pc := pc }.newWindow with
    sid := s.g.nextSid, lanes := lanes, entry := none, yielded := false, kin := (s.sp.sid, s.tick) :: s.sp.kin }

/-- R87: place a new split of the issuing group. -/
def State.addSplit (s : State) (p : Split) : State :=
  { s with g := { s.g.placeNew s.sp.entry p with nextSid := s.g.nextSid + 1 } }

/-- R205, R86, R90: the splits for which the group has room. -/
def State.room (s : State) : Nat :=
  (8 - (s.allSplits.filter (fun p => p.entry.isSome)).length) + (64 - s.g.ovf.length)

/-- R86: BSPLIT. -/
def execBsplit (x : Opnd) (tgt join : Word) (s : State) : Host.Outcome State Fault Refusal :=
  issue (.bsplit x tgt join) s (fun s => do
    need (!s.sp.handler) .invop
    need (!s.sp.inLoop) .invop
    need (s.sp.joins.length < 16) .splitovf
    let t := s.exec &&& s.pval x
    let rest := s.sp.lanes &&& ~~~t
    need (!(t != 0 && rest != 0 && s.room == 0)) .splitovf
    s.settled
    -- lanes that an earlier position of the window still needs for its replay stay together (R164)
    if s.sp.tripped then .ok (.late s)
    else
    let j := s.target join
    let a := s.target tgt
    let s := { s with sp := { s.sp with joins := (j, s.freshFamily) :: s.sp.joins } }
    if t = 0 then .ok (.done s)
    else if rest = 0 then .ok (.jump s a)
    else
      let s := s.addSplit (s.child t a)
      .ok (.done { s with sp := { s.sp with lanes := rest } }))

/-- R88: SJOIN. -/
def execSjoin (s : State) : Host.Outcome State Fault Refusal :=
  issue .sjoin s (fun s => do
    need (!s.sp.handler) .invop
    need (!s.sp.inLoop) .invop
    match s.sp.joins with
    | [] => trapOf .joinmismatch
    | (j, f) :: _ =>
      need (j == s.sp.pc) .joinmismatch
      s.settled
      if s.sp.wtrap.isSome then .ok (.late s)
      else
        let tid := s.g.tid
        let sp := { s.sp with st := .joinWait j f, entry := none, after := j + 4, wlog := [] }
        let s := ({ s with sp := sp, g := (s.g.absorb s.sp).countWindow s.time }).unfocus
        let old := ((s.group? tid).map (fun g => g.splits.map (·.sid))).getD []
        let s := s.updGroup tid (fun g => (g.refill none).mergeAll s.tick)
        let merged := ((s.group? tid).map (fun g => (g.splits.filter (fun p => p.pc == j + 4 && p.atBoundary &&
          old.contains p.sid)).map (·.sid))).getD []
        let s := merged.foldl (fun s sid => s.atEdge tid sid) s
        .ok (.over ((s.takeTrap tid).giveUp tid)))

/-- R84: push a return address. -/
def State.pushRet (s : State) (a : DWord) : Res State :=
  if s.sp.rets.length < 64 then .ok { s with sp := { s.sp with rets := a :: s.sp.rets } } else trapOf .stack

/-- R84: CALL. -/
def execCall (off : Word) (s : State) : Host.Outcome State Fault Refusal :=
  issue (.call off) s (fun s => do
    need (!s.sp.inLoop) .invop
    let a := s.target off
    let s ← s.pushRet (s.nextPc (.call off))
    .ok (.jump s a))

/-- R84: RET. -/
def execRet (s : State) : Host.Outcome State Fault Refusal :=
  issue .ret s (fun s => do
    need (!s.sp.inLoop) .invop
    match s.sp.rets with
    | [] => trapOf .stack
    | a :: rest => .ok (.jump { s with sp := { s.sp with rets := rest } } a))

/-- R89: the uniform form of BRT and CALLT. -/
def branchTable (i : Instr) (x : Opnd) (targets : List Word) (call : Bool) (s : State) : Res Act := do
  match targets[(s.sval x).toNat]? with
  | none => trapOf .brtarget
  | some t =>
    let a := s.target t
    let s ← if call then s.pushRet (s.nextPc i) else .ok s
    .ok (.jump s a)

/-- The distinct numbers of a list, each where it first stands. -/
def firstSeen (l : List Nat) : List Nat := l.foldl (fun acc x => if acc.contains x then acc else acc ++ [x]) []

/-- R90: the distinct target sets of a lane-varying branch, ordered by lowest lane. -/
def laneSets (e : BitVec 16) (v : Vector Word 16) : List (Nat × BitVec 16) :=
  (firstSeen ((lanesOf e).map (fun l => v[l].toNat))).map
    (fun k => (k, maskOf (fun l => e.getLsbD l.val && v[l].toNat == k)))

/-- R90: the lane-varying form of BRT and CALLT. -/
def branchLanes (i : Instr) (x : Opnd) (targets : List Word) (call : Bool) (s : State) : Res Act := do
  need (!s.sp.handler) .invop
  need (!s.sp.inLoop) .invop
  let e := s.exec
  if e = 0 then .ok (.done s)
  else do
    let v ← s.rawRead false x
    need ((lanesOf e).all (fun l => v[l].toNat < targets.length)) .brtarget
    let gs := laneSets e v
    let fall := s.sp.lanes &&& ~~~e
    let new := if fall = 0 then gs.length - 1 else gs.length
    need (new ≤ s.room) .splitovf
    need (!(call && s.sp.rets.length ≥ 64)) .stack
    s.settled
    if s.sp.tripped then .ok (.late s)
    else
    let seq := s.nextPc i
    let rets := if call then seq :: s.sp.rets else s.sp.rets
    let addr (k : Nat) : DWord := s.target (targets.getD k 0)
    let place (s : State) (g : Nat × BitVec 16) : State := s.addSplit { s.child g.2 (addr g.1) with rets := rets }
    if fall ≠ 0 then
      let s := gs.foldl place s
      .ok (.done { s with sp := { s.sp with lanes := fall } })
    else match gs with
      | [] => .ok (.done s)
      | g :: rest =>
        let s := rest.foldl place s
        .ok (.jump { s with sp := { s.sp with lanes := g.2, rets := rets } } (addr g.1))

/-- R89, R90: is the index of BRT and CALLT a vector? -/
def isVec : Opnd → Bool
  | .v _ => true
  | _ => false

/-- R89, R90: BRT. -/
def execBrt (x : Opnd) (targets : List Word) (s : State) : Host.Outcome State Fault Refusal :=
  issue (.brt x targets) s (fun s =>
    if isVec x then branchLanes (.brt x targets) x targets false s else branchTable (.brt x targets) x targets false s)

/-- R89, R90: CALLT. -/
def execCallt (x : Opnd) (targets : List Word) (s : State) : Host.Outcome State Fault Refusal :=
  issue (.callt x targets) s (fun s => do
    need (!s.sp.inLoop) .invop
    if isVec x then branchLanes (.callt x targets) x targets true s else branchTable (.callt x targets) x targets true s)

/-! ## Counted loops -/

/-- R91: the words of a body instruction by the length that R27 gives it; a word that would trap INVOP counts as one. -/
def bodyWords (ws : List Word) : List Word :=
  match decode ws with
  | .ok (i, _) => if i.accepted && !alwaysInvop i then ws.take i.len else ws.take 1
  | .error _ => ws.take 1

/-- R91: measure a body of `n` instructions at an address: its words, fetched as instructions are. A word that cannot be fetched makes
the LOOPS trap, whatever its count, which is the model's choice (notes/assumptions/49.md). -/
def State.measure (s : State) (pc : DWord) : Nat → Res (State × List Word)
  | 0 => .ok (s, [])
  | n + 1 => do
    let r ← s.fetchWords pc
    let ws := bodyWords r.2
    let t ← r.1.measure (pc + BitVec.ofNat 64 (4 * ws.length)) n
    .ok (t.1, ws ++ t.2)

/-- R91: LOOPS. -/
def execLoops (x : Opnd) (len : Word) (s : State) : Host.Outcome State Fault Refusal :=
  issue (.loops x len) s (fun s => do
    need (!s.sp.inLoop) .invop
    let start := s.nextPc (.loops x len)
    let r ← s.measure start len.toNat
    let s := r.1
    let stop := start + BitVec.ofNat 64 (4 * r.2.length)
    let n := (s.sval x).toNat
    if n = 0 then .ok (.jump s stop)
    else .ok (.jump { s with sp := { s.sp with loop := some ⟨n, start, stop, r.2⟩ } } start))

/-! ## Ending lanes and yielding -/

/-- R93: EXIT. -/
def execExit (s : State) : Host.Outcome State Fault Refusal :=
  issue .exit s (fun s => do
    need (!s.sp.handler) .invop
    let lanes := s.sp.lanes &&& ~~~s.exec
    if s.sp.tripped then .ok (.late s)
    else if lanes ≠ 0 then .ok (.done { s with sp := { s.sp with lanes := lanes } })
    else do
      s.settled
      let others := s.g.splits.any (fun p => !p.handler && p.lanes != 0)
      if others && s.sp.wtrap.isSome then .ok (.late s)
      else
        let tid := s.g.tid
        let v : DWord := s.getD 0
        let s := { s with sp := { s.sp with lanes := 0 }, g := (s.g.absorb s.sp).countWindow s.time }
        let sid := s.sp.sid
        let s := s.unfocus
        if !others then .ok (.over (s.endTask tid (.sig v)))
        else
          let s := s.updGroup tid (fun g =>
            ({ g with splits := g.splits.filter (fun p => p.sid != sid) }.refill none).mergeAll s.tick)
          .ok (.over (((s.arriveAll tid).takeTrap tid).giveUp tid)))

/-- R94: YIELD. -/
def execYield (s : State) : Host.Outcome State Fault Refusal :=
  issueDone .yield s (fun s => .ok { s with sp := { s.sp with yielded := true }, g := { s.g with giveWay := true } })

/-! ## SINFO and LIVE -/

/-- R95: SINFO.lanes. -/
def execSinfoLanes (sb : Bool) (x : Opnd) (s : State) : Host.Outcome State Fault Refusal :=
  issueDone (.sinfoLanes sb x) s (fun s => .ok (s.wS x (s.sp.lanes.setWidth 32)))
/-- R95: SINFO.exec. -/
def execSinfoExec (sb : Bool) (x : Opnd) (s : State) : Host.Outcome State Fault Refusal :=
  issueDone (.sinfoExec sb x) s (fun s => .ok (s.wS x (s.exec.setWidth 32)))
/-- R95, R213: SINFO.count; the handler is not counted. -/
def execSinfoCount (sb : Bool) (x : Opnd) (s : State) : Host.Outcome State Fault Refusal :=
  issueDone (.sinfoCount sb x) s (fun s => .ok (s.wS x (BitVec.ofNat 32
    ((s.allSplits.filter (fun p => !p.handler && p.lanes != 0)).length))))
/-- R95, R213: SINFO.id. -/
def execSinfoId (sb : Bool) (x : Opnd) (s : State) : Host.Outcome State Fault Refusal :=
  issueDone (.sinfoId sb x) s (fun s => .ok (s.wS x (match s.g.entryOf s.sp with
    | some e => BitVec.ofNat 32 e
    | none => 0xFFFFFFFF)))
/-- R95: SINFO.depth. -/
def execSinfoDepth (sb : Bool) (x : Opnd) (s : State) : Host.Outcome State Fault Refusal :=
  issueDone (.sinfoDepth sb x) s (fun s => .ok (s.wS x (BitVec.ofNat 32 s.sp.joins.length)))
/-- R95: SINFO.ovf. -/
def execSinfoOvf (sb : Bool) (x : Opnd) (s : State) : Host.Outcome State Fault Refusal :=
  issueDone (.sinfoOvf sb x) s (fun s => .ok (s.wS x (BitVec.ofNat 32 s.g.ovf.length)))

/-- R96, R167: a register is dead: every lane zero, tag DEAD, and its row is free. -/
def State.killV (s : State) (n : Nat) : State :=
  let s := s.write (.v n) 0xFFFF (.v VRow.init) false
  { s with g := { s.g with absent := if s.g.absent.contains n then s.g.absent else n :: s.g.absent } }

/-- R96, R167: LIVE.dead. -/
def execLiveDead (sb : Bool) (b : VReg) (n : Byte) (s : State) : Host.Outcome State Fault Refusal :=
  issueDone (.liveDead sb b n) s (fun s => .ok ((List.range n.toNat).foldl (fun s k => s.killV (b.val + k)) s))

/-- R96, R167: LIVE.fetch asks for rows and changes no visible state. -/
def execLiveFetch (sb : Bool) (b : VReg) (n : Byte) (s : State) : Host.Outcome State Fault Refusal :=
  issueDone (.liveFetch sb b n) s (fun s =>
    let t := { s with g := { s.g with absent := s.g.absent.filter (fun r => !(b.val ≤ r && r < b.val + n.toNat)) } }
    .ok (t.wide (fun u => u.makeRoom s.here (s.g.tid, b.val))))

/-! ## Traps, RFT and SYSC -/

/-- R97: TRAP raises USER. -/
def execTrap (x : Opnd) (c : Byte) (s : State) : Host.Outcome State Fault Refusal :=
  issue (.trap x c) s (fun s => .error (.trap { code := .user, addr := (s.sval x).setWidth 64, detail := c }))

/-- R97: BKPT raises BKPT. -/
def execBkpt (c : Byte) (s : State) : Host.Outcome State Fault Refusal :=
  issue (.bkpt c) s (fun _ => .error (.trap { code := .bkpt, detail := c }))

/-- R98, R367: RFT completes the handler's last window and returns. -/
def execRft (s : State) : Host.Outcome State Fault Refusal :=
  issue .rft s (fun s => do
    match s.g.handler with
    | some hs =>
      need s.sp.handler .invop
      s.settled
      if s.sp.wtrap.isSome then .ok (.late s)
      else
        let h := s.sp
        let tid := s.g.tid
        let s := ({ s with g := s.g.countWindow s.time }).unfocus
        .ok (.over (match s.group? tid with
          | some g => s.returnFromTrap g h hs
          | none => s))
    | none => trapOf .invop)

/-- R99: SYSC sends its number and s0 to s7 to the front end and parks. -/
def execSysc (x : Opnd) (s : State) : Host.Outcome State Fault Refusal :=
  issue (.sysc x) s (fun s => .ok (.park s (.sysc (s.sval x) ((List.range 8).map (fun n => s.getS n)))))

end Sys2Proof.Machine
end

