-- ==== Sys2Proof/Machine/Scalar.lean ====
section
/-!
DEFINITION. Scalar, affine, predicate and mode instructions (R67 to R81). Each executes once for the issuing split,
whatever its execute mask (R62).
-/

namespace Sys2Proof.Machine

open Sys2Proof

/-- R14: NOP does nothing. -/
def execNop (sb : Bool) (s : State) : Host.Outcome State Fault Refusal :=
  issueDone (.nop sb) s (fun s => .ok s)

/-- R67: the tag MOV gives its destination, and the bits it copies. -/
def movSource (s : State) (y : Opnd) : Res (Vector Word 16 × Tag) :=
  match y with
  | .v n =>
    let r := s.getV n
    match r.tag with
    | .poison => .error (.trap { code := .poison, addr := r.paddr })
    | .invalid => trapOf .tagmismatch
    | .dead => .ok (Vector.replicate 16 0, .fmt .raw32)
    | .fmt f => .ok (r.lanes, .fmt f)
  | y => if foneBad (modeFmt s.mode) y then trapOf .invop else .ok (s.lanesOfOpnd (modeFmt s.mode) y, .fmt .raw32)

/-- R67: MOV. -/
def execMov (sb : Bool) (x y : Opnd) (s : State) : Host.Outcome State Fault Refusal :=
  issueDone (.mov sb x y) s (fun s =>
    match x with
    | .s n => .ok (s.setS n (s.sval y))
    | x =>
      if s.exec = 0 then .ok s
      else do
        let r ← movSource s y
        .ok (s.wVO x s.exec (fun l => r.1[l]) r.2))

/-- R65, R68: a scalar instruction of form D. -/
def scalarD (i : Instr) (x y z : Opnd) (f : Word → Word → Word) (s : State) : Host.Outcome State Fault Refusal :=
  issueDone i s (fun s => .ok (s.wS x (f (s.sval y) (s.sval z))))

/-- R68: the amount of a 32-bit scalar shift. -/
def shAmt (b : Word) : Nat := b.toNat % 64

/-- R68: SADD. -/
def execSadd (sb : Bool) (x y z : Opnd) (s : State) : Host.Outcome State Fault Refusal :=
  scalarD (.sadd sb x y z) x y z (fun a b => a + b) s

/-- R68: SSUB. -/
def execSsub (sb : Bool) (x y z : Opnd) (s : State) : Host.Outcome State Fault Refusal :=
  scalarD (.ssub sb x y z) x y z (fun a b => a - b) s

/-- R68: SMUL. -/
def execSmul (sb : Bool) (x y z : Opnd) (s : State) : Host.Outcome State Fault Refusal :=
  scalarD (.smul sb x y z) x y z (fun a b => a * b) s

/-- R68: SMULH. -/
def execSmulh (sb : Bool) (x y z : Opnd) (s : State) : Host.Outcome State Fault Refusal :=
  scalarD (.smulh sb x y z) x y z (fun a b => BitVec.ofInt 32 ((a.toInt * b.toInt) / 2 ^ 32)) s

/-- R68: SMULHU. -/
def execSmulhu (sb : Bool) (x y z : Opnd) (s : State) : Host.Outcome State Fault Refusal :=
  scalarD (.smulhu sb x y z) x y z (fun a b => BitVec.ofNat 32 (a.toNat * b.toNat / 2 ^ 32)) s

/-- R68: SAND. -/
def execSand (sb : Bool) (x y z : Opnd) (s : State) : Host.Outcome State Fault Refusal :=
  scalarD (.sand sb x y z) x y z (fun a b => a &&& b) s

/-- R68: SOR. -/
def execSor (sb : Bool) (x y z : Opnd) (s : State) : Host.Outcome State Fault Refusal :=
  scalarD (.sor sb x y z) x y z (fun a b => a ||| b) s

/-- R68: SXOR. -/
def execSxor (sb : Bool) (x y z : Opnd) (s : State) : Host.Outcome State Fault Refusal :=
  scalarD (.sxor sb x y z) x y z (fun a b => a ^^^ b) s

/-- R68: SSHL. -/
def execSshl (sb : Bool) (x y z : Opnd) (s : State) : Host.Outcome State Fault Refusal :=
  scalarD (.sshl sb x y z) x y z (fun a b => if 32 ≤ shAmt b then 0 else a <<< shAmt b) s

/-- R68: SSHR. -/
def execSshr (sb : Bool) (x y z : Opnd) (s : State) : Host.Outcome State Fault Refusal :=
  scalarD (.sshr sb x y z) x y z (fun a b => if 32 ≤ shAmt b then 0 else a >>> shAmt b) s

/-- R68: SSAR. -/
def execSsar (sb : Bool) (x y z : Opnd) (s : State) : Host.Outcome State Fault Refusal :=
  scalarD (.ssar sb x y z) x y z (fun a b => a.sshiftRight (min 31 (shAmt b))) s

/-- R68: SMIN. -/
def execSmin (sb : Bool) (x y z : Opnd) (s : State) : Host.Outcome State Fault Refusal :=
  scalarD (.smin sb x y z) x y z (fun a b => if a.slt b then a else b) s

/-- R68: SMAX. -/
def execSmax (sb : Bool) (x y z : Opnd) (s : State) : Host.Outcome State Fault Refusal :=
  scalarD (.smax sb x y z) x y z (fun a b => if a.slt b then b else a) s

/-- R68: SMINU. -/
def execSminu (sb : Bool) (x y z : Opnd) (s : State) : Host.Outcome State Fault Refusal :=
  scalarD (.sminu sb x y z) x y z (fun a b => if a.ult b then a else b) s

/-- R68: SMAXU. -/
def execSmaxu (sb : Bool) (x y z : Opnd) (s : State) : Host.Outcome State Fault Refusal :=
  scalarD (.smaxu sb x y z) x y z (fun a b => if a.ult b then b else a) s

/-- R69: a unary scalar instruction. -/
def scalarU (i : Instr) (x y : Opnd) (f : Word → Word) (s : State) : Host.Outcome State Fault Refusal :=
  issueDone i s (fun s => .ok (s.wS x (f (s.sval y))))

/-- R69, R121: bit i to bit 31 − i. -/
def bitRev (a : Word) : Word :=
  BitVec.ofNat 32 ((List.range 32).foldl (fun acc i => if a.getLsbD i then acc + 2 ^ (31 - i) else acc) 0)

/-- R69: SUN.not. -/
def execSunNot (sb : Bool) (x y : Opnd) (s : State) : Host.Outcome State Fault Refusal :=
  scalarU (.sunNot sb x y) x y (fun a => ~~~a) s

/-- R69: SUN.neg. -/
def execSunNeg (sb : Bool) (x y : Opnd) (s : State) : Host.Outcome State Fault Refusal :=
  scalarU (.sunNeg sb x y) x y (fun a => -a) s

/-- R69: SUN.abs. -/
def execSunAbs (sb : Bool) (x y : Opnd) (s : State) : Host.Outcome State Fault Refusal :=
  scalarU (.sunAbs sb x y) x y (fun a => if a.msb then -a else a) s

/-- R69: SUN.clz. -/
def execSunClz (sb : Bool) (x y : Opnd) (s : State) : Host.Outcome State Fault Refusal :=
  scalarU (.sunClz sb x y) x y (fun a => BitVec.ofNat 32 (clzNat 32 a.toNat)) s

/-- R69: SUN.ctz. -/
def execSunCtz (sb : Bool) (x y : Opnd) (s : State) : Host.Outcome State Fault Refusal :=
  scalarU (.sunCtz sb x y) x y (fun a => BitVec.ofNat 32 (ctzNat 32 a.toNat)) s

/-- R69: SUN.popc. -/
def execSunPopc (sb : Bool) (x y : Opnd) (s : State) : Host.Outcome State Fault Refusal :=
  scalarU (.sunPopc sb x y) x y (fun a => BitVec.ofNat 32 (popc a)) s

/-- R69: SUN.brev. -/
def execSunBrev (sb : Bool) (x y : Opnd) (s : State) : Host.Outcome State Fault Refusal :=
  scalarU (.sunBrev sb x y) x y (fun a => bitRev a) s

/-- R69: SUN.bswap. -/
def execSunBswap (sb : Bool) (x y : Opnd) (s : State) : Host.Outcome State Fault Refusal :=
  scalarU (.sunBswap sb x y) x y (fun a => ofBytes 32 (toBytes 4 a).reverse) s

/-- R69: SUN.sext8. -/
def execSunSext8 (sb : Bool) (x y : Opnd) (s : State) : Host.Outcome State Fault Refusal :=
  scalarU (.sunSext8 sb x y) x y (fun a => (a.setWidth 8).signExtend 32) s

/-- R69: SUN.sext16. -/
def execSunSext16 (sb : Bool) (x y : Opnd) (s : State) : Host.Outcome State Fault Refusal :=
  scalarU (.sunSext16 sb x y) x y (fun a => (a.setWidth 16).signExtend 32) s

/-- R69: SUN.zext8. -/
def execSunZext8 (sb : Bool) (x y : Opnd) (s : State) : Host.Outcome State Fault Refusal :=
  scalarU (.sunZext8 sb x y) x y (fun a => a &&& 0xFF) s

/-- R69: SUN.zext16. -/
def execSunZext16 (sb : Bool) (x y : Opnd) (s : State) : Host.Outcome State Fault Refusal :=
  scalarU (.sunZext16 sb x y) x y (fun a => a &&& 0xFFFF) s

/-- R70: position, width and mask of a bit field. -/
def bfPos (c : Word) : Nat := field c 4 0
/-- R70: the width of the field, cut at bit 31. -/
def bfLen (c : Word) : Nat := min (bfPos c + field c 12 8) 31 - bfPos c + 1
/-- R70: ones in the field. -/
def bfMask (c : Word) : Word := BitVec.ofNat 32 ((2 ^ bfLen c - 1) * 2 ^ bfPos c)
/-- R70: the field that SBFX extracts. -/
def bfExtract (y c : Word) : Word :=
  let f := (y &&& bfMask c) >>> bfPos c
  if c.getLsbD 16 && f.getLsbD (bfLen c - 1) then f ||| ~~~(BitVec.ofNat 32 (2 ^ bfLen c - 1)) else f
/-- R70: the word with a field inserted. -/
def bfInsert (x y c : Word) : Word := (x &&& ~~~(bfMask c)) ||| ((y <<< bfPos c) &&& bfMask c)

/-- R70: SBFX. -/
def execSbfx (sb : Bool) (x y z : Opnd) (s : State) : Host.Outcome State Fault Refusal :=
  scalarD (.sbfx sb x y z) x y z bfExtract s

/-- R70: SBFI reads X, then writes it. -/
def execSbfi (sb : Bool) (x y z : Opnd) (s : State) : Host.Outcome State Fault Refusal :=
  issueDone (.sbfi sb x y z) s (fun s => .ok (s.wS x (bfInsert (s.sval x) (s.sval y) (s.sval z))))

/-- R71: SCMP. -/
def execScmp (sb : Bool) (cond : Cond) (pd : PReg) (y z : Opnd) (s : State) : Host.Outcome State Fault Refusal :=
  issueDone (.scmp sb cond pd y z) s (fun s =>
    match condInt false cond (s.sval y) (s.sval z) with
    | none => trapOf .invop
    | some b => .ok (s.pwrite pd (if b then 0xFFFF else 0)))

/-- R72: SSEL. -/
def execSsel (sb : Bool) (x y z : Opnd) (s : State) : Host.Outcome State Fault Refusal :=
  issueDone (.ssel sb x y z) s (fun s => .ok (if s.pval y &&& s.sp.lanes != 0 then s.wS x (s.sval z) else s))

/-- R73: a 64-bit instruction over pairs. -/
def pairD (i : Instr) (x : Opnd) (s : State) (f : State → DWord) : Host.Outcome State Fault Refusal :=
  issueDone i s (fun s => .ok (s.wD x (f s)))

/-- R73: the amount of a 64-bit shift. -/
def shAmt64 (b : Word) : Nat := b.toNat % 128

/-- R73: DADD. -/
def execDadd (sb : Bool) (x y z : Opnd) (s : State) : Host.Outcome State Fault Refusal :=
  pairD (.dadd sb x y z) x s (fun s => s.dval y + s.dval z)
/-- R73: DSUB. -/
def execDsub (sb : Bool) (x y z : Opnd) (s : State) : Host.Outcome State Fault Refusal :=
  pairD (.dsub sb x y z) x s (fun s => s.dval y - s.dval z)
/-- R73: DSHL. -/
def execDshl (sb : Bool) (x y z : Opnd) (s : State) : Host.Outcome State Fault Refusal :=
  pairD (.dshl sb x y z) x s (fun s => if 64 ≤ shAmt64 (s.sval z) then 0 else s.dval y <<< shAmt64 (s.sval z))
/-- R73: DSHR. -/
def execDshr (sb : Bool) (x y z : Opnd) (s : State) : Host.Outcome State Fault Refusal :=
  pairD (.dshr sb x y z) x s (fun s => if 64 ≤ shAmt64 (s.sval z) then 0 else s.dval y >>> shAmt64 (s.sval z))

/-- R74: an affine instruction. -/
def affineD (i : Instr) (x : Opnd) (s : State) (f : State → Affine) : Host.Outcome State Fault Refusal :=
  issueDone i s (fun s => .ok (s.wA x (f s)))

/-- R74: does an operand stand in an affine position? ZERO reads the same either way. -/
def isAffine : Opnd → Bool
  | .a _ => true
  | _ => false

/-- R74: AMOV. -/
def execAmov (sb : Bool) (x y : Opnd) (s : State) : Host.Outcome State Fault Refusal :=
  affineD (.amov sb x y) x s (fun s => s.aval y)
/-- R74: AADD. -/
def execAadd (sb : Bool) (x y z : Opnd) (s : State) : Host.Outcome State Fault Refusal :=
  affineD (.aadd sb x y z) x s (fun s =>
    let a := s.aval y
    if isAffine z then ⟨a.base + (s.aval z).base, a.stride + (s.aval z).stride⟩ else ⟨a.base + sext64 (s.sval z), a.stride⟩)
/-- R74: ASCL. -/
def execAscl (sb : Bool) (x y z : Opnd) (s : State) : Host.Outcome State Fault Refusal :=
  affineD (.ascl sb x y z) x s (fun s => ⟨(s.aval y).base * sext64 (s.sval z), (s.aval y).stride * s.sval z⟩)
/-- R74: ASHL. -/
def execAshl (sb : Bool) (x y z : Opnd) (s : State) : Host.Outcome State Fault Refusal :=
  affineD (.ashl sb x y z) x s (fun s =>
    let n := shAmt (s.sval z)
    ⟨(s.aval y).base <<< n, if 32 ≤ n then 0 else (s.aval y).stride <<< n⟩)
/-- R74: AEXP. -/
def execAexp (sb : Bool) (x y z : Opnd) (s : State) : Host.Outcome State Fault Refusal :=
  affineD (.aexp sb x y z) x s (fun s => ⟨s.dval y, s.sval z⟩)
/-- R75: AGET. -/
def execAget (sb : Bool) (x y : Opnd) (part : APart) (s : State) : Host.Outcome State Fault Refusal :=
  issueDone (.aget sb x y part) s (fun s =>
    match part with
    | .base => .ok (s.wD x (s.aval y).base)
    | .stride => .ok (s.wS x (s.aval y).stride))

/-- R76, R77: an instruction that writes a predicate. -/
def predD (i : Instr) (x : Opnd) (s : State) (f : State → BitVec 16) : Host.Outcome State Fault Refusal :=
  issueDone i s (fun s => .ok (s.wP x (f s)))

/-- R76: PAND. -/
def execPand (sb : Bool) (x y z : Opnd) (s : State) : Host.Outcome State Fault Refusal :=
  predD (.pand sb x y z) x s (fun s => s.pval y &&& s.pval z)
/-- R76: POR. -/
def execPor (sb : Bool) (x y z : Opnd) (s : State) : Host.Outcome State Fault Refusal :=
  predD (.por sb x y z) x s (fun s => s.pval y ||| s.pval z)
/-- R76: PXOR. -/
def execPxor (sb : Bool) (x y z : Opnd) (s : State) : Host.Outcome State Fault Refusal :=
  predD (.pxor sb x y z) x s (fun s => s.pval y ^^^ s.pval z)
/-- R76: PMOV. -/
def execPmov (sb : Bool) (x y : Opnd) (s : State) : Host.Outcome State Fault Refusal :=
  predD (.pmov sb x y) x s (fun s => s.pval y)

/-- R77: the lowest set bit alone. -/
def lowBit (m : BitVec 16) : BitVec 16 := m &&& (0 - m)
/-- R77: the highest set bit alone. -/
def highBit (m : BitVec 16) : BitVec 16 := if m = 0 then 0 else laneBit (Nat.log2 m.toNat)

/-- R77: PUN.not. -/
def execPunNot (sb : Bool) (x y : Opnd) (s : State) : Host.Outcome State Fault Refusal :=
  predD (.punNot sb x y) x s (fun s => ~~~(s.pval y))
/-- R77: PUN.first. -/
def execPunFirst (sb : Bool) (x y : Opnd) (s : State) : Host.Outcome State Fault Refusal :=
  predD (.punFirst sb x y) x s (fun s => lowBit (s.pval y))
/-- R77: PUN.last. -/
def execPunLast (sb : Bool) (x y : Opnd) (s : State) : Host.Outcome State Fault Refusal :=
  predD (.punLast sb x y) x s (fun s => highBit (s.pval y))
/-- R77: PUN.set. -/
def execPunSet (sb : Bool) (x y : Opnd) (s : State) : Host.Outcome State Fault Refusal :=
  predD (.punSet sb x y) x s (fun s => (s.sval y).setWidth 16)
/-- R77: PUN.get. -/
def execPunGet (sb : Bool) (x y : Opnd) (s : State) : Host.Outcome State Fault Refusal :=
  issueDone (.punGet sb x y) s (fun s => .ok (s.wS x ((s.pval y).setWidth 32)))
/-- R77: PUN.cnt. -/
def execPunCnt (sb : Bool) (x y : Opnd) (s : State) : Host.Outcome State Fault Refusal :=
  issueDone (.punCnt sb x y) s (fun s => .ok (s.wS x (BitVec.ofNat 32 (popc (s.pval y)))))

/-- R79: SETM. -/
def execSetm (sb : Bool) (x : Opnd) (mask : BitVec 10) (s : State) : Host.Outcome State Fault Refusal :=
  issueDone (.setm sb x mask) s (fun s =>
    let v := s.sval x
    let new := modeMerge s.mode v mask
    if field v 31 20 ≠ 0 ∨ !modeLegal new then trapOf .modeval else .ok (s.setMode new))

/-- R81: GETM. -/
def execGetm (sb : Bool) (x : Opnd) (s : State) : Host.Outcome State Fault Refusal :=
  issueDone (.getm sb x) s (fun s => .ok (s.wS x s.mode))

end Sys2Proof.Machine
end

