-- ==== Sys2Proof/Machine/Vector.lean ====
section
/-!
DEFINITION. Vector and lane instructions (R103 to R125, R58, R59). Each computes under the execute mask; under a zero mask
it has the fate that R103 names.
-/

namespace Sys2Proof.Machine

open Sys2Proof

/-! ## The element-wise pattern (R104) -/

/-- R105: the formats of arithmetic. -/
def fmtArith (f : Fmt) : Bool := f.isInt || f.isFloat
/-- R105: the packed formats that PACK and UNPK accept. -/
def fmtPacked (f : Fmt) : Bool := 1 < f.elems
/-- R103 to R105: nothing under a zero mask, INVOP under a format the instruction does not accept. -/
def State.vecOp (s : State) (ok : Fmt → Bool) (body : Fmt → Res State) : Res State :=
  if s.exec = 0 then .ok s else if ok (modeFmt s.mode) then body (modeFmt s.mode) else trapOf .invop

/-- The elements of one lane in increasing index, the LFSR stepping from one to the next (R54). -/
def runElems (op : Nat → Word → Rounded) (s : Word) (n : Nat) : List Nat × Bool × Word :=
  (List.range n).foldl (fun acc i =>
    let r := op i acc.2.2
    (acc.1 ++ [r.bits], acc.2.1 || r.sat, r.lfsr)) ([], false, s)

/-- `n` elements of each lane of the execute mask (R54, R104). -/
def State.runLanes (s : State) (n : Nat) (op : Fin 16 → Nat → Word → Rounded) : Vector (List Nat × Bool × Word) 16 :=
  Vector.ofFn (fun l => if s.exec.getLsbD l.val then runElems (op l) s.g.lfsr[l] n else ([], false, s.g.lfsr[l]))

/-- Write the registers of a destination group: register `j` of the group takes elements j × n to j × n + n − 1. -/
def State.writeGroup (s : State) (x : Opnd) (k : Nat) (f : Fmt) (tag : Tag) (es : Fin 16 → List Nat) : State :=
  match x with
  | .v d => (List.range k).foldl (fun s j =>
      s.wV (d.val + j) s.exec (fun l => packElems f (((es l).drop (j * f.elems)).take f.elems)) tag (2 ≤ k)) s
  | _ => s

/-- What a computation leaves: LFSRs, STATUS, and the destination group of `k` registers. -/
def State.putLanes (s : State) (x : Opnd) (k : Nat) (f : Fmt) (st : BitVec 4) (r : Vector (List Nat × Bool × Word) 16) :
    State :=
  let sat := (List.finRange 16).any (fun l => r[l].2.1)
  ((s.setLfsr (vmap (fun x => x.2.2) r)).setStatus (st ||| satIf sat)).writeGroup x k f (.fmt f) (fun l => r[l].1)

/-- Element `i` of a lane as an operand: FTZ flushes a subnormal (R51). -/
def fpIn (f : Fmt) (c : RCtx) (w : Word) (i : Nat) : FVal := flushIn f c.ftz (fdecode f (elem f w i))

/-- Integer results that wrap, or clamp under SAT (R56). -/
def intRounded (f : Fmt) (c : RCtx) (s : Word) (x : Int) : Rounded :=
  let r := intResult f c.sat x
  ⟨r.1.toNat, r.2, s⟩

/-- R104, R106: two sources. -/
def State.arith2 (s : State) (x y z : Opnd) (ff : RCtx → FVal → FVal → FVal) (fi : Int → Int → Int) : Res State :=
  s.vecOp fmtArith (fun f => do
    let a ← s.tagcheck f y
    let b ← s.tagcheck f z
    let c := modeR s.mode
    let op (l : Fin 16) (i : Nat) (t : Word) : Rounded :=
      if f.isFloat then fround f c t (ff c (fpIn f c a.1[l] i) (fpIn f c b.1[l] i))
      else intRounded f c t (fi (intVal f a.1[l]) (intVal f b.1[l]))
    .ok (s.putLanes x 1 f (a.2 ||| b.2) (s.runLanes f.elems op)))

/-- R104, R106: VFMA and VFMS, which read X first. -/
def State.arith3 (s : State) (x y z : Opnd) (ff : RCtx → FVal → FVal → FVal → FVal) (fi : Int → Int → Int → Int) :
    Res State :=
  s.vecOp fmtArith (fun f => do
    let d ← s.tagcheck f x
    let a ← s.tagcheck f y
    let b ← s.tagcheck f z
    let c := modeR s.mode
    let op (l : Fin 16) (i : Nat) (t : Word) : Rounded :=
      if f.isFloat then fround f c t (ff c (fpIn f c d.1[l] i) (fpIn f c a.1[l] i) (fpIn f c b.1[l] i))
      else intRounded f c t (fi (intVal f d.1[l]) (intVal f a.1[l]) (intVal f b.1[l]))
    .ok (s.putLanes x 1 f (d.2 ||| a.2 ||| b.2) (s.runLanes f.elems op)))

/-- Two sources, lane by lane on raw bits, with the tag written. -/
def State.lanes2 (s : State) (ok : Fmt → Bool) (x y z : Opnd) (tag : Fmt → Tag) (g : Fmt → Word → Word → Word) :
    Res State :=
  s.vecOp ok (fun f => do
    let a ← s.tagcheck f y
    let b ← s.tagcheck f z
    .ok ((s.setStatus (a.2 ||| b.2)).wVO x s.exec (fun l => g f a.1[l] b.1[l]) (tag f)))

/-- R106: sign of the rounding mode's exact zero. -/
def rdn (c : RCtx) : Bool := c.rm == 2

/-- R106: bits [63:32] of the product. -/
def mulHigh (f : Fmt) (a b : Word) : Word := BitVec.ofInt 32 (intVal f a * intVal f b / 2 ^ 32)

/-- R106: VSHL. -/
def shiftLeft (_ : Fmt) (a b : Word) : Word := a <<< (b.toNat % 64)

/-- R106: VSHR. -/
def shiftRight (f : Fmt) (a b : Word) : Word :=
  if f = .uint32 then a >>> (b.toNat % 64) else a.sshiftRight (b.toNat % 64)

/-- R106: VADD. -/
def execVadd (sb : Bool) (x y z : Opnd) (s : State) : Host.Outcome State Fault Refusal :=
  issueDone (.vadd sb x y z) s (fun s => s.arith2 x y z (fun c a b => fadd (rdn c) a b) (fun a b => a + b))

/-- R106: VSUB. -/
def execVsub (sb : Bool) (x y z : Opnd) (s : State) : Host.Outcome State Fault Refusal :=
  issueDone (.vsub sb x y z) s (fun s => s.arith2 x y z (fun c a b => fadd (rdn c) a b.neg) (fun a b => a - b))

/-- R106: VMUL. -/
def execVmul (sb : Bool) (x y z : Opnd) (s : State) : Host.Outcome State Fault Refusal :=
  issueDone (.vmul sb x y z) s (fun s => s.arith2 x y z (fun _ a b => fmul a b) (fun a b => a * b))

/-- R106: VMULH. -/
def execVmulh (sb : Bool) (x y z : Opnd) (s : State) : Host.Outcome State Fault Refusal :=
  issueDone (.vmulh sb x y z) s (fun s => s.lanes2 Fmt.isInt x y z Tag.fmt mulHigh)

/-- R106: VFMA. -/
def execVfma (sb : Bool) (x y z : Opnd) (s : State) : Host.Outcome State Fault Refusal :=
  issueDone (.vfma sb x y z) s (fun s => s.arith3 x y z (fun c d a b => fadd (rdn c) d (fmul a b)) (fun d a b => d + a * b))

/-- R106: VFMS. -/
def execVfms (sb : Bool) (x y z : Opnd) (s : State) : Host.Outcome State Fault Refusal :=
  issueDone (.vfms sb x y z) s (fun s => s.arith3 x y z (fun c d a b => fadd (rdn c) d (fmul a b).neg) (fun d a b => d - a * b))

/-- R106, R107: VMIN. -/
def execVmin (sb : Bool) (x y z : Opnd) (s : State) : Host.Outcome State Fault Refusal :=
  issueDone (.vmin sb x y z) s (fun s => s.arith2 x y z (fun _ a b => fminmax false a b) (fun a b => min a b))

/-- R106, R107: VMAX. -/
def execVmax (sb : Bool) (x y z : Opnd) (s : State) : Host.Outcome State Fault Refusal :=
  issueDone (.vmax sb x y z) s (fun s => s.arith2 x y z (fun _ a b => fminmax true a b) (fun a b => max a b))

/-- R106: VAND. -/
def execVand (sb : Bool) (x y z : Opnd) (s : State) : Host.Outcome State Fault Refusal :=
  issueDone (.vand sb x y z) s (fun s => s.lanes2 fmtAll x y z (fun _ => .fmt .raw32) (fun _ a b => a &&& b))

/-- R106: VOR. -/
def execVor (sb : Bool) (x y z : Opnd) (s : State) : Host.Outcome State Fault Refusal :=
  issueDone (.vor sb x y z) s (fun s => s.lanes2 fmtAll x y z (fun _ => .fmt .raw32) (fun _ a b => a ||| b))

/-- R106: VXOR. -/
def execVxor (sb : Bool) (x y z : Opnd) (s : State) : Host.Outcome State Fault Refusal :=
  issueDone (.vxor sb x y z) s (fun s => s.lanes2 fmtAll x y z (fun _ => .fmt .raw32) (fun _ a b => a ^^^ b))

/-- R106, R121: a shift; a count from a vector register is read raw. -/
def State.shiftLanes (s : State) (x y z : Opnd) (g : Fmt → Word → Word → Word) : Res State :=
  s.vecOp Fmt.isInt (fun f => do
    let a ← s.tagcheck f y
    let n ← s.rawRead false z
    .ok ((s.setStatus a.2).wVO x s.exec (fun l => g f a.1[l] n[l]) (.fmt f)))

/-- R106: VSHL. -/
def execVshl (sb : Bool) (x y z : Opnd) (s : State) : Host.Outcome State Fault Refusal :=
  issueDone (.vshl sb x y z) s (fun s => s.shiftLanes x y z shiftLeft)

/-- R106: VSHR. -/
def execVshr (sb : Bool) (x y z : Opnd) (s : State) : Host.Outcome State Fault Refusal :=
  issueDone (.vshr sb x y z) s (fun s => s.shiftLanes x y z shiftRight)

/-! ## VCMP, VSEL, VUN, VBFX, VBFI, VDOT2, VSCL -/

/-- R21, R114: does the condition hold for every element of a lane? None where the condition has no meaning. -/
def laneCond (f : Fmt) (c : RCtx) (cond : Cond) (a b : Word) : Option Bool :=
  (List.range f.elems).foldl (fun acc i =>
    let r := if f.isFloat then condFloat cond (fpIn f c a i) (fpIn f c b i) else condInt (f == .uint32) cond a b
    acc.bind (fun p => r.map (fun q => p && q))) (some true)

/-- R114: VCMP. -/
def execVcmp (sb : Bool) (cond : Cond) (pd : PReg) (y z : Opnd) (s : State) : Host.Outcome State Fault Refusal :=
  issueDone (.vcmp sb cond pd y z) s (fun s => s.vecOp fmtArith (fun f => do
    let c := modeR s.mode
    need (laneCond f c cond 0 0).isSome .invop
    let a ← s.tagcheck f y
    let b ← s.tagcheck f z
    let e := s.exec
    let v := maskOf (fun l => e.getLsbD l.val && (laneCond f c cond a.1[l] b.1[l]).getD false)
    .ok ((s.setStatus (a.2 ||| b.2)).pwrite pd v)))

/-- R110: VSEL. -/
def execVsel (sb : Bool) (x y z : Opnd) (s : State) : Host.Outcome State Fault Refusal :=
  issueDone (.vsel sb x y z) s (fun s => s.vecOp fmtAll (fun f => do
    let d ← s.tagcheck f x
    let a ← s.tagcheck f y
    let p := s.pval z
    .ok ((s.setStatus (d.2 ||| a.2)).wVO x s.exec (fun l => if p.getLsbD l.val then a.1[l] else d.1[l]) (.fmt f))))

/-- R112: neg and abs of a floating element change only the sign bit, after FTZ; a NaN gives the canonical NaN. -/
def signElem (f : Fmt) (c : RCtx) (neg : Bool) (x : Nat) : Nat :=
  match flushIn f c.ftz (fdecode f x) with
  | .nan => canonNaN f
  | .fin n 0 _ => signBits f (neg && !n)
  | v => x % 2 ^ (f.width - 1) + signBits f (neg && !v.isNeg)

/-- R112: VUN.neg and VUN.abs. A floating element does not pass through round(), so the LFSR does not step; that is the model's
choice (notes/assumptions/12.md). -/
def State.signOp (s : State) (x y : Opnd) (neg : Bool) : Res State :=
  s.vecOp fmtArith (fun f => do
    let a ← s.tagcheck f y
    let c := modeR s.mode
    let op (l : Fin 16) (i : Nat) (t : Word) : Rounded :=
      if f.isFloat then ⟨signElem f c neg (elem f a.1[l] i), false, t⟩
      else intRounded f c t (if neg then -(intVal f a.1[l]) else ((intVal f a.1[l]).natAbs : Int))
    .ok (s.putLanes x 1 f a.2 (s.runLanes f.elems op)))

/-- R112, R113: an exact function rounded once. -/
def State.exactOp (s : State) (x y : Opnd) (g : FVal → FVal) : Res State :=
  s.vecOp Fmt.isFloat (fun f => do
    let a ← s.tagcheck f y
    let c := modeR s.mode
    .ok (s.putLanes x 1 f a.2 (s.runLanes f.elems (fun l i t => fround f c t (g (fpIn f c a.1[l] i))))))

/-- R112, R113: floor, ceil, trunc and rint under a rounding mode; no LFSR steps. -/
def State.integralOp (s : State) (x y : Opnd) (rm : RCtx → Nat) : Res State :=
  s.vecOp Fmt.isFloat (fun f => do
    let a ← s.tagcheck f y
    let c := modeR s.mode
    .ok (s.putLanes x 1 f a.2 (s.runLanes f.elems (fun l i t => ⟨fintegral f (rm c) (fpIn f c a.1[l] i), false, t⟩))))

/-- One source, lane by lane on raw bits. -/
def State.lanes1 (s : State) (ok : Fmt → Bool) (x y : Opnd) (tag : Fmt → Tag) (g : Word → Word) : Res State :=
  s.vecOp ok (fun f => do
    let a ← s.tagcheck f y
    .ok ((s.setStatus a.2).wVO x s.exec (fun l => g a.1[l]) (tag f)))

/-- R112: VUN.neg. -/
def execVunNeg (sb : Bool) (x y : Opnd) (s : State) : Host.Outcome State Fault Refusal :=
  issueDone (.vunNeg sb x y) s (fun s => s.signOp x y true)

/-- R112: VUN.abs. -/
def execVunAbs (sb : Bool) (x y : Opnd) (s : State) : Host.Outcome State Fault Refusal :=
  issueDone (.vunAbs sb x y) s (fun s => s.signOp x y false)

/-- R112: VUN.not. -/
def execVunNot (sb : Bool) (x y : Opnd) (s : State) : Host.Outcome State Fault Refusal :=
  issueDone (.vunNot sb x y) s (fun s => s.lanes1 fmtAll x y (fun _ => .fmt .raw32) (fun a => ~~~a))

/-- R112, R113: VUN.rcp. -/
def execVunRcp (sb : Bool) (x y : Opnd) (s : State) : Host.Outcome State Fault Refusal :=
  issueDone (.vunRcp sb x y) s (fun s => s.exactOp x y frcp)

/-- R112, R113: VUN.rsqrt. -/
def execVunRsqrt (sb : Bool) (x y : Opnd) (s : State) : Host.Outcome State Fault Refusal :=
  issueDone (.vunRsqrt sb x y) s (fun s => s.exactOp x y frsqrt)

/-- R112, R113: VUN.sqrt. -/
def execVunSqrt (sb : Bool) (x y : Opnd) (s : State) : Host.Outcome State Fault Refusal :=
  issueDone (.vunSqrt sb x y) s (fun s => s.exactOp x y fsqrt)

/-- R112, R113: VUN.exp2. -/
def execVunExp2 (sb : Bool) (x y : Opnd) (s : State) : Host.Outcome State Fault Refusal :=
  issueDone (.vunExp2 sb x y) s (fun s => s.exactOp x y fexp2)

/-- R112, R113: VUN.log2. -/
def execVunLog2 (sb : Bool) (x y : Opnd) (s : State) : Host.Outcome State Fault Refusal :=
  issueDone (.vunLog2 sb x y) s (fun s => s.exactOp x y flog2)

/-- R112, R113: VUN.floor. -/
def execVunFloor (sb : Bool) (x y : Opnd) (s : State) : Host.Outcome State Fault Refusal :=
  issueDone (.vunFloor sb x y) s (fun s => s.integralOp x y (fun _ => 2))

/-- R112, R113: VUN.ceil. -/
def execVunCeil (sb : Bool) (x y : Opnd) (s : State) : Host.Outcome State Fault Refusal :=
  issueDone (.vunCeil sb x y) s (fun s => s.integralOp x y (fun _ => 3))

/-- R112, R113: VUN.trunc. -/
def execVunTrunc (sb : Bool) (x y : Opnd) (s : State) : Host.Outcome State Fault Refusal :=
  issueDone (.vunTrunc sb x y) s (fun s => s.integralOp x y (fun _ => 1))

/-- R112, R113: VUN.rint. -/
def execVunRint (sb : Bool) (x y : Opnd) (s : State) : Host.Outcome State Fault Refusal :=
  issueDone (.vunRint sb x y) s (fun s => s.integralOp x y (fun c => c.rm))

/-- R112: VUN.clz. -/
def execVunClz (sb : Bool) (x y : Opnd) (s : State) : Host.Outcome State Fault Refusal :=
  issueDone (.vunClz sb x y) s (fun s => s.lanes1 Fmt.isInt x y Tag.fmt (fun a => BitVec.ofNat 32 (clzNat 32 a.toNat)))

/-- R112: VUN.popc. -/
def execVunPopc (sb : Bool) (x y : Opnd) (s : State) : Host.Outcome State Fault Refusal :=
  issueDone (.vunPopc sb x y) s (fun s => s.lanes1 Fmt.isInt x y Tag.fmt (fun a => BitVec.ofNat 32 (popc a)))

/-- R111: VBFX. -/
def execVbfx (sb : Bool) (x y z : Opnd) (s : State) : Host.Outcome State Fault Refusal :=
  issueDone (.vbfx sb x y z) s (fun s => s.vecOp Fmt.isInt (fun f => do
    let a ← s.tagcheck f y
    let ctl ← s.rawRead true z
    .ok ((s.setStatus a.2).wVO x s.exec (fun l => bfExtract a.1[l] ctl[l]) (.fmt f))))

/-- R111: VBFI. -/
def execVbfi (sb : Bool) (x y z : Opnd) (s : State) : Host.Outcome State Fault Refusal :=
  issueDone (.vbfi sb x y z) s (fun s => s.vecOp Fmt.isInt (fun f => do
    let d ← s.tagcheck f x
    let a ← s.tagcheck f y
    let ctl ← s.rawRead true z
    .ok ((s.setStatus (d.2 ||| a.2)).wVO x s.exec (fun l => bfInsert d.1[l] a.1[l] ctl[l]) (.fmt f))))

/-- The next register of an operand of a pair position; an operand that is no register stands for both (R17). -/
def nextOpnd : Opnd → Opnd
  | .v n => .v (n + 1)
  | .s n => .s (n + 1)
  | .a n => .a (n + 1)
  | o => o

/-- R58, R108: the sum of two exact products. -/
def dot2 (c : RCtx) (a0 b0 a1 b1 : FVal) : FVal := fadd (rdn c) (fmul a0 b0) (fmul a1 b1)

/-- R108: VDOT2 of packed pairs. -/
def State.dotPacked (s : State) (f : Fmt) (x y z : Opnd) : Res State := do
  let a ← s.tagcheck f y
  let b ← s.tagcheck f z
  let c := modeR s.mode
  let op (l : Fin 16) (_ : Nat) (t : Word) : Rounded :=
    fround .fp32 c t (dot2 c (fpIn f c a.1[l] 0) (fpIn f c b.1[l] 0) (fpIn f c a.1[l] 1) (fpIn f c b.1[l] 1))
  .ok (s.putLanes x 1 .fp32 (a.2 ||| b.2) (s.runLanes 1 op))

/-- R108: VDOT2 of register pairs. -/
def State.dotPairs (s : State) (f : Fmt) (x y z : Opnd) : Res State := do
  let a ← s.tagcheck f y
  let a' ← s.tagcheck f (nextOpnd y)
  let b ← s.tagcheck f z
  let b' ← s.tagcheck f (nextOpnd z)
  let c := modeR s.mode
  let op (l : Fin 16) (_ : Nat) (t : Word) : Rounded :=
    if f.isFloat then
      fround f c t (dot2 c (fpIn f c a.1[l] 0) (fpIn f c b.1[l] 0) (fpIn f c a'.1[l] 0) (fpIn f c b'.1[l] 0))
    else intRounded f c t (intVal f a.1[l] * intVal f b.1[l] + intVal f a'.1[l] * intVal f b'.1[l])
  .ok (s.putLanes x 1 f (a.2 ||| a'.2 ||| b.2 ||| b'.2) (s.runLanes 1 op))

/-- R105: the formats of VDOT2. -/
def fmtDot (f : Fmt) : Bool := f.isInt || f == .fp32 || f == .bf16 || f == .fp16

/-- R58, R108: VDOT2. -/
def execVdot2 (sb : Bool) (x y z : Opnd) (s : State) : Host.Outcome State Fault Refusal :=
  issueDone (.vdot2 sb x y z) s (fun s => s.vecOp fmtDot (fun f => if f.elems = 2 then s.dotPacked f x y z else s.dotPairs f x y z))

/-- R109: a value times 2^n. Beyond ±4,096 every format overflows or underflows alike. -/
def scaleBy (v : FVal) (n : Int) : FVal :=
  match v with
  | .fin neg m e => .fin neg m (e + max (-4096) (min 4096 n))
  | v => v

/-- R109: VSCL. -/
def execVscl (sb : Bool) (x y z : Opnd) (s : State) : Host.Outcome State Fault Refusal :=
  issueDone (.vscl sb x y z) s (fun s => s.vecOp Fmt.isFloat (fun f => do
    let a ← s.tagcheck f y
    let n ← s.rawRead false z
    let c := modeR s.mode
    .ok (s.putLanes x 1 f a.2 (s.runLanes f.elems (fun l i t => fround f c t (scaleBy (fpIn f c a.1[l] i) n[l].toInt))))))

/-! ## Conversion and tags (R115 to R120) -/

/-- R116: one element of CVT. -/
def cvtElem (src dst : Fmt) (c : RCtx) (t : Word) (x : Nat) : Rounded :=
  if src = dst then ⟨if src.isFloat && (fdecode src x).isNaN then canonNaN src else x, false, t⟩
  else if src.isFloat then
    let v := flushIn src c.ftz (fdecode src x)
    if dst.isFloat then fround dst c t v
    else
      let r := floatToInt dst c.rm v
      ⟨r.1.toNat, r.2, t⟩
  else if dst.isFloat then fround dst c t (FVal.ofInt (intVal src (BitVec.ofNat 32 x)))
  else
    let r := intToInt src dst (BitVec.ofNat 32 x)
    ⟨r.1.toNat, r.2, t⟩

/-- The registers of a source group, each checked against a format (R115). -/
def State.groupCheck (s : State) (f : Fmt) (y : Opnd) : Nat → Res (List (Vector Word 16) × BitVec 4)
  | 0 => .ok ([], 0)
  | k + 1 => do
    let a ← s.tagcheck f y
    let r ← s.groupCheck f (nextOpnd y) k
    .ok (a.1 :: r.1, a.2 ||| r.2)

/-- R115: element `i` of a source group. -/
def groupElem (f : Fmt) (g : List (Vector Word 16)) (l : Fin 16) (i : Nat) : Nat :=
  match g[i / f.elems]? with
  | some v => elem f v[l] (i % f.elems)
  | none => 0

/-- R115, R116: CVT. -/
def execCvt (sb : Bool) (x y : Opnd) (t : Code4) (s : State) : Host.Outcome State Fault Refusal :=
  issueDone (.cvt sb x y t) s (fun s => s.vecOp fmtArith (fun f => do
    let d := cvtFmt t
    let g ← s.groupCheck f y (srcRegs f d)
    let c := modeR s.mode
    let k := dstRegs f d
    .ok (s.putLanes x k d g.2 (s.runLanes (k * d.elems) (fun l i t => cvtElem f d c t (groupElem f g.1 l i))))))

/-- R105: the quantised formats. -/
def fmtQuant (f : Fmt) : Bool := f == .int8q || f == .int4q

/-- R117: QNT writes a scalar entry back in canonical form, whatever the execute mask holds. -/
def State.entryBack (s : State) (z : Opnd) : State :=
  match z with
  | .s _ => s.wS z (s.sval z &&& (if modeFmt s.mode = .int4q then 0x000FFFFF else 0x00FFFFFF))
  | _ => s

/-- R117: QNT. -/
def execQnt (sb : Bool) (x y z : Opnd) (s : State) : Host.Outcome State Fault Refusal :=
  issueDone (.qnt sb x y z) s (fun s => do
    let t ← s.vecOp fmtQuant (fun f => do
      let g ← s.groupCheck .fp32 y f.elems
      let en ← s.rawRead true z
      let c := modeR s.mode
      let op (l : Fin 16) (i : Nat) (t : Word) : Rounded :=
        let r := quant f c t en[l] (flushIn .fp32 c.ftz (fdecode .fp32 (groupElem .fp32 g.1 l i)))
        ⟨r.1, r.2.1, r.2.2⟩
      .ok (s.putLanes x 1 f g.2 (s.runLanes f.elems op)))
    .ok (t.entryBack z))

/-- R118: DQNT. -/
def execDqnt (sb : Bool) (x y z : Opnd) (s : State) : Host.Outcome State Fault Refusal :=
  issueDone (.dqnt sb x y z) s (fun s => s.vecOp fmtQuant (fun f => do
    let a ← s.tagcheck f y
    let en ← s.rawRead true z
    .ok (s.putLanes x f.elems .fp32 a.2 (s.runLanes f.elems (fun l i t =>
      ⟨(fp32RNE (dequant f en[l] (elem f a.1[l] i))).toNat, false, t⟩)))))

/-- R119: PACK. -/
def execPack (sb : Bool) (x y z : Opnd) (s : State) : Host.Outcome State Fault Refusal :=
  issueDone (.pack sb x y z) s (fun s => s.vecOp fmtPacked (fun f => do
    let a ← s.tagcheck f y
    let b ← s.tagcheck f z
    let h := f.elems / 2
    .ok ((s.setStatus (a.2 ||| b.2)).wVO x s.exec
      (fun l => packElems f ((List.range f.elems).map (fun i => if i < h then elem f a.1[l] i else elem f b.1[l] (i - h))))
      (.fmt f))))

/-- R119: UNPK. -/
def execUnpk (sb : Bool) (x y : Opnd) (half : Half) (s : State) : Host.Outcome State Fault Refusal :=
  issueDone (.unpk sb x y half) s (fun s => s.vecOp fmtPacked (fun f => do
    let a ← s.tagcheck f y
    let h := f.elems / 2
    .ok ((s.setStatus a.2).wVO x s.exec
      (fun l => packElems f ((List.range h).map (fun i => elem f a.1[l] (if half then h + i else i)))) (.fmt f))))

/-- R120: TAG. -/
def execTag (sb : Bool) (x y : Opnd) (fmt : Fmt) (s : State) : Host.Outcome State Fault Refusal :=
  issueDone (.tag sb x y fmt) s (fun s => s.vecOp fmtAll (fun _ => do
    let a ← s.rawRead true y
    .ok (s.wVO x s.exec (fun l => a[l]) (.fmt fmt))))

/-! ## Lane instructions (R121 to R125) -/

/-- R123: the mask of BALLOT. -/
def State.ballotMask (s : State) (y : Opnd) : Res (BitVec 16) :=
  if s.exec = 0 then .ok 0
  else match y with
    | .v _ => do
      let a ← s.rawRead false y
      .ok (maskOf (fun l => s.exec.getLsbD l.val && a[l] != 0))
    | y => .ok (s.exec &&& s.pval y)

/-- R123: BALLOT. -/
def execBallot (sb : Bool) (x y : Opnd) (s : State) : Host.Outcome State Fault Refusal :=
  issueDone (.ballot sb x y) s (fun s => do
    let m ← s.ballotMask y
    match x with
    | .v _ => .ok (s.wVO x s.exec (fun _ => m.setWidth 32) (.fmt .raw32))
    | x => .ok (s.wS x (m.setWidth 32)))

/-- R122, R124: each lane takes another lane's bits. -/
def State.permute (s : State) (x y : Opnd) (src : Res (Fin 16 → Nat)) : Res State :=
  if s.exec = 0 then .ok s
  else do
    let a ← s.rawRead false y
    let g ← src
    .ok (s.wVO x s.exec (fun l => a[(⟨g l % 16, Nat.mod_lt _ (by decide)⟩ : Fin 16)]) (.fmt .raw32))

/-- R124: XCHG. -/
def execXchg (sb : Bool) (x y z : Opnd) (s : State) : Host.Outcome State Fault Refusal :=
  issueDone (.xchg sb x y z) s (fun s => s.permute x y (.ok (fun l => Nat.xor l.val ((s.sval z).toNat % 16))))

/-- R124: SHUF. -/
def execShuf (sb : Bool) (x y z : Opnd) (s : State) : Host.Outcome State Fault Refusal :=
  issueDone (.shuf sb x y z) s (fun s => s.permute x y ((s.rawRead false z).map (fun v l => v[l].toNat)))

/-- R124: BCAST. -/
def execBcast (sb : Bool) (x y z : Opnd) (s : State) : Host.Outcome State Fault Refusal :=
  issueDone (.bcast sb x y z) s (fun s => s.permute x y (.ok (fun _ => (s.sval z).toNat)))

/-- R125: and, or and xor act on raw bits. -/
def redLogic : RedOp → Bool
  | .and | .or | .xor => true
  | _ => false

/-- R59, R125: a leaf of the tree: floating elements stand as FP32 words, which hold them exactly; min, max and add of
integers as their bits; the logic operations act on the whole lane. -/
def redLeaf (f : Fmt) (c : RCtx) (op : RedOp) (x : Nat) : Word :=
  if f.isFloat && !redLogic op then fp32RNE (flushIn f c.ftz (fdecode f x)) else BitVec.ofNat 32 x

/-- R59, R125: the identity as a leaf. -/
def redIdent (f : Fmt) (op : RedOp) : Word :=
  match op with
  | .and => 0xFFFFFFFF
  | .or | .xor => 0
  | .add => if f.isFloat then 0x80000000 else 0
  | .min =>
    if f = .e4m3 then 0x43E00000 else if f.isFloat then 0x7F800000
    else if f = .int32 ∨ f = .raw32 then 0x7FFFFFFF else 0xFFFFFFFF
  | .max =>
    if f = .e4m3 then 0xC3E00000 else if f.isFloat then 0xFF800000
    else if f = .int32 ∨ f = .raw32 then 0x80000000 else 0

/-- R59, R107: a node of the tree, and whether it was clamped. -/
def redNode (f : Fmt) (c : RCtx) (op : RedOp) (a b : Word) : Word × Bool :=
  match op with
  | .and => (a &&& b, false)
  | .or => (a ||| b, false)
  | .xor => (a ^^^ b, false)
  | .add =>
    if f = .fp32 then
      let r := fround .fp32 c 0 (fadd (rdn c) (fp32Val a) (fp32Val b))
      (BitVec.ofNat 32 r.bits, r.sat)
    else if f.isFloat then (fp32RNE (fadd false (fp32Val a) (fp32Val b)), false)
    else intResult f c.sat (intVal f a + intVal f b)
  | .min =>
    if f.isFloat then (fp32RNE (fminmax false (fp32Val a) (fp32Val b)), false)
    else (if intVal f b < intVal f a then b else a, false)
  | .max =>
    if f.isFloat then (fp32RNE (fminmax true (fp32Val a) (fp32Val b)), false)
    else (if intVal f a < intVal f b then b else a, false)

/-- R59: one level of the tree. -/
def redLevel (node : Word → Word → Word × Bool) : List Word → List Word × Bool
  | a :: b :: l =>
    let r := redLevel node l
    let n := node a b
    (n.1 :: r.1, n.2 || r.2)
  | l => (l, false)

/-- R59: the tree over sixteen lanes: four levels. -/
def redTree (node : Word → Word → Word × Bool) (l : List Word) : Word × Bool :=
  let r1 := redLevel node l
  let r2 := redLevel node r1.1
  let r3 := redLevel node r2.1
  let r4 := redLevel node r3.1
  (r4.1.headD 0, r1.2 || r2.2 || r3.2 || r4.2)

/-- R59: the root as an element, with the one rounding of a packed addition. The root of a minimum or maximum is exact and never steps
the generator, which is the model's choice (notes/assumptions/12.md). -/
def redRoot (f : Fmt) (c : RCtx) (op : RedOp) (t v : Word) : Rounded :=
  if redLogic op || !f.isFloat || (op == .add && f == .fp32) then ⟨v.toNat, false, t⟩
  else if op = .add then fround f c t (fp32Val v)
  else ⟨(fround f rneCtx 0 (fp32Val v)).bits, false, t⟩

/-- The format whose elements SCAN and VRED reduce separately: the whole lane for the logic operations. -/
def redFmt (f : Fmt) (op : RedOp) : Fmt := if redLogic op then .raw32 else f

/-- R105: the formats of SCAN and VRED. -/
def redOk (op : RedOp) (f : Fmt) : Bool := redLogic op || fmtArith f

/-- R59: element `i` of the root over the lanes of a mask up to lane `hi`. -/
def redElem (f : Fmt) (c : RCtx) (op : RedOp) (e : BitVec 16) (a : Vector Word 16) (hi i : Nat) (t : Word) : Rounded :=
  let leaves := (List.finRange 16).map (fun j =>
    if e.getLsbD j.val && j.val ≤ hi then redLeaf f c op (elem (redFmt f op) a[j] i) else redIdent f op)
  let r := redTree (redNode f c op) leaves
  let q := redRoot f c op t r.1
  { q with sat := q.sat || r.2 }

/-- R125: the tag of a result. -/
def redTag (f : Fmt) (op : RedOp) : Tag := if redLogic op then .fmt .raw32 else .fmt f

/-- R125: SCAN. -/
def execScan (sb : Bool) (x y : Opnd) (op : RedOp) (s : State) : Host.Outcome State Fault Refusal :=
  issueDone (.scan sb x y op) s (fun s => s.vecOp (redOk op) (fun f => do
    let a ← s.tagcheck f y
    let c := modeR s.mode
    let e := s.exec
    .ok (s.putLanes x 1 (redFmt f op) a.2 (s.runLanes (redFmt f op).elems (fun l i t => redElem f c op e a.1 l.val i t)))))

/-- R103, R59: the identity word that VRED gives a scalar under a zero mask. -/
def redZero (f : Fmt) (op : RedOp) : Word :=
  if f.isFloat && !redLogic op then
    packElems f (List.replicate f.elems (redRoot f rneCtx (if op = .add then .max else op) 0 (redIdent f op)).bits)
  else redIdent f op

/-- R125: VRED. -/
def execVred (sb : Bool) (x y : Opnd) (op : RedOp) (s : State) : Host.Outcome State Fault Refusal :=
  issueDone (.vred sb x y op) s (fun s =>
    let f := modeFmt s.mode
    match lowLane s.exec with
    | none => match x with
      | .v _ => .ok s
      | x => .ok (s.wS x (redZero f op))
    | some l =>
      if !redOk op f then trapOf .invop
      else do
        let a ← s.tagcheck f y
        let c := modeR s.mode
        let e := s.exec
        let r := runElems (fun i t => redElem f c op e a.1 15 i t) s.g.lfsr[l] (redFmt f op).elems
        let w := packElems (redFmt f op) r.1
        let s := (s.setLfsr (s.g.lfsr.set l r.2.2)).setStatus (a.2 ||| satIf r.2.1)
        match x with
        | .v _ => .ok (s.wVO x s.exec (fun _ => w) (redTag f op))
        | x => .ok (s.wS x w))

end Sys2Proof.Machine
end

