-- ==== Sys2Proof/Machine/MemoryOps.lean ====
section
/-!
DEFINITION. Loads and stores (R132 to R134), records (R135 to R137), prefetch and cache maintenance (R138, R139).
-/

namespace Sys2Proof.Machine

open Sys2Proof

/-- R121, R129: the lanes of a vector offset, read raw. -/
def State.offVec (s : State) (z : Opnd) : Res (Vector Word 16) :=
  if isVec z then s.rawRead false z else .ok (Vector.replicate 16 0)

/-- R129: the offsets of the lanes of the execute mask. -/
def State.laneOffs (s : State) (r : Rec) (z : Opnd) : Res (List (Nat × Int)) := do
  let v ← s.offVec z
  .ok ((lanesOf s.exec).map (fun l => (l.val, s.laneOff r z v l)))

/-- R134: the one offset of a scalar access. -/
def State.oneOff (s : State) (z : Opnd) : List (Nat × Int) := [(0, s.scalOff z)]

/-- The register a vector destination begins at; none discards (R19). -/
def vecReg : Opnd → Option (Fin 128)
  | .v n => some n
  | _ => none

/-- R132, R140: an issued load. -/
def State.newLoad (s : State) (kind : LoadKind) (ls : List (Nat × Option Loc)) (id : Nat) : Load :=
  ⟨id, s.g.tid, s.sp.sid, s.here, s.g.tenant, s.sp.pos, s.sp.pc, s.exec, kind,
    ls.map (fun p => match p.2 with
      | some l => ⟨p.1, some l.key, l.va, l.path⟩
      | none => ⟨p.1, none, 0, .near⟩), [], [], false, []⟩

/-- Issue a load of `n` bytes per location. -/
def State.issueLoad (s : State) (kind : LoadKind) (ls : List (Nat × Option Loc)) (n : Nat) : Res Act :=
  .ok (.pending (s.enqueueLoad (s.newLoad kind ls) (ls.filterMap (·.2)) n))

/-- Stores of one instruction: the bytes, and the requests of those that bypass L1 (R143, R177). -/
def State.issueStore (s : State) (ls : List (Loc × List Byte)) (n : Nat) : State :=
  (s.storeLocs ls).request ((ls.map (·.1)).filter (fun l => l.path == .bypass || l.path == .uncached)) n true

/-! ## LD, ST, LDS, STS -/

/-- R132: LD. -/
def execLd (sb : Bool) (x y z : Opnd) (s : State) : Host.Outcome State Fault Refusal :=
  issue (.ld sb x y z) s (fun s =>
    if s.exec = 0 then .ok (.done s)
    else do
      let r := s.qval y
      recUse r
      let offs ← s.laneOffs r z
      let w := r.laneBytes
      let ls ← s.resolve s.me r hRead w w offs
      s.issueLoad (.vec (vecReg x) w r.fmt) ls w)

/-- R133: the lanes of a stored register: RAW32 or the record's format gives its bits, DEAD zero. -/
def State.storeRow (s : State) (f : Fmt) (o : Opnd) : Res (Vector Word 16) :=
  match o with
  | .v n =>
    let r := s.getV n
    match r.tag with
    | .poison => .error (.trap { code := .poison, addr := r.paddr })
    | .invalid => trapOf .tagmismatch
    | .dead => .ok (Vector.replicate 16 0)
    | .fmt t => if t = .raw32 ∨ t = f then .ok r.lanes else trapOf .tagmismatch
  | _ => trapOf .invop

/-- The registers of a stored group. -/
def State.storeRows (s : State) (f : Fmt) (o : Opnd) : Nat → Res (List (Vector Word 16))
  | 0 => .ok []
  | k + 1 => do
    let a ← s.storeRow f o
    let r ← s.storeRows f (nextOpnd o) k
    .ok (a :: r)

/-- The bytes of one lane of a group of registers. -/
def laneBytesOf (rows : List (Vector Word 16)) (l : Nat) : List Byte := rows.flatMap (fun v => toBytes 4 (vget v l 0))

/-- R133: ST. Its register checks come after the check of the record and before those of R131 on the addresses: the group X,
then a vector offset; that order is the model's choice (notes/assumptions/43.md). -/
def execSt (sb : Bool) (x y z : Opnd) (s : State) : Host.Outcome State Fault Refusal :=
  issueDone (.st sb x y z) s (fun s =>
    if s.exec = 0 then .ok s
    else do
      let r := s.qval y
      recUse r
      let w := r.laneBytes
      let rows ← s.storeRows r.fmt x (w / 4)
      let offs ← s.laneOffs r z
      let ls ← s.resolve s.me r hWrite w w offs
      .ok (s.issueStore (ls.filterMap (fun p => p.2.map (fun l => (l, laneBytesOf rows p.1)))) w))

/-- R134: the width of LDS and STS. -/
def scalWidth (r : Rec) : Res Nat := if r.lw = 2 then trapOf .invop else .ok r.laneBytes

/-- R134: LDS. -/
def execLds (sb : Bool) (x y z : Opnd) (s : State) : Host.Outcome State Fault Refusal :=
  issue (.lds sb x y z) s (fun s => do
    let r := s.qval y
    recUse r
    let w ← scalWidth r
    let ls ← s.resolve s.me r hRead w w (s.oneOff z)
    s.issueLoad (.scal x w) ls w)

/-- R134: STS. -/
def execSts (sb : Bool) (x y z : Opnd) (s : State) : Host.Outcome State Fault Refusal :=
  issueDone (.sts sb x y z) s (fun s => do
    let r := s.qval y
    recUse r
    let w ← scalWidth r
    let ls ← s.resolve s.me r hWrite w w (s.oneOff z)
    let bs := if w = 8 then toBytes 8 (s.dval x) else toBytes 4 (s.sval x)
    .ok (s.issueStore (ls.filterMap (fun p => p.2.map (fun l => (l, bs)))) w))

/-! ## RLD, RST, RSET -/

/-- The number of a q register. -/
def qReg : Opnd → Fin 16
  | .q n => n
  | _ => 0

/-- R135: RLD. -/
def execRld (sb : Bool) (x y z : Opnd) (s : State) : Host.Outcome State Fault Refusal :=
  issue (.rld sb x y z) s (fun s => do
    let r := s.qval y
    recUse r
    let ls ← s.resolve s.me r hRead 32 32 (s.oneOff z)
    s.issueLoad (.recd (qReg x)) ls 32)

/-- R135: RST. -/
def execRst (sb : Bool) (x y z : Opnd) (s : State) : Host.Outcome State Fault Refusal :=
  issueDone (.rst sb x y z) s (fun s => do
    let r := s.qval y
    recUse r
    let ls ← s.resolve s.me r hWrite 32 32 (s.oneOff z)
    let bs := toBytes 32 (s.qval x)
    .ok (s.issueStore (ls.filterMap (fun p => p.2.map (fun l => (l, bs)))) 32))

/-- R136: the record after RSET, before its check byte. -/
def rsetField (sel : RSel) (q : Rec) (v : DWord) (w : Word) : Res Rec :=
  match sel with
  | .base => .ok (setField q 63 0 v.toNat)
  | .extent => if v.toNat < 2 ^ 40 then .ok (setField q 103 64 v.toNat) else trapOf .invop
  | .stride0 => .ok (setField q 135 104 w.toNat)
  | .stride1 => .ok (setField q 167 136 w.toNat)
  | .attr => if w.toNat < 2 ^ 16 then .ok (setField q 183 168 w.toNat) else trapOf .invop
  | .sboff => if -(2 ^ 39) ≤ v.toInt ∧ v.toInt < 2 ^ 39 then .ok (setField q 223 184 v.toNat) else trapOf .invop
  | .clear => .ok 0
  | .advance => .ok (setField q 63 0 (q.base + v.toNat))

/-- R136: RSET. -/
def execRset (sb : Bool) (x y : Opnd) (sel : RSel) (s : State) : Host.Outcome State Fault Refusal :=
  issueDone (.rset sb x y sel) s (fun s => do
    let q ← rsetField sel (s.qval x) (s.dval y) (s.sval y)
    .ok (s.setQ (qReg x) q.seal))

/-! ## PREF and CACHE -/

/-- R138: the offsets that PREF and CACHE name: lane 0's for a scalar operand, those of the execute mask otherwise. -/
def State.lineOffs (s : State) (r : Rec) (z : Opnd) : Res (List (Nat × Int)) := do
  let v ← s.offVec z
  let ls := match z with
    | .v _ | .a _ => lanesOf s.exec
    | _ => [0]
  .ok (ls.map (fun l => (l.val, s.laneOff r z v l)))

/-- R103: does PREF or CACHE name no line at all? -/
def State.noLine (s : State) (z : Opnd) : Bool :=
  match z with
  | .v _ | .a _ => s.exec == 0
  | _ => false

/-- R138: the locations PREF asks for; one that would trap is skipped, and a page not held is looked up without waiting. -/
def State.prefLocs (s : State) (r : Rec) (z : Opnd) : List Loc :=
  match s.lineOffs r z with
  | .error _ => []
  | .ok offs => offs.filterMap (fun p =>
      match s.resolve { s.me with waits := false } r hRead r.laneBytes r.laneBytes [p] with
      | .ok [(_, some l)] => some l
      | _ => none)

/-- The four sectors of a line. -/
def lineSectors (line : Nat) : List Nat := (List.range 4).map (fun i => 4 * line + i)

/-- R138, R143: the requests of PREF: the sectors of the locations named that the L1 does not serve, and whichever others of
their lines it asks for, which the spec leaves open (a free choice). -/
def State.prefAsks (s : State) (ls : List Loc) (w : Nat) : List Ask :=
  let need := s.asksOf s.here ls w
  let more := need.flatMap (fun a => ((lineSectors (a.1 / 4)).filter (fun q => s.coin .order (16 * q + 5))).map (fun q => (q, a.2)))
  (need ++ more).dedup

/-- R138: PREF. It completes at issue; its requests are counted at any time after (R147), and how many sectors of a line it asks
for is free (notes/assumptions/48.md). -/
def execPref (sb : Bool) (lv : PLevel) (y z : Opnd) (s : State) : Host.Outcome State Fault Refusal :=
  issueDone (.pref sb lv y z) s (fun s =>
    if s.noLine z then .ok s
    else do
      let r := s.qval y
      recUse r
      if r.space ≠ 0 then .ok s
      else .ok (s.ask s.g.tenant 0 none false (s.prefAsks (s.prefLocs r z) r.laneBytes)))

/-- R139: the lines that CACHE names, as addresses. -/
def State.cacheLines (s : State) (r : Rec) (x : Opnd) : Res (List DWord) := do
  let offs ← s.lineOffs r x
  .ok (offs.map (fun p => BitVec.ofNat 64 ((recAddr r p.2).toNat / 256 * 256)))

/-- R139: a minor of CACHE other than zero: it acts on each named line of GLOBAL once translated; `asks` says which sectors of
a line it sends requests for (R143; notes/assumptions/48.md). -/
def State.cacheOp (s : State) (x y : Opnd) (asks : State → Nat → Bool) (act : State → Nat → State) : Res State :=
  if s.noLine x then .ok s
  else do
    let r := s.qval y
    recUse r
    if r.space ≠ 0 then .ok s
    else do
      let vas ← s.cacheLines r x
      let ls ← s.translateAll s.me hRead true vas
      let secs := homeSectors ((ls.flatMap (fun l => (lineSectors (l.key / 256)).map (fun q => { l with key := 64 * q }))).filter
        (fun l => asks s (l.key / 64))) 1
      let s := s.ask s.g.tenant 0 (some (s.g.tid, s.sp.sid)) true secs
      .ok ((firstSeen (ls.map (fun l => l.key / 256))).foldl act s)

/-- R139, R143: a write-back sends a request for each sector that holds dirty bytes. -/
def State.asksWb (s : State) (sec : Nat) : Bool := ((s.l1Find (s.l1Core s.here (64 * sec)) sec).map (fun x => x.dirty != 0)).getD false
/-- R143: whether a minor that acts on copies alone sends requests is open (a free choice). -/
def State.asksInv (s : State) (sec : Nat) : Bool := s.coin .order (16 * sec + 6)

/-- R139: write back the issuing core's dirty bytes of a line. -/
def State.lineWb (s : State) (line : Nat) : State :=
  (lineSectors line).foldl (fun s sec => s.l1Wb (s.l1Core s.here (64 * sec)) sec) s

/-- R139: remove a line from the issuing core's L1. -/
def State.lineInv (s : State) (line : Nat) : State :=
  (lineSectors line).foldl (fun s sec => s.l1Drop (s.l1Core s.here (64 * sec)) sec) s

/-- R139: remove a line from every core's fetch copies. They go when CACHE.icinv issues, so that new code is seen from there on, which
is the model's choice (notes/assumptions/48.md). -/
def State.lineIcinv (s : State) (line : Nat) : State :=
  { s with cores := s.cores.map (fun c => { c with icopy := c.icopy.filter (fun p => p.1 / 4 != line) }) }

/-- R139: CACHE.icinv. -/
def execCacheIcinv (sb : Bool) (x y : Opnd) (s : State) : Host.Outcome State Fault Refusal :=
  issueDone (.cacheIcinv sb x y) s (fun s => s.cacheOp x y State.asksInv State.lineIcinv)
/-- R139: CACHE.wb. -/
def execCacheWb (sb : Bool) (x y : Opnd) (s : State) : Host.Outcome State Fault Refusal :=
  issueDone (.cacheWb sb x y) s (fun s => s.cacheOp x y State.asksWb State.lineWb)
/-- R139: CACHE.inv. -/
def execCacheInv (sb : Bool) (x y : Opnd) (s : State) : Host.Outcome State Fault Refusal :=
  issueDone (.cacheInv sb x y) s (fun s => s.cacheOp x y State.asksInv State.lineInv)
/-- R139: CACHE.wbinv. -/
def execCacheWbinv (sb : Bool) (x y : Opnd) (s : State) : Host.Outcome State Fault Refusal :=
  issueDone (.cacheWbinv sb x y) s (fun s => s.cacheOp x y State.asksWb (fun s l => (s.lineWb l).lineInv l))

/-- R139: the offsets of whole lines that CACHE.zero treats; under ZERO and CLAMP a line not wholly inside is skipped. -/
def zeroOffs (r : Rec) (vas : List DWord) : List (Nat × Int) :=
  (vas.map (fun va => (0, (va - BitVec.ofNat 64 r.base).toInt))).filter (fun p =>
    r.bounds == 0 || r.bounds == 3 || (0 ≤ p.2 && p.2 + 256 ≤ (r.extent : Int)))

/-- R139: CACHE.zero. -/
def execCacheZero (sb : Bool) (x y : Opnd) (s : State) : Host.Outcome State Fault Refusal :=
  issueDone (.cacheZero sb x y) s (fun s =>
    if s.noLine x then .ok s
    else do
      let r := s.qval y
      recUse r
      let vas ← s.cacheLines r x
      let ls ← s.resolve s.me r hWrite 256 256 (zeroOffs r vas)
      .ok (s.issueStore ((ls.filterMap (·.2)).map (fun l => (l, List.replicate 256 0))) 256))

end Sys2Proof.Machine
end

