-- ==== Sys2Proof/Machine/Atomics.lean ====
section
/-!
DEFINITION. Atomics (R225 to R229), FENCE (R231, R271), WAITC (R232) and BAR (R238).
-/

namespace Sys2Proof.Machine

open Sys2Proof

/-! ## Atomics -/

/-- R227: is this the vector form? With a ZERO X, Z decides. -/
def atomVec (x z : Opnd) : Bool := isVec x || (x == .zero && isVec z)

/-- The register `j` places after an operand. -/
def nthOpnd (o : Opnd) : Nat → Opnd
  | 0 => o
  | j + 1 => nextOpnd (nthOpnd o j)

/-- R226: the 32-bit words of X, `k` registers, for each lane; `wide`: they are pairs. -/
def State.atomData (s : State) (op : AtomOp) (f : Fmt) (x : Opnd) (k : Nat) (wide : Bool) : Res (List (Vector Word 16) × BitVec 4) :=
  match x with
  | .v _ =>
    if op.raw then
      (List.range k).foldlM (fun (acc : List (Vector Word 16) × BitVec 4) j => do
        let a ← s.rawRead false (nthOpnd x j)
        .ok (acc.1 ++ [a], acc.2)) ([], 0)
    else s.groupCheck f x k
  | .s n =>
    let word (j : Nat) : Word := if wide then (s.getD (n + j / 2 * 2)).extractLsb' (32 * (j % 2)) 32 else s.getS (n + j)
    .ok ((List.range k).map (fun j => Vector.replicate 16 (word j)), 0)
  | _ => .ok (List.replicate k (Vector.replicate 16 0), 0)

/-- A value of `k` words from word `i` of a lane's data. -/
def atomVal (d : List (Vector Word 16)) (i k lane : Nat) : Nat :=
  natOfBytes (((d.drop i).take k).flatMap (fun v => toBytes 4 (vget v lane 0)))

/-- R228: ATBINC clears bits of p7. -/
def State.clearP7 (s : State) (m : BitVec 16) : State := s.pwrite 7 (s.getP 7 &&& ~~~m)

/-- R226, R228, R229: the results of the vector form. -/
def State.atomVecOut (s : State) (a : AtomFly) (e : BitVec 16) : State :=
  let find (l : Nat) : Option AtomRes := a.got.find? (fun r => r.lane == l)
  let pm := maskOf (fun l => ((find l.val).bind (·.bad)).isSome)
  let bads := a.got.filterMap (·.bad)
  let s := match lowAddr bads with
    | some va => s.poisonRec s.g.tenant s.g.tid va ((bads.map (fun a => a.toNat / 64)).dedup).length (some s.here)
    | none => s
  let s := match a.x with
    | .v n => (List.range (a.w / 4)).foldl (fun s j =>
        let val (l : Fin 16) : Word := BitVec.ofNat 32 (((find l.val).map (·.old)).getD 0 / 2 ^ (32 * j))
        s.setV (n + j) e ⟨Vector.ofFn val, a.kind.op.tag (modeFmt a.mode), pm, (lowAddr bads).getD 0⟩ (a.w == 8)) s
    | _ => s
  if a.kind.op.binc then s.clearP7 (e &&& ~~~maskOf (fun l => ((find l.val).map (·.wrote)).getD false)) else s

/-- R226, R228, R229: the result of the scalar form. -/
def State.atomScalOut (s : State) (a : AtomFly) (e : BitVec 16) : Act :=
  let put (s : State) (old : Nat) : State :=
    if a.w = 8 then s.wD a.x (BitVec.ofNat 64 old) else s.wS a.x (BitVec.ofNat 32 old)
  match a.got.head? with
  | some ⟨_, old, wrote, none⟩ =>
    let s := put s old
    .done (if a.kind.op.binc && !wrote then s.clearP7 e else s)
  | some ⟨_, _, _, some va⟩ => .late (s.latePoison va 1 .atomic)
  | none =>
    let s := put s 0
    .done (if a.kind.op.binc then s.clearP7 e else s)

/-- The results of an atomic whose locations are all performed. -/
def State.atomOut (s : State) (a : AtomFly) (e : BitVec 16) : Act :=
  if a.vec then .done (s.atomVecOut a e) else s.atomScalOut a e

/-- R228, R229: is a location of an atomic performed after the step that issues it? Locations in different sectors are independent,
a request may be outstanding at a CXL port, and another module answers later. -/
def State.atomLater (s : State) (vec : Bool) (l : Loc) : Bool :=
  farKey l.key || (l.path != .near && (vec || (s.portOf l.key).isSome) && s.coin .order (16 * (l.key / 64) + 4))

/-- R406: the atomics that other modules are asked to perform, one for each location, under the number of the atomic. -/
def State.sendAtomics (s : State) (a : AtomFly) (tenant id : Nat) (later : List (Nat × Loc)) : State :=
  (distinctLocs (later.filter (fun p => farKey p.2.key))).foldl (fun s l =>
    let data := (later.filter (fun p => p.2.key == l.key)).map (fun p => (getKey p.1 a.lanes).getD (0, 0))
    s.sendOp tenant id l.key a.w (.atomic a.kind (modeFmt a.mode) data) (s.atomTag a.mode)) s

/-- R182, R228: an atomic some of whose locations are outstanding: the L1 copies of their lines go home at issue. -/
def State.atomFly (s : State) (a : AtomFly) (later : List (Nat × Loc)) : State :=
  let s := (later.map (fun p => p.2)).foldl (fun s l => if farKey l.key then s else s.openAt (some s.here) l a.w) s
  let r := s.fresh
  let l := r.1.newLoad (.atom a) (later.map (fun p => (p.1, some p.2))) r.2
  (({ r.1 with loads := r.1.loads ++ [l] } : State).sendAtomics a l.tenant l.id later).ask l.tenant l.id none true
    (homeSectors (later.map (fun p => p.2)) a.w)

/-- R225 to R229: an atomic. -/
def State.atomic (s : State) (k : AtomKind) (x y z : Opnd) : Res Act :=
  let op := k.op
  let e := s.exec
  match lowLane e with
  | none => .ok (.done s)
  | some low => do
    let r := s.qval y
    recUse r
    need (r.lw < 2) .invop
    let w := r.laneBytes
    let m := s.mode
    let f := modeFmt m
    need (op.ok f && (w == 4 || f.isInt)) .invop
    need (r.space != 4) .invop
    let vec := atomVec x z
    let offs ← if vec then s.laneOffs r z else .ok [(low.val, s.scalOff z)]
    let ls ← s.resolve s.me r hAtomic w w offs
    let n := w / 4
    let d ← s.atomData op f x (if op.pairs then 2 * n else n) (w == 8)
    let locs := ls.filterMap (fun p => p.2.map (fun l => (p.1, l)))
    let s := s.setStatus d.2
    let s := if modeRel m then s.release s.here (modeScope m) else s
    let later := locs.filter (fun p => s.atomLater vec p.2)
    let now := locs.filter (fun p => !s.atomLater vec p.2)
    let a : AtomFly := ⟨k, m, w, vec, x, locs.map (fun p => (p.1, atomVal d.1 0 n p.1, atomVal d.1 n n p.1)), []⟩
    let rs := (s.request (now.map (·.2)) w true).atomAll a [] now
    let s := if locs.isEmpty then rs.1.atomRead m none else rs.1
    let a := { a with got := rs.2 }
    .ok (if later.isEmpty then s.atomOut a e else .pending (s.atomFly a later))

/-- R225: ATADD. -/
def execAtadd (sb : Bool) (x y z : Opnd) (s : State) : Host.Outcome State Fault Refusal :=
  issue (.atadd sb x y z) s (fun s => s.atomic .add x y z)

/-- R225: ATMIN. -/
def execAtmin (sb : Bool) (x y z : Opnd) (s : State) : Host.Outcome State Fault Refusal :=
  issue (.atmin sb x y z) s (fun s => s.atomic .min x y z)

/-- R225: ATMAX. -/
def execAtmax (sb : Bool) (x y z : Opnd) (s : State) : Host.Outcome State Fault Refusal :=
  issue (.atmax sb x y z) s (fun s => s.atomic .max x y z)

/-- R225: ATAND. -/
def execAtand (sb : Bool) (x y z : Opnd) (s : State) : Host.Outcome State Fault Refusal :=
  issue (.atand sb x y z) s (fun s => s.atomic .and x y z)

/-- R225: ATOR. -/
def execAtor (sb : Bool) (x y z : Opnd) (s : State) : Host.Outcome State Fault Refusal :=
  issue (.ator sb x y z) s (fun s => s.atomic .or x y z)

/-- R225: ATXOR. -/
def execAtxor (sb : Bool) (x y z : Opnd) (s : State) : Host.Outcome State Fault Refusal :=
  issue (.atxor sb x y z) s (fun s => s.atomic .xor x y z)

/-- R225: ATXCH. -/
def execAtxch (sb : Bool) (x y z : Opnd) (s : State) : Host.Outcome State Fault Refusal :=
  issue (.atxch sb x y z) s (fun s => s.atomic .xch x y z)

/-- R225: ATCAS. -/
def execAtcas (sb : Bool) (x y z : Opnd) (s : State) : Host.Outcome State Fault Refusal :=
  issue (.atcas sb x y z) s (fun s => s.atomic .cas x y z)

/-- R225: ATBINC. -/
def execAtbinc (sb : Bool) (x y z : Opnd) (s : State) : Host.Outcome State Fault Refusal :=
  issue (.atbinc sb x y z) s (fun s => s.atomic .binc x y z)

/-! ## FENCE, WAITC, BAR -/

/-- R231, R271: the release half of a FENCE. -/
def State.fenceRelease (s : State) (sc : Scope) : State :=
  let s := s.release s.here sc
  { s with sp := { s.sp with fenceRel := none, fenceNow := some (some sc) } }

/-- R231, R271: the acquire half of a FENCE: relaxed atomics of earlier windows are judged now. -/
def State.fenceAcquire (s : State) (sc : Scope) : State :=
  let s := s.acquire s.here sc
  let miss := s.sp.relaxed.any (fun t => !t.meets sc s.me.party)
  if miss then s.setStatus stMiss else s

/-- R231: FENCE.acq. It ends the scope that an earlier FENCE lends (R271). -/
def execFenceAcq (sb : Bool) (sc : Scope) (s : State) : Host.Outcome State Fault Refusal :=
  issueDone (.fenceAcq sb sc) s (fun s =>
    .ok ({ s with sp := { s.sp with fenceRel := none, fenceNow := some none } }.fenceAcquire sc))

/-- R231: FENCE.rel. -/
def execFenceRel (sb : Bool) (sc : Scope) (s : State) : Host.Outcome State Fault Refusal :=
  issueDone (.fenceRel sb sc) s (fun s => .ok (s.fenceRelease sc))

/-- R231: FENCE.ar. -/
def execFenceAr (sb : Bool) (sc : Scope) (s : State) : Host.Outcome State Fault Refusal :=
  issueDone (.fenceAr sb sc) s (fun s => .ok ((s.fenceRelease sc).fenceAcquire sc))

/-- R232: what WAITC does with the counter it has read: POISON at the end of the window, done, or parked. -/
def State.waitcOn (s : State) (l : Loc) (target : DWord) (bad : Bool) (c : Nat) (t : Option RTag) : Act :=
  if bad then .late (s.latePoison l.va 1 .read)
  else if target.toNat ≤ c then .done (s.waitcMet t)
  else .park s (.waitc (some l.key) l.va target none)

/-- R232: WAITC. -/
def execWaitc (x y z : Opnd) (s : State) : Host.Outcome State Fault Refusal :=
  issue (.waitc x y z) s (fun s => do
    let r := s.qval y
    recUse r
    need (r.space < 4) .invop
    let ls ← s.resolve s.me r hWait 8 8 (s.oneOff z)
    let target := s.dval x
    match ls with
    | [(_, some l)] =>
      if farKey l.key then
        s.askAway (sectorsAt l.key 8) (fun s id => s.sendRead s.g.tenant id l.key 8) (fun a =>
          .ok (s.waitcOn l target (!(a.bad l.key 8).isEmpty) (natOfBytes (a.bytes l.key 8)) (getKey (l.key / 8) a.tags)))
      else
        let s := (s.request [l] 8 false).openAt (some s.here) l 8
        .ok (s.waitcOn l target (!(s.badAt l.key 8).isEmpty) (s.rdV l.key 8) (getKey (l.key / 8) s.tags))
    | _ => .ok (if target = 0 then .done (s.acquire s.here (modeScope s.mode)) else .park s (.waitc none 0 target none)))

/-- R216, R238: BAR. -/
def execBar (slot : Slot) (s : State) : Host.Outcome State Fault Refusal :=
  issue (.bar slot) s (fun s => do
    match s.g.teams[slot] with
    | none => trapOf .invop
    | some m => 
      .ok (.park (s.release s.here .core) (.bar slot m.team (((s.team? s.here m.team).map (·.phase)).getD 0))))

end Sys2Proof.Machine
end

