-- ==== Sys2Proof/Machine/Loads.lean ====
section
/-!
DEFINITION. How home slices serve the requests of outstanding loads and atomics (R143, R144, R180), and what the issuing split
gets of them (R132, R134, R135, R140, R159, R228, R229).
-/

namespace Sys2Proof.Machine

open Sys2Proof

/-! ## Service in order of arrival (R180) -/

/-- R180: the requests of loads and atomics for the line of a counted request that arrived before it and wait in its slice still. -/
def State.ahead (s : State) (r : SliceReq) : List SliceReq :=
  (s.sreqs.takeWhile (fun q => q.id != r.id)).filter (fun q =>
    q.counted && q.load != 0 && q.die == r.die && q.slice == r.slice && q.sec / 4 == r.sec / 4)

/-- R180, R197: an earlier request for the line is outstanding at a CXL port, so this one waits. -/
def State.heldUp (s : State) (r : SliceReq) : Bool := (s.ahead r).any (fun q => q.port.isSome)

/-- May a slice serve the request of a load or an atomic now? -/
def State.servable (s : State) (r : SliceReq) : Bool := r.load != 0 && r.counted && r.port.isNone && !s.heldUp r

/-- A request leaves its slice. -/
def State.dropReq (s : State) (id : Nat) : State := { s with sreqs := s.sreqs.filter (fun r => r.id != id) }

/-- The path by which a load reaches a sector, and the bytes of the sector that it needs. -/
def Load.wants (l : Load) (sec : Nat) : Option Path × BitVec 64 :=
  let parts := l.accs.flatMap (fun a => match a.key with
    | some k => ((partsAt k (match l.kind with
        | .vec _ w _ => w
        | .scal _ w => w
        | .recd _ => 32
        | .atom a => a.w)).filter (fun p => p.1 == sec)).map (fun p => (a.path, byteMask p.2.1 p.2.2.1))
    | none => [])
  (parts.head?.map (·.1), parts.foldl (fun m p => m ||| p.2) 0)

/-- R175, R177: a load receives a sector: filled into its L1, or past it. -/
def State.capture (s : State) (l : Load) (sec : Nat) : State :=
  let c := s.l1Core l.core (64 * sec)
  let need := l.wants sec
  let r : State × List Byte × Bool := match need.1 with
    | some .l1 =>
      let r := s.l1Ready c sec need.2
      (r.1, toBytes 64 r.2.data, r.2.poison)
    | _ =>
      let t := s.passL1 c sec 0 64
      (t, t.rdN (64 * sec) 64, t.poison.contains sec)
  { r.1 with loads := updWhere (fun q => q.id == l.id) (fun q =>
      { q with held := if (getKey sec q.held).isSome then q.held else q.held ++ [(sec, r.2.1)],
               poisoned := if r.2.2 then q.poisoned ++ [sec] else q.poisoned }) r.1.loads }

/-- R228, R229: the locations of an outstanding atomic that lie in one sector are performed; after the last one the atomic
completes. -/
def State.atomSector (s : State) (l : Load) (a : AtomFly) (sec : Nat) : State :=
  let here := l.accs.filter (fun x => x.key.map (· / 64) == some sec)
  let rest := l.accs.filter (fun x => x.key.map (· / 64) != some sec)
  let s := { s with sreqs := s.sreqs.filter (fun r => !(r.load == l.id && r.sec == sec)) }
  let s := s.onSplit l.tid l.sid (fun s => s.atPos l.pos (fun s =>
    let rs := s.atomPart l a ({ l with accs := here }.atomLocs)
    let a := { a with got := a.got ++ rs.2 }
    if rest.isEmpty then
      let s := { rs.1 with loads := rs.1.loads.filter (fun q => q.id != l.id), sreqs := rs.1.sreqs.filter (fun q => q.load != l.id) }
      match s.atomOut a l.exec with
      | .late s => s
      | .done s => { s with sp := { s.sp with wcm := setWcm s.sp.wcm l.pos } }
      | _ => s
    else { rs.1 with loads := updWhere (fun q => q.id == l.id) (fun q => { q with kind := .atom a, accs := rest }) rs.1.loads }))
  s.takeTrap l.tid

/-- A slice serves one request: the load has the sector's data, or the atomic's locations there are performed. -/
def State.serveOne (s : State) (r : SliceReq) : State :=
  if !s.sreqs.any (fun q => q.id == r.id) then s
  else match s.loads.find? (fun l => l.id == r.load) with
    | none => s.dropReq r.id
    | some l => (match l.kind with
      | .atom a => s.atomSector l a r.sec
      | _ => (s.capture l r.sec).dropReq r.id)

/-- R180: a slice serves a request, and before it those that arrived earlier on its line. -/
def State.serve (s : State) (r : SliceReq) : State := (s.ahead r ++ [r]).foldl State.serveOne s

/-! ## Loads -/

/-- R142: what a load of the window has of an aligned unit that the window's stores touch: as its place or its L1 gave it, or with
those stores. -/
def Split.capBytes (p : Split) (s : State) (k : Nat) (bs : List Byte) : List Byte :=
  if p.wstores.isEmpty then bs
  else (unitsAt k bs).flatMap (fun u =>
    let mine := u.2.zipIdx.map (fun b => (storeByte p.wstores (u.1 + b.2)).getD b.1)
    p.winUnit s u.1 (s.pick .memoryRace (16 * u.1 + 10) u.2 [mine]))

/-- One access of a load as its data reaches its destination: the lane, its bytes, its first poisoned address and the poisoned
sectors it touched. -/
def State.accGot (s : State) (l : Load) (p : Split) (w : Nat) (a : LoadAcc) : Nat × List Byte × Option DWord × List Nat :=
  match a.key with
  | none => (a.lane, List.replicate w 0, none, [])
  | some k =>
    let bad := (if a.path = .near then s.badAt k w else []) ++ (sectorsAt k w).filter (fun q => l.poisoned.contains q)
    let bs := l.heldBytes k (s.rdN k w)
    -- a lane that touched poison holds zero bits under its poison mask (R199)
    let bs := if !bad.isEmpty then List.replicate w 0 else if a.path = .near then p.winBytes s k bs else p.capBytes s k bs
    (a.lane, bs, ({ key := k, va := a.va, path := a.path, home := none } : Loc).badAddr bad, bad)

/-- R132, R134, R135, R140: the data of a load, all received, reaches its destination. Lanes that it writes lose their old poison
before its own poison counts (`RegVal.over`; notes/assumptions/50.md). The first poisoned address of an instruction is the lowest over
its lanes, which is the model's choice (notes/assumptions/50.md). -/
def State.loadDone (s : State) (id : Nat) : State :=
  match s.loads.find? (fun l => l.id == id) with
  | none => s
  | some l =>
    match (s.group? l.tid).bind (fun g => g.split? l.sid) with
    | none => { s with loads := s.loads.filter (fun q => q.id != id), sreqs := s.sreqs.filter (fun r => r.load != id) }
    | some p =>
      let w := match l.kind with
        | .vec _ w _ => w
        | .scal _ w => w
        | .recd _ => 32
        | .atom a => a.w
      let got := l.accs.map (s.accGot l p w)
      let s := { s with loads := s.loads.filter (fun q => q.id != id), sreqs := s.sreqs.filter (fun q => q.load != id) }
      let bads := got.filterMap (fun x => x.2.2.1)
      let nsec := (got.flatMap (fun x => x.2.2.2)).dedup.length
      let s := match lowAddr bads with
        | some a => (s.poisonRec l.tenant l.tid a nsec (some l.core))
        | none => s
      let s := s.noteLatency l.tid id l.below
      let doneBit (s : State) : State := { s with sp := { s.sp with wcm := setWcm s.sp.wcm l.pos } }
      let lateTrap (a : DWord) (s : State) : State :=
        { s with sp := s.sp.late ⟨.poison, l.sid, l.pc, l.pos, a, 0, .read, l.exec, false, 0⟩ }
      let byteAt (lane j : Nat) : Byte :=
        ((got.find? (fun x => x.1 == lane)).map (fun x => x.2.1.getD j 0)).getD 0
      let bytes := byteAt 0
      let s := s.onSplit l.tid l.sid (fun s => s.atPos l.pos (fun s =>
        match l.kind with
        | .vec x w f =>
          let pm := maskOf (fun ln => got.any (fun y => y.1 == ln.val && y.2.2.1.isSome))
          match x with
          | none => doneBit s
          | some n =>
            doneBit ((List.range (w / 4)).foldl (fun s j =>
              let reg := n.val + j
              let val (ln : Fin 16) : Word := ofBytes 32 ((List.range 4).map (fun b => byteAt ln.val (4 * j + b)))
              s.setV reg l.exec ⟨Vector.ofFn val, .fmt f, pm, (lowAddr bads).getD 0⟩ (8 ≤ w)) s)
        | .scal x w =>
          match lowAddr bads with
          | some a => lateTrap a s
          | none =>
            let v : DWord := ofBytes 64 ((List.range w).map bytes)
            doneBit (if w = 8 then s.wD x v else s.wS x (v.setWidth 32))
        | .recd q =>
          match lowAddr bads with
          | some a => lateTrap a s
          | none => doneBit (s.setQ q (ofBytes 256 ((List.range 32).map bytes)))
        | .atom _ => s))
      s.takeTrap l.tid

/-- Does a load reach nothing but near memory? -/
def Load.allNear (l : Load) : Bool := l.accs.all (fun a => a.path == .near)

/-- The sectors beyond near memory that a load has not received. -/
def Load.lacks (l : Load) : List Nat :=
  ((l.accs.filter (fun a => a.path != .near)).flatMap (fun a => match a.key with
    | some k => (sectorsAt k (match l.kind with
      | .vec _ w _ => w
      | .scal _ w => w
      | .recd _ => 32
      | .atom a => a.w)).filter (fun q => (getKey q l.held).isNone)
    | none => [])).dedup

/-- R132, R180: the slices serve what a load still waits for, each line in the order of arrival, and its data reaches its
destination. Of host memory it has what stands there now. -/
def State.loadReturn (s : State) (id : Nat) : State :=
  match s.loads.find? (fun l => l.id == id) with
  | none => s
  | some l =>
    if l.allNear then s.loadDone id
    else
      let s := (s.sreqs.filter (fun r => r.load == id)).foldl State.serve s
      match s.loads.find? (fun l => l.id == id) with
      | none => s
      | some l => ((l.lacks.filter (fun q => !farKey (64 * q))).foldl (fun s q => s.capture l q) s).loadDone id

/-! ## Outstanding atomics -/

/-- R228, R229, R406: the sector in which an outstanding atomic is performed next: one whose request a slice may serve, or whose
locations another module has answered for. -/
def State.atomNext (s : State) (l : Load) : Option Nat :=
  let waits (sec : Nat) : Bool :=
    if farKey (64 * sec) then
      !l.poisoned.contains sec && l.accs.any (fun x => x.key.any (fun k => k / 64 == sec && (getKey k l.held).isNone))
    else s.sreqs.any (fun r => r.load == l.id && r.sec == sec && !s.servable r)
  let secs := (l.accs.filterMap (fun x => x.key.map (· / 64))).dedup.filter (fun sec => !waits sec)
  secs[s.free .order (16 * l.id + 8) % secs.length]?

/-- R180, R228: an outstanding atomic is performed in one more sector, after the requests that arrived earlier on its line. -/
def State.atomReturn (s : State) (id sec : Nat) : State :=
  let s := (s.sreqs.filter (fun r => r.load == id && r.sec == sec)).foldl State.serve s
  match s.loads.find? (fun l => l.id == id) with
  | none => s
  | some l => (match l.kind with
    | .atom a => if l.accs.any (fun x => x.key.map (· / 64) == some sec) then s.atomSector l a sec else s
    | _ => s)

/-- R132, R140, R159, R228: the data of a load reaches its destination, or an atomic is performed in one more sector. -/
def State.dataReturn (s : State) (id : Nat) : State :=
  match s.loads.find? (fun l => l.id == id) with
  | some l => (match l.kind with
    | .atom _ => (match s.atomNext l with
      | some sec => s.atomReturn id sec
      | none => s)
    | _ => s.loadReturn id)
  | none => s

end Sys2Proof.Machine
end

