-- ==== Sys2Proof/Machine/TaskOps.lean ====
section
/-!
DEFINITION. Task creation (R239 to R241), futures (R246, R247), teams (R234 to R237) and queue reservations (R248).
-/

namespace Sys2Proof.Machine

open Sys2Proof

/-! ## Creating tasks -/

/-- A location of a record as the issuing core's loads see it, or as another module has answered. -/
def State.readRec (s : State) (a : Option RemoteAsk) (l : Loc) (n : Nat) : State × Got :=
  match a, farKey l.key with
  | some a, true => (s, ⟨a.bytes l.key n, a.bad l.key n⟩)
  | _, _ => s.readLoc s.here l n

/-- The 256-byte records at a set of locations, and the poisoned addresses. -/
def State.readRecs (s : State) (a : Option RemoteAsk) (ls : List (Nat × Loc)) : State × List (Nat × BitVec 2048) × List DWord :=
  ls.foldl (fun acc p =>
    let r := acc.1.readRec a p.2 256
    let bs := acc.1.sp.winBytes acc.1 p.2.key r.2.bytes
    let bad := r.2.bad.map (fun sec => p.2.va + BitVec.ofNat 64 (64 * sec - p.2.key))
    (r.1, acc.2.1 ++ [(p.1, ofBytes 2048 bs)], acc.2.2 ++ bad)) (s, [], [])

/-- R239, R140: records are read: POISON at the end of the window, or the instruction goes on with them. -/
def State.gotRecs (s : State) (a : Option RemoteAsk) (ls : List (Nat × Loc)) (go : State → List (Nat × BitVec 2048) → Res Act) : Res Act :=
  let t := (s.requestRead (ls.map (·.2)) 256).readRecs a ls
  match lowAddr t.2.2 with
  | some a => .ok (.late (t.1.latePoison a t.2.2.dedup.length .read))
  | none => go t.1 t.2.1

/-- R239, R131: resolve and read records, and go on with what is read for each lane not dropped; those in the memory of other modules
are asked for first (R406). -/
def State.withRecs (s : State) (ls : List (Nat × Loc)) (go : State → List (Nat × BitVec 2048) → Res Act) : Res Act :=
  let far := ((ls.filter (fun p => farKey p.2.key)).flatMap (fun p => sectorsAt p.2.key 256)).dedup
  if far.isEmpty then s.gotRecs none ls go
  else s.askAway far (fun s id => s.askFar s.g.tenant id (ls.map (·.2)) 256) (fun a => s.gotRecs (some a) ls go)

/-- R239, R131: resolve records, read them and go on with them. -/
def State.takeRecs (s : State) (r : Rec) (offs : List (Nat × Int)) (go : State → List (Nat × BitVec 2048) → Res Act) : Res Act := do
  need (r.space != 4) .invop
  let ls ← s.resolve s.me r hRead 256 256 offs
  s.withRecs (ls.filterMap (fun p => p.2.map (fun l => (p.1, l)))) go

/-- R239, R241, R172: a task that the issuing task creates, with a fresh id; TVEC and FUSE are inherited. -/
def State.newTask (s : State) (rec : BitVec 2048) (o : Origin) : State × TaskRec :=
  let r := s.freshTid
  (r.1, ⟨r.2, rec, { s.g.launch with root := none }, o⟩)

/-- Several new tasks. -/
def State.newTasks (s : State) (recs : List (BitVec 2048)) (o : Origin) : State × List TaskRec :=
  recs.foldl (fun acc r =>
    let n := acc.1.newTask r o
    (n.1, acc.2 ++ [n.2])) (s, [])

/-- New tasks placed as entries of their own, the last hottest. -/
def State.placeSingles (s : State) (recs : List (BitVec 2048)) (o : Origin) : State :=
  recs.foldl (fun s r =>
    let n := s.newTask r o
    n.1.rackTasks n.1.here [n.2]) s

/-- R239: SPAWN. -/
def execSpawn (sb : Bool) (x y z : Opnd) (s : State) : Host.Outcome State Fault Refusal :=
  issue (.spawn sb x y z) s (fun s => do
    let r := s.qval y
    recUse r
    s.takeRecs r (s.oneOff z) (fun t recs =>
      let s := t.release t.here .module
      match recs with
      | (_, rec) :: _ =>
        if 1 ≤ (s.core? s.here).rackFree then .ok (.done ((s.placeSingles [rec] .single).wP x 0xFFFF))
        else .ok (.done (s.wP x 0))
      | [] => .ok (.done (s.wP x 0))))

/-- R240: the record of a lane, its number in ARGS word 31. -/
def laneRecord (p : Nat × BitVec 2048) : BitVec 2048 := setField p.2 2047 2016 p.1

/-- R240: SPAWNL. -/
def execSpawnl (sb : Bool) (x y z : Opnd) (s : State) : Host.Outcome State Fault Refusal :=
  issue (.spawnl sb x y z) s (fun s =>
    let e := s.exec
    if e = 0 then .ok (.done s)
    else do
      let r := s.qval y
      recUse r
      let offs ← s.laneOffs r z
      s.takeRecs r offs (fun t recs =>
        let s := t.release t.here .module
        let low := ((lanesOf e).take (s.core? s.here).rackFree).map (·.val)
        let win := recs.filter (fun p => low.contains p.1)
        let mask := maskOf (fun l => win.any (fun p => p.1 == l.val))
        .ok (.done ((s.placeSingles (win.map laneRecord) .single).wP x mask))))

/-! ## Futures -/

/-- R246: the location of a cell. -/
def State.cellLoc (s : State) (va : DWord) (h : How) : Res Loc := do
  if va.toNat % 16 ≠ 0 then trapAt .misalign va h.kind
  else
    let ls ← s.translateAll s.me h true [va]
    match ls with
    | [l] => .ok l
    | _ => trapAt .misalign va h.kind

/-- R243, R246: an operation on a cell by the issuing split, a release at SYSTEM but for init. -/
def State.futOp (s : State) (va : DWord) (op : CellOp) : Res Act := do
  let l ← s.cellLoc va hAtomic
  let s := if op = .init then s else s.release s.here .system
  let t : RTag := ⟨.system, s.me.party⟩
  if farKey l.key then
    s.askAway (sectorsAt l.key 16) (fun s id => s.sendOp s.g.tenant id l.key 16 (.cell op) (if op = .init then none else some t))
      (fun a => .ok (if (a.bad l.key 16).isEmpty then .done s else .late (s.latePoison va 1 .atomic)))
  else
    let s := (s.request [l] 16 true).openAt (some s.here) l 16
    if !(s.badAt l.key 16).isEmpty then .ok (.late (s.latePoison va 1 .atomic))
    else .ok (.done (s.cellAt (some s.here) l op t))

/-- R246: FUT.init. -/
def execFutInit (sb : Bool) (y : Opnd) (s : State) : Host.Outcome State Fault Refusal :=
  issue (.futInit sb y) s (fun s => s.futOp (s.dval y) .init)
/-- R246: FUT.pub. -/
def execFutPub (sb : Bool) (x y : Opnd) (s : State) : Host.Outcome State Fault Refusal :=
  issue (.futPub sb x y) s (fun s => s.futOp (s.dval y) (.pub (s.sval x)))
/-- R246: FUT.sig. -/
def execFutSig (sb : Bool) (x y : Opnd) (s : State) : Host.Outcome State Fault Refusal :=
  issue (.futSig sb x y) s (fun s => s.futOp (s.dval y) (.sig (s.dval x)))
/-- R246: FUT.set. -/
def execFutSet (sb : Bool) (x y : Opnd) (s : State) : Host.Outcome State Fault Refusal :=
  issue (.futSet sb x y) s (fun s => s.futOp (s.dval y) (.set (s.dval x)))
/-- R246: FUT.fail. -/
def execFutFail (sb : Bool) (x y : Opnd) (s : State) : Host.Outcome State Fault Refusal :=
  issue (.futFail sb x y) s (fun s => do
    let c := s.quad x 2
    need (c != 0 && c.toNat < 256) .invop
    s.futOp (s.dval y) (.fail (c.setWidth 8) (s.quad x 1 ++ s.quad x 0)))
/-- R246: FUT.cancel. -/
def execFutCancel (sb : Bool) (y : Opnd) (s : State) : Host.Outcome State Fault Refusal :=
  issue (.futCancel sb y) s (fun s => s.futOp (s.dval y) .cancel)

/-- R246, R247: read a cell at its home slice and go on with it, or POISON at the end of the window. -/
def State.cellRead (s : State) (va : DWord) (go : State → Loc → BitVec 128 → Act) : Res Act := do
  let l ← s.cellLoc va hWait
  if farKey l.key then
    s.askAway (sectorsAt l.key 16) (fun s id => s.sendRead s.g.tenant id l.key 16) (fun a =>
      .ok (if (a.bad l.key 16).isEmpty then go s l (ofBytes 128 (a.bytes l.key 16)) else .late (s.latePoison va 1 .read)))
  else
    let s := (s.request [l] 16 false).openAt (some s.here) l 16
    if !(s.badAt l.key 16).isEmpty then .ok (.late (s.latePoison va 1 .read))
    else .ok (go s l (BitVec.ofNat 128 (s.rdV l.key 16)))

/-- R246: FUT.peek. -/
def execFutPeek (sb : Bool) (x y : Opnd) (s : State) : Host.Outcome State Fault Refusal :=
  issue (.futPeek sb x y) s (fun s =>
    let va := s.dval y
    s.cellRead va (fun s _ c => .done (s.joinAcquire.wQuad x (cellImage c va))))

/-- R247: JOIN and JOIN.t. -/
def State.joinOp (s : State) (t : Bool) (pd : PReg) (y z : Opnd) : Res Act :=
  let va := s.dval z
  s.cellRead va (fun s l c =>
    if !cellFinal (cellImage c va) then .park s (.join l.key va y pd t none)
    else if joinTraps c va t then .late (s.joinDone c va y pd t)
    else .done (s.joinDone c va y pd t))

/-- R247: JOIN. -/
def execJoin (pd : PReg) (y z : Opnd) (s : State) : Host.Outcome State Fault Refusal :=
  issue (.join pd y z) s (fun s => s.joinOp false pd y z)
/-- R247: JOIN.t. -/
def execJoinT (pd : PReg) (y z : Opnd) (s : State) : Host.Outcome State Fault Refusal :=
  issue (.joinT pd y z) s (fun s => s.joinOp true pd y z)

/-! ## Teams -/

/-- R234: the checks of TEAM.fork on its records, whatever the bounds mode. -/
def teamChecks (r : Rec) (n : Nat) : Res Unit := do
  need (1 ≤ n && n ≤ 16 && r.space != 4) .invop
  if r.extent < 256 * n then trapAt .bounds (recAddr r (256 * (r.extent / 256) : Nat)) .read
  else if r.base % 256 ≠ 0 then trapAt .misalign (recAddr r 0) .read
  else .ok ()

/-- R234: TEAM.fork. -/
def execTeamFork (sb : Bool) (x y : Opnd) (s : State) : Host.Outcome State Fault Refusal :=
  issue (.teamFork sb x y) s (fun s => do
    let n := (s.sval x).toNat
    let r := s.qval y
    recUse r
    teamChecks r n
    s.takeRecs r ((List.range n).map (fun k => (k, ((256 * k : Nat) : Int)))) (fun t recs =>
      let s := t.release t.here .module
      if (s.core? s.here).rackFree < n then .ok (.done (s.wS x 0))
      else
        let ts := s.newTasks (recs.map (·.2)) (.team n)
        .ok (.done ((ts.1.rackTasks ts.1.here ts.2).wS x (BitVec.ofNat 32 n)))))

/-- R235: a team formed by TEAM.enter from a slot-0 team. -/
def State.derived? (s : State) (team : Nat) (mask : BitVec 16) (key : Byte) : Option TeamEntry :=
  (s.core? s.here).teams.find? (fun t => t.parent == some (team, mask, key))

/-- R235, R236: the ranks of a new team whose slot-0 tasks have already ended. -/
def endedRanks (t0 : TeamEntry) (mask : BitVec 16) : List Nat :=
  (t0.gone.filter (fun r => mask.getLsbD r)).map (maskRank mask)

/-- R235: take a membership slot. -/
def State.takeSlot (s : State) (slot : Fin 4) (team rank : Nat) : State :=
  let s := s.updCore s.here (fun c => c.updTeam team (fun t =>
    { t with members := (rank, s.g.tid) :: t.members.filter (fun m => m.1 != rank), gone := t.gone.filter (fun r => r != rank),
             base := putKey rank (some s.g.coxWin.toNat) t.base }))
  { s with g := { s.g with teams := s.g.teams.set slot (some ⟨team, rank⟩) } }

/-- R235: TEAM.enter once its operand has passed: `m0` is the slot-0 membership and `t0` its team. -/
def State.enterTeam (s : State) (slot : Fin 4) (m0 : Member) (t0 : TeamEntry) (mask : BitVec 16) (key : Byte) :
    Res (State × Bool) :=
  let rank := maskRank mask m0.rank
  let found := s.derived? t0.id mask key
  match s.g.teams[slot] with
  | some m => if (found.map (·.id)) = some m.team then .ok (s, true) else trapOf .invop
  | none =>
    match found with
    | some t => .ok (s.takeSlot slot t.id rank, true)
    | none =>
      if 256 ≤ (s.core? s.here).teams.length then .ok (s, false)
      else
        let r := s.fresh
        let t : TeamEntry := ⟨r.2, popc mask, some (t0.id, mask, key), [], endedRanks t0 mask, 0, [], [], []⟩
        .ok ((r.1.updCore s.here (fun c => { c with teams := c.teams ++ [t] })).takeSlot slot t.id rank, true)

/-- R235: TEAM.enter. -/
def execTeamEnter (sb : Bool) (x y : Opnd) (s : State) : Host.Outcome State Fault Refusal :=
  issueDone (.teamEnter sb x y) s (fun s => do
    let v := s.sval y
    let mask : BitVec 16 := v.extractLsb' 0 16
    let slot : Fin 4 := Fin.ofNat 4 (field v 17 16)
    need (field v 23 18 == 0 && slot != 0) .invop
    match s.g.teams[(0 : Fin 4)] with
    | none => trapOf .invop
    | some m0 =>
      match s.team? s.here m0.team with
      | none => trapOf .invop
      | some t0 =>
        need (mask.getLsbD m0.rank && mask.toNat < 2 ^ t0.n) .invop
        let r ← s.enterTeam slot m0 t0 mask (v.extractLsb' 24 8)
        .ok (r.1.wS x (if r.2 then 1 else 0)))

/-- R236: TEAM.leave. -/
def execTeamLeave (sb : Bool) (y : Opnd) (s : State) : Host.Outcome State Fault Refusal :=
  issueDone (.teamLeave sb y) s (fun s => do
    let n := (s.sval y).toNat
    need (1 ≤ n && n ≤ 3) .invop
    let slot : Fin 4 := Fin.ofNat 4 n
    match s.g.teams[slot] with
    | none => trapOf .invop
    | some m =>
      let s := { s with g := { s.g with teams := s.g.teams.set slot none } }
      let core := s.here
      .ok (s.wide (fun t => t.leaveTeam core m)))

/-- R237: the membership of a slot that a scalar names. -/
def State.slotOf (s : State) (y : Opnd) : Res (Option Member) := do
  need ((s.sval y).toNat ≤ 3) .invop
  .ok (s.g.teams[(Fin.ofNat 4 (s.sval y).toNat : Fin 4)])

/-- R237: TEAM.rank. -/
def execTeamRank (sb : Bool) (x y : Opnd) (s : State) : Host.Outcome State Fault Refusal :=
  issueDone (.teamRank sb x y) s (fun s => do
    let m ← s.slotOf y
    .ok (s.wS x (match m with
      | some m => BitVec.ofNat 32 m.rank
      | none => 0xFFFFFFFF)))

/-- R237: TEAM.size. -/
def execTeamSize (sb : Bool) (x y : Opnd) (s : State) : Host.Outcome State Fault Refusal :=
  issueDone (.teamSize sb x y) s (fun s => do
    let m ← s.slotOf y
    .ok (s.wS x (BitVec.ofNat 32 (((m.bind (fun m => s.team? s.here m.team)).map (·.n)).getD 0))))

/-! ## Reservations (R248) -/

/-- R248: the queue that RSV names. -/
def State.rsvQueue (s : State) (y : Opnd) : Res Queue := do
  let n := (s.sval y).toNat
  need (n < 2 ^ 20) .invop
  match s.queue? n with
  | none => trapOf .invop
  | some q =>
    need (q.tenant == s.g.tenant) .perm
    need (q.enabled && q.shared) .invop
    .ok q

/-- R248, R391: RSV.take. -/
def execRsvTake (sb : Bool) (x y : Opnd) (s : State) : Host.Outcome State Fault Refusal :=
  issueDone (.rsvTake sb x y) s (fun s => do
    let q ← s.rsvQueue y
    let r := s.ticketTake q.num
    .ok (r.1.wS x r.2))

/-- R248, R391: RSV.commit. -/
def execRsvCommit (sb : Bool) (x y : Opnd) (s : State) : Host.Outcome State Fault Refusal :=
  issueDone (.rsvCommit sb x y) s (fun s => do
    let q ← s.rsvQueue y
    let t := s.sval x
    -- R268: the commit tags the word of the control entry that it changes
    let ok := decide ((t - q.prod).toNat < (q.resv - q.prod).toNat) && !q.bits.contains (t.toNat % 1024)
    let s := (s.release s.here .system).ticketCommit q.num t s.g.tenant s.g.tid (some s.here)
    .ok (if ok then s.tagWords (s.queueBase + 64 * q.num + 16) 8 ⟨.system, s.me.party⟩ else s))

end Sys2Proof.Machine
end

