-- ==== Sys2Proof/Machine/Crew.lean ====
section
/-!
DEFINITION. Crews (R249 to R258, R347 to R361): the record, NORMALIZE, expiry, the closing of a malformed record, seats,
the CREW instructions, the slice's own check, hold and resume.
-/

namespace Sys2Proof.Machine

open Sys2Proof

/-! ## The record (R249, R250) -/

/-- R249: the 768 bytes of a crew record. -/
abbrev CrewRec := BitVec 6144

/-- A field of a crew record: `size` bytes at an offset. -/
def cget (r : CrewRec) (off size : Nat) : Nat := field r (8 * (off + size) - 1) (8 * off)
/-- A field of a crew record replaced. -/
def cset (r : CrewRec) (off size v : Nat) : CrewRec := setField r (8 * (off + size) - 1) (8 * off) v
/-- R250: CTRL. -/
def crewCtrl (r : CrewRec) : Nat := cget r 8 4
/-- R250: STATE: 0 INIT, 1 OPEN, 2 HELD, 3 DONE. -/
def crewState (r : CrewRec) : Nat := crewCtrl r / 256 % 4
/-- R250: N. -/
def crewN (r : CrewRec) : Nat := crewCtrl r % 128
/-- R250: PAUSE. -/
def crewPause (r : CrewRec) : Bool := (crewCtrl r).testBit 16
/-- R250: set STATE. -/
def crewSetState (r : CrewRec) (st : Nat) : CrewRec := cset r 8 4 (crewCtrl r - crewState r * 256 + st * 256)
/-- R249: a bit of one of the seat masks: RBITS at 32, CBITS at 40, LBITS at 48. -/
def crewBit (r : CrewRec) (off seat : Nat) : Bool := (cget r off 8).testBit seat
/-- R249: set a bit of a seat mask. -/
def crewSetBit (r : CrewRec) (off seat : Nat) : CrewRec := cset r off 8 (Nat.lor (cget r off 8) (2 ^ seat))
/-- Add 1 to a one-byte count of the header. -/
def crewInc (r : CrewRec) (off : Nat) : CrewRec := cset r off 1 (cget r off 1 + 1)
/-- R249: the reward word of a seat. -/
def crewReward (r : CrewRec) (seat : Nat) : Nat := cget r (256 + 4 * seat) 4
/-- R249: set the advantage word of a seat. -/
def crewSetAdv (r : CrewRec) (seat : Nat) (w : Word) : CrewRec := cset r (512 + 4 * seat) 4 w.toNat

/-- R250, R349: does the header fail its checks? -/
def crewBad (r : CrewRec) : Bool :=
  Nat.land (crewCtrl r) 0xFFF8FC80 != 0 || crewN r = 0 || 64 < crewN r || cget r 28 4 != 0 || cget r 64 192 != 0

/-- R347: are all seats accounted for? -/
def crewComplete (r : CrewRec) : Bool := crewN r == cget r 16 1 + cget r 17 1

/-! ## NORMALIZE (R350, R351) -/

/-- The word for a seat that did not report. -/
def advLate : Word := 0x7FC0CAFE
/-- The word for a cancelled seat. -/
def advCancelled : Word := 0x7FC0DEAD

/-- One FP32 operation rounded to nearest even (R350). -/
def f32 (x : FVal) : FVal := fp32Val (fp32RNE x)

/-- R350: the sum of the rewards of some seats. -/
def crewSum (r : CrewRec) (seats : List Nat) : FVal :=
  seats.foldl (fun acc s => f32 (fadd false acc (fdecode .fp32 (crewReward r s)))) (.fin false 0 0)

/-- R350: the deviation of a seat's reward from the mean. -/
def crewDev (r : CrewRec) (mean : FVal) (s : Nat) : FVal := f32 (fadd false (fdecode .fp32 (crewReward r s)) mean.neg)

/-- R350: the sum of the squared deviations. -/
def crewSq (r : CrewRec) (mean : FVal) (seats : List Nat) : FVal :=
  seats.foldl (fun acc s =>
    let d := crewDev r mean s
    f32 (fadd false acc (f32 (fmul d d)))) (.fin false 0 0)

/-- R350: the advantages of the reporting seats, MEAN, VARIANCE and ZVAR. -/
def crewScore (r : CrewRec) (seats : List Nat) : CrewRec :=
  let m := FVal.ofInt seats.length
  let mean := f32 (fdiv (crewSum r seats) m)
  let var := f32 (fdiv (crewSq r mean seats) m)
  let r1 := cset (cset r 20 4 (fp32RNE mean).toNat) 24 4 (fp32RNE var).toNat
  if seats.length = 1 ∨ var.isZero then
    seats.foldl (fun q s => crewSetAdv q s 0) (cset r1 8 4 (Nat.lor (crewCtrl r1) (2 ^ 17)))
  else
    let den := f32 (fadd false (f32 (fsqrt var)) (fdecode .fp32 (cget r 12 4)))
    seats.foldl (fun q s => crewSetAdv q s (fp32RNE (fdiv (crewDev r mean s) den))) r1

/-- R350: NORMALIZE, the watch entry apart. -/
def normalize (r : CrewRec) : CrewRec :=
  let seats := List.range (crewN r)
  let rep := seats.filter (fun s => crewBit r 32 s)
  let r1 := if rep.isEmpty then cset r 8 4 (Nat.lor (crewCtrl r) (2 ^ 18)) else crewScore r rep
  let r2 := seats.foldl (fun q s =>
    if crewBit r 40 s then crewSetAdv q s advCancelled
    else if crewBit r 32 s then q else crewSetAdv q s advLate) r1
  cset (crewSetState r2 3) 56 8 0

/-- R350, R352: the 8-byte words of a record that NORMALIZE writes. -/
def normWords (r : CrewRec) : List Nat :=
  [1, 7] ++ (if (List.range (crewN r)).any (fun s => crewBit r 32 s) then [2, 3] else []) ++
    (List.range ((crewN r + 1) / 2)).map (fun i => 64 + i)

/-- R347: normalise a crew that is complete. -/
def crewSettle (r : CrewRec) : CrewRec := if crewComplete r then normalize r else r

/-! ## The record in memory -/

/-- The place of byte `off` of a record. -/
def CrewRef.at (c : CrewRef) (off : Nat) : Nat :=
  (if off < 256 then c.k0 else if off < 512 then c.k1 else c.k2) + off % 256

/-- R251: the record opened at its home slice by a core, or by the slice itself. -/
def State.crewOpen (s : State) (core : Option Nat) (c : CrewRef) : State :=
  [c.k0, c.k1, c.k2].foldl (fun s k => s.openAt core ⟨k, c.va, .bypass, none⟩ 256) s

/-- The bytes of a record. -/
def State.crewRead (s : State) (c : CrewRef) : CrewRec := ofBytes 6144 (s.rdN c.k0 256 ++ s.rdN c.k1 256 ++ s.rdN c.k2 256)

/-- The poisoned addresses of a record, one for each sector. -/
def State.crewPoison (s : State) (c : CrewRef) : List DWord :=
  ((List.range 12).filter (fun i => s.poison.contains (c.at (64 * i) / 64))).map (fun i => c.va + BitVec.ofNat 64 (64 * i))

/-- R251, R268: write the words of a record that changed, and those of the list that the operation writes as they were; a
release tags them, an init clears their tags. -/
def State.crewPut (s : State) (c : CrewRef) (old new : CrewRec) (also : List Nat) (t : Option RTag) : State :=
  (List.range 96).foldl (fun s i =>
    let v := cget new (8 * i) 8
    if v = cget old (8 * i) 8 && !also.contains i then s
    else
      let k := c.at (8 * i)
      let bs := toBytes 8 (BitVec.ofNat 64 v)
      match t with
      | some t => (s.place k bs).tagWords k 8 t
      | none => s.placePlain k bs) s

/-- R348: a watch entry frees. -/
def State.unwatch (s : State) (tenant : Nat) (c : CrewRef) : State :=
  s.updTenant tenant (fun t => { t with watch := t.watch.filter (fun w => w.k0 != c.k0) })

/-- R348: does the crew hold a watch entry? -/
def State.watched (s : State) (tenant : Nat) (c : CrewRef) : Bool :=
  ((s.tenant? tenant).map (fun t => t.watch.any (fun w => w.k0 == c.k0))).getD false

/-- R349: close a malformed record whose STATE does not read DONE. -/
def State.crewClose (s : State) (tenant task : Nat) (c : CrewRef) (r : CrewRec) (t : RTag) (core : Option Nat) : State :=
  if crewState r = 3 then s
  else
    let r1 := cset r 8 4 (Nat.lor (crewCtrl r) (3 * 256 + 2 ^ 18))
    (((s.crewPut c r r1 [1] (some t)).unwatch tenant c).crewDone c).errRec tenant 3 task c.va.toNat 0 1 core

/-- R347: is the crew expired now? -/
def State.crewExpired (s : State) (r : CrewRec) : Bool :=
  crewState r != 3 && !(crewState r == 2 && crewPause r) && cget r 0 8 != 0 && cget r 0 8 ≤ s.time

/-- R347, R348, R350: the record an operation leaves, which writes the words of the list too; a crew that becomes DONE frees
its watch entry, and its parked seats have their results. -/
def State.crewLeave (s : State) (tenant : Nat) (c : CrewRef) (old new : CrewRec) (also : List Nat) (t : RTag) : State :=
  let ends := crewState new = 3 && crewState old ≠ 3
  let s := s.crewPut c old new (if ends then normWords new ++ also else also) (some t)
  if ends then (s.unwatch tenant c).crewDone c else s

/-- R251, R347, R349: an event of a crew reaches the home slice: a malformed header closes the crew (`none`), and a crew
that is expired is normalised before the event is performed. -/
def State.crewEvent (s : State) (tenant task : Nat) (core : Option Nat) (c : CrewRef) (t : RTag)
    (f : State → CrewRec → State × CrewRec) : Option State × State :=
  let s := (s.clock).crewOpen core c
  let r := s.crewRead c
  if crewBad r then (none, s.crewClose tenant task c r t core)
  else
    let r1 := if s.crewExpired r then normalize r else r
    let q := f s r1
    let s := q.1.crewLeave tenant c r q.2 [] t
    (some s, s)

/-! ## The CREW instructions -/

/-- R251: a crew record named by an address, translated for the issuing split. -/
def State.crewRef (s : State) (va : DWord) (h : How) : Res CrewRef := do
  if va.toNat % 256 ≠ 0 then trapAt .misalign va h.kind
  else
    let ls ← s.translateAll s.me h true [va, va + 256, va + 512]
    match ls with
    | [a, b, c] => .ok ⟨va, a.key, b.key, c.key⟩
    | _ => trapAt .misalign va h.kind

/-- What an operation of the issuing split does to a record it has opened: the record it leaves and the state besides,
the words it writes even where they do not change, or a trap. -/
structure CrewDo where
  state : State
  out : CrewRec
  words : List Nat := []
  trap : Bool := false

/-- R251, R347, R349: an operation of the issuing split on a record. It sends one request (R143), for the first sector of the record's
first line, which is the model's choice (notes/assumptions/48.md). -/
def State.crewOp (s : State) (c : CrewRef) (k : AccKind) (rel : Bool) (f : State → CrewRec → CrewDo) : Act :=
  let s := if rel then s.release s.here .module else s
  let s := s.request [⟨c.k0, c.va, .bypass, s.homeOf c.k0⟩] 64 rel
  let s := (s.clock).crewOpen (some s.here) c
  let tag : RTag := ⟨.module, s.me.party⟩
  match lowAddr (s.crewPoison c) with
  | some a => .late (s.latePoison a (s.crewPoison c).length k)
  | none =>
    let r := s.crewRead c
    if crewBad r then .trap (s.crewClose s.g.tenant s.g.tid c r tag (some s.here)) { code := .invop }
    else
      let r1 := if s.crewExpired r then normalize r else r
      let q := f s r1
      let t := q.state.crewLeave s.g.tenant c r q.out q.words tag
      if q.trap then .trap t { code := .invop } else .done t

/-- R253: the EPS that CREW.init stores, or none where it refuses the value. -/
def crewEps (w : Word) : Option Word :=
  if w.toNat % 2 ^ 31 = 0 then some 0x35800000
  else match fp32Val w with
    | .fin false _ _ => some w
    | _ => none

/-- R253: the record CREW.init writes. -/
def crewInitRec (cfg eps lo hi : Word) : CrewRec :=
  cset (cset (cset 0 0 8 (lo.toNat + hi.toNat * 2 ^ 32)) 8 4 cfg.toNat) 12 4 eps.toNat

/-- R253: CREW.init. -/
def execCrewInit (sb : Bool) (x y : Opnd) (s : State) : Host.Outcome State Fault Refusal :=
  issue (.crewInit sb x y) s (fun s => do
    let cfg := s.quad x 0
    need (Nat.land cfg.toNat 0xFFFEFF80 == 0 && 1 ≤ cfg.toNat % 128 && cfg.toNat % 128 ≤ 64) .invop
    match crewEps (s.quad x 1) with
    | none => trapOf .invop
    | some eps =>
      let c ← s.crewRef (s.dval y) hAtomic
      let new := crewInitRec cfg eps (s.quad x 2) (s.quad x 3)
      let s := s.release s.here .module
      let s := s.request [⟨c.k0, c.va, .bypass, s.homeOf c.k0⟩] 64 true
      let s := (s.clock).crewOpen (some s.here) c
      match lowAddr (s.crewPoison c) with
      | some a => .ok (.late (s.latePoison a (s.crewPoison c).length .atomic))
      | none =>
        let r := s.crewRead c
        let tag : RTag := ⟨.module, s.me.party⟩
        let r1 := if !crewBad r && s.crewExpired r then normalize r else r
        let s := s.crewLeave s.g.tenant c r r1 [] tag
        if crewState r1 = 1 ∨ crewState r1 = 2 ∨ s.watched s.g.tenant c then
          .ok (.trap (if crewBad r1 then s.crewClose s.g.tenant s.g.tid c r1 tag (some s.here) else s) { code := .invop })
        else
          let s := s.crewPut c r1 new (List.range 96) none
          .ok (.done ([c.k0, c.k1, c.k2].foldl (fun s k => s.clearTags k 256) s)))

/-- R254: the seats that a fork places and skips, from seat `seat` on, with `free` rack slots: the seats placed, those
skipped, and where it stops. -/
def forkSeats (r : CrewRec) : (fuel seat free : Nat) → List Nat × List Nat × Nat
  | 0, seat, _ => ([], [], seat)
  | fuel + 1, seat, free =>
    if crewN r ≤ seat then ([], [], seat)
    else if crewBit r 40 seat then
      let q := forkSeats r fuel (seat + 1) free
      (q.1, seat :: q.2.1, q.2.2)
    else if free = 0 then ([], [], seat)
    else
      let q := forkSeats r fuel (seat + 1) (free - 1)
      (seat :: q.1, q.2.1, q.2.2)

/-- R254: the cell of a seat. -/
def seatCell (t : BitVec 2048) (seat : Nat) : DWord :=
  if tFuture t = 0 then 0 else tFuture t + BitVec.ofNat 64 (16 * seat)

/-- R254: the record of a seat. -/
def seatRecord (t : BitVec 2048) (crew : DWord) (seat : Nat) : BitVec 2048 :=
  setField (setField (setField t 255 192 (crew.toNat % 2 ^ 48 + seat * 2 ^ 48)) 2047 2016 seat) 127 64 (seatCell t seat).toNat

/-- R254, R348: what CREW.fork does to an INIT or OPEN record: the state, the record, and the seats left. -/
def State.forkDo (s : State) (c : CrewRef) (t : BitVec 2048) (r : CrewRec) : State × CrewRec × Nat :=
  let tenant := s.g.tenant
  let watch := crewState r == 0 && cget r 0 8 != 0
  if watch && 1024 ≤ ((s.tenant? tenant).map (fun t => t.watch.length)).getD 0 then (s, r, crewN r)
  else
    let s := if watch then s.updTenant tenant (fun t => { t with watch := c :: t.watch }) else s
    let q := forkSeats r 64 (cget r 19 1) (s.core? s.here).rackFree
    let s := s.placeSingles (q.1.map (seatRecord t c.va)) .seat
    let s := q.2.1.foldl (fun s seat => s.endCell tenant s.here 0 (seatCell t seat) .cancel) s
    (s, crewSetState (cset r 19 1 q.2.2) 1, crewN r - q.2.2)

/-- R254: CREW.fork. -/
def execCrewFork (sb : Bool) (x y : Opnd) (s : State) : Host.Outcome State Fault Refusal :=
  issue (.crewFork sb x y) s (fun s =>
    if s.exec = 0 then .ok (.done s)
    else do
      let tva := s.dval x
      if tva.toNat % 256 ≠ 0 then trapAt .misalign tva .read
      else
        let c ← s.crewRef (s.dval y) hAtomic
        let ls ← s.translateAll s.me hRead false [tva]
        s.withRecs (ls.map (fun l => (0, l))) (fun s recs =>
          match recs with
          | [(_, tpl)] =>
            .ok (s.crewOp c .atomic true (fun s r =>
              if 2 ≤ crewState r then { state := s, out := r, trap := true }
              else
                let q := s.forkDo c tpl r
                { state := q.1.wD x (BitVec.ofNat 64 q.2.2), out := q.2.1, words := if q.2.1 = r then [] else [1, 2] }))
          | _ => .ok (.done s)))

/-- R255: what a report does to a record. -/
def crewReport (r : CrewRec) (seat : Nat) (w : Word) : CrewRec × Bool :=
  if crewState r = 0 then (r, true)
  else if crewBit r 32 seat || crewBit r 40 seat || crewBit r 48 seat then (r, false)
  else if crewState r = 3 then (crewSetAdv (crewInc (crewSetBit r 48 seat) 18) seat advLate, false)
  else (crewSettle (crewInc (crewSetBit (cset r (256 + 4 * seat) 4 w.toNat) 32 seat) 16), false)

/-- R255, R268, R354: the words of the record that a report writes besides those NORMALIZE does: the reward word where it counts, the
advantage word where it is late, none where nothing changes. -/
def reportWords (old new : CrewRec) (seat : Nat) : List Nat :=
  if new = old then [] else if crewState old = 3 then [64 + seat / 2] else [32 + seat / 2]

/-- R255: CREW.report. -/
def execCrewReport (sb : Bool) (x : Opnd) (s : State) : Host.Outcome State Fault Refusal :=
  issue (.crewReport sb x) s (fun s => do
    need (tCrew s.g.record != 0) .invop
    let c ← s.crewRef (tCrew s.g.record) hAtomic
    let w := s.sval x
    let seat := tSeat s.g.record
    .ok (s.crewOp c .atomic true (fun s r =>
      let q := crewReport r seat w
      { state := s, out := q.1, words := reportWords r q.1 seat, trap := q.2 })))

/-- R256: CREW.await. -/
def execCrewAwait (x : Opnd) (s : State) : Host.Outcome State Fault Refusal :=
  issue (.crewAwait x) s (fun s => do
    need (tCrew s.g.record != 0) .invop
    let c ← s.crewRef (tCrew s.g.record) hWait
    let seat := tSeat s.g.record
    match s.crewOp c .read false (fun s r => { state := s, out := r }) with
    | .done t =>
      if crewState (t.crewRead c) = 3 then .ok (.done (t.awaitDone c seat x))
      else .ok (.park t (.crew c x none))
    | a => .ok a)

/-- R258: CREW.peek. -/
def execCrewPeek (sb : Bool) (x y : Opnd) (s : State) : Host.Outcome State Fault Refusal :=
  issue (.crewPeek sb x y) s (fun s => do
    let c ← s.crewRef (s.dval y) hWait
    .ok (s.crewOp c .read false (fun s r =>
      { state := (s.acquire s.here .module).wQuad x
          (BitVec.ofNat 128 (crewCtrl r + cget r 16 4 * 2 ^ 32 + cget r 0 8 * 2 ^ 64)), out := r })))

/-! ## CREW.cancel (R257, R355) -/

/-- Is a task the seat of a crew? -/
def isSeat (rec : BitVec 2048) (va : DWord) (seat : Nat) : Bool := tCrew rec == va && tSeat rec == seat && va != 0

/-- R257, R319: an unstarted seat leaves a rack, its staging ends. -/
def dropSeat (va : DWord) (seat : Nat) (es : List Entry) : List Entry :=
  es.filter (fun e => !(e.members.any (fun t => isSeat t.record va seat)))

/-- R257: CANCEL for a started seat of a list of groups. -/
def cancelIn (tenant : Nat) (va : DWord) (seat : Nat) (gs : List Group) : List Group :=
  updWhere (fun g => g.tenant == tenant && isSeat g.record va seat)
    (fun g => { g with cancel := true, cancelled := true }) gs

/-- The unstarted tasks of a rack. -/
def rackTasksOf (c : CoreSt) : List TaskRec := c.rack.flatMap (·.members) ++ c.inbound.flatMap (fun i => i.entry.members)

/-- R257, R355: the effects of CREW.cancel on a seat, wherever it is: in a rack, in flight between two, saved, running or
parked. -/
def State.cancelSeat (s : State) (tenant : Nat) (va : DWord) (seat : Nat) : State :=
  let mine (c : Nat) : Bool := s.coreTenant c == some tenant
  let waiting := ((s.cores.filter (fun c => mine c.id)).flatMap (fun c => (rackTasksOf c).map (fun t => (c.id, t)))) ++
    ((s.saves.filter (fun b => b.tenant == tenant)).flatMap (fun b => (rackTasksOf b.state).map (fun t => (b.core, t))))
  let waiting := waiting.filter (fun p => isSeat p.2.record va seat)
  let started := (s.groups ++ (s.saves.filter (fun b => b.tenant == tenant)).flatMap (·.groups)).filter
    (fun g => g.tenant == tenant && isSeat g.record va seat)
  let s := waiting.foldl (fun s p => s.failUnstarted p.1 tenant p.2 .cancel) s
  let s := started.foldl (fun s g => s.endCell tenant g.core g.tid (tFuture g.record) .cancel) s
  let clean (c : CoreSt) : CoreSt :=
    if mine c.id then
      { c with rack := dropSeat va seat c.rack, inbound := c.inbound.filter (fun i =>
          !(i.entry.members.any (fun t => isSeat t.record va seat))) }
    else c
  let s := { s with
           cores := s.cores.map clean,
           groups := cancelIn tenant va seat s.groups,
           saves := updWhere (fun b => b.tenant == tenant) (fun b =>
             { b with state := { b.state with rack := dropSeat va seat b.state.rack },
                      groups := cancelIn tenant va seat b.groups }) s.saves }
  s.fused.foldl State.unfuse s

/-- R257: what a cancel does to the record. -/
def crewCancel (r : CrewRec) (seat : Nat) : CrewRec :=
  if crewState r = 3 || crewBit r 40 seat || crewBit r 32 seat then r
  else crewSettle (crewInc (crewSetBit r 40 seat) 17)

/-- R257: CREW.cancel. -/
def execCrewCancel (sb : Bool) (x y : Opnd) (s : State) : Host.Outcome State Fault Refusal :=
  issue (.crewCancel sb x y) s (fun s => do
    let c ← s.crewRef (s.dval y) hAtomic
    let seat := (s.sval x).toNat
    .ok (s.crewOp c .atomic true (fun s r =>
      if crewN r ≤ seat then { state := s, out := r, trap := true }
      else
        let tenant := s.g.tenant
        { state := s.wide (fun s => s.cancelSeat tenant c.va seat), out := crewCancel r seat })))

/-! ## Deadline, hold and resume (R353, R357, R359) -/

/-- The slice itself as a party (R262). -/
def sliceTag : RTag := ⟨.module, ⟨0, none, none⟩⟩

/-- R353: the slice's own check of a watched crew, at or after its DEADLINE; a record that reads DONE has no watch entry any
more (R348). -/
def State.crewCheck (s : State) (tenant : Nat) (c : CrewRef) : State :=
  let s := s.clock
  let dl := cget (s.crewRead c) 0 8
  if dl = 0 ∨ s.time < dl then s
  else
    let s := (s.crewEvent tenant 0 none c sliceTag (fun s r => (s, r))).2
    if crewState (s.crewRead c) = 3 then s.unwatch tenant c else s

/-- R357: a hold. -/
def State.crewHold (s : State) (tenant : Nat) (c : CrewRef) : State × Bool :=
  let q := s.crewEvent tenant 0 none c sliceTag (fun s r =>
    (s, if crewState r = 1 then cset (crewSetState r 2) 56 8 s.time else r))
  (q.2, crewState (q.2.crewRead c) = 2)

/-- R359: a resume. -/
def State.crewResume (s : State) (tenant : Nat) (c : CrewRef) : State :=
  (s.crewEvent tenant 0 none c sliceTag (fun s r =>
    if crewState r = 2 then
      let dl := cget r 0 8
      let r := if crewPause r && dl != 0 then cset r 0 8 (dl + (s.time % 2 ^ 64 + 2 ^ 64 - cget r 56 8)) else r
      (s, crewSetState (cset r 56 8 0) 1)
    else (s, r))).2

end Sys2Proof.Machine
end

