-- ==== Sys2Proof/Machine/Matrix.lean ====
section
/-!
DEFINITION. Matrix and copy instructions (R281 to R301): each places a command in a queue, or waits for queued work; and
the steps of the engines.
-/

namespace Sys2Proof.Machine

open Sys2Proof

/-! ## Naming a tile, entering the queue -/

/-- R282: who owns the tiles that the issuing task names. -/
def State.owner (s : State) : Owner :=
  match s.g.teams[(0 : Fin 4)] with
  | some m => .team m.team
  | none => .task s.g.tid

/-- R282: the issuing task names a tile. -/
def State.claim (s : State) (h : Nat) : Res State :=
  match (s.tile s.here h).owner with
  | none => .ok (s.updTile s.here h (fun _ => { Tile.init with owner := some s.owner }))
  | some o => if o = s.owner then .ok s else trapOf .perm

/-- R219: a command enters its queue behind all others, but before those of its task that splits of higher table entries
have issued in the same cycle. -/
def MCmd.enter (m : MCmd) (l : List MCmd) : List MCmd :=
  let r := l.reverse.span (fun y => y.tid == m.tid && y.cycle == m.cycle && m.entry < y.entry)
  (r.1 ++ m :: r.2).reverse

/-- R289: an entry of the matrix queue for the issuing split, or a stall where all 8 are in use. -/
def State.matrixEnq (s : State) (h : Nat) (op : MOp) : Res State :=
  if 8 ≤ ((s.core? s.here).mq.filter (fun m => !m.final)).length then .error (.stall .matrix)
  else
    let r := s.fresh
    let m : MCmd := ⟨r.2, s.g.tid, s.sp.sid, s.sp.pos, s.sp.pc, s.g.tenant, h, op, s.mode, .queued, [], none, s.cycleAt,
      (s.g.entryOf s.sp).getD 8⟩
    .ok (r.1.updCore s.here (fun c => { c with mq := m.enter c.mq }))

/-! ## MCFG and MLOOP -/

/-- R286, R128: the location of a command block. -/
def State.blockLoc (s : State) (off : Nat) : Res Loc :=
  if nearSize - s.stageBytes s.g.tenant < off + 64 then trapAt .bounds (BitVec.ofNat 64 off) .read
  else if off % 64 ≠ 0 then trapAt .misalign (BitVec.ofNat 64 off) .read
  else .ok ⟨keyNear s.here off, BitVec.ofNat 64 off, .near, none⟩

/-- R286: MCFG. -/
def execMcfg (sb : Bool) (h : Handle) (y : Opnd) (s : State) : Host.Outcome State Fault Refusal :=
  issue (.mcfg sb h y) s (fun s => do
    let s ← s.claim h
    let l ← s.blockLoc (s.sval y).toNat
    let r := s.readLoc s.here l 64
    match l.badAddr r.2.bad with
    | some a => .ok (.late (r.1.latePoison a 1 .read))
    | none =>
      let t ← r.1.matrixEnq h (.mcfg (ofBytes 512 (s.sp.winBytes r.1 l.key r.2.bytes)))
      .ok (.done (t.updTile t.here h (fun t => { t with named := true }))))

/-- R218, R287: MLOOP. -/
def execMloop (sb : Bool) (h : Handle) (y : Opnd) (s : State) : Host.Outcome State Fault Refusal :=
  issueDone (.mloop sb h y) s (fun s => do
    let s ← s.claim h
    need (s.sp.lanes == 0xFFFF && s.exec == 0xFFFF) .mxpartial
    let n := (s.sval y).toNat
    need ((s.tile s.here h).named && n ≤ 4096) .invop
    s.matrixEnq h (.mloop n))

/-! ## MOP -/

/-- R295: MOP.drain. -/
def execMopDrain (sb : Bool) (h : Handle) (y : Opnd) (s : State) : Host.Outcome State Fault Refusal :=
  issueDone (.mopDrain sb h y) s (fun s => do
    let s ← s.claim h
    let r := s.qval y
    recUse r
    need (r.fmt == .fp32 || r.fmt == .raw32) .invop
    s.matrixEnq h (.drain r))

/-- R295: MOP.drainn. -/
def execMopDrainn (sb : Bool) (h : Handle) (y : Opnd) (s : State) : Host.Outcome State Fault Refusal :=
  issueDone (.mopDrainn sb h y) s (fun s => do
    let s ← s.claim h
    let r := s.qval y
    recUse r
    need (r.fmt.isFloat && r.fmt != .fp32) .invop
    s.matrixEnq h (.drainn r))

/-- The 128 bits of a group of four scalars. -/
def State.quadBits (s : State) (o : Opnd) : BitVec 128 :=
  BitVec.ofNat 128 ((s.quad o 0).toNat + (s.quad o 1).toNat * 2 ^ 32 + (s.quad o 2).toNat * 2 ^ 64 + (s.quad o 3).toNat * 2 ^ 96)

/-- R298: MOP.fdrain. -/
def execMopFdrain (sb : Bool) (h : Handle) (y : Opnd) (s : State) : Host.Outcome State Fault Refusal :=
  issueDone (.mopFdrain sb h y) s (fun s => do
    let s ← s.claim h
    let ops := s.quadBits y
    need (field ops 31 24 == 0 && field ops 63 48 == 0 && field ops 127 80 == 0 && field ops 39 32 ≤ field ops 47 40) .invop
    s.matrixEnq h (.fdrain ops))

/-- R296: MOP.zero. -/
def execMopZero (sb : Bool) (h : Handle) (s : State) : Host.Outcome State Fault Refusal :=
  issueDone (.mopZero sb h) s (fun s => do
    let s ← s.claim h
    s.matrixEnq h .zero)

/-- R294: the handle of a row operand. -/
def rowHandle (w : Word) : Nat := field w 10 8
/-- R294: the row of a row operand. -/
def rowNumber (w : Word) : Nat := field w 5 0

/-- R296: MOP.rdrow. -/
def execMopRdrow (sb : Bool) (x y : Opnd) (s : State) : Host.Outcome State Fault Refusal :=
  issue (.mopRdrow sb x y) s (fun s =>
    if s.exec = 0 then .ok (.done s)
    else do
      let w := s.sval y
      let s ← s.claim (rowHandle w)
      let reg := match x with
        | .v n => some n
        | _ => none
      let s ← s.matrixEnq (rowHandle w) (.rdrow (rowNumber w) reg s.exec)
      .ok (.pending s))

/-- R296: a register that wrrow writes to a tile. -/
def State.rowWords (s : State) (n : Nat) : Res (List Word) :=
  let r := s.getV n
  match r.tag with
  | .fmt .fp32 | .fmt .raw32 => .ok r.lanes.toList
  | .dead => .ok (List.replicate 16 0)
  | .poison => .error (.trap { code := .poison, addr := r.paddr })
  | _ => trapOf .tagmismatch

/-- R296: MOP.wrrow. -/
def execMopWrrow (sb : Bool) (x y : Opnd) (s : State) : Host.Outcome State Fault Refusal :=
  issueDone (.mopWrrow sb x y) s (fun s =>
    if s.exec = 0 then .ok s
    else do
      let w := s.sval y
      let s ← s.claim (rowHandle w)
      let n := match x with
        | .v n => n.val
        | _ => 0
      let a ← s.rowWords n
      let b ← s.rowWords (n + 1)
      let c ← s.rowWords (n + 2)
      let d ← s.rowWords (n + 3)
      s.matrixEnq (rowHandle w) (.wrrow (rowNumber w) (a ++ b ++ c ++ d) s.exec))

/-- R296: the commands that a MOP.wait of the issuing task waits for. -/
def State.waitIds (s : State) (h : WHandle) : List Nat :=
  ((s.core? s.here).mq.filter (fun m => m.tid == s.g.tid && (match h with
    | some h => m.handle == h.val
    | none => true))).map (·.id)

/-- R296: MOP.wait. -/
def execMopWait (x : Opnd) (h : WHandle) (s : State) : Host.Outcome State Fault Refusal :=
  issue (.mopWait x h) s (fun s => do
    let s ← match h with
      | some h => s.claim h
      | none => .ok s
    match s.mopStatus s.here (s.waitIds h) with
    | some st => .ok (.done (s.wS x st))
    | none => .ok (.park s (.mop (s.waitIds h) x)))

/-- R296: the state of a tile as MOP.check gives it. -/
def TileState.num : TileState → Nat
  | .valid => 0 | .invalid => 1 | .poison => 2

/-- R296: what MOP.check writes. -/
def Tile.report (t : Tile) : BitVec 128 :=
  match t.err with
  | none => BitVec.ofNat 128 t.state.num
  | some (c, o, n, a) =>
    BitVec.ofNat 128 (c.toNat * 2 ^ 24 + o.toNat * 2 ^ 16 + t.state.num + n % 2 ^ 32 * 2 ^ 32 + a.toNat * 2 ^ 64)

/-- R296: MOP.check. -/
def execMopCheck (sb : Bool) (x : Opnd) (h : Handle) (s : State) : Host.Outcome State Fault Refusal :=
  issueDone (.mopCheck sb x h) s (fun s => do
    let s ← s.claim h
    let t := s.tile s.here h
    .ok ((s.wQuad x t.report).updTile s.here h (fun t => { t with err := none })))

/-! ## COPY -/

/-- R299: the operand checks of COPY that need no state. -/
def copyOk (ops : BitVec 128) : Bool :=
  let rb := field ops 31 0
  rb % 4 == 0 && 4 ≤ rb && rb ≤ 2 ^ 20 && field ops 63 50 == 0 && field ops 47 32 != 0 && field ops 127 64 % 8 == 0

/-- R299, R300, R218: COPY. -/
def execCopy (sb : Bool) (x y z : Opnd) (s : State) : Host.Outcome State Fault Refusal :=
  issueDone (.copy sb x y z) s (fun s => do
    need (s.sp.lanes == 0xFFFF) .mxpartial
    let src := s.qval y
    let dst := s.qval z
    recUse src
    recUse dst
    let ops := s.quadBits x
    need (copyOk ops) .invop
    match s.g.teams[(Fin.ofNat 4 (field ops 49 48) : Fin 4)] with
    | none => trapOf .invop
    | some m =>
      if 16 ≤ (s.core? s.here).copyUse then .error (.stall .copy)
      else
        let given := ((s.team? s.here m.team).bind (fun t => getKey m.rank t.copies)).getD 0
        let r := s.fresh
        let c : Slice := ⟨r.2, s.g.tid, s.g.tenant, m.team, given, src, dst, field ops 31 0, field ops 47 32,
          BitVec.ofNat 64 (field ops 127 64), s.mode, false, none, [], none⟩
        .ok (r.1.updCore s.here (fun k => { k with copyq := k.copyq ++ [c] }.updTeam m.team (fun t =>
          { t with copies := putKey m.rank (some (given + 1)) t.copies }))))

/-! ## The steps of the engines -/

/-- R289: the sequencer takes a command. -/
def execMatrixCommandStart (core id : Nat) (s : State) : Host.Outcome State Fault Refusal :=
  event s (fun s => s.startCmd core id)

/-- R289, R297: an active command finishes. -/
def execMatrixCommandComplete (core id : Nat) (s : State) : Host.Outcome State Fault Refusal :=
  event s (fun s => s.completeCmd core id)

/-- R293, R298, R340: a memory access of an active command fails, as its checks say of memory now; or another module's
slot refuses the rows of an fdrain with a code. -/
def State.accessFailure (s : State) (core id : Nat) (code : BitVec 8) (addr : BitVec 64) : State :=
  match s.cmd? core id with
  | none => s
  | some m =>
    match m.st, m.op with
    | .sent, .fdrain ops =>
      if s.ownsSlot ops then s
      else if code = 1 then s.failCmd core m { code := .invop, addr := addr } true
      else if code = 8 then s.failCmd core m { code := .perm, addr := addr } true
      else s
    | .active, _ =>
      match s.cmdCheck core m with
      | .error (e, refused) => s.cmdStop core m e refused
      | .ok _ => s
    | _, _ => s

/-- R293: an access of an active command fails. -/
def execEngineAccessFailure (core id : Nat) (code : BitVec 8) (addr : BitVec 64) (s : State) :
    Host.Outcome State Fault Refusal := event s (fun s => s.accessFailure core id code addr)

/-- R292: the split that takes a deferred trap: one at a window boundary in the lowest entry, else one that waits in
MOP.wait or WAITC; none while a handler runs (R365). -/
def Group.deferTaker (g : Group) : Option Split :=
  if g.handler.isSome then none else
  let edge := g.splits.filter (fun p => p.atBoundary && !p.stopped && (p.entry.isSome || p.handler))
  let waits := g.splits.filter (fun p => !p.stopped && (match p.st with
    | .park (.mop _ _) | .park (.waitc _ _ _ _) => true
    | _ => false))
  match maxBy (fun (p : Split) => -((p.entry.getD 255 : Nat) : Int)) edge with
  | some p => some p
  | none => maxBy (fun (p : Split) => -((lowLane p.lanes).map (fun l => (l.val : Int))).getD 16) waits

/-- R292: a task takes the trap that an engine left. -/
def State.deferredTrap (s : State) (tid : Nat) : State :=
  match s.group? tid with
  | none => s
  | some g =>
    if g.deferred.isEmpty || !g.traps.isEmpty then s
    else match g.deferTaker with
      | some p => s.raise tid (deferredInfo g p)
      | none => s

/-- R292: DEFERRED_TRAP. -/
def execDeferredTrap (tid : Nat) (s : State) : Host.Outcome State Fault Refusal := event s (fun s => s.deferredTrap tid)

/-- R341: a contribution reaches a slot. What an fdrain of this module sends is read from its tile, and the command
completes; where the tile has become POISON since (R334), it fails with a marker in their place (R342). Any other contribution comes
over the Dypied link. -/
def State.rowArrive (s : State) (slot : Nat) (failed : Bool) (c : Contribution) : State :=
  match c.sender with
  | none => s.contribute slot failed c
  | some (core, id) =>
    match s.cmd? core id with
    | some m =>
      match m.st, m.op with
      | .sent, .fdrain ops =>
        if !s.ownsSlot ops || fdSlot ops ≠ slot || failed then s
        else
          let d := s.contributionOf core m ops
          match (s.rslot? slot).map (fun q => q.refuses d), (s.tileOf core m).drainable with
          | some (some code), _ => s.failCmd core m { code := code } true
          | none, _ => s.failCmd core m { code := .invop } true
          | some none, .error (.trap t) => s.failCmd core m t false
          | some none, _ => (s.contribute slot false d).doneCmd core m
      | _, _ => s
    | none => s

/-- R341: REDUCTION_ROW_ARRIVE. -/
def execReductionRowArrive (slot : Nat) (c : Contribution) (s : State) : Host.Outcome State Fault Refusal :=
  event s (fun s => s.rowArrive slot false c)

/-- R342: FAILURE_MARKER. -/
def execFailureMarker (slot : Nat) (c : Contribution) (s : State) : Host.Outcome State Fault Refusal :=
  event s (fun s => s.rowArrive slot true c)

/-- R300: COPY_COLLECTIVE_COMPLETE. -/
def execCopyCollectiveComplete (core team : Nat) (s : State) : Host.Outcome State Fault Refusal :=
  event s (fun s => s.copyComplete core team)

end Sys2Proof.Machine
end

