-- ==== Sys2Proof/Machine/Racks.lean ====
section
/-!
DEFINITION. Racks (R306 to R320): staging of named tiles (R302, R303, R311, R312), pops and the start of a task (R155,
R314, R374), and stealing.
-/

namespace Sys2Proof.Machine

open Sys2Proof

/-! ## Staged tiles -/

/-- The bytes of `n` elements of a format, a last half element counted as a byte. -/
def spanBytes (f : Fmt) (n : Nat) : Nat := (n * f.width + 7) / 8
/-- R303: the source offset of a tile row's first byte. -/
def rowOff (d : TileDesc) (src : Rec) (r : Nat) : Int := ((d.row0 + r : Nat) : Int) * src.stride1 + (d.col0 * src.fmt.width / 8 : Nat)
/-- R302: STRIDE1 of a tile in the stage area. -/
def stageStride (d : TileDesc) (f : Fmt) : Nat := (spanBytes f d.cols + 15) / 16 * 16
/-- R303: the alignment of a row. -/
def elemAlign (f : Fmt) : Nat := if f.width = 4 then 1 else f.width / 8
/-- The descriptor of a tile in flight. -/
def TileIn.desc? (t : TileIn) (ms : List TaskRec) : TileDesc :=
  tileDesc (tTile ((ms[t.member]?.map (·.record)).getD 0) t.desc)

/-- R303: the parts of row `r` of a tile, none where the row is dropped; or its failure. -/
def State.stageRow (s : State) (core tenant : Nat) (d : TileDesc) (src : Rec) (r : Nat) :
    Except (DWord × TrapCode) (List RowPart) :=
  let n := spanBytes src.fmt d.cols
  let o := rowOff d src r
  match resolveOff src o n with
  | .error _ => .error (recAddr src o, .bounds)
  | .ok none => .ok []
  | .ok (some o) =>
    let va := recAddr src o
    if va.toNat % elemAlign src.fmt ≠ 0 ∨ (src.fmt.width = 4 ∧ d.col0 % 2 = 1) then .error (va, .misalign)
    else
      let ps := s.rowParts (agentEngine tenant core) src hRead o n
      match firstSome (fun p => match p.loc with
          | .error f => some (p.va, f.code)
          | .ok l => (l.badAddr (s.readLoc core l p.len).2.bad).map (fun a => (a, .poison))) ps with
      | some e => .error e
      | none => .ok ps

/-- R303: the source record of a tile, or its failure. -/
def State.stageRecord (s : State) (core tenant : Nat) (d : TileDesc) : Except (DWord × TrapCode) (State × Rec) :=
  let va : DWord := BitVec.ofNat 64 d.recAddr
  if d.recAddr % 32 ≠ 0 then .error (va, .misalign)
  else match s.translate (agentEngine tenant core) hRead false va with
    | .error f => .error (va, f.code)
    | .ok l =>
      let r := s.readLoc core l 32
      if !r.2.bad.isEmpty then .error (va, .poison)
      else
        let src : Rec := ofBytes 256 r.2.bytes
        if !src.ok || src.space != 0 then .error (va, .invop)
        else if d.attic && (64 < d.cols || 1024 * 8 < d.rows * src.fmt.width) then .error (va, .bounds)
        else .ok (r.1, src)

/-- R302: the record a staged tile is given. -/
def stagedRec (d : TileDesc) (src : Rec) (dst : Alloc) : Rec :=
  let b := elemAlign src.fmt
  let r : Rec := setField (setField (setField 0 171 168 src.fmt.code) 173 172 src.lw) 183 182 src.qg
  match dst with
  | .stage off _ =>
    let st := stageStride d src.fmt
    Rec.seal (setField (setField (setField (setField (setField r 63 0 off) 103 64 (d.rows * st)) 135 104 src.laneBytes)
      167 136 st) 178 176 5)
  | .attic n =>
    Rec.seal (setField (setField (setField (setField (setField r 63 0 (n * 0x10000)) 103 64 0x10000) 135 104 0x400)
      167 136 b) 178 176 4)

/-- R302: the elements of a row written to the stage area. The half byte behind an odd row of INT4Q is no element and
keeps what it held. -/
def State.putStage (s : State) (core tenant off : Nat) (d : TileDesc) (f : Fmt) (r : Nat) (bs : List Byte) : State :=
  let k := keyNear core (nearSize - s.stageBytes tenant + off + r * stageStride d f)
  let half (b : Byte) : Byte := (s.rd8 (k + bs.length - 1) &&& 0xF0) ||| (b &&& 0x0F)
  s.placePlain k (if d.cols * f.width % 8 = 4 then bs.dropLast ++ (bs.getLast?.map half).toList else bs)

/-- R302: a row written to an attic slot, an element to each column bank. -/
def State.putAttic (s : State) (core slot : Nat) (d : TileDesc) (f : Fmt) (r : Nat) (bs : List Byte) : State :=
  let w := f.width
  let x := natOfBytes bs
  (List.range d.cols).foldl (fun s c =>
    let v := x / 2 ^ (w * c) % 2 ^ w
    let k := keyAttic core (slot * 0x10000 + c * 0x400 + r * w / 8)
    if w = 4 then
      let old := (s.rd8 k).toNat
      let new := if r % 2 = 0 then old / 16 * 16 + v else old % 16 + v * 16
      s.placePlain k [BitVec.ofNat 8 new]
    else s.placePlain k (toBytes (w / 8) (BitVec.ofNat w v))) s

/-- R303: the bytes of a resolved row. -/
def State.rowBytes (s : State) (core tenant n : Nat) (ps : List RowPart) : State × List Byte :=
  if ps.isEmpty then (s, List.replicate n 0)
  else ps.foldl (fun acc p => match p.loc with
    | .ok l =>
      let r := (acc.1.touchPart tenant l p.len false).readLoc core l p.len
      (r.1, acc.2 ++ r.2.bytes)
    | .error _ => acc) (s, [])

/-! ## Space (R311, R312) -/

/-- The space of a core that tasks and entries hold. -/
def State.allocated (s : State) (core : Nat) : List Alloc :=
  (s.groups.filter (fun g => g.core == core)).flatMap (·.alloc) ++
    (s.core? core).rack.flatMap (fun e => e.tiles.map (·.dst))

/-- Does a run of the stage area touch an allotment? -/
def Alloc.meets (a : Alloc) (off len : Nat) : Bool := match a with
  | .stage o l => o < off + len && off < o + l
  | .attic _ => false

/-- R311: where a run of `len` bytes fits in the stage area, in granules of 256 bytes. -/
def stageFits (size len : Nat) (used : List Alloc) : List Nat :=
  ((List.range (size / 256)).map (· * 256)).filter (fun off => off + len ≤ size && used.all (fun a => !a.meets off len))
/-- R311: the attic slots that are free. -/
def atticFits (used : List Alloc) : List Nat := (List.range 16).filter (fun n => used.all (fun a => a != .attic n))

/-- A tile to be placed: member, descriptor number, descriptor, source record. -/
structure Want where
  member : Nat
  num : Nat
  desc : TileDesc
  src : Rec

/-- R311: the granule-rounded bytes of a STAGE tile. -/
def Want.len (w : Want) : Nat := (w.desc.rows * stageStride w.desc w.src.fmt + 255) / 256 * 256

/-- R311: place tiles one after another, each at the place that `choose` picks among those that are free. -/
def placeTiles (size : Nat) (choose : Nat → List Nat → Nat) : (i : Nat) → List Want → List Alloc → Option (List TileIn)
  | _, [], _ => some []
  | i, w :: ws, used =>
    let opts := if w.desc.attic then atticFits used else stageFits size w.len used
    if opts.isEmpty then none
    else
      let at_ := choose i opts
      let a : Alloc := if w.desc.attic then .attic at_ else .stage at_ w.len
      (placeTiles size choose (i + 1) ws (a :: used)).map (fun ts => ⟨w.member, w.num, w.src, a, w.desc.rows, 0⟩ :: ts)

/-- R311: place tiles one after another, if any arrangement holds them all: runs that start where another ends, or at 0, are
enough to find one. -/
def searchTiles (size : Nat) : List Want → List Alloc → Option (List TileIn)
  | [], _ => some []
  | w :: ws, used =>
    let put (a : Alloc) : Option (List TileIn) :=
      (searchTiles size ws (a :: used)).map (fun ts => ⟨w.member, w.num, w.src, a, w.desc.rows, 0⟩ :: ts)
    if w.desc.attic then (atticFits used).head?.bind (fun n => put (.attic n))
    else
      let starts := 0 :: used.filterMap (fun a => match a with
        | .stage o l => some (o + l)
        | .attic _ => none)
      firstSome (fun off => if (stageFits size w.len used).contains off then put (.stage off w.len) else none) starts

/-- R311: all tiles of an entry allotted together or not at all; which granules and slots is open. -/
def State.allot (s : State) (core tenant : Nat) (ws : List Want) : Option (List TileIn) :=
  let used := s.allocated core
  let size := s.stageBytes tenant
  let any (i : Nat) (opts : List Nat) : Nat := opts.getD (s.free .placement (4096 * core + i) % opts.length) 0
  match placeTiles size any 0 ws used with
  | some ts => some ts
  | none => searchTiles size ws used

/-- R312: the tile at which an entry needs more than there is, in the granules that it would be allotted. -/
def overFull (size : Nat) : (sum slots : Nat) → List Want → Option Want
  | _, _, [] => none
  | sum, slots, w :: ws =>
    if w.desc.attic then (if slots = 16 then some w else overFull size sum (slots + 1) ws)
    else
      let n := sum + w.len
      if size < n then some w else overFull size n slots ws

/-! ## Faulting an entry (R148, R303, R310) -/

/-- R310: an entry goes to FAULTED: each member with its own failure, the others with the first. -/
def State.faultEntry (s : State) (core : Nat) (e : Entry) (fails : List (Nat × DWord × TrapCode)) : State :=
  let tenant := (s.coreTenant core).getD 0
  let s := s.updCore core (fun c => { c with rack := c.rack.filter (fun x => x.eid != e.eid) })
  let first : DWord × TrapCode := (fails.head?.map (·.2)).getD (0, .invop)
  let s := e.members.zipIdx.foldl (fun s p =>
    let f := (getKey p.2 fails).getD first
    let s := s.failUnstarted core tenant p.1 (.fail (BitVec.ofNat 8 f.2.num) f.1)
    let s := s.clock
    (s.pushRecord (((s.tenant? tenant).map (·.errq)).getD 0)
      (trapRecord p.1.tid (tEntry p.1.record).toNat f.1.toNat 0 0 s.time (infoWord true false 0 0 0 0 f.2.num)
        (coreIdWord core).toNat tenant 0xFF 0 0)).1) s
  s.unfuse (clusterOf core)

/-! ## The prefetch engine (R310, R311) -/

/-- R148, R149, R234: does a member's record pass its checks? FLAGS.TEAM is that of what made the task. -/
def memberOk (t : TaskRec) (tenant : Nat) : Bool :=
  taskRecordOk t.record tenant && (match t.origin with
    | .single => tTeam t.record == 0 && tCrew t.record == 0
    | .team n => tTeam t.record == n && tCrew t.record == 0
    | .seat => tTeam t.record == 0)

/-- R234, R310: the failures of the records of an entry: one that fails, fails the whole unit, and each member's cell names its own
ENTRY, as R234 says of records; that R310's code and address of the failing member are then those of tiles is the model's reading
(notes/assumptions/33.md). -/
def recordFails (e : Entry) (tenant : Nat) : List (Nat × DWord × TrapCode) :=
  if e.members.all (fun t => memberOk t tenant) then []
  else e.members.zipIdx.map (fun p => (p.2, tEntry p.1.record, .invop))

/-- The present tiles of an entry: member, descriptor number, descriptor. -/
def entryTiles (e : Entry) : List (Nat × Nat × TileDesc) :=
  e.members.zipIdx.flatMap (fun p => (presentTiles p.1.record).map (fun d => (p.2, d.1, d.2)))

/-- R303: the first failure of each member's tiles in flight, by the source records their staging took; rows that have arrived
do not fail. -/
def State.flightFails (s : State) (core tenant : Nat) (e : Entry) : List (Nat × DWord × TrapCode) :=
  let rowsFail (t : TileIn) : Option (DWord × TrapCode) :=
    lowestFail ((List.range (t.rows - t.done)).filterMap (fun i =>
      match s.stageRow core tenant (t.desc? e.members) t.src (t.done + i) with
      | .error f => some f
      | .ok _ => none))
  (List.range e.members.length).filterMap (fun k =>
    (firstSome rowsFail (e.tiles.filter (fun t => t.member == k))).map (fun f => (k, f)))

/-- A failure of a tile of an entry: its member and descriptor number, the address, the code. -/
abbrev TileFail : Type := Nat × Nat × DWord × TrapCode

/-- R303: the source records of an entry's tiles, one after another: the tiles whose records pass, and the failures of the others. -/
def State.wants (s : State) (core tenant : Nat) (e : Entry) : State × List Want × List TileFail :=
  (entryTiles e).foldl (fun acc t => match acc.1.stageRecord core tenant t.2.2 with
    | .ok (s, src) => (s, acc.2.1 ++ [⟨t.1, t.2.1, t.2.2, src⟩], acc.2.2)
    | .error f => (acc.1, acc.2.1, acc.2.2 ++ [(t.1, t.2.1, f)])) (s, [], [])

/-- R303: the failures of the rows of tiles whose records pass. -/
def State.rowFailures (s : State) (core tenant : Nat) (ws : List Want) : List TileFail :=
  ws.filterMap (fun w => (lowestFail ((List.range w.desc.rows).filterMap (fun r =>
    match s.stageRow core tenant w.desc w.src r with
    | .error f => some f
    | .ok _ => none))).map (fun f => (w.member, w.num, f)))

/-- R303: the failures of an entry's tiles by member, those of lower-numbered descriptors first. -/
def inDescOrder (e : Entry) (fails : List TileFail) : List (Nat × DWord × TrapCode) :=
  (entryTiles e).filterMap (fun t => (fails.find? (fun f => f.1 == t.1 && f.2.1 == t.2.1)).map (fun f => (t.1, f.2.2)))

/-- Change an entry of a rack. -/
def State.updEntry (s : State) (core eid : Nat) (f : Entry → Entry) : State :=
  s.updCore core (fun c => { c with rack := updWhere (fun e => e.eid == eid) f c.rack })

/-- R310 to R312: the engine considers a WAIT-STAGE entry; none where its tiles do not fit now. -/
def State.consider (s : State) (core tenant : Nat) (e : Entry) : Option State :=
  let bad := recordFails e tenant
  if !bad.isEmpty then some (s.faultEntry core e bad)
  else
    let s := s.acquire core .module
    let q := s.wants core tenant e
    let t := q.1
    if !q.2.2.isEmpty then some (t.faultEntry core e (inDescOrder e (q.2.2 ++ t.rowFailures core tenant q.2.1)))
    else match overFull (s.stageBytes tenant) 0 0 q.2.1 with
      | some w => some (t.faultEntry core e [(w.member, BitVec.ofNat 64 w.desc.recAddr, .bounds)])
      | none =>
        if q.2.1.isEmpty then some (t.updEntry core e.eid (fun e => { e with st := .runnable }))
        else (t.allot core tenant q.2.1).map (fun ts =>
          t.updEntry core e.eid (fun e => { e with st := .staging, tiles := ts }))

/-- May the core take work (R306, R375, R411)? -/
def State.working (s : State) (core : Nat) : Bool :=
  let c := s.core? core
  (s.coreTenant core).isSome && !c.preempting && !c.saved && !(s.die? (dieOf core)).shut

/-- R311: the engine takes the entry nearest the hot end that it can. -/
def State.prefetch (s : State) (core : Nat) : State :=
  let c := s.core? core
  if !s.working core || 8 ≤ (c.rack.filter (fun e => e.st == .staging)).length then s
  else
    (firstSome (fun e => s.consider core ((s.coreTenant core).getD 0) e)
      (c.rack.filter (fun e => e.st == .waitStage && !e.held)).reverse).getD s

/-- R311: PREFETCH_TAKE. -/
def execPrefetchTake (core : Nat) (s : State) : Host.Outcome State Fault Refusal := event s (fun s => s.prefetch core)

/-- R303, R310: the next row of an entry arrives. -/
def State.stageArrive (s : State) (core eid : Nat) : State :=
  match (s.core? core).rack.find? (fun e => e.eid == eid) with
  | none => s
  | some e =>
    if e.st ≠ .staging then s
    else match e.tiles.find? (fun t => t.done < t.rows) with
      | none => s
      | some t =>
        let tenant := (s.coreTenant core).getD 0
        let d := t.desc? e.members
        match s.stageRow core tenant d t.src t.done with
        | .error _ => s.faultEntry core e (s.flightFails core tenant e)
        | .ok ps =>
          let r := s.rowBytes core tenant (spanBytes (Rec.fmt t.src) d.cols) ps
          let s := match t.dst with
            | .stage off _ => r.1.putStage core tenant off d (Rec.fmt t.src) t.done r.2
            | .attic n => r.1.putAttic core n d (Rec.fmt t.src) t.done r.2
          s.updEntry core eid (fun e =>
            let ts := updWhere (fun x => x.member == t.member && x.desc == t.desc) (fun x => { x with done := x.done + 1 }) e.tiles
            { e with tiles := ts, st := if ts.all (fun x => x.done = x.rows) then .runnable else .staging })

/-- R303: STAGING_ROW_ARRIVE. -/
def execStagingRowArrive (core eid : Nat) (s : State) : Host.Outcome State Fault Refusal :=
  event s (fun s => s.stageArrive core eid)

/-! ## Pops (R155, R314, R374) -/

/-- R156: the group slots of a core that are free. -/
def State.freeSlots (s : State) (core : Nat) : List Nat :=
  let used := (s.groups.filter (fun g => g.core == core)).filterMap (·.slot)
  (List.range 256).filter (fun i => !used.contains i)

/-- R314: does an entry fit the free slots and the team table? -/
def Entry.fits (e : Entry) (free teams : Nat) : Bool :=
  let team := e.members.any (fun t => match t.origin with
    | .team _ => true
    | _ => false)
  e.slots ≤ free && (!team || teams < 256)

/-- R314: the choice of a pop: the entries it skips, and the entry it takes. A unit that has been skipped 64 times is
held, and nothing else is popped from then on. -/
def popChoose (free teams : Nat) : List Entry → List Nat × Option Entry
  | [] => ([], none)
  | e :: es =>
    if e.fits free teams then ([], some e)
    else if 64 ≤ e.skips + 1 then ([e.eid], none)
    else
      let r := popChoose free teams es
      (e.eid :: r.1, r.2)

/-- R373: the size of a task's image. -/
def imageOf (tid : Nat) : Nat := min 32768 (Config.imageSize tid)

/-- R374, R375: every group that has an image: the started ones, and those that pre-emption has saved. -/
def State.imaged (s : State) : List Group := s.groups ++ s.saves.flatMap (·.groups)
/-- Some images, in bytes. -/
def imageSum (ts : List Nat) : Nat := (ts.map imageOf).sum
/-- R374: what the spilled images of a tenant take of its one spill area, from whatever die. -/
def State.spillUse (s : State) (tenant : Nat) : Nat :=
  imageSum ((s.imaged.filter (fun g => g.tenant == tenant && g.spilled)).map (·.tid))
/-- R374: an image goes to its tenant's spill area. -/
def State.spillImage (s : State) (tid : Nat) : State :=
  let out (g : Group) : Group := if g.tid = tid then { g with spilled := true } else g
  { s with groups := s.groups.map out, saves := s.saves.map (fun b => { b with groups := b.groups.map out }) }
/-- R374, R183: the images that lie in the backing region of a die, where some groups are to start or resume. -/
def State.regionUse (s : State) (die : Nat) (tids : List Nat) : Nat :=
  imageSum (tids ++ (s.imaged.filter (fun g => dieOf g.core == die && !g.spilled && !tids.contains g.tid)).map (·.tid))

/-- R374: parked images are spilled, those parked longest first, until the region has room or none is left that a spill area holds. -/
def State.spillFor (s : State) (die : Nat) (tids : List Nat) : List Group → State × Bool
  | [] => (s, s.regionUse die tids ≤ 2 ^ 29)
  | g :: gs =>
    if s.regionUse die tids ≤ 2 ^ 29 then (s, true)
    else
      let room := ((s.tenant? g.tenant).map (·.spillSize)).getD 0
      (if s.spillUse g.tenant + imageOf g.tid ≤ room then s.spillImage g.tid else s).spillFor die tids gs

/-- R374: room in the backing region of a die for more groups to start or resume, and whether there is any. The images of pre-empted
groups lie there as those of parked ones do (R375). -/
def State.imageRoom (s : State) (core : Nat) (tids : List Nat) : State × Bool :=
  let here := s.imaged.filter (fun g => dieOf g.core == dieOf core)
  if 32768 * (here.length + tids.length) ≤ 2 ^ 29 then (s, true)
  else
    let parked := here.filter (fun g => (g.slot.isNone || s.groups.all (fun x => x.tid != g.tid)) && !g.spilled && !tids.contains g.tid)
    s.spillFor (dieOf core) tids (sortBy (fun a b => decide (a.parkedAt ≤ b.parkedAt)) parked)

/-- R55: the stochastic-rounding state of a lane at the start of a task. -/
def lfsrStart (tid : Nat) (l : Fin 16) : Word :=
  let x : Word := BitVec.ofNat 32 tid ^^^ BitVec.ofNat 32 (tid / 2 ^ 32)
  let v : Word := x + BitVec.ofNat 32 ((l.val + 1) * 0x9E3779B9)
  if v = 0 then 1 else v

/-- R155, R302: the q registers of a task at its start. -/
def startQ (e : Entry) (member : Nat) : Vector (BitVec 256) 16 :=
  (e.tiles.filter (fun t => t.member == member)).foldl (fun v t =>
    let d := t.desc? e.members
    vset v d.qreg (stagedRec d t.src t.dst)) (Vector.replicate 16 0)

/-- R155: the context of a task when it starts. Its rows are all in the register file (R166), which is the model's choice
(notes/assumptions/13.md). -/
def startGroup (core slot tenant time : Nat) (e : Entry) (member : Nat) (t : TaskRec) (team : Option Member) : Group :=
  let pc := tEntry t.record
  let sp := { Split.init with entry := some 0, lanes := 0xFFFF, pc := pc, wpc := pc, after := pc }
  { Group.init with
      tid := t.tid, core := core, slot := some slot, tenant := tenant, record := t.record, launch := t.launch,
      shi := Vector.ofFn (fun (i : Fin 48) => if i.val < 16 then 0 else tArg t.record (i.val - 16)),
      qregs := startQ e member, lfsr := Vector.ofFn (lfsrStart t.tid), splits := [sp], nextSid := 1,
      wdogMark := (0, time), teams := Vector.ofFn (fun (i : Fin 4) => if i.val = 0 then team else none),
      alloc := (e.tiles.filter (fun x => x.member == member)).map (·.dst) }

/-- R155, R178, R233, R241: the tasks of an unstarted entry start in free slots. -/
def State.startEntry (s : State) (core : Nat) (e : Entry) : State :=
  let tenant := (s.coreTenant core).getD 0
  let s := s.clock
  let s := s.acquire core .module
  let isTeam := e.members.any (fun t => match t.origin with
    | .team _ => true
    | _ => false)
  let r := s.fresh
  let tm : TeamEntry := ⟨r.2, e.members.length, none, e.members.zipIdx.map (fun p => (p.2, p.1.tid)), [], 0, [], [], []⟩
  let s := if isTeam then r.1.updCore core (fun c => { c with teams := c.teams ++ [tm] }) else s
  let slots := s.freeSlots core
  let gs := e.members.zipIdx.map (fun p =>
    startGroup core (slots.getD p.2 0) tenant s.time e p.2 p.1 (if isTeam then some ⟨r.2, p.2⟩ else none))
  let s := { s with groups := gs ++ s.groups }.makeRoom core (0, 0)
  if e.members.any (fun t => t.launch.fuse && t.launch.root.isSome) then s.fuse (clusterOf core) else s

/-- R165, R322: a group that parked takes a slot again, with those of its rows that are still in the register file. -/
def State.resumeGroup (s : State) (core tid : Nat) : State :=
  let slot := (s.freeSlots core).headD 0
  s.updGroup tid (fun g => { g with slot := some slot, credit := 0, age := 0, wasReady := false, spilled := false })

/-- R314, R374: the tasks that an entry puts into slots. -/
def Entry.tids (e : Entry) : List Nat := match e.resume with
  | some t => [t]
  | none => e.members.map (·.tid)

/-- R314: the entries a core may pop, from the end at which the next pop starts. -/
def CoreSt.popList (c : CoreSt) : List Entry :=
  let es := c.rack.filter (fun e => e.st == .runnable && !e.held)
  match es.find? (fun e => e.skips == 64) with
  | some e => [e]
  | none => if (c.pops + 1).toNat % 4096 = 0 then es else es.reverse

/-- R314: pop. -/
def State.pop (s : State) (core : Nat) : State :=
  let c := s.core? core
  let free := (s.freeSlots core).length
  let es := c.popList
  if !s.working core || free = 0 || es.isEmpty || es.any (fun e => e.skips == 64 && !e.fits free c.teams.length) then s
  else
    let q := popChoose free c.teams.length es
    match q.2 with
    | none =>
      s.updCore core (fun c =>
        let rack := updWhere (fun (e : Entry) => q.1.contains e.eid) (fun e => { e with skips := e.skips + 1 }) c.rack
        { c with pops := c.pops + 1, rack := rack })
    | some e =>
      let room := s.imageRoom core e.tids
      let s := room.1
      if !room.2 then
        if c.waits then s
        else
          let tenant := (s.coreTenant core).getD 0
          (s.errRec tenant 6 0 (((s.tenant? tenant).map (·.spill)).getD 0) e.slots 0 (some core)).updCore core
            (fun c => { c with waits := true })
      else
        let s := s.updCore core (fun c =>
          let rest := updWhere (fun x => q.1.contains x.eid) (fun (x : Entry) => { x with skips := x.skips + 1 })
            (c.rack.filter (fun x => x.eid != e.eid))
          CoreSt.unidle { c with pops := c.pops + 1, waits := false, rack := rest })
        match e.resume with
        | some t => s.resumeGroup core t
        | none => s.startEntry core e

/-- R314: POP. -/
def execPop (core : Nat) (s : State) : Host.Outcome State Fault Refusal := event s (fun s => s.pop core)

/-! ## Stealing (R316 to R319) -/

/-- R316: is a core idle for stealing? -/
def State.idle (s : State) (core : Nat) : Bool :=
  let c := s.core? core
  s.working core && c.rack.isEmpty && c.inbound.isEmpty && !(s.freeSlots core).isEmpty

/-- The cores of a tenant. -/
def Tenant.coreList (t : Tenant) : List Nat := (List.range 1152).filter (fun c => t.cores.getLsbD c)

/-- R316: an idle core starts a round. -/
def State.stealRound (s : State) (core : Nat) : State :=
  let c := s.core? core
  if !s.idle core || !c.probes.isEmpty then s
  else
    let began := c.cycles
    let s := s.cycle core
    let all := (((s.coreTenant core).bind s.tenant?).map Tenant.coreList).getD []
    let others := all.filter (fun d => d != core)
    let near := others.filter (fun d => clusterOf d == clusterOf core)
    let die := others.filter (fun d => dieOf d == dieOf core && clusterOf d != clusterOf core)
    let far := others.filter (fun d => dieOf d != dieOf core)
    let ps := s.shuffle .stealOrder near ++ s.shuffle .stealOrder die ++ (if c.nearRound then s.shuffle .stealOrder far else [])
    s.updCore core (fun c => { c with probes := ps, idleSince := some (c.idleSince.getD began),
                                      nearRound := c.nearRound || ps.isEmpty })

/-- R316: STEAL_ROUND. -/
def execStealRound (core : Nat) (s : State) : Host.Outcome State Fault Refusal := event s (fun s => s.stealRound core)

/-- R317: the staged bytes of an entry; none where a source record cannot be read or is bad. -/
def State.stagedBytes (s : State) (core tenant : Nat) (e : Entry) : Option Nat :=
  (entryTiles e).foldl (fun acc t => match acc with
    | none => none
    | some n =>
      let va : DWord := BitVec.ofNat 64 t.2.2.recAddr
      match s.translate (agentEngine tenant core) hRead false va with
      | .error _ => none
      | .ok l =>
        let r := s.readLoc core l 32
        let src : Rec := ofBytes 256 r.2.bytes
        if t.2.2.recAddr % 32 ≠ 0 ∨ !r.2.bad.isEmpty ∨ !src.ok then none
        else some (n + t.2.2.rows * spanBytes src.fmt t.2.2.cols)) (some 0)

/-- R317: may a thief take an entry of a victim? -/
def State.mayTake (s : State) (thief victim tenant : Nat) (e : Entry) : Bool :=
  if dieOf thief = dieOf victim then true
  else match s.tenant? tenant with
    | none => false
    | some t =>
      let c := s.core? thief
      let idle := c.cycles - c.idleSince.getD c.cycles
      t.locDepth.toNat ≤ (s.core? victim).depth && t.locIdle.toNat ≤ idle &&
        (match s.stagedBytes victim tenant e with
          | some n => n ≤ t.locBytes.toNat
          | none => false)

/-- R317: an entry as a thief or a victim's cold end receives it. -/
def Entry.unstaged (e : Entry) : Entry := { e with st := .waitStage, tiles := [], skips := 0 }

/-- R317: the victim answers the next probe of a thief's round. -/
def State.stealProbe (s : State) (thief victim : Nat) : State :=
  let c := s.core? thief
  if c.probes.head? ≠ some victim then s
  else if !s.idle thief then s.updCore thief CoreSt.unidle
  else
    let s := s.cycle thief
    let tenant := (s.coreTenant thief).getD 0
    let v := s.core? victim
    let got : Option Entry :=
      if s.coreTenant victim ≠ some tenant ∨ !s.working victim then none
      else (v.rack.find? (fun e => e.resume.isNone)).filter (fun e => !e.held && s.mayTake thief victim tenant e)
    match got with
    | none => s.updCore thief (fun c => { c with probes := c.probes.drop 1, nearRound := c.nearRound || c.probes.length ≤ 1 })
    | some e =>
      (s.updCore victim (fun c => { c with rack := c.rack.filter (fun x => x.eid != e.eid) })).updCore thief
        (fun c => CoreSt.unidle { c with inbound := c.inbound ++ [⟨victim, e.unstaged⟩] })

/-- R317: STEAL_PROBE. -/
def execStealProbe (thief victim : Nat) (s : State) : Host.Outcome State Fault Refusal :=
  event s (fun s => s.stealProbe thief victim)

/-- R317: a stolen entry arrives, or goes back to the victim's cold end. -/
def State.stealDeliver (s : State) (thief : Nat) : State :=
  match (s.core? thief).inbound with
  | [] => s
  | i :: rest =>
    let s := s.updCore thief (fun c => { c with inbound := rest })
    let s := if i.entry.slots ≤ (s.core? thief).rackFree then s.rackPush thief i.entry
      else s.updCore i.victim (fun c => { c with rack := i.entry :: c.rack }.unidle)
    (s.unfuse (clusterOf i.victim)).unfuse (clusterOf thief)

/-- R317: STEAL_DELIVERY. -/
def execStealDelivery (thief : Nat) (s : State) : Host.Outcome State Fault Refusal := event s (fun s => s.stealDeliver thief)

end Sys2Proof.Machine
end

