-- ==== Sys2Proof/Machine/System.lean ====
section
/-!
DEFINITION. CSRs and time (R100 to R102), with every CSR of the spec (R55, R143 to R147, R168, R172, R184 to R187, R190,
R194, R309, R320, R326, R338, R348, R366, R372, R411), and the word that is no instruction (R30).
-/

namespace Sys2Proof.Machine

open Sys2Proof

/-- The issuing tenant's value of a field. -/
def State.tenantWord (s : State) (f : Tenant → Word) : Word := ((s.tenant? s.g.tenant).map f).getD 0

/-- The issuing tenant's share of the issuing core's die. -/
def State.myDie (s : State) : TenantDie := s.tdie? s.g.tenant (dieOf s.here)

/-- R366: a register of the handler. -/
def State.handlerReg (s : State) (f : HandlerSt → Word) : Res Word :=
  match s.g.handler with
  | some h => if s.sp.handler then .ok (f h) else trapOf .invop
  | none => trapOf .invop

/-- A bit of a register. -/
def bitAt (b : Bool) (i : Nat) : Nat := if b then 2 ^ i else 0

/-- R190: CELLAR.STATUS. -/
def State.cellarStatus (s : State) : Word :=
  BitVec.ofNat 32 (bitAt (s.die? (dieOf s.here)).hot 0 + bitAt s.myDie.change.isSome 1 + bitAt s.myDie.hotSeen 2)

/-- R411: PWR.STATUS. -/
def State.pwrStatus (s : State) : Word :=
  BitVec.ofNat 32 (bitAt s.powerLow 0 + bitAt (s.die? (dieOf s.here)).therm 1 +
    bitAt (((s.tenant? s.g.tenant).map (·.pwrSeen)).getD false) 2)

/-- R55: SR.SEED reads the lowest lane of the execute mask. -/
def State.seedRead (s : State) : Word :=
  match lowLane s.exec with
  | some l => s.g.lfsr[l]
  | none => 0

/-- R100: the value of a CSR. CELLAR.CARVE reads as the old carve while a change is in progress (R184), which is the model's
choice (notes/assumptions/40.md). -/
def State.csrRead (s : State) (n : Nat) : Res Word :=
  let td := s.myDie
  if n = 0x0001 then .ok (coreIdWord s.here)
  else if n = 0x0002 then .ok (BitVec.ofNat 32 s.g.tid)
  else if n = 0x0003 then .ok (BitVec.ofNat 32 (s.g.tid / 2 ^ 32))
  else if n = 0x0010 then .ok (s.tenantWord (·.locDepth))
  else if n = 0x0011 then .ok (s.tenantWord (·.locBytes))
  else if n = 0x0012 then .ok (s.tenantWord (·.locIdle))
  else if n = 0x0020 then .ok (td.scr ++ td.cache)
  else if n = 0x0021 then .ok s.cellarStatus
  else if n = 0x0030 then .ok s.readStatus
  else if n = 0x0040 then .ok s.g.latLast
  else if n = 0x0041 then .ok s.g.latStall
  else if 0x0200 ≤ n ∧ n < 0x0280 then
    .ok (BitVec.ofNat 32 (s.sliceCnt (dieOf s.here) (n - 0x0200) s.g.tenant).occ)
  else if 0x0280 ≤ n ∧ n < 0x0300 then .ok (s.sliceCnt (dieOf s.here) (n - 0x0280) s.g.tenant).req
  else if n = 0x0400 then .ok s.seedRead
  else if n = 0x0401 then .ok 0
  else if n = 0x0402 then .ok (BitVec.ofNat 32 (td.snapOff * 1024))
  else if n = 0x0403 then .ok s.g.vrfMiss
  else if n = 0x0404 then .ok td.carveDone
  else if n = 0x0405 then .ok (BitVec.ofNat 32 (s.core? s.here).depth)
  else if n = 0x0406 then .ok s.g.coxWin
  else if n = 0x0407 then .ok s.g.mxKblk
  else if n = 0x0408 then .ok (s.tenantWord (fun t => BitVec.ofNat 32 t.watch.length))
  else if n = 0x0409 then .ok s.pwrStatus
  else if 0x0410 ≤ n ∧ n < 0x0420 then s.handlerReg (fun h => h.record.extractLsb' (32 * (n - 0x0410)) 32)
  else if n = 0x0420 then s.handlerReg (fun h => h.act.setWidth 32)
  else if n = 0x0421 then .ok (s.tenantWord (fun t => BitVec.ofNat 32 t.wdog))
  else trapOf .invop

/-- R24, R172: the CSRs that are read-only in every field; a write has no effect (R100). -/
def csrReadOnly (n : Nat) : Bool :=
  (0x0001 ≤ n && n ≤ 0x0003) || n == 0x0040 || (0x0200 ≤ n && n < 0x0300) || (0x0403 ≤ n && n ≤ 0x0408) || n == 0x0421

/-- R55: the lane states a write of SR.SEED gives. -/
def State.seedWrite (s : State) (v : Word) : State :=
  s.setLfsr (Vector.ofFn (fun l =>
    if s.exec.getLsbD l.val then lfsrFix (v + BitVec.ofNat 32 (l.val * 0x9E3779B9)) else s.g.lfsr[l]))

/-- R146: the snapshots of the windows still running in a tenant's tasks on a die: the word of a counter that has moved is
read again, or is final. -/
def State.snapMoved (s : State) (die slice tenant : Nat) : State :=
  let cnt := s.sliceCnt die slice tenant
  let see (s : State) (w : Nat × Nat × List Nat) (tid sid i : Nat) (x : Word) : State :=
    if w.1 ≠ die || w.2.2.contains i then s
    else if s.coin .memoryRace (16 * (256 * w.2.1 + i) + 1) then s.placePlain (w.2.1 + 4 * i) (toBytes 4 x)
    else s.updGroup tid (fun g => g.updSplit sid (fun p =>
      { p with wsnaps := p.wsnaps.map (fun v => if v = w then (v.1, v.2.1, i :: v.2.2) else v) }))
  let ws := (s.groups.filter (fun g => g.tenant == tenant)).flatMap (fun g =>
    g.splits.flatMap (fun p => p.wsnaps.map (fun w => (g.tid, p.sid, w))))
  ws.foldl (fun s x =>
    see (see s x.2.2 x.1 x.2.1 slice cnt.req) x.2.2 x.1 x.2.1 (128 + slice) (BitVec.ofNat 32 cnt.occ)) s

/-- R145, R147: SLICE.CLR. The split's own snapshots were read before it. Requests of later positions of its window are counted after
it, which is the model's choice (notes/assumptions/48.md). -/
def State.sliceClear (s : State) : State :=
  let die := dieOf s.here
  let mine := s.slices.filter (fun c => c.die == die && c.tenant == s.g.tenant)
  let s := { s with slices := s.slices.filter (fun c => !(c.die == die && c.tenant == s.g.tenant)),
                    sp := { s.sp with wsnaps := [] } }
  s.wide (fun t => mine.foldl (fun t c => t.snapMoved die c.slice c.tenant) t)

/-- R146: the snapshot block. -/
def State.snapBlock (s : State) : List Byte :=
  let cnt (i : Nat) : SliceCnt := s.sliceCnt (dieOf s.here) i s.g.tenant
  (List.range 128).flatMap (fun i => toBytes 4 (cnt i).req) ++
    (List.range 128).flatMap (fun i => toBytes 4 (BitVec.ofNat 32 (cnt i).occ))

/-- R145, R146: SLICE.SNAP stores the counters in the tenant's SCRATCH. -/
def State.sliceSnapshot (s : State) (v : Word) : Res State :=
  let off := field v 20 10
  if 1024 * off + 1024 ≤ nearSize - s.stageBytes s.g.tenant then
    let s := s.updTdie s.g.tenant (dieOf s.here) (fun t => { t with snapOff := off })
    let k := keyNear s.here (1024 * off)
    let s := s.storeLoc ⟨k, BitVec.ofNat 64 (1024 * off), .near, none⟩ s.snapBlock
    .ok { s with sp := { s.sp with wsnaps := (dieOf s.here, k, []) :: s.sp.wsnaps } }
  else trapAt .bounds (BitVec.ofNat 64 (1024 * off)) .write

/-- R101: one bit of STATUS cleared. Each setting of it that may not be made yet is made before the clear, and cleared, or after it;
a merge of this issue cycle too. -/
def State.bitClear (s : State) (i : Nat) : State :=
  let merged := s.g.smixAt.any (fun t => s.cycleAt ≤ t) && stSmix.getLsbD i && s.coin .windowStatus (8 + i)
  let all := s.settings i
  let late := all.filter (s.settingCoin i)
  let t := s.settingsGone i (all.filter (fun x => !late.contains x)) (fun sid => !merged && late.any (fun x => x.1 == sid))
  if merged || !late.isEmpty then t
  else { t with g := { t.g with status := t.g.status &&& ~~~BitVec.ofNat 4 (2 ^ i) } }

/-- R101: STATUS cleared where ones are written. -/
def State.statusClear (s : State) (v : Word) : State :=
  (List.range 4).foldl (fun s i => if s.g.status.getLsbD i && v.getLsbD i then s.bitClear i else s) s

/-- R398: the grants of the issuing tenant: bit 0 the carve, bit 1 locality control. -/
def State.granted (s : State) (i : Nat) : Bool := ((s.tenant? s.g.tenant).map (fun t => t.grants.getLsbD i)).getD false

/-- R184, R186: CELLAR.CARVE. -/
def State.carveWrite (s : State) (v : Word) : Res Act :=
  let scr : BitVec 16 := v.extractLsb' 16 16
  let cache : BitVec 16 := v.extractLsb' 0 16
  let d := dieOf s.here
  let allot := ((s.tenant? s.g.tenant).map (fun t => vget t.allot d 0)).getD 0
  if !s.granted 0 then trapOf .perm
  else if (scr ||| cache) &&& ~~~allot ≠ 0 then trapOf .perm
  else if scr &&& cache ≠ 0 then trapOf .invop
  else if s.myDie.change.isSome then .ok (.park s (.carve d))
  else .ok (.done (s.updTdie s.g.tenant d (fun t => { t with change := some (scr, cache) })))

/-- R320: a locality threshold. -/
def State.locWrite (s : State) (f : Tenant → Tenant) : Res Act :=
  if s.granted 1 then .ok (.done (s.updTenant s.g.tenant f)) else trapOf .perm

/-- R366: TRAP.ACT. -/
def State.actWrite (s : State) (v : Word) : Res Act :=
  match s.g.handler with
  | some h =>
    if !s.sp.handler || field v 1 0 = 3 then trapOf .invop
    else .ok (.done { s with g := { s.g with handler := some { h with act := v.extractLsb' 0 2 } } })
  | none => trapOf .invop

/-- R100: write a CSR. -/
def State.csrWrite (s : State) (n : Nat) (v : Word) : Res Act :=
  if csrReadOnly n then .ok (.done s)
  else if n = 0x0010 then s.locWrite (fun t => { t with locDepth := v })
  else if n = 0x0011 then s.locWrite (fun t => { t with locBytes := v })
  else if n = 0x0012 then s.locWrite (fun t => { t with locIdle := v })
  else if n = 0x0020 then s.carveWrite v
  else if n = 0x0021 then
    .ok (.done (if v.getLsbD 2 then s.updTdie s.g.tenant (dieOf s.here) (fun t => { t with hotSeen := false }) else s))
  else if n = 0x0030 then .ok (.done (s.statusClear v))
  else if n = 0x0041 then .ok (.done { s with g := { s.g with latStall := v } })
  else if n = 0x0400 then .ok (.done (s.seedWrite v))
  else if n = 0x0401 then .ok (.done s.sliceClear)
  else if n = 0x0402 then (s.sliceSnapshot v).map Act.done
  else if n = 0x0409 then
    .ok (.done (if v.getLsbD 2 then s.updTenant s.g.tenant (fun t => { t with pwrSeen := false }) else s))
  else if 0x0410 ≤ n ∧ n < 0x0420 then (s.handlerReg (fun _ => 0)).map (fun _ => Act.done s)
  else if n = 0x0420 then s.actWrite v
  else trapOf .invop

/-- R100: CSRR. -/
def execCsrr (sb : Bool) (x : Opnd) (num : BitVec 16) (s : State) : Host.Outcome State Fault Refusal :=
  issueDone (.csrr sb x num) s (fun s => do
    let v ← s.csrRead num.toNat
    .ok ((if num = 0x0030 then s.statusSeen else s).wS x v))

/-- R100: CSRW of a CSR that has no row of its own. -/
def execCsrw (sb : Bool) (x : Opnd) (num : BitVec 16) (s : State) : Host.Outcome State Fault Refusal :=
  issue (.csrw sb x num) s (fun s => s.csrWrite num.toNat (s.sval x))

/-- R55: CSRW to SR.SEED. -/
def execSrSeedWrite (sb : Bool) (x : Opnd) (s : State) : Host.Outcome State Fault Refusal :=
  issue (.srSeedWrite sb x) s (fun s => s.csrWrite 0x0400 (s.sval x))

/-- R145: CSRW to SLICE.CLR. -/
def execSliceClr (sb : Bool) (x : Opnd) (s : State) : Host.Outcome State Fault Refusal :=
  issue (.sliceClr sb x) s (fun s => s.csrWrite 0x0401 (s.sval x))

/-- R145, R146: CSRW to SLICE.SNAP. -/
def execSliceSnap (sb : Bool) (x : Opnd) (s : State) : Host.Outcome State Fault Refusal :=
  issue (.sliceSnap sb x) s (fun s => s.csrWrite 0x0402 (s.sval x))

/-- R184 to R186: CSRW to CELLAR.CARVE. -/
def execCellarCarveWrite (sb : Bool) (x : Opnd) (s : State) : Host.Outcome State Fault Refusal :=
  issue (.cellarCarveWrite sb x) s (fun s => s.csrWrite 0x0020 (s.sval x))

/-- R102: TIME. -/
def execTime (sb : Bool) (x : Opnd) (sel : Byte) (s : State) : Host.Outcome State Fault Refusal :=
  issueDone (.time sb x sel) s (fun s =>
    if sel = 0xF8 then
      let s := s.clock
      .ok (s.wD x (BitVec.ofNat 64 s.time))
    else if sel = 0xFB then
      let s := s.cycle s.here
      .ok (s.wD x (BitVec.ofNat 64 (s.core? s.here).cycles))
    else trapOf .invop)

/-- R30: a word that decodes to no instruction of the map traps INVOP where the split stands. -/
def execUndefinedEncoding (s : State) : Host.Outcome State Fault Refusal :=
  if s.running then .next (s.stop (.trap { code := .invop })) else .fault .noIssuingSplit

end Sys2Proof.Machine
end

