-- ==== Sys2Proof/Machine/Cycle.lean ====
section
/-!
DEFINITION. The steps of a core and of what answers it: the choice of a side (R94, R208, R323, R325), window ends (R159),
row fills (R166), traps and watchdogs (R220, R372), walks (R382), load data (R144, R159), the slice's deadline check (R353)
and the replies of the front end (R99, R401).
-/

namespace Sys2Proof.Machine

open Sys2Proof

/-! ## The choice of a side -/

/-- R206, R220, R358, R375: may the split issue? A group that stops starts no new window. -/
def Group.runnable (g : Group) (p : Split) : Bool :=
  p.st == .run && !p.stopped && (p.entry.isSome || p.handler) &&
    (!p.atBoundary || !(g.hold || g.wdog || (!p.handler && (!g.traps.isEmpty || g.handler.isSome))))

/-- R323: is a group ready? -/
def Group.ready (g : Group) : Bool := g.slot.isSome && g.splits.any g.runnable

/-- The groups whose slots belong to a side (R156). -/
def State.sideGroups (s : State) (core side : Nat) : List Group :=
  s.groups.filter (fun g => g.core == core && (match g.slot with
    | some i => i / 64 == side
    | none => false))

/-- R325: windows that a member has completed since its team was admitted. -/
def TeamEntry.windows (t : TeamEntry) (rank : Nat) (g : Group) : Nat :=
  g.coxWin.toNat - ((getKey rank t.base).getD 0)

/-- R325: the task that the cox marks for a team: of the members that hold slots, two or more, the one with the fewest
windows, ties to the lowest rank. -/
def State.coxMark (s : State) (t : TeamEntry) : Option Nat :=
  let ms := t.members.filterMap (fun m =>
    if t.gone.contains m.1 then none
    else (s.group? m.2).bind (fun g => if g.slot.isSome then some (m.1, g) else none))
  if ms.length < 2 then none
  else (maxBy (fun (m : Nat × Group) => -((t.windows m.1 m.2 * 16 + m.1 : Nat) : Int)) ms).map (fun m => m.2.tid)

/-- R323: the weight of a group. -/
def Group.weight (g : Group) (marks : List Nat) : Int :=
  ((1 + tPrio g.record) * (if marks.contains g.tid then 2 else 1) : Nat)

/-- The slot of a group, for ties (R323). -/
def Group.slotNo (g : Group) : Nat := g.slot.getD 256

/-- R323, R94: the group a side issues for, among its ready groups with this cycle's credit added: an overdue one first,
the oldest; else the one with the most credit that does not give way. -/
def chooseGroup (ready : List Group) : Option Group :=
  let due := ready.filter (fun g => 960 ≤ g.age)
  let open_ := ready.filter (fun g => !g.giveWay)
  let score (key : Int) (g : Group) : Int := key * 512 - (g.slotNo : Int)
  if !due.isEmpty then maxBy (fun g => score g.age g) due
  else maxBy (fun g => score g.credit g) (if open_.isEmpty then ready else open_)

/-- R208, R94: the order in which a group's runnable splits are considered: a split that has issued YIELD last, then the
highest selection count, then the lowest entry. -/
def splitOrder (a b : Split) : Bool :=
  if a.yielded ≠ b.yielded then b.yielded
  else if a.count ≠ b.count then b.count < a.count
  else a.entry.getD 0 ≤ b.entry.getD 0

/-- R208: the splits of the list that issue, no two on one quad. -/
def takeSplits : (used : List Nat) → List Split → List Split
  | _, [] => []
  | used, p :: ps =>
    let q := quadsOf p.lanes
    if q.all (fun x => !used.contains x) then p :: takeSplits (q ++ used) ps else takeSplits used ps

/-- R208: the chosen splits of a group, and the group with its counts moved on. -/
def Group.select (g : Group) : List Nat × Group :=
  let cand := sortBy splitOrder (g.splits.filter g.runnable)
  let sids := (sortBy (fun (a b : Split) => decide (a.entry.getD 0 ≤ b.entry.getD 0)) (takeSplits [] cand)).map (·.sid)
  let move (p : Split) : Split :=
    if !g.runnable p then { p with yielded := false }
    else if sids.contains p.sid then { p with count := 0, yielded := false }
    else { p with count := p.count + 1, yielded := false }
  (sids, { g with splits := g.splits.map move })

/-- R323: the credit and age a group of the side takes into this cycle. -/
def Group.enter (g : Group) (marks : List Nat) : Group :=
  if !g.ready then { g with credit := 0, age := 0, wasReady := false }
  else
    let g := if g.wasReady then g else { g with credit := 0, age := 0, wasReady := true }
    { g with credit := g.credit + g.weight marks }

/-- R323, R94: what a cycle of its side leaves a group with: it has given way, whether it was ready or not. -/
def Group.leave (g : Group) (chosen : Nat) (total : Int) : Group :=
  if !g.ready then { g with giveWay := false }
  else if g.tid = chosen then { g with credit := g.credit - total, age := 0, giveWay := false }
  else { g with age := g.age + 1, giveWay := false }

/-- R289: does an instruction enter a command into the matrix queue? -/
def isCommand : Instr → Bool
  | .mcfg _ _ _ | .mloop _ _ _ | .mopDrain _ _ _ | .mopDrainn _ _ _ | .mopFdrain _ _ _ | .mopZero _ _ | .mopRdrow _ _ _ |
    .mopWrrow _ _ _ => true
  | _ => false

/-- R219: does the split issue a command to the matrix queue next? -/
def State.queuesNext (s : State) (tid sid : Nat) : Bool :=
  match (s.refocus tid sid []).fetch with
  | .ok (_, some i) => isCommand i
  | _ => false

/-- R219: an order in which the splits that `q` names stand as the second list has them. -/
def inOrder (q : Nat → Bool) : List Nat → List Nat → List Nat
  | [], _ => []
  | x :: xs, e :: es => if q x then e :: inOrder q xs es else x :: inOrder q xs (e :: es)
  | x :: xs, [] => x :: inOrder q xs []

/-- R323, R208: one issue cycle of a side: a group is chosen, and its splits begin to issue. A die that has shut down
issues nothing (R411). -/
def State.issueCycle (s : State) (core side : Nat) : State :=
  let marks := (s.core? core).teams.filterMap s.coxMark
  let mine := (s.sideGroups core side).map (fun g => g.enter marks)
  let ready := mine.filter Group.ready
  let total := (ready.map (fun g => g.weight marks)).sum
  let put (s : State) (gs : List Group) : State := gs.foldl (fun s g => s.updGroup g.tid (fun _ => g)) s
  if (s.die? (dieOf core)).shut then s
  else match chooseGroup ready with
  | none => put s (mine.map (fun g => { g with giveWay := false }))
  | some x =>
    let s := { put s (mine.map (fun g => g.leave x.tid total)) with cycleAt := s.tick }
    match s.group? x.tid with
    | none => s
    | some g =>
      let q := g.select
      -- R122, R210: in which order the reads and writes of one cycle fall is open
      let s := s.updGroup x.tid (fun _ => q.2)
      s.carryOn x.tid (inOrder (s.queuesNext x.tid) (s.shuffle .windowRead q.1) (q.1.filter (s.queuesNext x.tid)))

/-- R323: ISSUE_CYCLE. -/
def execIssueCycle (core side : Nat) (s : State) : Host.Outcome State Fault Refusal :=
  event s (fun s => s.issueCycle core side)

/-! ## Windows, rows, traps -/

/-- R159: WINDOW_COMPLETE. -/
def execWindowComplete (tid sid : Nat) (s : State) : Host.Outcome State Fault Refusal :=
  event s (fun s => s.completeWindow tid sid)

/-- R166, R167: a row that splits wait for arrives from the cellar; others leave to make room. -/
def State.rowFill (s : State) (tid reg : Nat) : State :=
  match s.group? tid with
  | none => s
  | some g =>
    if !g.splits.any (fun p => p.st == .res reg) then s
    else
      (s.updGroup tid (fun g => { g with absent := g.absent.filter (fun r => r != reg),
                                         splits := g.splits.map (fun p => if p.st = .res reg then { p with st := .run } else p) })).makeRoom
        g.core (tid, reg)

/-- R166: RESIDENCY_FILL. -/
def execResidencyFill (tid reg : Nat) (s : State) : Host.Outcome State Fault Refusal := event s (fun s => s.rowFill tid reg)

/-- R220: the splits of a group that stand at a window boundary meet what has come up since, the lowest entry first; then
the pending trap is taken if the group has stopped. -/
def State.settleTraps (s : State) (tid : Nat) : State :=
  match s.group? tid with
  | none => s
  | some g =>
    let edge := sortBy (fun (a b : Split) => decide (a.entry.getD 255 ≤ b.entry.getD 255))
      (g.splits.filter (fun p => p.atBoundary && !p.stopped && (p.entry.isSome || p.handler)))
    (edge.foldl (fun s p => s.atEdge tid p.sid) s).takeTrap tid

/-- R220, R364: TRAP_TAKEN. -/
def execTrapTaken (tid : Nat) (s : State) : Host.Outcome State Fault Refusal := event s (fun s => s.settleTraps tid)

/-- R372: has the limit passed for a group at a time? Time under fault service does not count. -/
def Group.overdue (g : Group) (limit time : Nat) : Bool :=
  limit != 0 && limit * 1000 ≤ (g.wdogOff.getD time) - g.wdogMark.2

/-- R372: the watchdog of a task. -/
def State.watchdog (s : State) (tid : Nat) : State :=
  let s := s.clock
  match s.group? tid with
  | none => s
  | some g =>
    if !g.wdog && g.overdue (((s.tenant? g.tenant).map (·.wdog)).getD 0) s.time then
      (s.updGroup tid (fun g => { g with wdog := true })).settleTraps tid
    else s

/-- R372: WATCHDOG. -/
def execWatchdog (tid : Nat) (s : State) : Host.Outcome State Fault Refusal := event s (fun s => s.watchdog tid)

/-! ## Walks, loads, the slice's check -/

/-- R382: does a split of a group wait for the walk of a page of its tenant on a die? -/
def Group.walks (g : Group) (die tenant page : Nat) : Bool :=
  dieOf g.core == die && g.tenant == tenant && g.splits.any (fun p => p.st == .walk page)

/-- R382: the misses of a die on a page end: with what the die's shared TLB holds, or with a walk. The shared TLB, the core and
every core of the die with a miss on the page in flight hold the result, and every split that waits for the page goes on. -/
def State.walkEnd (s : State) (core tenant page : Nat) : State :=
  let die := dieOf core
  let now := s.walkNow tenant page
  let e := s.pick .memoryRace (16 * page + 7) now (s.sharedTlb core tenant page)
  let take (l : List TlbEntry) : List TlbEntry := (e :: l.filter (fun x => !(x.tenant == tenant && x.page == page))).take 2048
  let cs := (core :: (s.groups.filter (fun g => g.walks die tenant page)).map (·.core)).dedup
  let s := cs.foldl (fun s c => s.updCore c (fun c => { c with tlb := take c.tlb })) s
  let others := s.dtlb.filter (fun x => !(x.1 == die && x.2.tenant == tenant && x.2.page == page))
  let s := { s with dtlb := (die, e) :: (others.filter (fun (x : Nat × TlbEntry) => x.1 != die) ++ (others.filter (fun (x : Nat × TlbEntry) => x.1 == die)).take 65535) }
  let go (p : Split) : Split := if p.st = .walk page then { p with st := .run } else p
  { s with groups := updWhere (fun g => g.walks die tenant page) (fun g => { g with splits := g.splits.map go }) s.groups }

/-- R382: PAGE_WALK_COMPLETE. -/
def execPageWalkComplete (core tenant page : Nat) (s : State) : Host.Outcome State Fault Refusal :=
  event s (fun s => s.walkEnd core tenant page)

/-- R144: the data or the completion of requests that hold entries of a slice, and for which no load or atomic stands, may have
left it; which have is open. -/
def State.leaveSlice (s : State) (die slice : Nat) : State :=
  { s with sreqs := s.sreqs.filter (fun r =>
      !(r.counted && r.load == 0 && r.port.isNone && r.die == die && r.slice == slice && s.coin .order (16 * r.id + 2))) }

/-- R144, R180: a slice whose entries are all in use serves one of them, in the order of arrival. -/
def State.serveFull (s : State) (die slice : Nat) : State :=
  let held := s.sreqs.filter (fun r => r.counted && r.port.isSome && r.die == die && r.slice == slice)
  if s.sliceUse die slice < 32 || 32 ≤ held.length then s
  else match s.sreqs.find? (fun r => r.die == die && r.slice == slice && s.servable r) with
    | some r => s.serve r
    | none => s

/-- R144, R196, R199: a request that waits enters its slice's queue, behind those that have arrived, where an entry is free, and is
counted; it may go on to a CXL port, and at one that has failed it receives poison. -/
def State.enterSlice (s : State) (id : Nat) : State :=
  match s.sreqs.find? (fun r => r.id == id && !r.counted) with
  | none => s
  | some r =>
    let s := (s.leaveSlice r.die r.slice).serveFull r.die r.slice
    if 32 ≤ s.sliceUse r.die r.slice || !s.sreqs.any (fun q => q.id == id) then s
    else
      let s := (s.countReq r.die r.slice r.tenant).snapMoved r.die r.slice r.tenant
      let dead := s.portDead (64 * r.sec)
      let q := if dead then (s, false, none) else s.belowSlice r
      { q.1 with
        sreqs := q.1.sreqs.filter (fun x => x.id != id) ++ [{ r with counted := true, port := q.2.2 }],
        loads := updWhere (fun l => l.id == r.load) (fun l =>
          { l with below := l.below || q.2.1, poisoned := if dead then r.sec :: l.poisoned else l.poisoned }) q.1.loads }

/-- R144: SLICE_REQUEST_ENTER. -/
def execSliceRequestEnter (id : Nat) (s : State) : Host.Outcome State Fault Refusal := event s (fun s => s.enterSlice id)

/-- R144, R197: no request of a load waits to enter its slice or at a CXL port. -/
def State.loadReady (s : State) (l : Load) : Bool :=
  s.sreqs.all (fun r => r.load != l.id || (r.counted && r.port.isNone))

/-- R159, R180, R228, R406: has an outstanding load or atomic something to return? A load that reaches beyond near memory waits for
the requests before its own and for the answers of other modules. -/
def State.mayReturn (s : State) (l : Load) : Bool :=
  match l.kind with
  | .atom _ => (s.atomNext l).isSome
  | _ => s.loadReady l && (l.allNear || (s.sreqs.all (fun r => r.load != l.id || !s.heldUp r) &&
      l.lacks.all (fun q => !farKey (64 * q) || l.poisoned.contains q)))

/-- R159: LOAD_DATA_RETURN. -/
def execLoadDataReturn (id : Nat) (s : State) : Host.Outcome State Fault Refusal :=
  event s (fun s => if s.loads.any (fun l => l.id == id && s.mayReturn l) then s.dataReturn id else s)

/-- R353: CREW_DEADLINE_CHECK. -/
def execCrewDeadlineCheck (key : Nat) (s : State) : Host.Outcome State Fault Refusal :=
  event s (fun s =>
    match firstSome (fun (t : Tenant) => (t.watch.find? (fun c => c.k0 == key)).map (fun c => (t.id, c))) s.tenants with
    | some (t, c) => s.crewCheck t c
    | none => s)

/-! ## SYSC (R401) -/

/-- R401: the type 8 record of LOG. -/
def logRecord (task time core tenant : Nat) (args : List Word) : BitVec 512 :=
  setField (errRecord 8 task 0 0 0 time core tenant) 319 64 (natOfBytes (args.flatMap (toBytes 4)))

/-- R401: the front end performs a service; the result. -/
def State.service? (s : State) (g : Group) (num : Word) (args : List Word) : State × DWord :=
  let ones : DWord := BitVec.allOnes 64
  match num.toNat with
  | 0 => (s, 0)
  | 1 =>
    let s := s.clock
    let q := ((s.tenant? g.tenant).map (·.errq)).getD 0
    let n (s : State) : Option Word := (s.queue? q).map (·.prod)
    let r := s.pushRecord q (logRecord g.tid s.time (coreIdWord g.core).toNat g.tenant args)
    (r.1, if n r.1 = n s then 1 else 0)
  | 2 =>
    let v := (args.headD 0).toNat
    if 64 ≤ v then (s, ones) else ({ s with irqs := (some g.tenant, v) :: s.irqs }, 0)
  | 3 => (s, match s.moduleNo with
    | some m => m.setWidth 64
    | none => ones)
  | 4 => (s, BitVec.ofNat 64 (((s.tenant? g.tenant).map (fun t => popc t.cores)).getD 0))
  | _ => (s, ones)

/-- R99, R401: the reply to a split that waits in SYSC. -/
def State.syscReply (s : State) (tid sid : Nat) : State :=
  match s.group? tid with
  | none => s
  | some g =>
    match g.split? sid with
    | none => s
    | some p =>
      match p.st with
      | .park (.sysc num args) =>
        if p.stopped then s
        else
          let r := s.service? g num args
          r.1.wake tid sid true (fun s => s.wD (.s 0) r.2)
      | _ => s

/-- R99: SYSC_REPLY. -/
def execSyscReply (tid sid : Nat) (s : State) : Host.Outcome State Fault Refusal := event s (fun s => s.syscReply tid sid)

/-! ## The end of a step -/

/-- R316: the idle period of a core begins when it has nothing left to take. -/
def State.noteIdle (s : State) (core : Nat) : State :=
  if (s.core? core).idleSince.isNone && s.idle core then s.updCore core (fun c => { c with idleSince := some c.cycles }) else s

/-- What every step does at its end: collectives that may start do (R300), each parked split whose cause has resolved goes
on, stalled splits that need wait no longer run (R289, R301), parked groups take their CANCEL, a group that holds a slot for want of a reservation gives it up (R308), a held seat is
set aside (R358), idle periods begin (R316), and hot regions are reported (R196). -/
def State.wakeAll (s : State) : State :=
  let s := ((s.groups.filter (·.hold)).map (·.tid)).foldl State.setAside s
  let s := s.copyStarts.keepSaved.freeRestored
  let ps := s.groups.flatMap (fun g => (g.splits.filter (·.parked)).map (fun p => (g.tid, p.sid)))
  let s := ps.foldl (fun s p => s.tryWake p.1 p.2) s
  let s := ((s.groups.filter (fun g => g.splits.any Split.stalled)).map (·.tid)).foldl State.unstall s
  let cs := (s.groups.filter (·.cancel)).map (·.tid)
  let s := cs.foldl State.cancelParked s
  let s := ((s.groups.filter (fun g => g.slot.isSome)).map (·.tid)).foldl State.giveUp s
  let s := ((s.groups.filter (·.hold)).map (·.tid)).foldl State.setAside s
  let s := (s.cores.map (·.id)).foldl State.noteIdle s
  ((s.tenants.filter (fun t => !t.hot.isEmpty)).map (·.id)).foldl State.hotRecords s

/-- The end of every step, the issuing split among the others. -/
def State.wakes (s : State) : State := s.wide State.wakeAll

end Sys2Proof.Machine
end

