-- ==== Sys2Proof/Machine/Preempt.lean ====
section
/-!
DEFINITION. Pre-emption and restoration (R373 to R378), crews on hold (R357 to R359), and the host's replies to faults
(R385).
-/

namespace Sys2Proof.Machine

open Sys2Proof

/-! ## Replies to faults (R385) -/

/-- R384: what a split that is parked on a page faulted with. -/
def Split.faultOn (p : Split) (page : Nat) : Option TrapInfo :=
  match p.st with
  | .park (.service pg i) => if pg = page then some i else none
  | _ => none

/-- R385: a split parked on the page replays its window. -/
def State.retryPage (s : State) (tid sid : Nat) : State :=
  let s := s.updGroup tid (fun g =>
    (((g.splits.filter (fun p => p.sid == sid)).foldl Group.absorb g).updSplit sid Split.replay).placeAgain sid)
  (s.updGroup tid (fun g => g.serviceEnd s.time)).rejoin tid

/-- R385: a reply for a page reaches the tasks and engines of some cores. -/
def State.replyPage (s : State) (tenant page : Nat) (retry : Bool) (cause : Byte) (cores : Nat → Bool) : State :=
  let gs := s.groups.filter (fun g => g.tenant == tenant && cores g.core)
  -- R357: no seat of a held crew issues, so a RETRY for one is kept until the crew's release
  let wait (g : Group) : Bool := retry && s.seatHeld g && g.splits.any (fun p => (p.faultOn page).isSome)
  let s := (gs.filter wait).foldl (fun s g => s.updGroup g.tid (fun g => { g with replies := insertNat page g.replies })) s
  let ps := (gs.filter (fun g => !wait g)).flatMap (fun g => g.splits.filterMap (fun p => (p.faultOn page).map (fun i => (g.tid, p.sid, i))))
  let s := ps.foldl (fun s p =>
    if retry then s.retryPage p.1 p.2.1
    else s.raise p.1 { p.2.2 with kind := 0, fatal := true, detail := cause }) s
  let cs := s.cores.filter (fun c => cores c.id)
  let s := cs.foldl (fun s c => (c.mq.filter (fun m => m.tenant == tenant)).foldl (fun s m => s.replyCmd c.id m page retry) s) s
  cs.foldl (fun s c => (c.copyq.filter (fun x => x.tenant == tenant)).foldl (fun s x => s.replySlice c.id x page retry) s) s

/-- R382: no core holds a translation of some pages of a tenant any longer. -/
def State.dropTlb (s : State) (tenant : Nat) (pages : Nat → Bool) : State :=
  { s with cores := s.cores.map (fun c => { c with tlb := c.tlb.filter (fun e => !(e.tenant == tenant && pages e.page)) }),
           dtlb := s.dtlb.filter (fun e => !(e.2.tenant == tenant && pages e.2.page)) }

/-- R385: the host answers a fault: tasks that run take the reply now, saved ones at their restoration. -/
def State.faultReply (s : State) (tenant page : Nat) (retry : Bool) (cause : Byte) : State :=
  let s := s.clock
  let s := s.updTenant tenant (fun t => { t with faults := t.faults.filter (fun f => f.page != page) })
  let s := s.dropTlb tenant (fun p => p == page)
  let keep (b : SaveBlock) : SaveBlock := { b with replies := b.replies ++ [(page, retry, cause)] }
  let s := { s with saves := updWhere (fun b => b.tenant == tenant) keep s.saves }
  s.replyPage tenant page retry cause (fun _ => true)

/-! ## Crews on hold (R357 to R359) -/

/-- R251: the record of a crew, reached under a tenant's translation. -/
def State.crewAt (s : State) (tenant : Nat) (va : DWord) : Option CrewRef :=
  match ([va, va + 256, va + 512].map (fun a => (s.translate (agentFront tenant) hAtomic true a).toOption)) with
  | [some a, some b, some c] => some ⟨va, a.key, b.key, c.key⟩
  | _ => none

/-- Is an entry a seat of a crew? -/
def Entry.seatOf (e : Entry) (va : DWord) : Bool := e.members.any (fun t => tCrew t.record == va)

/-- Mark or unmark the seats of a crew: groups issue nothing, entries are neither popped nor stolen (R358). -/
def State.markSeats (s : State) (tenant : Nat) (va : DWord) (on : Bool) : State :=
  let mine (g : Group) : Bool := g.tenant == tenant && tCrew g.record == va
  let started (e : Entry) : Bool := e.resume.any (fun t => s.groups.any (fun g => g.tid == t && mine g))
  let mark (e : Entry) : Entry := if e.seatOf va || started e then { e with held := on } else e
  let core (c : CoreSt) : CoreSt :=
    { c with rack := c.rack.map mark, inbound := c.inbound.map (fun i => { i with entry := mark i.entry }) }
  { s with groups := updWhere mine (fun g => g.setHold on s.time) s.groups,
           cores := updWhere (fun c => s.coreTenant c.id == some tenant) core s.cores }

/-- R357: pre-emption has taken a seat that a core held: the whole crew is held, if it is OPEN. -/
def State.holdCrew (s : State) (core tenant : Nat) (va : DWord) : State :=
  match s.crewAt tenant va with
  | none => s
  | some c =>
    let q := s.crewHold tenant c
    if !q.2 then q.1
    else
      let s := q.1.markSeats tenant va true
      let h := (s.heldCrews.find? (fun h => h.crew.k0 == c.k0)).getD ⟨c, tenant, [], []⟩
      { s with heldCrews := { h with cores := insertNat core h.cores } :: s.heldCrews.filter (fun h => h.crew.k0 != c.k0) }

/-- The crews that have a seat in a list of groups and entries. -/
def crewsIn (gs : List Group) (es : List Entry) : List DWord :=
  ((gs.map (fun g => tCrew g.record) ++ es.flatMap (fun e => e.members.map (fun t => tCrew t.record))).filter (· != 0)).dedup

/-- R357, R385: the RETRY replies that came while the crew of a seat was held are applied. -/
def State.takeReplies (s : State) (tid : Nat) : State :=
  match s.group? tid with
  | none => s
  | some g =>
    let s := s.updGroup tid (fun g => { g with replies := [] })
    (g.splits.filter (fun p => g.replies.any (fun pg => (p.faultOn pg).isSome))).foldl (fun s p => s.retryPage tid p.sid) s

/-- R358, R359: the seats held in place are released, and the crew resumes. -/
def State.releaseCrew (s : State) (h : HeldCrew) : State :=
  let s := { s with heldCrews := s.heldCrews.filter (fun x => x.crew.k0 != h.crew.k0) }
  let s := s.crewResume h.tenant h.crew
  let s := s.markSeats h.tenant h.crew.va false
  let back := (s.groups.filter (fun g => g.tenant == h.tenant && tCrew g.record == h.crew.va &&
    (s.core? g.core).resv.any (fun r => r.1 == g.tid && r.2))).map (·.tid)
  let s := back.foldl State.rejoin s
  ((s.groups.filter (fun g => g.tenant == h.tenant && tCrew g.record == h.crew.va && !g.replies.isEmpty)).map (·.tid)).foldl
    State.takeReplies s

/-- R358: release every crew of which the last pre-empted core that held a seat has been restored. -/
def State.releaseCrews (s : State) : State := (s.heldCrews.filter (fun h => h.cores.isEmpty)).foldl State.releaseCrew s

/-! ## Pre-emption (R375, R376) -/

/-- R376: the size of a save block in the save area. -/
def saveSize : Nat := 3 * 2 ^ 20

/-- R375: the command takes the cores: no new entries, no staging, no new windows. Their save blocks stand one after another
from the save area's address on. -/
def State.preemptBegin (s : State) (cores : List Nat) (area : Nat) : State :=
  let stop (e : Entry) : Entry := if e.st = .staging then { e with st := .waitStage, tiles := [] } else e
  let s := cores.zipIdx.foldl (fun s c => s.updCore c.1 (fun k =>
    { k with preempting := true, saveAt := area + saveSize * c.2, rack := k.rack.map stop, probes := [] })) s
  { s with groups := updWhere (fun g => cores.contains g.core) (fun g => { g with hold := true }) s.groups }

/-- R375: may a core be saved: its groups at rest, its engines done or waiting for service, nothing of its rack on the way? A
started collective has completed, releases and counters too, but where a slice of it waits for service (R375). -/
def State.maySave (s : State) (core : Nat) : Bool :=
  let c := s.core? core
  c.preempting && (s.groups.filter (fun g => g.core == core)).all s.atRest &&
    c.mq.all (fun m => match m.st with
      | .active | .sent => false
      | _ => true) &&
    c.copyq.all (fun x => !x.started || x.service.isSome ||
      (x.result.isSome && c.copyq.any (fun y => y.team == x.team && y.nth == x.nth && y.service.isSome))) &&
    c.inbound.isEmpty && s.cores.all (fun k => k.inbound.all (fun i => i.victim != core))

/-- The entries of a keyed list in a range, by offset. -/
def cutRange {α : Type} (base len : Nat) (l : List (Nat × α)) : List (Nat × α) :=
  (l.filter (fun p => base ≤ p.1 && p.1 < base + len)).map (fun p => (p.1 - base, p.2))
/-- A keyed list with the entries of a range replaced. -/
def pasteRange {α : Type} (base len : Nat) (new l : List (Nat × α)) : List (Nat × α) :=
  new.foldl (fun l p => putKey (base + p.1) (some p.2) l) (l.filter (fun p => !(base ≤ p.1 && p.1 < base + len)))
/-- The numbers of a list in a range, by offset. -/
def cutNats (base len : Nat) (l : List Nat) : List Nat := (l.filter (fun k => base ≤ k && k < base + len)).map (· - base)
/-- A list of numbers with those of a range replaced. -/
def pasteNats (base len : Nat) (new l : List Nat) : List Nat :=
  new.foldl (fun l k => insertNat (base + k) l) (l.filter (fun k => !(base ≤ k && k < base + len)))

/-- The size of an attic (R174). -/
def atticSize : Nat := 2 ^ 20

/-- Copy `n` bytes with their poison from one place to another, where they are plain writes. -/
def State.copyBytes (s : State) (src dst n : Nat) : State :=
  { s with mem := pasteRange dst n (cutRange src n s.mem) s.mem,
           poison := pasteNats (dst / 64) (n / 64) (cutNats (src / 64) (n / 64) s.poison) s.poison }.clearTags dst n

/-- R376: the bytes of a core's scratch and attic go to its save block. -/
def State.saveBytes (s : State) (core : Nat) : State :=
  let area := (s.core? core).saveAt
  (s.copyBytes (keyNear core 0) area nearSize).copyBytes (keyAttic core 0) (area + nearSize) atticSize

/-- R376: the save block of a core, its bytes apart. -/
def State.saveBlock (s : State) (core tenant : Nat) : SaveBlock :=
  let n := keyNear core 0
  let a := keyAttic core 0
  { core := core, tenant := tenant, area := (s.core? core).saveAt,
    nearTags := cutRange (n / 8) (nearSize / 8) s.tags, atticTags := cutRange (a / 8) (atticSize / 8) s.tags,
    state := s.core? core, groups := s.groups.filter (fun g => g.core == core), replies := [] }

/-- R375: steps 4 to 6 for one core. -/
def State.saveCore (s : State) (core : Nat) : State :=
  let tenant := (s.coreTenant core).getD 0
  let s := s.clock
  let s := s.release core .system
  let s := (crewsIn (s.groups.filter (fun g => g.core == core)) (s.core? core).rack).foldl (fun s va => s.holdCrew core tenant va) s
  let b := s.saveBlock core tenant
  let rest (g : Group) : Group := if g.slot.isSome then { g with parkedAt := s.tick, spilled := false } else g
  let b := { b with groups := b.groups.map (fun g => rest (g.pauseClock s.time)) }
  let c := s.core? core
  let s := s.saveBytes core
  let s := { s with groups := s.groups.filter (fun g => g.core != core), saves := s.saves ++ [b] }.updCore core (fun _ =>
    { CoreSt.init core with l1 := c.l1, icopy := c.icopy, tlb := c.tlb, cycles := c.cycles, saved := true })
  s.unfuse (clusterOf core)

/-- R375, R397: has the work of PREEMPT been done? -/
def State.preemptDone (s : State) : Bool :=
  s.cores.all (fun c => !c.preempting) && s.groups.all (fun g => !g.hold || g.slot.isNone)

/-! ## Restoration (R377, R378) -/

/-- R378: the storage key that a near location of a task saved on core `src` has on core `dst`: its own scratch moves with it, a
PEER index names a core of the new cluster, and cellar scratch is the new die's. -/
def State.rekey (s : State) (tenant src dst k : Nat) : Nat :=
  if keyNear 0 0 ≤ k && k < keyAttic 0 0 then
    let c := (k - keyNear 0 0) / 2 ^ 21
    keyNear (if c = src then dst else if clusterOf c = clusterOf src then dst / 32 * 32 + c % 32 else c) ((k - keyNear 0 0) % 2 ^ 21)
  else if keyAttic 0 0 ≤ k && k < keyCellar 0 0 0 then
    keyAttic (if (k - keyAttic 0 0) / 2 ^ 20 = src then dst else (k - keyAttic 0 0) / 2 ^ 20) ((k - keyAttic 0 0) % 2 ^ 20)
  else if keyCellar (dieOf src) 0 0 ≤ k && k < keyCellar (dieOf src + 1) 0 0 then
    let o := k - keyCellar (dieOf src) 0 0
    let i := ((scrWays (s.tdie? tenant (dieOf src)).scr).takeWhile (fun w => w != o / 2 ^ 26)).length
    keyCellar (dieOf dst) ((scrWays (s.tdie? tenant (dieOf dst)).scr).getD i (o / 2 ^ 26)) (o % 2 ^ 26)
  else k

/-- R378: a split of a restored group: what it waits for and what its window has stored stand at the new keys; its selection
count starts again (R221). -/
def Split.moved (p : Split) (f : Nat → Nat) : Split :=
  { p with
      count := 0, yielded := false,
      st := match p.st with
        | .park (.waitc (some k) va target got) => .park (.waitc (some (f k)) va target got)
        | .stall _ => .run
        | x => x,
      wstores := p.wstores.map (fun w => (f w.1, w.2)),
      wbase := p.wbase.foldl (fun m c => putKey (f c.1) (some c.2) m) [],
      wsnaps := p.wsnaps.map (fun w => (w.1, f w.2.1, w.2.2)) }

/-- R377, R378: a save block is written back to a core, under its new number. A task whose cause resolved while it was being
saved re-enters the rack (R321). -/
def State.restoreBlock (s : State) (b : SaveBlock) (dst : Nat) : State :=
  let n := keyNear dst 0
  let a := keyAttic dst 0
  let f := s.rekey b.tenant b.core dst
  let s := (s.copyBytes b.area n nearSize).copyBytes (b.area + nearSize) a atticSize
  let s := { s with tags := pasteRange (a / 8) (atticSize / 8) b.atticTags (pasteRange (n / 8) (nearSize / 8) b.nearTags s.tags) }
  let holds (h : HeldCrew) : Bool := h.tenant == b.tenant && s.rdV (h.crew.k0 + 8) 4 / 256 % 4 == 2
  let heldBy (g : Group) (h : HeldCrew) : Bool := holds h && h.crew.va == tCrew g.record
  let stays (e : Entry) : Entry := { e with held := e.held && s.heldCrews.any (fun h =>
    holds h && (e.seatOf h.crew.va || e.resume.any (fun t => b.groups.any (fun g => g.tid == t && tCrew g.record == h.crew.va)))) }
  let back (g : Group) : Group :=
    let held := s.heldCrews.any (heldBy g)
    let g := { g with core := dst, absent := List.range (tVregs g.record), credit := 0, age := 0, wasReady := false, hold := held,
                      splits := g.splits.map (fun (p : Split) => p.moved f) }
    g.serviceEnd s.time
  let note (h : HeldCrew) : HeldCrew :=
    { h with restored := h.restored ++ (b.groups.filter (fun g => heldBy g h)).map (·.tid) }
  let s := { s with groups := b.groups.map back ++ s.groups,
                    heldCrews := s.heldCrews.map note }
  let s := s.updCore dst (fun c =>
    { c with rack := b.state.rack.map stays, resv := b.state.resv, pops := b.state.pops, teams := b.state.teams, tiles := b.state.tiles,
             mq := b.state.mq.map (fun (m : MCmd) => { m with snap := m.snap.map (fun (x : Nat × List Byte) => (f x.1, x.2)) }), mqHalt := b.state.mqHalt,
             copyq := b.state.copyq.map (fun (x : Slice) => { x with snap := x.snap.map (fun (y : Nat × List Byte) => (f y.1, y.2)) }), saved := false }.unidle)
  let s := ((b.state.resv.filter (·.2)).map (·.1)).foldl State.rejoin s
  let s := s.acquire dst .module
  b.replies.foldl (fun s r => s.replyPage b.tenant r.1 r.2.1 r.2.2 (fun c => c == dst)) s

/-- R377: the blocks of a source cluster of a tenant. -/
def State.blocksOf (s : State) (tenant cluster : Nat) : List SaveBlock :=
  s.saves.filter (fun b => b.tenant == tenant && clusterOf b.core == cluster)

/-- R377: the blocks of a source cluster go to their destinations; crews without a saved seat resume. -/
def State.restore (s : State) (tenant cluster : Nat) (dst : Nat → Nat) : State :=
  let bs := s.blocksOf tenant cluster
  let s := s.clock
  let s := { s with saves := s.saves.filter (fun b => !(b.tenant == tenant && clusterOf b.core == cluster)) }
  let s := bs.foldl (fun s b => s.updCore b.core (fun c => { c with saved := false })) s
  let back (h : HeldCrew) : HeldCrew :=
    if h.tenant = tenant then { h with cores := h.cores.filter (fun c => bs.all (fun b => b.core != c)) } else h
  let s := { s with heldCrews := s.heldCrews.map back }
  (bs.foldl (fun s b => s.restoreBlock b (dst b.core)) s).releaseCrews

end Sys2Proof.Machine
end

