-- ==== Sys2Proof/Machine/Queues.lean ====
section
/-!
DEFINITION. The host's side of the queues: control entries (R386), doorbells (R389), reservations and commits (R391), and
the launch of packets (R152, R153, R393 to R395).
-/

namespace Sys2Proof.Machine

open Sys2Proof

/-! ## Control entries (R386) -/

/-- R386: a queue from the 64 bytes of its entry; its interrupt is armed. -/
def queueOf (num : Nat) (e : BitVec 512) : Queue where
  num := num
  ring := e.extractLsb' 0 64
  shadow := e.extractLsb' 64 64
  prod := e.extractLsb' 128 32
  cons := e.extractLsb' 160 32
  resv := e.extractLsb' 192 32
  k := field e 231 224
  flags := e.extractLsb' 232 8
  kind := field e 247 240
  tenant := field e 255 248
  vector := field e 271 256
  lost := e.extractLsb' 288 32
  bits := []
  armed := true

/-- R386: the entry of a queue. -/
def Queue.entry (q : Queue) : BitVec 512 :=
  BitVec.ofNat 512 (q.ring.toNat + q.shadow.toNat * 2 ^ 64 + q.prod.toNat * 2 ^ 128 + q.cons.toNat * 2 ^ 160 +
    q.resv.toNat * 2 ^ 192 + q.k * 2 ^ 224 + q.flags.toNat * 2 ^ 232 + q.kind * 2 ^ 240 + q.tenant * 2 ^ 248 +
    q.vector * 2 ^ 256 + q.lost.toNat * 2 ^ 288)

/-- R386, R388: an entry that QUEUE.SET refuses. -/
def entryBad (num : Nat) (e : BitVec 512) : Bool :=
  let q := queueOf num e
  2 ^ 20 ≤ num || num == 1 || q.k < 4 || 20 < q.k || field e 239 237 != 0 || 5 ≤ q.kind || 64 ≤ q.tenant ||
    field e 287 272 != 0 || field e 511 320 != 0 || (q.kind == 0) != (q.slotSize == 256) || (q.kind == 4) != (num == 0) ||
    q.ring.toNat % q.slotSize != 0 || ((q.kind == 1 || q.kind == 2) && q.shared) || 2 ^ q.k < q.used

/-! ## Doorbells (R389) -/

/-- R389: the queue whose doorbell block a function sees: the physical function (none) sees all. -/
def State.visible (s : State) (fn : Option Nat) (num : Nat) : Option Queue :=
  (s.queue? num).filter (fun q => match fn with
    | none => true
    | some t => q.tenant == t)

/-- R389, R402: a doorbell write that is dropped. -/
def State.badDoorbell (s : State) (q : Queue) (v : Word) : State := s.errRec q.tenant 5 0 q.num v.toNat 0 none

/-- R389: a write to PROD. -/
def State.ringProd (s : State) (fn : Option Nat) (num : Nat) (v : Word) : State :=
  match s.visible fn num with
  | none => { s with dropped := s.dropped + 1 }
  | some q =>
    if !q.enabled || q.shared || q.kind = 1 || q.kind = 2 || 2 ^ q.k < (v - q.cons).toNat || (v - q.cons).toNat < q.used then
      s.badDoorbell q v
    else
      let s := s.updQueue num (fun q => { q with prod := v })
      if v = q.prod then s else s.signal q

/-- R389: PROD_DOORBELL. -/
def execProdDoorbell (fn : Option Nat) (q : Nat) (idx : BitVec 32) (s : State) : Host.Outcome State Fault Refusal :=
  event s (fun s => s.ringProd fn q idx)

/-- R389, R391: a read of RESV: a ticket or FULL of a shared queue, all ones for a block that the function does not see; what a
queue that is not shared returns is open. -/
def State.resvRead (s : State) (fn : Option Nat) (q : Nat) : State × Word :=
  match s.visible fn q with
  | some k => if k.enabled && k.shared then s.ticketTake q else (s, BitVec.ofNat 32 (s.free .device 10))
  | none => (s, 0xFFFFFFFF)

/-- R391: RESV_READ. -/
def execResvRead (fn : Option Nat) (q : Nat) (s : State) : Host.Outcome State Fault Refusal :=
  event s (fun s =>
    let r := s.resvRead fn q
    { r.1 with hostReads := ⟨fn, q, r.2⟩ :: r.1.hostReads })

/-- R391: COMMIT_DOORBELL. -/
def execCommitDoorbell (fn : Option Nat) (q : Nat) (t : BitVec 32) (s : State) : Host.Outcome State Fault Refusal :=
  event s (fun s => match s.visible fn q with
    | some k => if k.enabled && k.shared then s.ticketCommit q t k.tenant 0 none else s.badDoorbell k t
    | none => { s with dropped := s.dropped + 1 })

/-- R389, R400: a write to CONS re-arms the queue. -/
def State.ringCons (s : State) (fn : Option Nat) (num : Nat) (v : Word) : State :=
  match s.visible fn num with
  | none => { s with dropped := s.dropped + 1 }
  | some q =>
    if !q.enabled || q.kind = 0 || q.kind = 4 || q.used < (v - q.cons).toNat then s.badDoorbell q v
    else s.updQueue num (fun q => { q with cons := v, armed := true })

/-- R389: CONS_DOORBELL. -/
def execConsDoorbell (fn : Option Nat) (q : Nat) (idx : BitVec 32) (s : State) : Host.Outcome State Fault Refusal :=
  event s (fun s => s.ringCons fn q idx)

/-! ## The front end's reads -/

/-- R390: the bytes of a slot, or none where it cannot be read. -/
def State.slotBytes (s : State) (q : Queue) (i : Word) : State × Option (List Byte) :=
  match s.queueLoc q hRead (q.slotAddr i) with
  | .error _ => (s, none)
  | .ok l =>
    let s := s.openAt none l q.slotSize
    (s, if farKey l.key then some (s.farBytes l.key q.slotSize)
      else if (s.badAt l.key q.slotSize).isEmpty then some (s.rdN l.key q.slotSize) else none)

/-- R390: the front end has taken a slot: CONS moves on and is mirrored. -/
def State.consume (s : State) (num : Nat) : State :=
  match s.queue? num with
  | none => s
  | some q => (s.updQueue num (fun q => { q with cons := q.cons + 1 })).shadow q (q.cons + 1)

/-! ## Launch packets (R152, R153) -/

/-- A launch packet. -/
abbrev LaunchPk := BitVec 2048

/-- R152: the root task's record. -/
def rootRecord (p : LaunchPk) : BitVec 2048 :=
  BitVec.ofNat 2048 (field p 511 320 + field p 1279 512 * 2 ^ 256 + field p 2047 1280 * 2 ^ 1024)

/-- R153: PLACE. -/
def pkPlace (p : LaunchPk) : DWord := p.extractLsb' 256 64

/-- R153: the cores of a tenant that a packet's masks select. -/
def State.placeCores (s : State) (tenant : Nat) (p : LaunchPk) : List Nat :=
  match s.tenant? tenant with
  | none => []
  | some t => t.coreList.filter (fun c => (pkPlace p).getLsbD (dieOf c) && (pkPlace p).getLsbD (9 + clusterOf c % 4))

/-- R153, R394: may the packet be launched? -/
def State.packetOk (s : State) (tenant : Nat) (p : LaunchPk) : Bool :=
  let r := rootRecord p
  field (pkPlace p) 63 14 == 0 && !(s.placeCores tenant p).isEmpty && memberOk ⟨0, r, ⟨0, false, 0, none⟩, .single⟩ tenant

/-- R394: a refused packet: the record, its cell, its counter. -/
def State.refusePacket (s : State) (q : Queue) (i : Word) (p : LaunchPk) : State :=
  let s := s.errRec q.tenant 4 0 (q.slotAddr i).toNat q.num i.toNat none
  let r := rootRecord p
  let va := tFuture r
  let s := if va = 0 ∨ va.toNat % 16 ≠ 0 then s
    else match s.translate (agentFront q.tenant) hAtomic true va with
      | .error _ => s
      | .ok l =>
        let t : RTag := ⟨.system, ⟨0, none, none⟩⟩
        if farKey l.key then s.sendOp q.tenant 0 l.key 16 (.cell (.fail 1 (q.slotAddr i))) (some t)
        else if !(s.badAt l.key 16).isEmpty then s
        else (s.cellAt none l (.fail 1 (q.slotAddr i)) t).through l.path l.key 16
  s.rootCounter q.tenant 0 (some (p.extractLsb' 64 64, p.extractLsb' 128 64))

/-- R393: enter a root task into the rack of a core that its placement allows and that has a free slot; which is open. -/
def State.placeRoot (s : State) (p : Packet) : Option State :=
  let cs := p.cores.filter (fun c => s.working c && 1 ≤ (s.core? c).rackFree)
  match cs with
  | [] => none
  | c :: _ =>
    let core := cs.getD (s.free .placement p.index.toNat % cs.length) c
    let r := s.freshTid
    some (r.1.rackTasks core [⟨r.2, p.record, p.launch, .single⟩])

/-- R152, R154: a packet that has been taken and checked. -/
def State.packetOf (s : State) (q : Queue) (i : Word) (p : LaunchPk) : State × Packet :=
  let f := s.fresh
  let l : Launch := ⟨p.extractLsb' 192 64, (pkPlace p).getLsbD 13, f.2, some (p.extractLsb' 64 64, p.extractLsb' 128 64)⟩
  (f.1, ⟨q.num, i, q.tenant, rootRecord p, l, field p 63 0, s.placeCores q.tenant p⟩)

/-- R390, R393 to R395: the front end takes the next slot of a launch queue. -/
def State.launchTake (s : State) (num : Nat) : State :=
  match s.queue? num with
  | none => s
  | some q =>
    if q.kind ≠ 0 || !q.enabled || q.used = 0 || s.keptPackets.any (fun p => p.queue == num) then s
    else
      let i := q.cons
      let r := s.clock.slotBytes q i
      let s := r.1
      match r.2 with
      | none => (s.errRec q.tenant 4 0 (q.slotAddr i).toNat num i.toNat none).consume num
      | some bs =>
        let p : LaunchPk := ofBytes 2048 bs
        if tEntry (rootRecord p) = 0 then s.consume num
        else if !s.packetOk q.tenant p then (s.refusePacket q i p).consume num
        else
          let k := s.packetOf q i p
          let s := k.1
          if s.time < k.2.start then
            if 256 ≤ (s.packets.filter (fun x => x.tenant == q.tenant)).length then s
            else { s with packets := s.packets ++ [k.2] }.consume num
          else match s.placeRoot k.2 with
            | some s => s.consume num
            | none => { s with keptPackets := s.keptPackets ++ [k.2] }.consume num

/-- R393: LAUNCH_PACKET_TAKE. -/
def execLaunchPacketTake (q : Nat) (s : State) : Host.Outcome State Fault Refusal := event s (fun s => s.launchTake q)

/-- R393: a packet kept for want of a rack slot is placed. -/
def State.placeKept (s : State) (num : Nat) : State :=
  match s.keptPackets.find? (fun p => p.queue == num) with
  | none => s
  | some p => match s.placeRoot p with
    | some s => { s with keptPackets := s.keptPackets.filter (fun x => x.queue != num) }
    | none => s

/-- R393: ROOT_TASK_PLACE. -/
def execRootTaskPlace (q : Nat) (s : State) : Host.Outcome State Fault Refusal := event s (fun s => s.placeKept q)

/-- R395: the order of held packets: START, then queue, then index. -/
def packetOrder (a b : Packet) : Bool :=
  if a.start ≠ b.start then a.start < b.start else if a.queue ≠ b.queue then a.queue < b.queue else a.index.toNat ≤ b.index.toNat

/-- R395: the next held packet of a tenant is placed once the time base has reached its START. -/
def State.heldStart (s : State) (tenant : Nat) : State :=
  let s := s.clock
  match sortBy packetOrder (s.packets.filter (fun p => p.tenant == tenant && p.start ≤ s.time)) with
  | [] => s
  | p :: _ => match s.placeRoot p with
    | some s => { s with packets := s.packets.filter (fun x => x.launch.id != p.launch.id) }
    | none => s

/-- R395: HELD_PACKET_START. -/
def execHeldPacketStart (tenant : Nat) (s : State) : Host.Outcome State Fault Refusal := event s (fun s => s.heldStart tenant)

end Sys2Proof.Machine
end

