-- ==== Sys2Proof/Machine/Admin.lean ====
section
/-!
DEFINITION. The admin queue (R397): its slots, and the commands that create and end tenants (R398, R399), set queues (R386,
R392), pre-empt and restore (R375, R377), answer faults (R385), and set up links, slots, time and power (R339, R396, R405,
R410, R411). The operands of a command stand in its slot as 64-bit values in the order of the table, from byte 8 on.
-/

namespace Sys2Proof.Machine

open Sys2Proof

/-! ## Slots and STATUS (R397) -/

/-- R397: STATUS. -/
inductive Status where
  | ok | badop | badarg | busy | denied
  deriving DecidableEq, Repr

/-- R397: the number of a STATUS. -/
def Status.num : Status → Nat
  | .ok => 0 | .badop => 1 | .badarg => 2 | .busy => 3 | .denied => 4

/-- R397: an admin slot: OP, the tenant, the operands. -/
structure AdminSlot where
  op : Nat
  tenant : Nat
  arg : BitVec 416

/-- Operand `i` of an admin slot. -/
def AdminSlot.get (a : AdminSlot) (i : Nat) : Nat := field a.arg (64 * i + 63) (64 * i)

/-- R397: the command at the head of the admin ring. -/
def State.adminHead (s : State) : Option AdminSlot :=
  (s.queue? 0).bind (fun q =>
    if !q.enabled || q.used = 0 then none
    else (s.slotBytes q q.cons).2.map (fun bs =>
      let x : BitVec 512 := ofBytes 512 bs
      ⟨field x 15 0, field x 39 32, x.extractLsb' 64 416⟩))

/-- R397: STATUS is written to the slot of the command, which the admin queue held as `q`, and CONS moves past the slot, unless
the command itself has set or cleared the queue. -/
def State.adminFinish (s : State) (q : Queue) (st : Status) : State :=
  let s := { s with adminBusy := false }.queueWrite q (q.slotAddr q.cons + 60) (toBytes 4 (BitVec.ofNat 32 st.num))
  if (s.queue? 0).any (fun x => x.ring == q.ring && x.k == q.k && x.cons == q.cons) then s.consume 0 else s

/-- R397: a command whose work went on completes. -/
def State.adminDone (s : State) : State :=
  match s.queue? 0 with
  | none => s
  | some q => s.adminFinish q .ok

/-- R397: the front end executes the command at the head of the ring if its OP is `op`, and a command it does not know
completes with BADOP. A command that fails changes nothing. One whose work goes on (the flag is false) keeps its slot, and
later slots wait for it. -/
def State.adminWith (s : State) (op : Nat) (f : State → AdminSlot → Except Status (State × Bool)) : State :=
  if s.boot ≠ .running ∨ s.adminBusy then s
  else match s.queue? 0, s.adminHead with
    | some q, some a =>
      if a.op = 0 ∨ 0x11 < a.op then s.adminFinish q .badop
      else if a.op ≠ op then s
      else match f s a with
        | .ok (t, true) => t.adminFinish q .ok
        | .ok (t, false) => { t with adminBusy := true }
        | .error st => s.adminFinish q st
    | _, _ => s

/-- R397: a command that completes at once. -/
def State.admin (s : State) (op : Nat) (f : State → AdminSlot → Except Status State) : State :=
  s.adminWith op (fun s a => (f s a).map (fun t => (t, true)))

/-- A condition of a command. -/
def check (c : Bool) (st : Status) : Except Status Unit := if c then .ok () else .error st

/-- The tenant of a command, which must live. -/
def State.adminTenant (s : State) (a : AdminSlot) : Except Status Tenant :=
  match s.tenant? a.tenant with
  | some t => .ok t
  | none => .error .denied

/-- Bytes of host memory that the front end reads. -/
def State.hostBytes (s : State) (a n : Nat) : List Byte := s.rdN (keyHost a) n
/-- Bytes that the front end writes to host memory. -/
def State.hostPut (s : State) (a : Nat) (bs : List Byte) : State :=
  (s.openAt none ⟨keyHost a, BitVec.ofNat 64 a, .bypass, none⟩ bs.length).placePlain (keyHost a) bs

/-! ## Tenants (R398, R399) -/

/-- R398: a field of a tenant descriptor. -/
def td (d : BitVec 4096) (off size : Nat) : Nat := field d (8 * (off + size) - 1) (8 * off)
/-- R398: ALLOT of a die. -/
def tdAllot (d : BitVec 4096) (die : Nat) : BitVec 16 := BitVec.ofNat 16 (td d (144 + 2 * die) 2)
/-- R398, R184: CARVE of a die: SCR, CACHE. -/
def tdCarve (d : BitVec 4096) (die : Nat) : BitVec 16 × BitVec 16 :=
  (BitVec.ofNat 16 (td d (166 + 4 * die) 2), BitVec.ofNat 16 (td d (164 + 4 * die) 2))

/-- R399: a window from its entry. -/
def windowOf (e : BitVec 256) : Window :=
  ⟨field e 63 0, field e 127 64, field e 135 128, field e 143 136, field e 159 144, field e 167 160, false⟩
/-- R399: an entry that breaks the rule. -/
def windowBad (e : BitVec 256) : Bool :=
  let w := windowOf e
  3 < w.kind || 8 < w.die || (w.kind != 1 && w.die != 0) || (w.kind != 2 && w.module != 0) || 2 < w.medium ||
    (2 ≤ w.kind && w.medium != 0) || field e 255 168 != 0 || w.base % 65536 != 0 || w.size = 0 || w.size % 65536 != 0

/-- R398: a descriptor that is refused, its windows apart. -/
def State.descBad (s : State) (id : Nat) (d : BitVec 4096) : Bool :=
  let cores : BitVec 1152 := d.extractLsb' 0 1152
  let clash (t : Tenant) : Bool := t.cores &&& cores != 0 ||
    (List.finRange 9).any (fun i => t.allot[i] &&& tdAllot d i != 0)
  let carveBad (die : Nat) : Bool :=
    let c := tdCarve d die
    (c.1 ||| c.2) &&& ~~~tdAllot d die != 0 || c.1 &&& c.2 != 0
  s.tenants.any clash || (List.range 9).any carveBad || td d 162 2 != 0 || td d 230 2 != 0 || td d 272 240 != 0 ||
    15 < td d 229 1 || 8 < td d 228 1 || td d 260 4 = 0 || 256 < td d 260 4 ||
    (match s.queue? (td d 244 4) with
      | some q => q.kind != 1 || q.tenant != id
      | none => true)

/-- R398, R320: the tenant of a descriptor. -/
def tenantOf (id : Nat) (d : BitVec 4096) (ws : List Window) : Tenant :=
  let set := (td d 229 1).testBit 3
  { id := id, cores := d.extractLsb' 0 1152, allot := Vector.ofFn (fun i => tdAllot d i), ptroot := td d 200 8,
    spill := td d 208 8, spillSize := td d 216 8, wdog := td d 224 4, stage := td d 228 1,
    grants := BitVec.ofNat 8 (td d 229 1),
    locDepth := if set then BitVec.ofNat 32 (td d 232 4) else 0x10,
    locBytes := if set then BitVec.ofNat 32 (td d 236 4) else 0x40000,
    locIdle := if set then BitVec.ofNat 32 (td d 240 4) else 0x1000,
    errq := td d 244 4, tierq := if td d 248 4 = 0xFFFFFFFF then none else some (td d 248 4), tierTh := td d 252 4,
    epoch := td d 256 4, windows := ws, faults := [], watch := [], hot := [], epochNo := 0, tierLost := false, pwrSeen := false }

/-- R398: TENANT.CREATE. -/
def State.tenantCreate (s : State) (a : AdminSlot) : Except Status State := do
  check (a.tenant < 64) .badarg
  check (s.tenant? a.tenant).isNone .denied
  let d : BitVec 4096 := ofBytes 4096 (s.hostBytes (a.get 0) 512)
  check (!s.descBad a.tenant d) .badarg
  let es : List (BitVec 256) := (List.range (td d 260 4)).map (fun i => ofBytes 256 (s.hostBytes (td d 264 8 + 32 * i) 32))
  check (es.all (fun e => !windowBad e)) .badarg
  let t := tenantOf a.tenant d (es.map windowOf)
  let hot := s.powerLow || s.dies.any (fun k => k.therm && t.coreList.any (fun c => dieOf c == k.id))
  let s := { s with tenants := { t with pwrSeen := hot } :: s.tenants }
  .ok ((List.range 9).foldl (fun s i =>
    s.updTdie a.tenant i (fun x => { x with scr := (tdCarve d i).1, cache := (tdCarve d i).2, hotSeen := (s.die? i).hot })) s)

/-- R397: TENANT_CREATE. -/
def execTenantCreate (s : State) : Host.Outcome State Fault Refusal := event s (fun s => s.admin 0x0001 State.tenantCreate)

/-- The bytes, poison and tags of some storage keys are gone: they read as bytes that nothing has written. -/
def State.wipe (s : State) (dead : Nat → Bool) : State :=
  { s with mem := s.mem.filter (fun c => !dead c.1), poison := s.poison.filter (fun q => !dead (64 * q)),
           tags := s.tags.filter (fun t => !dead (8 * t.1)) }

/-- R174, R183: does a storage key lie in the scratch, the attic or a cellar way that a tenant holds? -/
def Tenant.holdsKey (t : Tenant) (k : Nat) : Bool :=
  if keyNear 0 0 ≤ k && k < keyAttic 0 0 then t.cores.getLsbD ((k - keyNear 0 0) / 2 ^ 21)
  else if keyAttic 0 0 ≤ k && k < keyCellar 0 0 0 then t.cores.getLsbD ((k - keyAttic 0 0) / 2 ^ 20)
  else if keyCellar 0 0 0 ≤ k && k < keyCellar 9 0 0 then
    let o := k - keyCellar 0 0 0
    (t.allot.toList.getD (o / 2 ^ 30) 0).getLsbD (o / 2 ^ 26 % 16)
  else false

/-- R397: TENANT.DESTROY: every task ends without a cell operation, and what the tenant holds is free. What its scratch, stage
area, attics and cellar ways held does not reach another tenant (R8, R174): they are as nothing has written them, and the L1s of its
cores write back and hold nothing, which is the model's choice (notes/assumptions/40.md). -/
def State.tenantDestroy (s : State) (a : AdminSlot) : Except Status State := do
  let t ← s.adminTenant a
  let id := t.id
  let mine (c : Nat) : Bool := t.cores.getLsbD c
  let clean (c : CoreSt) : CoreSt :=
    if mine c.id then { CoreSt.init c.id with cycles := c.cycles }
    else { c with tlb := c.tlb.filter (fun e => e.tenant != id) }
  let gone := (s.loads.filter (fun l => l.tenant == id)).map (·.id)
  let s := (s.fused.filter (fun cl => (clusterCores cl).any mine)).foldl State.flushCluster s
  let s := t.coreList.foldl State.l1WbAll s
  let s := { s with
    groups := s.groups.filter (fun g => g.tenant != id), cores := s.cores.map clean,
    loads := s.loads.filter (fun l => l.tenant != id),
    sreqs := s.sreqs.filter (fun r => !gone.contains r.load && (r.counted || r.tenant != id)),
    posted := s.posted.filter (fun r => r.tenant != id),
    dtlb := s.dtlb.filter (fun e => e.2.tenant != id),
    packets := s.packets.filter (fun p => p.tenant != id), keptPackets := s.keptPackets.filter (fun p => p.tenant != id),
    saves := s.saves.filter (fun b => b.tenant != id), heldCrews := s.heldCrews.filter (fun h => h.tenant != id),
    queues := s.queues.filter (fun q => q.num == 0 || q.tenant != id), tenants := s.tenants.filter (fun x => x.id != id),
    tdies := s.tdies.filter (fun x => x.tenant != id), slices := s.slices.filter (fun x => x.tenant != id) }
  .ok (s.fused.foldl State.unfuse (s.wipe t.holdsKey))

/-- R397: TENANT_DESTROY. -/
def execTenantDestroy (s : State) : Host.Outcome State Fault Refusal := event s (fun s => s.admin 0x0002 State.tenantDestroy)

/-! ## Queues -/

/-- R386, R392: QUEUE.SET. -/
def State.queueSet (s : State) (a : AdminSlot) : Except Status State := do
  let n := a.get 0
  let e : BitVec 512 := ofBytes 512 (s.hostBytes (a.get 1) 64)
  check (!entryBad n e) .badarg
  let q := queueOf n e
  let others := s.queues.filter (fun k => k.num != n)
  check (!q.shared || (others.filter Queue.shared).length < 1024) .busy
  .ok { s with queues := q :: others }

/-- R386: QUEUE_SET. -/
def execQueueSet (s : State) : Host.Outcome State Fault Refusal := event s (fun s => s.admin 0x0003 State.queueSet)

/-- R397: QUEUE.CLEAR: the queue is disabled, and slots that were not taken are discarded. -/
def State.queueClear (s : State) (a : AdminSlot) : Except Status State := do
  check (s.queue? (a.get 0)).isSome .badarg
  .ok (s.updQueue (a.get 0) (fun q => { q with flags := q.flags &&& 0xFE, cons := q.prod, resv := q.prod, bits := [] }))

/-- R397: QUEUE_CLEAR. -/
def execQueueClear (s : State) : Host.Outcome State Fault Refusal := event s (fun s => s.admin 0x0004 State.queueClear)

/-- R397, R408: QUEUE.GET; of queue 1, the corrected errors of each die, which only rise. -/
def State.queueGet (s : State) (a : AdminSlot) : Except Status State :=
  if a.get 0 = 1 then
    let s := (List.range 9).foldl (fun s d => s.updDie d (fun k => { k with corrected := k.corrected + s.free .sensor d })) s
    .ok (s.hostPut (a.get 1) ((List.range 9).flatMap (fun d => toBytes 4 (BitVec.ofNat 32 (s.die? d).corrected)) ++
      List.replicate 28 0))
  else match s.queue? (a.get 0) with
    | some q => .ok (s.hostPut (a.get 1) (toBytes 64 q.entry))
    | none => .error .badarg

/-- R397: QUEUE_GET. -/
def execQueueGet (s : State) : Host.Outcome State Fault Refusal := event s (fun s => s.admin 0x0005 State.queueGet)

/-! ## Pre-emption and restoration -/

/-- R397: the cores that PREEMPT names: a die, a mask of clusters, a mask of cores of each. -/
def preemptCores (a : AdminSlot) : List Nat :=
  (List.range 4).flatMap (fun c => if (a.get 1).testBit c then
    (List.range 32).filterMap (fun k => if (a.get 2).testBit k then some (128 * a.get 0 + 32 * c + k) else none) else [])

/-- R375, R397: PREEMPT begins, and completes once its work is done. -/
def State.preemptCmd (s : State) : State :=
  if s.adminBusy then (if s.preemptDone then s.adminDone else s)
  else s.adminWith 0x0006 (fun s a => do
    let t ← s.adminTenant a
    let cs := preemptCores a
    check (a.get 0 < 9 && a.get 1 < 2 ^ 4 && a.get 2 < 2 ^ 32 && cs.all (fun c => t.cores.getLsbD c)) .badarg
    check (cs.all (fun c => !(s.core? c).saved)) .denied
    .ok (s.preemptBegin cs (a.get 3), cs.isEmpty))

/-- R375: PREEMPT. -/
def execPreempt (s : State) : Host.Outcome State Fault Refusal := event s State.preemptCmd

/-- R375, R376: PREEMPT_CORE_SAVE. -/
def execPreemptCoreSave (core : Nat) (s : State) : Host.Outcome State Fault Refusal :=
  event s (fun s =>
    if !s.maySave core then s
    else
      let s := s.saveCore core
      if s.adminBusy && s.preemptDone then s.adminDone else s)

/-- R377: where a core map of RESTORE sends the core with index `k`; without a map, to the same index. -/
def State.mapIndex (s : State) (a : AdminSlot) (k : Nat) : Nat :=
  if a.get 3 = 0 then k else (s.rd8 (keyHost (a.get 3 + k))).toNat

/-- R377: RESTORE. -/
def State.restoreCmd (s : State) (a : AdminSlot) : Except Status State := do
  let t ← s.adminTenant a
  let src := a.get 0
  check (src < 36 && a.get 1 < 9 && a.get 2 < 4) .badarg
  let dst := 4 * a.get 1 + a.get 2
  let bs := s.blocksOf t.id src
  check (!bs.isEmpty) .denied
  check (dst = src || t.grants.getLsbD 2) .denied
  let ms := bs.map (fun b => s.mapIndex a (b.core % 32))
  check (ms.all (fun k => k < 32 && t.cores.getLsbD (32 * dst + k)) && ms.dedup.length = ms.length) .badarg
  let cs := ms.map (fun k => 32 * dst + k)
  check (cs.all (fun c =>
    s.groups.all (fun g => g.core != c) && (s.core? c).rack.isEmpty && (s.core? c).resv.isEmpty &&
      (s.core? c).inbound.isEmpty && s.saves.all (fun b => b.core != c || clusterOf b.core == src))) .denied
  .ok (s.restore t.id src (fun c => 32 * dst + s.mapIndex a (c % 32)))

/-- R377: RESTORE. -/
def execRestore (s : State) : Host.Outcome State Fault Refusal := event s (fun s => s.admin 0x0007 State.restoreCmd)

/-! ## Translations, faults, windows -/

/-- R382: TLB.INV. -/
def State.tlbInvCmd (s : State) (a : AdminSlot) : Except Status State := do
  let t ← s.adminTenant a
  let lo := a.get 0
  let hi := a.get 0 + a.get 1
  .ok (s.dropTlb t.id (fun p => lo < (p + 1) * 65536 && p * 65536 < hi))

/-- R382: TLB_INV. -/
def execTlbInv (s : State) : Host.Outcome State Fault Refusal := event s (fun s => s.admin 0x0008 State.tlbInvCmd)

/-- R385: FAULT.REPLY. -/
def State.faultReplyCmd (s : State) (a : AdminSlot) : Except Status State := do
  let t ← s.adminTenant a
  check (a.get 1 < 2) .badarg
  let page := a.get 0 / 65536
  match t.faults.find? (fun f => f.page == page) with
  | none => .error .denied
  | some f => .ok (s.faultReply t.id page (a.get 1 = 0) f.cause)

/-- R385: FAULT_REPLY. -/
def execFaultReply (s : State) : Host.Outcome State Fault Refusal := event s (fun s => s.admin 0x0009 State.faultReplyCmd)

/-- R199: WINDOW.ONLINE. A window of another module comes back with the route to it (R406), which is the model's reading
(notes/assumptions/38.md). -/
def State.windowOnlineCmd (s : State) (a : AdminSlot) : Except Status State := do
  let t ← s.adminTenant a
  check (a.get 0 < t.windows.length) .badarg
  let on (p : Window × Nat) : Window := if p.2 = a.get 0 then { p.1 with offline := false } else p.1
  let back := (t.windows[a.get 0]?.filter (fun w => w.kind == 2)).map (·.module)
  .ok ({ s with routesDown := s.routesDown.filter (fun m => some m != back) }.updTenant t.id
    (fun t => { t with windows := t.windows.zipIdx.map on }))

/-- R199: WINDOW_ONLINE. -/
def execWindowOnline (s : State) : Host.Outcome State Fault Refusal := event s (fun s => s.admin 0x000A State.windowOnlineCmd)

/-! ## Slots, time, power, links -/

/-- R339: a descriptor that breaks its layout. -/
def slotDescBad (d : BitVec 512) : Bool :=
  cb d 26 38 != 0 || 1 < cb d 25 1 || (d.getLsbD 200 &&
    (cb d 0 8 % 256 != 0 || cb d 8 4 % 256 != 0 || cb d 12 2 = 0 || 4096 < cb d 12 2 || cb d 14 1 = 0 || 64 < cb d 14 1 ||
      64 ≤ cb d 24 1))

/-- R339: SLOT.SET, refused while a round is open. -/
def State.slotSetCmd (s : State) (a : AdminSlot) : Except Status State := do
  let n := a.get 0
  let d : BitVec 512 := ofBytes 512 (s.hostBytes (a.get 1) 64)
  check (n < 256 && !slotDescBad d && a.get 2 < 65536 && a.get 3 < 65536) .badarg
  check (s.rslots.all (fun q => q.num != n || (q.parts.isEmpty && q.coming.isEmpty))) .denied
  .ok { s with rslots := ⟨n, d, a.get 2, a.get 3, 0, [], []⟩ :: s.rslots.filter (fun q => q.num != n) }

/-- R339: SLOT_SET. -/
def execSlotSet (s : State) : Host.Outcome State Fault Refusal := event s (fun s => s.admin 0x000B State.slotSetCmd)

/-- R396: TIME.SET never moves the count backwards. -/
def State.timeSetCmd (s : State) (a : AdminSlot) : Except Status State :=
  if s.clock.time ≤ a.get 0 then .ok { s with time := a.get 0 } else .error .badarg

/-- R396: TIME_SET. -/
def execTimeSet (s : State) : Host.Outcome State Fault Refusal := event s (fun s => s.admin 0x000C State.timeSetCmd)

/-- R396: TIME.ADJ, in parts per million. -/
def State.timeAdjCmd (s : State) (a : AdminSlot) : Except Status State :=
  let v : Int := (BitVec.ofNat 64 (a.get 0)).toInt
  if -200 ≤ v ∧ v ≤ 200 then .ok { s with timeRate := v } else .error .badarg

/-- R396: TIME_ADJ. -/
def execTimeAdj (s : State) : Host.Outcome State Fault Refusal := event s (fun s => s.admin 0x000D State.timeAdjCmd)

/-- R411: POWER.LIMIT. -/
def State.powerLimitCmd (s : State) (a : AdminSlot) : Except Status State :=
  if 1500 ≤ a.get 0 ∧ a.get 0 ≤ 7000 then .ok { s with powerLimit := a.get 0 } else .error .badarg

/-- R411: POWER_LIMIT. -/
def execPowerLimit (s : State) : Host.Outcome State Fault Refusal := event s (fun s => s.admin 0x000E State.powerLimitCmd)

/-- R405: MODULE.ID, refused after the first flit. -/
def State.moduleIdCmd (s : State) (a : AdminSlot) : Except Status State :=
  if 65536 ≤ a.get 0 then .error .badarg
  else if s.flitSeen || !s.outFlits.isEmpty then .error .denied
  else .ok { s with moduleNo := some (BitVec.ofNat 16 (a.get 0)) }

/-- R405: MODULE_ID. -/
def execModuleId (s : State) : Host.Outcome State Fault Refusal := event s (fun s => s.admin 0x000F State.moduleIdCmd)

/-- R409: the header and body of an image, over which its digest is taken. -/
def imageSigned (i : FwImage) : List Byte :=
  toBytes 8 (BitVec.ofNat 64 i.body.length) ++ toBytes 8 (BitVec.ofNat 64 i.version) ++ i.body

/-- R410: ATTEST: the nine public keys, the digest of the running image, the nonce, and die 0's signature over them. -/
def State.attestCmd (s : State) (a : AdminSlot) : Except Status State :=
  let nonce := s.hostBytes (a.get 0) 32
  let said := (List.range 9).flatMap (Config.diePublicKey s.bootNo) ++ Config.sha3 (imageSigned s.image) ++ nonce
  .ok (s.hostPut (a.get 1) (said ++ Config.mldsaSign s.bootNo 0 (Config.sha3 said)))

/-- R410: ATTEST. -/
def execAttest (s : State) : Host.Outcome State Fault Refusal := event s (fun s => s.admin 0x0010 State.attestCmd)

/-- R397: CXL.TIMEOUT. -/
def State.cxlTimeoutCmd (s : State) (a : AdminSlot) : Except Status State :=
  if a.get 0 < 2 ∧ 1000 ≤ a.get 1 ∧ a.get 1 ≤ 1000000 then
    .ok { s with portTimeout := putKey (a.get 0) (some (a.get 1)) s.portTimeout }
  else .error .badarg

/-- R397: CXL_TIMEOUT. -/
def execCxlTimeout (s : State) : Host.Outcome State Fault Refusal := event s (fun s => s.admin 0x0011 State.cxlTimeoutCmd)

end Sys2Proof.Machine
end

