-- ==== Sys2Proof/Machine/Device.lean ====
section
/-!
DEFINITION. The device around the cores: carve changes (R185), throttling (R190, R411), refresh (R193), the hot-page epoch
(R196), CXL ports (R197, R198), the Dypied link (R405, R406), sector checks and SRAM errors (R407, R408), what arrives from
the host (R403, R407), and bring-up (R409, R411).
-/

namespace Sys2Proof.Machine

open Sys2Proof

/-! ## The cellar -/

/-- R185: a way is zeroed, or its contents are discarded. -/
def State.clearWay (s : State) (die way : Nat) : State :=
  let k := keyCellar die way 0
  { s with mem := s.mem.filter (fun c => !(k ≤ c.1 && c.1 < k + 2 ^ 26)),
           poison := s.poison.filter (fun q => !(k ≤ 64 * q && 64 * q < k + 2 ^ 26)),
           tags := s.tags.filter (fun t => !(k ≤ 8 * t.1 && 8 * t.1 < k + 2 ^ 26)) }

/-- R186: loads and atomics of the tenant that reached the cellar of a die before the change. The spec leaves open on which side an
access in flight at the CSRW falls; the model takes every one as having reached it, which is the model's choice
(notes/assumptions/40.md). -/
def State.cellarLoads (s : State) (tenant die : Nat) : List Nat :=
  let lo := keyCellar die 0 0
  (s.loads.filter (fun l => l.tenant == tenant && l.accs.any (fun a => match a.key with
    | some k => lo ≤ k && k < lo + 2 ^ 30
    | none => false))).map (·.id)

/-- R186: a load, or every location of an atomic, that reached the cellar is performed. -/
def State.cellarReturn (s : State) (id : Nat) : State :=
  (List.range ((s.loads.filter (fun l => l.id == id)).flatMap (·.accs)).length).foldl (fun s _ => s.dataReturn id) s

/-- R185 to R187: a carve change completes. Accesses that reached the cellar before it are performed under the old carve;
ways that enter or leave the scratch role lose their contents. -/
def State.carveDone (s : State) (tenant die : Nat) : State :=
  match (s.tdie? tenant die).change with
  | none => s
  | some (scr, cache) =>
    let old := (s.tdie? tenant die).scr
    let s := (s.cellarLoads tenant die).foldl State.cellarReturn s
    let ways := (List.range 16).filter (fun w => old.getLsbD w != scr.getLsbD w)
    let s := ways.foldl (fun s w => s.clearWay die w) s
    s.updTdie tenant die (fun t => { t with scr := scr, cache := cache, change := none, carveDone := t.carveDone + 1 })

/-- R185: CARVE_CHANGE_COMPLETE. -/
def execCarveChangeComplete (tenant die : Nat) (s : State) : Host.Outcome State Fault Refusal :=
  event s (fun s => s.carveDone tenant die)

/-- R190: the cellar of a die starts or stops throttling. HOTSEEN is set where HOT is set; a tenant's clear of it lasts until HOT is
set again, which is the model's reading (notes/assumptions/51.md). -/
def State.cellarHot (s : State) (die : Nat) (on : Bool) : State :=
  let s := s.updDie die (fun d => { d with hot := on })
  if on then s.tenants.foldl (fun s t => s.updTdie t.id die (fun x => { x with hotSeen := true })) s else s

/-- R190: CELLAR_THERMAL_THROTTLE. -/
def execCellarThermalThrottle (die : Nat) (on : Bool) (s : State) : Host.Outcome State Fault Refusal :=
  event s (fun s => s.cellarHot die on)

/-! ## Refresh (R193) -/

/-- A channel's refresh state. -/
def State.chan? (s : State) (n : Nat) : Chan := (s.chans.find? (fun c => c.num == n)).getD ⟨n, [], [], false, none, 0⟩
/-- Change a channel. -/
def State.updChan (s : State) (n : Nat) (f : Chan → Chan) : State :=
  { s with chans := upsert (fun c => c.num == n) f ⟨n, [], [], false, none, 0⟩ s.chans }

/-- R193: the next per-bank refresh of a channel falls due; whether its bank group is in demand depends on the reads that
have reached it, which is open. -/
def Chan.refreshDue (c : Chan) (read : Bool) : Chan :=
  let grp := c.due % 4
  let c := { c with due := c.due + 1 }
  if c.forced then c
  else if read || c.demand.contains grp then
    let c := { c with demand := insertNat grp c.demand }
    if 8 ≤ c.owed.length then { c with owed := [], forced := true } else { c with owed := c.owed ++ [grp] }
  else { c with busy := some grp }

/-- R193: PER_BANK_REFRESH_DUE. -/
def execPerBankRefreshDue (chan : Nat) (s : State) : Host.Outcome State Fault Refusal :=
  event s (fun s => s.updChan chan (fun c => c.refreshDue (s.coin .order (16 * chan + 3))))

/-- R193: a bank group leaves demand, and its owed refreshes are performed. -/
def Chan.leaveDemand (c : Chan) (grp : Nat) : Chan :=
  if !c.demand.contains grp then c
  else { c with demand := c.demand.filter (fun g => g != grp), owed := c.owed.filter (fun g => g != grp),
                busy := if c.owed.contains grp then some grp else c.busy }

/-- R193: DEMAND_WINDOW_EXPIRY. -/
def execDemandWindowExpiry (chan grp : Nat) (s : State) : Host.Outcome State Fault Refusal :=
  event s (fun s => s.updChan chan (fun c => c.leaveDemand grp))

/-- R193: REFRESH_COMPLETE. -/
def execRefreshComplete (chan : Nat) (s : State) : Host.Outcome State Fault Refusal :=
  event s (fun s => s.updChan chan (fun c => { c with forced := false, busy := none }))

/-! ## Tiering (R196) -/

/-- R196: an epoch of a tenant ends: counts start again. -/
def State.epochEnd (s : State) (tenant : Nat) : State :=
  (s.hotRecords tenant).updTenant tenant (fun t => { t with hot := [], epochNo := t.epochNo + 1 })

/-- R196: TIERING_EPOCH_END. -/
def execTieringEpochEnd (tenant : Nat) (s : State) : Host.Outcome State Fault Refusal := event s (fun s => s.epochEnd tenant)

/-! ## Failures of ports and routes (R197 to R199, R406) -/

/-- R197, R406: the windows that a failure concerns go offline. -/
def State.windowsOff (s : State) (p : Window → Bool) : State :=
  let off (w : Window) : Window := if p w then { w with offline := true } else w
  { s with tenants := s.tenants.map (fun t => { t with windows := t.windows.map off }) }

/-- The bytes of one access of a load. -/
def Load.width (l : Load) : Nat := match l.kind with
  | .vec _ w _ => w
  | .scal _ w => w
  | .recd _ => 32
  | .atom a => a.w

/-- The sectors that a load or an atomic still concerns among some, each with its path. -/
def Load.secsIn (l : Load) (p : Nat → Bool) : List (Nat × Path) :=
  ((l.accs.flatMap (fun a => match a.key with
    | some k => (sectorsAt k l.width).map (fun q => (q, a.path))
    | none => [])).filter (fun x => p x.1)).dedup

/-- What a core sees of a sector now, nothing changed. -/
def State.sectorSeen (s : State) (core : Nat) (path : Path) (sec : Nat) : List Byte :=
  match path with
  | .l1 => (List.range 64).map (fun i => s.peek8 core path (64 * sec + i))
  | _ => s.rdN (64 * sec) 64

/-- Is it an atomic? -/
def Load.isAtom (l : Load) : Bool := match l.kind with
  | .atom _ => true
  | _ => false

/-- R197, R229: a load or an atomic when the place of some sectors fails: those that are outstanding there (`out`) come poisoned,
and it keeps what a load has received of the others; a request that has not entered its slice meets the failure there. -/
def State.failLoad (s : State) (p : Nat → Bool) (out : Load → Nat → Bool) (l : Load) : Load :=
  let waits (q : Nat) : Bool := s.sreqs.any (fun r => r.load == l.id && r.sec == q && !r.counted)
  let secs := (l.secsIn p).filter (fun x => !waits x.1)
  { l with poisoned := l.poisoned ++ (secs.filter (fun x => out l x.1)).map (·.1),
           held := if l.isAtom then l.held
                   else l.held ++ (secs.filter (fun x => !out l x.1)).map (fun x => (x.1, s.sectorSeen l.core x.2 x.1)) }

/-- The address of a part of a row that lies in some sectors and is outstanding (a free choice). -/
def State.partHit (s : State) (p : Nat → Bool) (q : RowPart) : Option DWord :=
  match q.loc with
  | .ok l => firstSome (fun sec => if p sec && s.coin .order (16 * sec + 11) then some (l.va + BitVec.ofNat 64 (64 * sec - l.key)) else none)
      (sectorsAt l.key q.len)
  | .error _ => none

/-- R197: started slices of COPY collectives that have outstanding reads of some sectors: core, slice, address. -/
def State.slicesHit (s : State) (p : Nat → Bool) : List (Nat × Slice × DWord) :=
  s.cores.flatMap (fun (c : CoreSt) => c.copyq.filterMap (fun x =>
    if !x.started || x.result.isSome || x.service.isSome then none
    else match s.sliceRows c.id x with
      | .ok (src, _) => (firstSome (s.partHit p) (src.flatMap (·.2))).map (fun a => (c.id, x, a))
      | .error _ => none))

/-- R197: staged tiles that have outstanding reads of some sectors: core, entry, member, address. -/
def State.stagingHit (s : State) (p : Nat → Bool) : List (Nat × Entry × Nat × DWord) :=
  s.cores.flatMap (fun (c : CoreSt) => (c.rack.filter (fun e => e.st == .staging)).filterMap (fun e =>
    firstSome (fun (t : TileIn) => (firstSome (s.partHit p) ((List.range (t.rows - t.done)).flatMap (fun i =>
      match s.stageRow c.id ((s.coreTenant c.id).getD 0) (t.desc? e.members) t.src (t.done + i) with
      | .ok ps => ps
      | .error _ => []))).map (fun a => (c.id, e, t.member, a))) e.tiles))

/-- R197, R406: the place of some sectors fails: loads, atomics, COPY slices and staging that are outstanding there receive
poison. The number of them besides loads. -/
def State.failSectors (s : State) (p : Nat → Bool) (out : Load → Nat → Bool) : State × Nat :=
  let xs := s.slicesHit p
  let es := s.stagingHit p
  let s := { s with loads := s.loads.map (s.failLoad p out) }
  let s := xs.foldl (fun s x => s.failSlice x.1 x.2.1 { code := .poison, addr := x.2.2, access := .read }) s
  (es.foldl (fun s x => s.faultEntry x.1 x.2.1 [(x.2.2.1, x.2.2.2, .poison)]) s, xs.length + es.length)

/-- R198: why a port or a route fails. -/
inductive FailCause where
  | linkDown | timeout | route
  deriving DecidableEq, Repr

/-- R198: the number that stands for a cause in the record, which is the model's choice (notes/assumptions/37.md). -/
def FailCause.num : FailCause → Nat
  | .linkDown => 0 | .timeout => 1 | .route => 2

/-- R198: the type 2 record of each tenant that a failure concerns: requests poisoned, dirty bytes discarded, the cause. -/
def State.linkRecords (s : State) (p : Window → Bool) (address requests dirty : Nat) (why : FailCause) : State :=
  (s.tenants.filter (fun t => t.windows.any p)).foldl
    (fun s t => s.errRec t.id 2 0 address requests (dirty % 2 ^ 64 + why.num * 2 ^ 64) none) s

/-- R197: dirty bytes of a port's lines in L2 and cellar are discarded: a byte that had not reached the expander holds what
the expander held; which bytes had reached it is open. Bytes that no cache may hold are not dirty bytes. -/
def State.discardDirty (s : State) (port : Nat) : State × Nat :=
  let ds := s.l2d.filter (fun c => s.portOf c.1 == some port)
  let lost := ds.filter (fun c => s.coin .memoryRace (16 * c.1))
  let sent (c : Host.Cell) : Bool := (s.sreqs ++ s.posted).any (fun r => r.wr && r.thru && r.sec == c.1 / 64)
  ({ s with mem := lost.foldl (fun m c => memPut m c.1 c.2) s.mem, l2d := s.l2d.filter (fun c => s.portOf c.1 != some port) },
    (lost.filter (fun c => !sent c)).length)

/-- R199: no L1 or fetch copy of some sectors, taken before a failure, serves a read after it; dirty bytes stay. -/
def State.dropCopies (s : State) (p : Nat → Bool) : State :=
  let clean (x : L1Sector) : L1Sector := if p x.key then { x with valid := x.dirty, poison := false } else x
  let core (c : CoreSt) : CoreSt :=
    { c with l1 := (c.l1.map clean).filter (fun x => x.valid != 0), icopy := c.icopy.filter (fun x => !p x.1) }
  { s with cores := s.cores.map core }

/-- R197: a CXL port fails. -/
def State.portFail (s : State) (port : Nat) (why : FailCause) : State :=
  let mine (w : Window) : Bool := w.kind < 2 && w.medium == port + 1
  let behind (sec : Nat) : Bool := s.portOf (64 * sec) == some port
  let n := ((s.sreqs ++ s.posted).filter (fun r => r.port == some port)).length
  let q := s.failSectors behind (fun l sec => l.isAtom || s.sreqs.any (fun r => r.load == l.id && r.sec == sec && r.port == some port))
  let d := q.1.discardDirty port
  let t := { d.1 with sreqs := d.1.sreqs.map (fun (r : SliceReq) => if r.port = some port then { r with port := none } else r),
                      posted := d.1.posted.filter (fun r => r.port != some port) }
  ((t.dropCopies behind).windowsOff mine).linkRecords mine port (n + q.2) d.2 why

/-- R197: CXL_LINK_DOWN. -/
def execCxlLinkDown (port : Nat) (s : State) : Host.Outcome State Fault Refusal :=
  event s (fun s => if port < 2 then s.portFail port .linkDown else s)

/-- R197: CXL_COMPLETION_TIMEOUT: a request has been outstanding. -/
def execCxlCompletionTimeout (port : Nat) (s : State) : Host.Outcome State Fault Refusal :=
  event s (fun s => if (s.sreqs ++ s.posted).any (fun r => r.port == some port) then s.portFail port .timeout else s)

/-- R197: an expander answers a request; what a write that no cache may hold has changed is then there. -/
def State.expanderReply (s : State) (port id : Nat) : State :=
  match (s.sreqs ++ s.posted).find? (fun r => r.id == id && r.port == some port) with
  | none => s
  | some r =>
    { s with sreqs := updWhere (fun x => x.id == id) (fun x => { x with port := none }) s.sreqs,
             posted := s.posted.filter (fun x => x.id != id),
             l2d := if r.wr && r.thru then s.l2d.filter (fun c => c.1 / 64 != r.sec) else s.l2d }

/-- R197: CXL_RESPONSE: the reply to a request that waits at the port; one that arrives after a failure is discarded. -/
def execCxlResponse (port id : Nat) (s : State) : Host.Outcome State Fault Refusal :=
  event s (fun s => s.expanderReply port id)

/-- R406: what a split has asked of a module and has not had comes poisoned. -/
def RemoteAsk.fail (p : Nat → Bool) (q : RemoteAsk) : RemoteAsk :=
  { q with secs := q.secs.map (fun x => if x.2.isNone && p x.1 then (x.1, some (List.replicate 64 0, true)) else x) }

/-- R406: every port of the route to a module fails: what is outstanding there comes poisoned. -/
def State.routeFail (s : State) (module : Nat) : State :=
  let mine (w : Window) : Bool := w.kind == 2 && w.module == module
  let there (sec : Nat) : Bool := remoteModule (64 * sec) == some module
  let out (l : Load) (sec : Nat) : Bool :=
    if l.isAtom then l.accs.any (fun x => x.key.any (fun k => k / 64 == sec && (getKey k l.held).isNone)) else (getKey sec l.held).isNone
  let group (g : Group) : Group := { g with splits := g.splits.map (fun p => { p with asked := p.asked.map (RemoteAsk.fail there) }) }
  let n := (s.loads.map (fun l => ((l.secsIn there).filter (fun x => out l x.1)).length)).sum
  let q := s.failSectors there out
  let s := q.1.dropCopies there
  let block (b : SaveBlock) : SaveBlock := { b with groups := b.groups.map group }
  let s := { s with routesDown := insertNat module s.routesDown, groups := s.groups.map group, saves := s.saves.map block }
  let s := (s.windowsOff mine).linkRecords mine module (n + q.2) 0 .route
  let sent := s.cores.flatMap (fun (c : CoreSt) => c.mq.filterMap (fun m => match m.st, m.op with
    | .sent, .fdrain ops => if (fdOwner ops).toNat = module then some (c.id, m) else none
    | _, _ => none))
  sent.foldl (fun s p => s.failCmd p.1 p.2 { code := .poison } true) s

/-- R406: DYPIED_ROUTE_FAILURE. -/
def execDypiedRouteFailure (module : BitVec 16) (s : State) : Host.Outcome State Fault Refusal :=
  event s (fun s => s.routeFail module.toNat)

/-! ## Flits that arrive (R405) -/

/-- R262: another module, where no party of it is known. -/
def outsideParty (module : BitVec 16) : Party := ⟨0, none, some module⟩

/-- R407: a sector of a flit as it arrives: its number, its bytes, whether it is poisoned, and whether that is for a check that does
not match. -/
structure Arrived where
  sec : Nat
  bytes : List Byte
  bad : Bool
  miss : Bool

/-- R407: the sectors of a flit, the first of which has a number. -/
def arrivals (f : Flit) (first : Nat) : List Arrived :=
  f.sectors.zipIdx.map (fun p =>
    let miss := crc16 p.1.1 != p.1.2
    ⟨first + p.2, p.1.1, miss || f.bad.getLsbD p.2, miss⟩)

/-- R407: a type 1 record for each sector whose check does not match; where it was found stands in a code of the device's own. -/
def State.noteChecks (s : State) (tenant : Nat) (xs : List Arrived) : State :=
  (xs.filter (·.miss)).foldl (fun s x => s.errRec tenant 1 0 (64 * x.sec) 1 (s.free .device 9) none) s

/-- R262, R268, R405: bytes that another module writes reach their place, which begins at a storage key. -/
def State.takeSectors (s : State) (f : Flit) (k : Nat) : State :=
  let xs := arrivals f (k / 64)
  (xs.foldl (fun s x =>
    let lo := max k (64 * x.sec)
    let hi := min (k + f.length) (64 * x.sec + 64)
    if lo < hi then
      let s := (s.openAt none ⟨lo, BitVec.ofNat 64 lo, .bypass, none⟩ (hi - lo)).placePlain lo
        ((x.bytes.drop (lo - 64 * x.sec)).take (hi - lo))
      if x.bad then s.poisonAt (64 * x.sec) 64 else s
    else s) s).noteChecks f.tenant xs

/-- R268: a release tag as it travels, and as it arrives. -/
def State.tagOut (s : State) (word : Nat) (t : RTag) : LinkTag :=
  ⟨word, t.scope, t.party.away.getD (s.moduleNo.getD 0), t.party.tid, t.party.core⟩
/-- R268: a release tag that has travelled. -/
def State.tagIn (s : State) (t : LinkTag) : RTag :=
  ⟨t.scope, ⟨t.tid, t.core, if some t.module = s.moduleNo then none else some t.module⟩⟩

/-- R405, R407: the answer to a read of another module: flits of up to three sectors each, with their poison bits and the release
tags of their words. -/
def State.answerRead (s : State) (f : Flit) (a : Nat) : State :=
  (flitRuns a f.length).foldl (fun s secs =>
    let s := secs.foldl (fun s sec => s.settle sec none) s
    let lo := max a (64 * secs.headD 0)
    let hi := min (a + f.length) (64 * (secs.headD 0 + secs.length))
    { s with outFlits := s.outFlits ++
        [{ kind := .readData, src := f.dst, dst := f.src, tenant := f.tenant, tag := f.tag, addr := BitVec.ofNat 64 lo, length := hi - lo,
           sectors := secs.map (fun sec => sectorOut (s.rdN (64 * sec) 64)), row := none, crcOk := true,
           bad := poisonBits (secs.map (fun sec => s.poison.contains sec)),
           tags := (s.tags.filter (fun t => lo / 8 ≤ t.1 && t.1 ≤ (hi - 1) / 8)).map (fun t => s.tagOut t.1 t.2) }] }) s

/-- R225, R228: the lanes of another module's atomic, one after another: the new value, and whether any of them writes. -/
def linkLanes (k : LinkAtom) (f : Fmt) (w : Nat) (old : Nat) (lanes : List (Nat × Nat)) : Nat × Bool :=
  lanes.foldl (fun acc d => match (AtomKind.op k).new f (8 * w) acc.1 d.1 d.2 with
    | some v => (v % 2 ^ (8 * w), true)
    | none => acc) (old, false)

/-- R243, R268, R406: an operation of another module at its home here, after the answer that says what the location held. A poisoned
location stays as it is. -/
def State.homeOp (s : State) (f : Flit) (a : Nat) (op : LinkOp) : State :=
  let loc : Loc := ⟨a, BitVec.ofNat 64 a, .bypass, none⟩
  let s := (s.openAt none loc f.length).answerRead f a
  let tag := (f.tags.head?).map s.tagIn
  if !(s.badAt a f.length).isEmpty then s
  else match op with
    | .atomic k fmt lanes =>
      let r := linkLanes k fmt f.length (s.rdV a f.length) lanes
      let s := if r.2 then s.place a (toBytes f.length (BitVec.ofNat 64 r.1)) else s
      (match tag with
        | some t => s.tagWords a f.length t
        | none => s)
    | .cell op => s.cellAt none loc op (tag.getD ⟨.system, outsideParty f.src⟩)

/-- R406: an answer of another module reaches what waits for it: a load, an atomic, or a split; an answer that nothing waits for
has no effect. -/
def State.takeAnswer (s : State) (f : Flit) : State :=
  let k := keyRemote f.src.toNat f.addr.toNat
  let xs := arrivals f (k / 64)
  let tags := f.tags.map (fun t => ((16 + f.src.toNat) * 2 ^ 61 + t.word, s.tagIn t))
  let load (l : Load) : Load :=
    if l.id ≠ f.tag then l
    else match l.kind with
      | .atom _ =>
        if l.accs.all (fun x => x.key != some k) then l
        else
          let bs := (xs.flatMap (·.bytes)).drop (k % 64)
          { l with held := l.held ++ [(k, bs.take f.length)], farTags := l.farTags ++ tags,
                   poisoned := l.poisoned ++ (xs.filter (·.bad)).map (·.sec) }
      | _ => { l with held := l.held ++ xs.map (fun x => (x.sec, x.bytes)), poisoned := l.poisoned ++ (xs.filter (·.bad)).map (·.sec) }
  let ask (q : RemoteAsk) : RemoteAsk :=
    if q.tag ≠ f.tag then q
    else { q with tags := q.tags ++ tags,
                  secs := q.secs.map (fun p => match xs.find? (fun x => x.sec == p.1) with
                    | some x => (p.1, some (x.bytes, x.bad))
                    | none => p) }
  let group (g : Group) : Group := { g with splits := g.splits.map (fun p => { p with asked := p.asked.map ask }) }
  let block (b : SaveBlock) : SaveBlock := { b with groups := b.groups.map group }
  { s with loads := s.loads.map load, groups := s.groups.map group, saves := s.saves.map block }.noteChecks f.tenant xs

/-- R341: the words of a contribution from the bytes of its sectors. -/
def rowsOfBytes (m n : Nat) (bs : List Byte) : List (List Word) :=
  (List.range m).map (fun i => (List.range n).map (fun j => ofBytes 32 ((bs.drop (4 * (n * i + j))).take 4)))

/-- R341, R405: rows of a contribution arrive from another module; once all are there they are contributed. Rows of which some come
poisoned stand as a failure marker would, which is the model's choice (notes/assumptions/38.md). -/
def State.takeRows (s : State) (f : Flit) (c : Contribution) : State :=
  let slot := f.addr.toNat % 256
  let xs := arrivals f (f.addr.toNat / 256)
  let s := s.noteChecks f.tenant xs
  match s.rslot? slot with
  | none => s
  | some q =>
    let mine (x : RowsIn) : Bool := x.module == f.src && x.tag == f.tag
    let old := (q.coming.find? mine).getD ⟨f.src, f.tag, { c with sender := none }, [], false⟩
    let got := xs.foldl (fun m x => putKey x.sec (some x.bytes) m) old.bytes
    let bad := old.bad || xs.any (·.bad)
    let rest := q.coming.filter (fun x => !mine x)
    let put (l : List RowsIn) : State := { s with rslots := updWhere (fun p => p.num == slot) (fun p => { p with coming := l }) s.rslots }
    if 64 * got.length < 4 * c.m * c.n then put (⟨f.src, f.tag, old.head, got, bad⟩ :: rest)
    else (put rest).contribute slot bad { old.head with rows := rowsOfBytes c.m c.n (got.flatMap (·.2)) }

/-- R405, R406: the effect of a flit by its type. Reads are answered, bytes are written at their home, operations are performed there,
answers reach what waits for them. -/
def State.takeFlit (s : State) (f : Flit) : State :=
  let a := f.addr.toNat % 2 ^ 52
  match f.kind with
  | .read => s.answerRead f a
  | .readData => s.takeAnswer f
  | .write => s.takeSectors f a
  | .atomic | .future => (match f.op with
    | some op => s.homeOp f a op
    | none => s)
  | .reductionRow => (match f.row with
    | some c => s.takeRows f c
    | none => s)
  | .failureMarker => (match f.row with
    | some c => s.contribute (a % 256) true { c with sender := none }
    | none => s)
  | .credit => s

/-- R405: a flit whose link CRC fails is not delivered. -/
def execDypiedFlitReceive (f : Flit) (s : State) : Host.Outcome State Fault Refusal :=
  event s (fun s => if f.crcOk then { s with flitSeen := true }.takeFlit f else s)

/-! ## SRAM errors (R408) -/

/-- The tenants whose memory a storage key belongs to. -/
def State.keyTenants (s : State) (k : Nat) : List Nat :=
  if keyNear 0 0 ≤ k && k < keyAttic 0 0 then (s.coreTenant ((k - keyNear 0 0) / 2 ^ 21)).toList
  else if keyAttic 0 0 ≤ k && k < keyCellar 0 0 0 then (s.coreTenant ((k - keyAttic 0 0) / 2 ^ 20)).toList
  else if keyCellar 0 0 0 ≤ k && k < keyCellar 9 0 0 then
    (s.tdies.filter (fun t => t.die == (k - keyCellar 0 0 0) / 2 ^ 30 && t.scr.getLsbD ((k - keyCellar 0 0 0) / 2 ^ 26 % 16))).map (·.tenant)
  else (s.tenants.filter (fun t => t.windows.any (fun w => w.base ≤ k && k < w.base + w.size))).map (·.id)

/-- R334: does a command read the elements of a tile of a core now? -/
def State.tileRead (s : State) (core handle : Nat) : Bool :=
  (s.core? core).mq.any (fun m => m.handle == handle && m.begun && (match m.op with
    | .mloop _ | .drain _ | .drainn _ | .fdrain _ | .rdrow _ _ _ => true
    | _ => false))

/-- R334, R408: an uncorrected error poisons what it held; the tenants it concerns, the core of an accumulator store, and what the
record names of it: for a tile, handle and element. The error of a tile is found by the read that meets it. What an unstarted entry of
a rack held is a task that fails with POISON, and what another structure held is nothing that the spec lets a program see: the model's
choices (notes/assumptions/51.md). -/
def State.sramHit (s : State) : SramSite → State × List Nat × Option Nat × Nat
  | .sector k => (s.poisonAt k 1, s.keyTenants k, none, 0)
  | .row tid reg =>
    (s.updGroup tid (fun g => { g with vregs := vset g.vregs reg (poisonRow (vget g.vregs reg VRow.init) 0xFFFF (BitVec.ofNat 64 (s.free .device 8))) }),
      ((s.group? tid).map (·.tenant)).toList, none, 0)
  | .tile core h elem =>
    let bad (t : Tile) : Tile := { t with state := .poison }
    -- the tile of an owner that has ended stands with the command that finishes on it (R282)
    let cmd (m : MCmd) : MCmd := if m.handle = h ∧ m.begun then { m with kept := m.kept.map bad } else m
    if !s.tileRead core h then (s, [], none, 0)
    else ((s.updTile core h bad).updCore core (fun c => { c with mq := c.mq.map cmd }), (s.coreTenant core).toList, some core,
      h + elem * 2 ^ 32)
  | .l1 core sec =>
    (match s.l1Find core sec with
      | none => (s, [], none, 0)
      | some x =>
        -- dirty bytes exist nowhere else: their place holds the damage from here on
        let s := if x.dirty = 0 then s else (s.l1Wb core sec).poisonAt (64 * sec) 64
        (s.l1Set core { x with dirty := 0, poison := true }, s.keyTenants (64 * sec), none, 0))
  | .rack core eid =>
    (match (s.core? core).rack.find? (fun e => e.eid == eid) with
      | none => (s, [], none, 0)
      | some e =>
        let fails := e.members.zipIdx.map (fun p => (p.2, tEntry p.1.record, TrapCode.poison))
        (if e.resume.isSome then s else s.faultEntry core e fails, (s.coreTenant core).toList, some core, 0))
  | .other tenant => (s, [tenant], none, 0)
  | .check k => (s.poisonAt k 1, s.keyTenants k, none, 0)

/-- R407: is it a check that does not match, which writes a type 1 record? -/
def checkSite : SramSite → Option Nat
  | .check k => some k
  | _ => none

/-- R334, R407, R408: SRAM_UNCORRECTED_ERROR, with its type 7 record (the structure's address is the device's own); or a check that
does not match where it is tested, with its type 1 record. -/
def execSramUncorrectedError (site : SramSite) (s : State) : Host.Outcome State Fault Refusal :=
  event s (fun s =>
    let q := s.sramHit site
    q.2.1.foldl (fun s t => match checkSite site with
      | some k => s.errRec t 1 0 (k / 64 * 64) 1 (s.free .device 9) none
      | none => s.errRec t 7 0 (s.free .device 7) 0 q.2.2.2 q.2.2.1) q.1)

/-! ## What arrives from the host -/

/-- R387: a host store to the queue control table races with the entry cache: the entry holds either value. -/
def State.tableRace (s : State) (k : Nat) (bs : List Byte) : State :=
  let hit (q : Queue) : Queue :=
    let base := s.queueBase + 64 * q.num
    if base < k + bs.length && k < base + 64 && s.coin .memoryRace (16 * q.num + 2) then
      let e := (toBytes 64 q.entry).zipIdx.map (fun b =>
        if k ≤ base + b.2 && base + b.2 < k + bs.length then bs.getD (base + b.2 - k) b.1 else b.1)
      { queueOf q.num (ofBytes 512 e) with bits := q.bits, armed := q.armed }
    else q
  { s with queues := s.queues.map hit }

/-- R407: HOST_WRITE: a write of the host reaches its place with fresh checks. Before bring-up the module exposes only its
recovery register block (R409), so only the host's own memory changes. -/
def execHostWrite (key : Nat) (bytes : List (BitVec 8)) (s : State) : Host.Outcome State Fault Refusal :=
  event s (fun s =>
    if s.boot ≠ .running ∧ (key < keyHost 0 ∨ keyNear 0 0 ≤ key) then s
    else ((s.openAt none ⟨key, BitVec.ofNat 64 key, .bypass, none⟩ bytes.length).placePlain key bytes).tableRace key bytes)

/-- R403: HOST_COMPLETION: what host memory holds; a poisoned or failed completion poisons the sectors that it should have filled,
of the loads, copies and staging that wait for them, and nothing else. -/
def execHostCompletion (key : Nat) (bytes : List (BitVec 8)) (bad : Bool) (s : State) : Host.Outcome State Fault Refusal :=
  event s (fun s =>
    if key < keyHost 0 || keyNear 0 0 ≤ key then s
    else if bad then (s.failSectors (fun sec => (sectorsAt key bytes.length).contains sec) (fun _ _ => true)).1
    else s.placePlain key bytes)

/-! ## Power and bring-up (R409, R411) -/

/-- R411: POWER_THROTTLE: the clock of a die is lowered or restored; SEEN of every tenant it concerns, which a tenant's clear holds
off until the next such event (notes/assumptions/51.md). -/
def execPowerThrottle (die : Nat) (limit therm : Bool) (s : State) : Host.Outcome State Fault Refusal :=
  event s (fun s =>
    let s := { s with powerLow := limit }.updDie die (fun d => { d with therm := therm })
    let seen (t : Tenant) : Tenant :=
      if limit || (therm && t.coreList.any (fun c => dieOf c == die)) then { t with pwrSeen := true } else t
    { s with tenants := s.tenants.map seen })

/-- R411: SHUTDOWN_TEMPERATURE: the die stops its cores, and the stop is reported. -/
def execShutdownTemperature (die : Nat) (s : State) : Host.Outcome State Fault Refusal :=
  event s (fun s => { s.updDie die (fun d => { d with shut := true }) with aer := die :: s.aer })

/-- R409: does the ROM accept an image? -/
def imageAccepted (i : FwImage) : Bool :=
  decide (Config.sha3 i.key = Config.romKeyDigest) && Config.mldsaVerify i.key (Config.sha3 (imageSigned i)) i.signature

/-- R386, R411: the admin queue as firmware enables it. -/
def adminQueue : Queue where
  num := 0
  ring := BitVec.ofNat 64 (Config.adminRing / 64 * 64)
  shadow := BitVec.ofNat 64 Config.adminShadow
  prod := 0
  cons := 0
  resv := 0
  k := 4 + Config.adminLog % 17
  flags := 1
  kind := 4
  tenant := 0
  vector := 0
  lost := 0
  bits := []
  armed := true

/-- R409, R411: the ROM verifies the image; bring-up zeroes the sector checks of HBM and ends with the admin queue enabled, or
only the recovery register block answers. -/
def State.powerOn (s : State) : State :=
  if s.boot ≠ .off then s
  else
    let s := { s with bootNo := s.bootNo + 1 }
    if imageAccepted s.image then
      { s with boot := .running, queueBase := Config.queueTableBase, queues := [adminQueue],
               poison := s.poison.filter (fun k => 2 ^ 52 ≤ 64 * k) }
    else { s with boot := .recovery }

/-- R411: POWER_ON_BOOT. -/
def execPowerOnBoot (s : State) : Host.Outcome State Fault Refusal := event s State.powerOn

/-- R409: RECOVERY_IMAGE_WRITE: a new image is accepted, and the ROM verifies it at the next start. -/
def execRecoveryImageWrite (image : FwImage) (s : State) : Host.Outcome State Fault Refusal :=
  event s (fun s => if s.boot = .recovery then { s with image := image, boot := .off } else s)

end Sys2Proof.Machine
end

