-- ==== Sys2Proof/Machine/Dispatch.lean ====
section
/-!
DEFINITION. One arm per instruction: the call of its meaning.
-/

namespace Sys2Proof.Machine

open Sys2Proof

def exec (i : Instr) (s : State) : Host.Outcome State Fault Refusal :=
  match i with
  | .nop sb => Sys2Proof.Machine.execNop sb s
  | .mov sb x y => Sys2Proof.Machine.execMov sb x y s
  | .sadd sb x y z => Sys2Proof.Machine.execSadd sb x y z s
  | .ssub sb x y z => Sys2Proof.Machine.execSsub sb x y z s
  | .smul sb x y z => Sys2Proof.Machine.execSmul sb x y z s
  | .smulh sb x y z => Sys2Proof.Machine.execSmulh sb x y z s
  | .smulhu sb x y z => Sys2Proof.Machine.execSmulhu sb x y z s
  | .sand sb x y z => Sys2Proof.Machine.execSand sb x y z s
  | .sor sb x y z => Sys2Proof.Machine.execSor sb x y z s
  | .sxor sb x y z => Sys2Proof.Machine.execSxor sb x y z s
  | .sshl sb x y z => Sys2Proof.Machine.execSshl sb x y z s
  | .sshr sb x y z => Sys2Proof.Machine.execSshr sb x y z s
  | .ssar sb x y z => Sys2Proof.Machine.execSsar sb x y z s
  | .smin sb x y z => Sys2Proof.Machine.execSmin sb x y z s
  | .smax sb x y z => Sys2Proof.Machine.execSmax sb x y z s
  | .sminu sb x y z => Sys2Proof.Machine.execSminu sb x y z s
  | .smaxu sb x y z => Sys2Proof.Machine.execSmaxu sb x y z s
  | .sunNot sb x y => Sys2Proof.Machine.execSunNot sb x y s
  | .sunNeg sb x y => Sys2Proof.Machine.execSunNeg sb x y s
  | .sunAbs sb x y => Sys2Proof.Machine.execSunAbs sb x y s
  | .sunClz sb x y => Sys2Proof.Machine.execSunClz sb x y s
  | .sunCtz sb x y => Sys2Proof.Machine.execSunCtz sb x y s
  | .sunPopc sb x y => Sys2Proof.Machine.execSunPopc sb x y s
  | .sunBrev sb x y => Sys2Proof.Machine.execSunBrev sb x y s
  | .sunBswap sb x y => Sys2Proof.Machine.execSunBswap sb x y s
  | .sunSext8 sb x y => Sys2Proof.Machine.execSunSext8 sb x y s
  | .sunSext16 sb x y => Sys2Proof.Machine.execSunSext16 sb x y s
  | .sunZext8 sb x y => Sys2Proof.Machine.execSunZext8 sb x y s
  | .sunZext16 sb x y => Sys2Proof.Machine.execSunZext16 sb x y s
  | .sbfx sb x y z => Sys2Proof.Machine.execSbfx sb x y z s
  | .sbfi sb x y z => Sys2Proof.Machine.execSbfi sb x y z s
  | .scmp sb cond pd y z => Sys2Proof.Machine.execScmp sb cond pd y z s
  | .ssel sb x y z => Sys2Proof.Machine.execSsel sb x y z s
  | .dadd sb x y z => Sys2Proof.Machine.execDadd sb x y z s
  | .dsub sb x y z => Sys2Proof.Machine.execDsub sb x y z s
  | .dshl sb x y z => Sys2Proof.Machine.execDshl sb x y z s
  | .dshr sb x y z => Sys2Proof.Machine.execDshr sb x y z s
  | .amov sb x y => Sys2Proof.Machine.execAmov sb x y s
  | .aadd sb x y z => Sys2Proof.Machine.execAadd sb x y z s
  | .ascl sb x y z => Sys2Proof.Machine.execAscl sb x y z s
  | .ashl sb x y z => Sys2Proof.Machine.execAshl sb x y z s
  | .aexp sb x y z => Sys2Proof.Machine.execAexp sb x y z s
  | .aget sb x y part => Sys2Proof.Machine.execAget sb x y part s
  | .pand sb x y z => Sys2Proof.Machine.execPand sb x y z s
  | .por sb x y z => Sys2Proof.Machine.execPor sb x y z s
  | .pxor sb x y z => Sys2Proof.Machine.execPxor sb x y z s
  | .punNot sb x y => Sys2Proof.Machine.execPunNot sb x y s
  | .punFirst sb x y => Sys2Proof.Machine.execPunFirst sb x y s
  | .punLast sb x y => Sys2Proof.Machine.execPunLast sb x y s
  | .punSet sb x y => Sys2Proof.Machine.execPunSet sb x y s
  | .punGet sb x y => Sys2Proof.Machine.execPunGet sb x y s
  | .punCnt sb x y => Sys2Proof.Machine.execPunCnt sb x y s
  | .pmov sb x y => Sys2Proof.Machine.execPmov sb x y s
  | .setm sb x mask => Sys2Proof.Machine.execSetm sb x mask s
  | .getm sb x => Sys2Proof.Machine.execGetm sb x s
  | .br off => Sys2Proof.Machine.execBr off s
  | .brc x test off => Sys2Proof.Machine.execBrc x test off s
  | .bsplit x tgt join => Sys2Proof.Machine.execBsplit x tgt join s
  | .sjoin => Sys2Proof.Machine.execSjoin s
  | .brt x targets => Sys2Proof.Machine.execBrt x targets s
  | .call off => Sys2Proof.Machine.execCall off s
  | .callt x targets => Sys2Proof.Machine.execCallt x targets s
  | .ret => Sys2Proof.Machine.execRet s
  | .loops x len => Sys2Proof.Machine.execLoops x len s
  | .exit => Sys2Proof.Machine.execExit s
  | .yield => Sys2Proof.Machine.execYield s
  | .sinfoLanes sb x => Sys2Proof.Machine.execSinfoLanes sb x s
  | .sinfoExec sb x => Sys2Proof.Machine.execSinfoExec sb x s
  | .sinfoCount sb x => Sys2Proof.Machine.execSinfoCount sb x s
  | .sinfoId sb x => Sys2Proof.Machine.execSinfoId sb x s
  | .sinfoDepth sb x => Sys2Proof.Machine.execSinfoDepth sb x s
  | .sinfoOvf sb x => Sys2Proof.Machine.execSinfoOvf sb x s
  | .liveDead sb b n => Sys2Proof.Machine.execLiveDead sb b n s
  | .liveFetch sb b n => Sys2Proof.Machine.execLiveFetch sb b n s
  | .trap x c => Sys2Proof.Machine.execTrap x c s
  | .sysc x => Sys2Proof.Machine.execSysc x s
  | .rft => Sys2Proof.Machine.execRft s
  | .csrr sb x num => Sys2Proof.Machine.execCsrr sb x num s
  | .csrw sb x num => Sys2Proof.Machine.execCsrw sb x num s
  | .srSeedWrite sb x => Sys2Proof.Machine.execSrSeedWrite sb x s
  | .sliceClr sb x => Sys2Proof.Machine.execSliceClr sb x s
  | .sliceSnap sb x => Sys2Proof.Machine.execSliceSnap sb x s
  | .cellarCarveWrite sb x => Sys2Proof.Machine.execCellarCarveWrite sb x s
  | .bkpt c => Sys2Proof.Machine.execBkpt c s
  | .time sb x sel => Sys2Proof.Machine.execTime sb x sel s
  | .vadd sb x y z => Sys2Proof.Machine.execVadd sb x y z s
  | .vsub sb x y z => Sys2Proof.Machine.execVsub sb x y z s
  | .vmul sb x y z => Sys2Proof.Machine.execVmul sb x y z s
  | .vmulh sb x y z => Sys2Proof.Machine.execVmulh sb x y z s
  | .vfma sb x y z => Sys2Proof.Machine.execVfma sb x y z s
  | .vfms sb x y z => Sys2Proof.Machine.execVfms sb x y z s
  | .vmin sb x y z => Sys2Proof.Machine.execVmin sb x y z s
  | .vmax sb x y z => Sys2Proof.Machine.execVmax sb x y z s
  | .vand sb x y z => Sys2Proof.Machine.execVand sb x y z s
  | .vor sb x y z => Sys2Proof.Machine.execVor sb x y z s
  | .vxor sb x y z => Sys2Proof.Machine.execVxor sb x y z s
  | .vshl sb x y z => Sys2Proof.Machine.execVshl sb x y z s
  | .vshr sb x y z => Sys2Proof.Machine.execVshr sb x y z s
  | .vcmp sb cond pd y z => Sys2Proof.Machine.execVcmp sb cond pd y z s
  | .vsel sb x y z => Sys2Proof.Machine.execVsel sb x y z s
  | .vunNeg sb x y => Sys2Proof.Machine.execVunNeg sb x y s
  | .vunAbs sb x y => Sys2Proof.Machine.execVunAbs sb x y s
  | .vunNot sb x y => Sys2Proof.Machine.execVunNot sb x y s
  | .vunRcp sb x y => Sys2Proof.Machine.execVunRcp sb x y s
  | .vunRsqrt sb x y => Sys2Proof.Machine.execVunRsqrt sb x y s
  | .vunSqrt sb x y => Sys2Proof.Machine.execVunSqrt sb x y s
  | .vunExp2 sb x y => Sys2Proof.Machine.execVunExp2 sb x y s
  | .vunLog2 sb x y => Sys2Proof.Machine.execVunLog2 sb x y s
  | .vunFloor sb x y => Sys2Proof.Machine.execVunFloor sb x y s
  | .vunCeil sb x y => Sys2Proof.Machine.execVunCeil sb x y s
  | .vunTrunc sb x y => Sys2Proof.Machine.execVunTrunc sb x y s
  | .vunRint sb x y => Sys2Proof.Machine.execVunRint sb x y s
  | .vunClz sb x y => Sys2Proof.Machine.execVunClz sb x y s
  | .vunPopc sb x y => Sys2Proof.Machine.execVunPopc sb x y s
  | .vbfx sb x y z => Sys2Proof.Machine.execVbfx sb x y z s
  | .vbfi sb x y z => Sys2Proof.Machine.execVbfi sb x y z s
  | .vdot2 sb x y z => Sys2Proof.Machine.execVdot2 sb x y z s
  | .vscl sb x y z => Sys2Proof.Machine.execVscl sb x y z s
  | .cvt sb x y t => Sys2Proof.Machine.execCvt sb x y t s
  | .qnt sb x y z => Sys2Proof.Machine.execQnt sb x y z s
  | .dqnt sb x y z => Sys2Proof.Machine.execDqnt sb x y z s
  | .pack sb x y z => Sys2Proof.Machine.execPack sb x y z s
  | .unpk sb x y half => Sys2Proof.Machine.execUnpk sb x y half s
  | .tag sb x y fmt => Sys2Proof.Machine.execTag sb x y fmt s
  | .ballot sb x y => Sys2Proof.Machine.execBallot sb x y s
  | .xchg sb x y z => Sys2Proof.Machine.execXchg sb x y z s
  | .shuf sb x y z => Sys2Proof.Machine.execShuf sb x y z s
  | .bcast sb x y z => Sys2Proof.Machine.execBcast sb x y z s
  | .scan sb x y op => Sys2Proof.Machine.execScan sb x y op s
  | .vred sb x y op => Sys2Proof.Machine.execVred sb x y op s
  | .ld sb x y z => Sys2Proof.Machine.execLd sb x y z s
  | .st sb x y z => Sys2Proof.Machine.execSt sb x y z s
  | .lds sb x y z => Sys2Proof.Machine.execLds sb x y z s
  | .sts sb x y z => Sys2Proof.Machine.execSts sb x y z s
  | .rld sb x y z => Sys2Proof.Machine.execRld sb x y z s
  | .rst sb x y z => Sys2Proof.Machine.execRst sb x y z s
  | .rset sb x y sel => Sys2Proof.Machine.execRset sb x y sel s
  | .pref sb lv y z => Sys2Proof.Machine.execPref sb lv y z s
  | .cacheIcinv sb x y => Sys2Proof.Machine.execCacheIcinv sb x y s
  | .cacheWb sb x y => Sys2Proof.Machine.execCacheWb sb x y s
  | .cacheInv sb x y => Sys2Proof.Machine.execCacheInv sb x y s
  | .cacheWbinv sb x y => Sys2Proof.Machine.execCacheWbinv sb x y s
  | .cacheZero sb x y => Sys2Proof.Machine.execCacheZero sb x y s
  | .atadd sb x y z => Sys2Proof.Machine.execAtadd sb x y z s
  | .atmin sb x y z => Sys2Proof.Machine.execAtmin sb x y z s
  | .atmax sb x y z => Sys2Proof.Machine.execAtmax sb x y z s
  | .atand sb x y z => Sys2Proof.Machine.execAtand sb x y z s
  | .ator sb x y z => Sys2Proof.Machine.execAtor sb x y z s
  | .atxor sb x y z => Sys2Proof.Machine.execAtxor sb x y z s
  | .atxch sb x y z => Sys2Proof.Machine.execAtxch sb x y z s
  | .atcas sb x y z => Sys2Proof.Machine.execAtcas sb x y z s
  | .atbinc sb x y z => Sys2Proof.Machine.execAtbinc sb x y z s
  | .fenceAcq sb sc => Sys2Proof.Machine.execFenceAcq sb sc s
  | .fenceRel sb sc => Sys2Proof.Machine.execFenceRel sb sc s
  | .fenceAr sb sc => Sys2Proof.Machine.execFenceAr sb sc s
  | .waitc x y z => Sys2Proof.Machine.execWaitc x y z s
  | .bar slot => Sys2Proof.Machine.execBar slot s
  | .spawn sb x y z => Sys2Proof.Machine.execSpawn sb x y z s
  | .spawnl sb x y z => Sys2Proof.Machine.execSpawnl sb x y z s
  | .join pd y z => Sys2Proof.Machine.execJoin pd y z s
  | .joinT pd y z => Sys2Proof.Machine.execJoinT pd y z s
  | .futInit sb y => Sys2Proof.Machine.execFutInit sb y s
  | .futPub sb x y => Sys2Proof.Machine.execFutPub sb x y s
  | .futSig sb x y => Sys2Proof.Machine.execFutSig sb x y s
  | .futSet sb x y => Sys2Proof.Machine.execFutSet sb x y s
  | .futFail sb x y => Sys2Proof.Machine.execFutFail sb x y s
  | .futCancel sb y => Sys2Proof.Machine.execFutCancel sb y s
  | .futPeek sb x y => Sys2Proof.Machine.execFutPeek sb x y s
  | .teamFork sb x y => Sys2Proof.Machine.execTeamFork sb x y s
  | .teamEnter sb x y => Sys2Proof.Machine.execTeamEnter sb x y s
  | .teamLeave sb y => Sys2Proof.Machine.execTeamLeave sb y s
  | .teamRank sb x y => Sys2Proof.Machine.execTeamRank sb x y s
  | .teamSize sb x y => Sys2Proof.Machine.execTeamSize sb x y s
  | .rsvTake sb x y => Sys2Proof.Machine.execRsvTake sb x y s
  | .rsvCommit sb x y => Sys2Proof.Machine.execRsvCommit sb x y s
  | .crewFork sb x y => Sys2Proof.Machine.execCrewFork sb x y s
  | .crewReport sb x => Sys2Proof.Machine.execCrewReport sb x s
  | .crewAwait x => Sys2Proof.Machine.execCrewAwait x s
  | .crewCancel sb x y => Sys2Proof.Machine.execCrewCancel sb x y s
  | .crewInit sb x y => Sys2Proof.Machine.execCrewInit sb x y s
  | .crewPeek sb x y => Sys2Proof.Machine.execCrewPeek sb x y s
  | .mcfg sb h y => Sys2Proof.Machine.execMcfg sb h y s
  | .mloop sb h y => Sys2Proof.Machine.execMloop sb h y s
  | .mopDrain sb h y => Sys2Proof.Machine.execMopDrain sb h y s
  | .mopDrainn sb h y => Sys2Proof.Machine.execMopDrainn sb h y s
  | .mopFdrain sb h y => Sys2Proof.Machine.execMopFdrain sb h y s
  | .mopZero sb h => Sys2Proof.Machine.execMopZero sb h s
  | .mopRdrow sb x y => Sys2Proof.Machine.execMopRdrow sb x y s
  | .mopWrrow sb x y => Sys2Proof.Machine.execMopWrrow sb x y s
  | .mopWait x h => Sys2Proof.Machine.execMopWait x h s
  | .mopCheck sb x h => Sys2Proof.Machine.execMopCheck sb x h s
  | .copy sb x y z => Sys2Proof.Machine.execCopy sb x y z s
  | .syscReply tid sid => Sys2Proof.Machine.execSyscReply tid sid s
  | .loadDataReturn id => Sys2Proof.Machine.execLoadDataReturn id s
  | .crewDeadlineCheck key => Sys2Proof.Machine.execCrewDeadlineCheck key s
  | .copyCollectiveComplete core team => Sys2Proof.Machine.execCopyCollectiveComplete core team s
  | .matrixCommandStart core id => Sys2Proof.Machine.execMatrixCommandStart core id s
  | .matrixCommandComplete core id => Sys2Proof.Machine.execMatrixCommandComplete core id s
  | .engineAccessFailure core id code addr => Sys2Proof.Machine.execEngineAccessFailure core id code addr s
  | .deferredTrap tid => Sys2Proof.Machine.execDeferredTrap tid s
  | .reductionRowArrive slot c => Sys2Proof.Machine.execReductionRowArrive slot c s
  | .failureMarker slot c => Sys2Proof.Machine.execFailureMarker slot c s
  | .issueCycle core side => Sys2Proof.Machine.execIssueCycle core side s
  | .windowComplete tid sid => Sys2Proof.Machine.execWindowComplete tid sid s
  | .residencyFill tid reg => Sys2Proof.Machine.execResidencyFill tid reg s
  | .trapTaken tid => Sys2Proof.Machine.execTrapTaken tid s
  | .watchdog tid => Sys2Proof.Machine.execWatchdog tid s
  | .pageWalkComplete core tenant page => Sys2Proof.Machine.execPageWalkComplete core tenant page s
  | .pop core => Sys2Proof.Machine.execPop core s
  | .prefetchTake core => Sys2Proof.Machine.execPrefetchTake core s
  | .stagingRowArrive core eid => Sys2Proof.Machine.execStagingRowArrive core eid s
  | .stealRound core => Sys2Proof.Machine.execStealRound core s
  | .stealProbe thief victim => Sys2Proof.Machine.execStealProbe thief victim s
  | .stealDelivery thief => Sys2Proof.Machine.execStealDelivery thief s
  | .sliceRequestEnter id => Sys2Proof.Machine.execSliceRequestEnter id s
  | .carveChangeComplete tenant die => Sys2Proof.Machine.execCarveChangeComplete tenant die s
  | .cellarThermalThrottle die on => Sys2Proof.Machine.execCellarThermalThrottle die on s
  | .perBankRefreshDue chan => Sys2Proof.Machine.execPerBankRefreshDue chan s
  | .demandWindowExpiry chan grp => Sys2Proof.Machine.execDemandWindowExpiry chan grp s
  | .tieringEpochEnd tenant => Sys2Proof.Machine.execTieringEpochEnd tenant s
  | .cxlLinkDown port => Sys2Proof.Machine.execCxlLinkDown port s
  | .cxlCompletionTimeout port => Sys2Proof.Machine.execCxlCompletionTimeout port s
  | .cxlResponse port id => Sys2Proof.Machine.execCxlResponse port id s
  | .dypiedFlitReceive f => Sys2Proof.Machine.execDypiedFlitReceive f s
  | .dypiedRouteFailure module => Sys2Proof.Machine.execDypiedRouteFailure module s
  | .sramUncorrectedError site => Sys2Proof.Machine.execSramUncorrectedError site s
  | .prodDoorbell fn q idx => Sys2Proof.Machine.execProdDoorbell fn q idx s
  | .resvRead fn q => Sys2Proof.Machine.execResvRead fn q s
  | .commitDoorbell fn q t => Sys2Proof.Machine.execCommitDoorbell fn q t s
  | .consDoorbell fn q idx => Sys2Proof.Machine.execConsDoorbell fn q idx s
  | .launchPacketTake q => Sys2Proof.Machine.execLaunchPacketTake q s
  | .rootTaskPlace q => Sys2Proof.Machine.execRootTaskPlace q s
  | .heldPacketStart tenant => Sys2Proof.Machine.execHeldPacketStart tenant s
  | .tenantCreate => Sys2Proof.Machine.execTenantCreate s
  | .tenantDestroy => Sys2Proof.Machine.execTenantDestroy s
  | .queueSet => Sys2Proof.Machine.execQueueSet s
  | .queueClear => Sys2Proof.Machine.execQueueClear s
  | .queueGet => Sys2Proof.Machine.execQueueGet s
  | .preempt => Sys2Proof.Machine.execPreempt s
  | .preemptCoreSave core => Sys2Proof.Machine.execPreemptCoreSave core s
  | .restore => Sys2Proof.Machine.execRestore s
  | .tlbInv => Sys2Proof.Machine.execTlbInv s
  | .faultReply => Sys2Proof.Machine.execFaultReply s
  | .windowOnline => Sys2Proof.Machine.execWindowOnline s
  | .slotSet => Sys2Proof.Machine.execSlotSet s
  | .timeSet => Sys2Proof.Machine.execTimeSet s
  | .timeAdj => Sys2Proof.Machine.execTimeAdj s
  | .powerLimit => Sys2Proof.Machine.execPowerLimit s
  | .moduleId => Sys2Proof.Machine.execModuleId s
  | .attest => Sys2Proof.Machine.execAttest s
  | .cxlTimeout => Sys2Proof.Machine.execCxlTimeout s
  | .powerThrottle die limit therm => Sys2Proof.Machine.execPowerThrottle die limit therm s
  | .shutdownTemperature die => Sys2Proof.Machine.execShutdownTemperature die s
  | .powerOnBoot => Sys2Proof.Machine.execPowerOnBoot s
  | .recoveryImageWrite image => Sys2Proof.Machine.execRecoveryImageWrite image s
  | .undefinedEncoding => Sys2Proof.Machine.execUndefinedEncoding s
  | .hostWrite key bytes => Sys2Proof.Machine.execHostWrite key bytes s
  | .hostCompletion key bytes bad => Sys2Proof.Machine.execHostCompletion key bytes bad s
  | .refreshComplete chan => Sys2Proof.Machine.execRefreshComplete chan s

end Sys2Proof.Machine
end

