-- ==== Sys2Proof/Machine/Schedule.lean ====
section
/-!
DEFINITION. Which step the machine takes when no split issues and the agenda is empty: a fixed order in which everything
that is due gets its turn. Every other order the spec allows, and everything that comes from outside, is an agenda
(notes/assumptions/2.md).
-/

namespace Sys2Proof.Machine

open Sys2Proof

/-- Bring-up, the admin queue and PREEMPT's work (R375, R397, R411). -/
def State.dueAdmin (s : State) : Option Instr :=
  if s.boot = .off then some .powerOnBoot
  else if s.adminBusy then
    match s.cores.find? (fun c => s.maySave c.id) with
    | some c => some (.preemptCoreSave c.id)
    | none => if s.preemptDone then some .preempt else none
  else if s.boot = .running then
    s.adminHead.map (fun a =>
      ([.tenantCreate, .tenantCreate, .tenantDestroy, .queueSet, .queueClear, .queueGet, .preempt, .restore, .tlbInv, .faultReply,
        .windowOnline, .slotSet, .timeSet, .timeAdj, .powerLimit, .moduleId, .attest, .cxlTimeout] : List Instr).getD a.op .tenantCreate)
  else none

/-- Requests that enter their slices, replies of expanders, loads that return (R144, R159, R197). -/
def State.dueLoad (s : State) : Option Instr :=
  match s.sreqs.find? (fun r => !r.counted && s.sliceUse r.die r.slice < 32) with
  | some r => some (.sliceRequestEnter r.id)
  | none =>
    match firstSome (fun (r : SliceReq) => r.port.map (fun p => Instr.cxlResponse p r.id)) (s.sreqs ++ s.posted) with
    | some i => some i
    | none =>
      match s.loads.find? s.mayReturn with
      | some l => some (.loadDataReturn l.id)
      | none => (s.sreqs.find? (fun r => !r.counted)).map (fun r => .sliceRequestEnter r.id)

/-- Commands of the matrix queues (R289, R341). -/
def State.dueMatrix (s : State) : Option Instr :=
  firstSome (fun (c : CoreSt) => firstSome (fun (m : MCmd) => match m.st, m.op with
    | .active, _ => some (.matrixCommandComplete c.id m.id)
    | .sent, .fdrain ops =>
      if s.ownsSlot ops then some (.reductionRowArrive (fdSlot ops) (s.contributionOf c.id m ops))
      else some (.matrixCommandComplete c.id m.id)
    | .queued, _ => if s.mayStart c.id m then some (.matrixCommandStart c.id m.id) else none
    | _, _ => none) c.mq) s.cores

/-- Carve changes (R185): what waits for one asks again and again, so it comes before that. -/
def State.dueCarve (s : State) : Option Instr :=
  (s.tdies.find? (fun t => t.change.isSome)).map (fun t => .carveChangeComplete t.tenant t.die)

/-- Collectives that run (R300, R301): one with a slice that can go on, or whose slices are all finished. -/
def State.dueEngine (s : State) : Option Instr :=
  firstSome (fun (c : CoreSt) => (c.copyq.find? (fun x =>
      let all := c.copyq.filter (fun y => y.team == x.team && y.nth == x.nth)
      c.copyNow x.team == some x.nth && all.all (·.started) &&
        (all.any (fun y => y.result.isNone && y.service.isNone) || all.all (fun y => y.result.isSome)))).map
    (fun x => Instr.copyCollectiveComplete c.id x.team)) s.cores

/-- What a split waits for that only takes time: a walk, a row, its window, the front end (R159, R166, R382, R401). -/
def State.dueSplit (s : State) (g : Group) (p : Split) : Option Instr :=
  match p.st with
  | .walk pg => some (.pageWalkComplete g.core g.tenant pg)
  | .res r => some (.residencyFill g.tid r)
  | .win => if p.stopped || (p.entry.isNone && !p.handler) || s.inFlight g p.sid then none else some (.windowComplete g.tid p.sid)
  | .park (.sysc _ _) => if p.stopped then none else some (.syscReply g.tid p.sid)
  | _ => none

/-- Traps that can be taken (R220, R292), the watchdog (R372). -/
def State.dueTrap (s : State) (g : Group) : Option Instr :=
  let edge := g.splits.any (fun p => p.atBoundary && !p.stopped && (p.entry.isSome || p.handler))
  if !g.deferred.isEmpty && g.traps.isEmpty && g.deferTaker.isSome then some (.deferredTrap g.tid)
  else if edge && (g.wdog || ((!g.traps.isEmpty || g.cancel) && g.handler.isNone)) then some (.trapTaken g.tid)
  else if !g.wdog && g.overdue (((s.tenant? g.tenant).map (·.wdog)).getD 0) s.time then some (.watchdog g.tid)
  else none

/-- The groups' turn. -/
def State.dueGroup (s : State) : Option Instr :=
  firstSome (fun (g : Group) => match firstSome (s.dueSplit g) g.splits with
    | some i => some i
    | none => s.dueTrap g) s.groups

/-- R314: would a pop of the core take or skip an entry? -/
def State.canPop (s : State) (core : Nat) : Bool :=
  let c := s.core? core
  let free := (s.freeSlots core).length
  let es := c.popList
  s.working core && 0 < free && !es.isEmpty && !es.any (fun e => e.skips == 64 && !e.fits free c.teams.length) &&
    (match (popChoose free c.teams.length es).2 with
      | some e => !c.waits || (s.imageRoom core e.tids).2
      | none => true)

/-- Racks: deliveries, staging, pops (R311, R314, R317). -/
def State.dueRack (s : State) : Option Instr :=
  firstSome (fun (c : CoreSt) =>
    if !c.inbound.isEmpty then some (.stealDelivery c.id)
    else match c.rack.find? (fun e => e.st == .staging) with
      | some e => some (.stagingRowArrive c.id e.eid)
      | none =>
        if s.working c.id && c.rack.any (fun e => e.st == .waitStage && !e.held &&
            (s.consider c.id ((s.coreTenant c.id).getD 0) e).isSome) then some (.prefetchTake c.id)
        else if s.canPop c.id then some (.pop c.id)
        else none) s.cores

/-- Packets (R393, R395) and crews whose deadline has passed (R353). -/
def State.dueFront (s : State) : Option Instr :=
  match s.keptPackets.find? (fun p => (s.placeRoot p).isSome) with
  | some p => some (.rootTaskPlace p.queue)
  | none =>
    match s.packets.find? (fun p => p.start ≤ s.time && (s.placeRoot p).isSome) with
    | some p => some (.heldPacketStart p.tenant)
    | none =>
      match s.queues.find? (fun q => q.kind == 0 && q.enabled && q.used != 0 && s.keptPackets.all (fun p => p.queue != q.num) &&
          (s.packets.filter (fun x => x.tenant == q.tenant)).length < 256) with
      | some q => some (.launchPacketTake q.num)
      | none => firstSome (fun (t : Tenant) =>
          (t.watch.find? (fun c => s.crewExpired (s.crewRead c))).map (fun c => .crewDeadlineCheck c.k0)) s.tenants

/-- R323: a side with a ready group; the sides take turns. -/
def State.dueIssue (s : State) : Option Instr :=
  let sides := (s.groups.filter (fun g => g.ready && !(s.die? (dieOf g.core)).shut)).map (fun g => (g.core, g.slotNo / 64))
  (sides[s.tick % sides.length]?).map (fun p => .issueCycle p.1 p.2)

/-- The next step by the default order. -/
def State.nextEvent (s : State) : Option Instr :=
  firstSome (fun (f : State → Option Instr) => f s)
    [State.dueAdmin, State.dueLoad, State.dueGroup, State.dueCarve, State.dueMatrix, State.dueEngine, State.dueRack, State.dueFront, State.dueIssue]

end Sys2Proof.Machine
end

