-- ==== Sys2Proof/Machine/Step.lean ====
section
/-!
DEFINITION. One step of the machine: the issuing split's next instruction where a split issues; else the next step of the
agenda; else the next one by the default order; else nothing happens but time. Each step counts (`tick`), and at its end
every parked split whose cause has resolved goes on.
-/

namespace Sys2Proof.Machine

open Sys2Proof

/-- What follows every step. -/
def afterStep : Host.Outcome State Fault Refusal → Host.Outcome State Fault Refusal
  | .next s => .next s.wakes
  | .fault r => .fault r
  | .refused r => .refused r

/-- The step of the issuing split: fetch, then the instruction's meaning, or past a completed position of a replay. -/
def stepIssue (s : State) : Host.Outcome State Fault Refusal :=
  match s.fetch with
  | .error e => .next (s.stop e)
  | .ok (t, none) => exec .undefinedEncoding t
  | .ok (t, some i) => if t.skips then .next (t.skip i) else exec i t

/-- The step when nothing issues. -/
def stepIdle (s : State) : Host.Outcome State Fault Refusal :=
  match s.agenda with
  | i :: rest => if isEvent i then exec i { s with agenda := rest } else .next { s with agenda := rest }
  | [] =>
    match s.nextEvent with
    | some i => exec i s
    | none => .next s

/-- One step. -/
def step (s : State) : Host.Outcome State Fault Refusal :=
  let s := { s with tick := s.tick + 1 }
  afterStep (if s.running then stepIssue s else stepIdle s)

/-- An instruction of the opcode table stored where the next step fetches it. -/
def State.withFetchWord (s : State) (nbits w : Nat) : State := s.placeWord nbits w

end Sys2Proof.Machine
end

