-- ==== Sys2Proof/Safety.lean ====
section
/-!
DEFINITION. The words the claims are stated in: memory in its canonical form; when an instruction issues and how its step
ends (it completes, jumps, stays open, parks, traps); and how the parts of a state are seen whether or not a split issues.
-/

namespace Sys2Proof.Machine

open Sys2Proof

/-! ## Memory in its canonical form -/

/-- Keys strictly rising from a bound, and no entry equal to what an unlisted address reads as (0). -/
def wfFrom : Option Nat → List Host.Cell → Bool
  | _, [] => true
  | lo, (k, b) :: l => (match lo with
      | some a => decide (a < k)
      | none => true) && b != 0 && wfFrom (some k) l

/-- The canonical form of memory. -/
def Memory.wf (m : List Host.Cell) : Bool := wfFrom none m

/-- What the memory of a machine keeps: its canonical form. -/
def MemoryKept (s : State) : Prop := Memory.wf s.mem = true

/-! ## How a step ends -/

/-- The conditions on the state and the operands under which an instruction takes its effect: a split issues, the checks of
R30 and R63 pass, and every row the instruction needs is in the register file (R166). -/
def State.ready (s : State) (i : Instr) : Bool := s.running && (s.precheck i).isOk && (s.missing i).isNone

/-- Where the machine stands after an instruction with effect `s` has completed: the position ends with its completion
bit set and the split goes on in sequence. -/
def State.finish (s : State) (i : Instr) : State := (s.retire i true none).advance
/-- The same of an instruction that goes to an address. -/
def State.finishAt (s : State) (i : Instr) (a : DWord) : State := (s.retire i true (some a)).advance
/-- The same of an instruction that has issued and completes later: no completion bit yet. -/
def State.leaveOpen (s : State) (i : Instr) : State := (s.retire i false none).advance

/-- The step of instruction `i` at `s` answers the next state in which `i` has completed with effect `t`. -/
def Completes (i : Instr) (s t : State) : Prop := exec i s = .next (t.finish i)
/-- The step of `i` at `s` answers the next state in which `i` has completed with effect `t` and the split goes on at `a`. -/
def Jumps (i : Instr) (s t : State) (a : DWord) : Prop := exec i s = .next (t.finishAt i a)
/-- The step of `i` at `s` answers the next state in which `i` has issued with effect `t` and completes later. -/
def StaysOpen (i : Instr) (s t : State) : Prop := exec i s = .next (t.leaveOpen i)
/-- The step of `i` at `s` answers the next state in which the split, after effect `t`, has parked on a cause. -/
def Parks (i : Instr) (s t : State) (c : Cause) : Prop := exec i s = .next (t.parkSplit i c)
/-- The step of `i` at `s` answers the next state in which `i` has trapped during execution and has had no effect: the
split stops, or its window still issues some later positions first (R163). -/
def Traps (i : Instr) (s : State) (t : TrapReq) : Prop := exec i s = .next (s.trips i t)
/-- The same of a trap of the checks of R30 and R63: the split stops. -/
def TrapsAtDecode (i : Instr) (s : State) (t : TrapReq) : Prop := exec i s = .next (s.stop (.trap t))
/-- A trap that carries a code alone. -/
def trapCode (c : TrapCode) : TrapReq := { code := c }
/-- An event step answers the next state `t`. -/
def Steps (i : Instr) (s t : State) : Prop := exec i s = .next t

/-! ## Seeing the parts of a state -/

/-- Everything but the groups. -/
def State.rest (s : State) : State := { s.unfocus with groups := [] }
/-- The group of a task, issuing or not, without its splits. -/
def State.groupSeen (s : State) (tid : Nat) : Option Group := (s.unfocus.group? tid).map (fun g => { g with splits := [] })
/-- A split of a task, issuing or not. -/
def State.splitSeen (s : State) (tid sid : Nat) : Option Split := (s.unfocus.group? tid).bind (fun g => g.split? sid)

/-- Nothing but the issuing group and split has changed from `s` to `u`; only where the issuing group had rows out of the
register file may rows of other groups have left it to make room (R167). -/
def OthersKept (s u : State) : Prop :=
  let rows (g : Group) : Group := if s.g.absent = [] then g else { g with absent := [] }
  u.rest = s.rest ∧ (∀ k, u.rd8 k = s.rd8 k) ∧
    (∀ tid, tid ≠ s.g.tid → (u.groupSeen tid).map rows = (s.groupSeen tid).map rows) ∧
    ∀ tid sid, (tid ≠ s.g.tid ∨ sid ≠ s.sp.sid) → u.splitSeen tid sid = s.splitSeen tid sid

/-- A split but for what moves at the end of every position: pc, loop count, the window's position and logs. -/
def Split.fixed (p : Split) : Split :=
  { p with pc := 0, after := 0, loop := none, pos := 0, wcm := 0, wlog := [], wend := none, st := .run }

end Sys2Proof.Machine
end

