-- ==== Sys2Proof/Certificates/Slice0/Obligations.lean ====
section
/-!
DEFINITION. The statements for the provers, in the spec's own order. `ready`, `Completes`, `Jumps`, `StaysOpen`, `Parks`,
`Traps` and `TrapsAtDecode` stand in Sys2Proof/Safety.lean: each says that `exec` ANSWERS A NEXT STATE, and which one.
-/

open Sys2Proof Sys2Proof.Machine

/-! ## Words that several statements share -/

/-- A range of this module's memory whose sectors no L1 holds: its place alone answers for it. -/
def uncached (s : State) (k n : Nat) : Prop := farKey k = false ∧ ∀ c ∈ s.cores, ∀ q ∈ c.l1, q.key ∉ sectorsAt k n
/-- No L1 holds a byte that is dirty. -/
def allClean (s : State) : Prop := ∀ c ∈ s.cores, ∀ q ∈ c.l1, q.dirty = 0
/-- Nothing of memory outside a range has changed, where no L1 holds a byte that a release or an eviction may write back. -/
def onlyAt (s t : State) (k n : Nat) : Prop := allClean s → ∀ a, (a < k ∨ k + n ≤ a) → t.rd8 a = s.rd8 a

/-- A register as the split `p` of the group `g` holds it. -/
def regOf (g : Group) (p : Split) : RegName → RegVal
  | .s n => .w (if n < 16 then vget p.slo n 0 else vget g.shi (n - 16) 0)
  | .a n => .a (if n < 8 then vget p.alo n ⟨0, 0⟩ else vget g.ahi (n - 8) ⟨0, 0⟩)
  | .v n => .v (vget g.vregs n VRow.init)
  | .p n => .p (vget g.preds n 0)
  | .q n => .q (vget g.qregs n 0)
  | .mode => .w p.mode

/-! ## Scalar, affine, predicate and mode instructions (spec 03) -/

/-- R14, R67: NOP changes nothing; MOV to a scalar register copies the scalar source; MOV to a vector register copies lanes
of the execute mask, a vector source's tag with them, RAW32 for any other source and for a DEAD one, whose lanes are zero;
a POISON source traps POISON and an INVALID one TAGMISMATCH; under a zero execute mask nothing is written or tested; a ZERO
destination writes nothing but still tests the tag. FONE has no value under INT8Q and INT4Q (R18). -/
def Obligations.NopMovResults : Prop :=
  ∀ (s : State) (sb : Bool) (y : Opnd),
    (s.ready (.nop sb) = true → Completes (.nop sb) s s) ∧
    (∀ n, s.ready (.mov sb (.s n) y) = true → Completes (.mov sb (.s n) y) s (s.setS n (s.sval y))) ∧
    (∀ n, s.ready (.mov sb (.v n) y) = true → s.exec = 0 → Completes (.mov sb (.v n) y) s s) ∧
    (∀ n, s.ready (.mov sb (.v n) y) = true → s.exec ≠ 0 → (∀ m, y ≠ .v m) → foneBad (modeFmt s.mode) y = false →
      Completes (.mov sb (.v n) y) s (s.wV n s.exec (fun l => s.laneOf (modeFmt s.mode) y l) (.fmt .raw32))) ∧
    (∀ x, s.ready (.mov sb x .fone) = true → (∃ n, x = .v n) ∨ x = .zero → s.exec ≠ 0 → foneBad (modeFmt s.mode) .fone = true →
      Traps (.mov sb x .fone) s (trapCode .invop)) ∧
    (∀ n m f, s.ready (.mov sb (.v n) (.v m)) = true → s.exec ≠ 0 → (s.getV m).tag = .fmt f →
      Completes (.mov sb (.v n) (.v m)) s (s.wV n s.exec (fun l => (s.getV m).lanes[l]) (.fmt f))) ∧
    (∀ n m, s.ready (.mov sb (.v n) (.v m)) = true → s.exec ≠ 0 → (s.getV m).tag = .dead →
      Completes (.mov sb (.v n) (.v m)) s (s.wV n s.exec (fun _ => 0) (.fmt .raw32))) ∧
    (∀ x m, s.ready (.mov sb x (.v m)) = true → (∃ n, x = .v n) ∨ x = .zero → s.exec ≠ 0 → (s.getV m).tag = .poison →
      Traps (.mov sb x (.v m)) s { code := .poison, addr := (s.getV m).paddr }) ∧
    (∀ x m, s.ready (.mov sb x (.v m)) = true → (∃ n, x = .v n) ∨ x = .zero → s.exec ≠ 0 → (s.getV m).tag = .invalid →
      Traps (.mov sb x (.v m)) s (trapCode .tagmismatch)) ∧
    (∀ m, s.ready (.mov sb .zero (.v m)) = true → s.exec = 0 ∨ (∃ f, (s.getV m).tag = .fmt f) ∨ (s.getV m).tag = .dead →
      Completes (.mov sb .zero (.v m)) s s) ∧
    (s.ready (.mov sb .zero y) = true → (∀ m, y ≠ .v m) → foneBad (modeFmt s.mode) y = false →
      Completes (.mov sb .zero y) s s)

/-- R65, R68: the scalar instructions of form D, written as the table of R68 gives them; every wrap is modulo 2^32; X is
an s register or ZERO, which discards. -/
def Obligations.ScalarArithmeticResults : Prop :=
  ∀ (s : State) (sb : Bool) (x y z : Opnd),
    let a := s.sval y
    let b := s.sval z
    let n := b.toNat % 64
    (s.ready (.sadd sb x y z) = true → Completes (.sadd sb x y z) s (s.wS x (BitVec.ofNat 32 (a.toNat + b.toNat)))) ∧
    (s.ready (.ssub sb x y z) = true → Completes (.ssub sb x y z) s (s.wS x (BitVec.ofInt 32 ((a.toNat : Int) - b.toNat)))) ∧
    (s.ready (.smul sb x y z) = true → Completes (.smul sb x y z) s (s.wS x (BitVec.ofNat 32 (a.toNat * b.toNat)))) ∧
    (s.ready (.smulh sb x y z) = true →
      Completes (.smulh sb x y z) s (s.wS x ((BitVec.ofInt 64 (a.toInt * b.toInt)).extractLsb' 32 32))) ∧
    (s.ready (.smulhu sb x y z) = true →
      Completes (.smulhu sb x y z) s (s.wS x ((BitVec.ofNat 64 (a.toNat * b.toNat)).extractLsb' 32 32))) ∧
    (s.ready (.sand sb x y z) = true → Completes (.sand sb x y z) s (s.wS x (a &&& b))) ∧
    (s.ready (.sor sb x y z) = true → Completes (.sor sb x y z) s (s.wS x (a ||| b))) ∧
    (s.ready (.sxor sb x y z) = true → Completes (.sxor sb x y z) s (s.wS x (a ^^^ b))) ∧
    (s.ready (.sshl sb x y z) = true →
      Completes (.sshl sb x y z) s (s.wS x (if 32 ≤ n then 0 else BitVec.ofNat 32 (a.toNat * 2 ^ n)))) ∧
    (s.ready (.sshr sb x y z) = true →
      Completes (.sshr sb x y z) s (s.wS x (if 32 ≤ n then 0 else BitVec.ofNat 32 (a.toNat / 2 ^ n)))) ∧
    (s.ready (.ssar sb x y z) = true →
      Completes (.ssar sb x y z) s (s.wS x (if 32 ≤ n then (if a.msb then 0xFFFFFFFF else 0) else a.sshiftRight n))) ∧
    (s.ready (.smin sb x y z) = true →
      Completes (.smin sb x y z) s (s.wS x (BitVec.ofInt 32 (min a.toInt b.toInt)))) ∧
    (s.ready (.smax sb x y z) = true →
      Completes (.smax sb x y z) s (s.wS x (BitVec.ofInt 32 (max a.toInt b.toInt)))) ∧
    (s.ready (.sminu sb x y z) = true →
      Completes (.sminu sb x y z) s (s.wS x (BitVec.ofNat 32 (min a.toNat b.toNat)))) ∧
    (s.ready (.smaxu sb x y z) = true →
      Completes (.smaxu sb x y z) s (s.wS x (BitVec.ofNat 32 (max a.toNat b.toNat)))) ∧
    (∀ i ∈ [Instr.sadd sb x y z, .ssub sb x y z, .smul sb x y z, .smulh sb x y z, .smulhu sb x y z, .sand sb x y z, .sor sb x y z,
      .sxor sb x y z, .sshl sb x y z, .sshr sb x y z, .ssar sb x y z, .smin sb x y z, .smax sb x y z, .sminu sb x y z, .smaxu sb x y z],
      s.ready i = true → x = .zero ∨ ∃ k, x = .s k) ∧
    ∀ v, s.wS .zero v = s

/-- R69: the unary scalar instructions, the counts and reversals bit by bit.
R70: SBFX and SBFI, bit by bit: with pos = c[4:0] and hi = min(pos + c[12:8], 31), SBFX gives bits hi to pos of Y at the
bottom, and above them zeros or, with c[16], copies of bit hi; SBFI puts the low bits of Y into bits hi to pos of X. -/
def Obligations.ScalarUnaryAndFields : Prop :=
  (∀ (s : State) (sb : Bool) (x y : Opnd),
    let a := s.sval y
    (s.ready (.sunNot sb x y) = true → Completes (.sunNot sb x y) s (s.wS x (0xFFFFFFFF - a))) ∧
    (s.ready (.sunNeg sb x y) = true → Completes (.sunNeg sb x y) s (s.wS x (0 - a))) ∧
    (s.ready (.sunAbs sb x y) = true → Completes (.sunAbs sb x y) s (s.wS x (BitVec.ofNat 32 a.toInt.natAbs))) ∧
    (s.ready (.sunClz sb x y) = true → ∃ v : Word, Completes (.sunClz sb x y) s (s.wS x v) ∧ v.toNat ≤ 32 ∧
      (∀ i < v.toNat, a.getLsbD (31 - i) = false) ∧ (v.toNat < 32 → a.getLsbD (31 - v.toNat) = true)) ∧
    (s.ready (.sunCtz sb x y) = true → ∃ v : Word, Completes (.sunCtz sb x y) s (s.wS x v) ∧ v.toNat ≤ 32 ∧
      (∀ i < v.toNat, a.getLsbD i = false) ∧ (v.toNat < 32 → a.getLsbD v.toNat = true)) ∧
    (s.ready (.sunPopc sb x y) = true →
      Completes (.sunPopc sb x y) s (s.wS x (BitVec.ofNat 32 ((List.range 32).filter (fun i => a.getLsbD i)).length))) ∧
    (s.ready (.sunBrev sb x y) = true → ∃ v : Word, Completes (.sunBrev sb x y) s (s.wS x v) ∧
      ∀ i < 32, v.getLsbD (31 - i) = a.getLsbD i) ∧
    (s.ready (.sunBswap sb x y) = true → ∃ v : Word, Completes (.sunBswap sb x y) s (s.wS x v) ∧
      ∀ i < 4, v.extractLsb' (8 * (3 - i)) 8 = a.extractLsb' (8 * i) 8) ∧
    (s.ready (.sunSext8 sb x y) = true →
      Completes (.sunSext8 sb x y) s (s.wS x (BitVec.ofInt 32 (a.extractLsb' 0 8).toInt))) ∧
    (s.ready (.sunSext16 sb x y) = true →
      Completes (.sunSext16 sb x y) s (s.wS x (BitVec.ofInt 32 (a.extractLsb' 0 16).toInt))) ∧
    (s.ready (.sunZext8 sb x y) = true →
      Completes (.sunZext8 sb x y) s (s.wS x (BitVec.ofNat 32 (a.toNat % 2 ^ 8)))) ∧
    (s.ready (.sunZext16 sb x y) = true →
      Completes (.sunZext16 sb x y) s (s.wS x (BitVec.ofNat 32 (a.toNat % 2 ^ 16))))) ∧
  (∀ (s : State) (sb : Bool) (x y z : Opnd),
    let c := s.sval z
    let pos := c.toNat % 32
    let hi := min (pos + c.toNat / 2 ^ 8 % 32) 31
    (s.ready (.sbfx sb x y z) = true → ∃ v : Word, Completes (.sbfx sb x y z) s (s.wS x v) ∧
      ∀ i < 32, v.getLsbD i = if i ≤ hi - pos then (s.sval y).getLsbD (pos + i) else c.getLsbD 16 && (s.sval y).getLsbD hi) ∧
    (s.ready (.sbfi sb x y z) = true → ∃ v : Word, Completes (.sbfi sb x y z) s (s.wS x v) ∧
      ∀ i < 32, v.getLsbD i = if pos ≤ i ∧ i ≤ hi then (s.sval y).getLsbD (i - pos) else (s.sval x).getLsbD i))

/-- R21 over 32-bit integers, as the text of R71 needs it: the meaning of each condition code. -/
def condMeans (c : Cond) (a b : Word) : Prop :=
  match c with
  | .eq => a = b
  | .ne => a ≠ b
  | .lt => a.toInt < b.toInt
  | .le => a.toInt ≤ b.toInt
  | .gt => a.toInt > b.toInt
  | .ge => a.toInt ≥ b.toInt
  | .ltu => a.toNat < b.toNat
  | .leu => a.toNat ≤ b.toNat
  | .gtu => a.toNat > b.toNat
  | .geu => a.toNat ≥ b.toNat
  | .any => a &&& b ≠ 0
  | .none => a &&& b = 0
  | .ord | .uno => False

/-- R71: SCMP writes all ones where the condition holds and zeros where it does not; codes 10 and 11 trap INVOP. R72: SSEL
moves Z where the predicate, ANDed with the lane set, is not zero, and leaves X as it was otherwise. -/
def Obligations.CompareSelectResults : Prop :=
  ∀ (s : State) (sb : Bool) (x y z : Opnd),
    (∀ c pd, s.ready (.scmp sb c pd y z) = true → c ≠ .ord → c ≠ .uno → condMeans c (s.sval y) (s.sval z) →
      Completes (.scmp sb c pd y z) s (s.pwrite pd 0xFFFF)) ∧
    (∀ c pd, s.ready (.scmp sb c pd y z) = true → c ≠ .ord → c ≠ .uno → ¬ condMeans c (s.sval y) (s.sval z) →
      Completes (.scmp sb c pd y z) s (s.pwrite pd 0)) ∧
    (∀ c pd, s.ready (.scmp sb c pd y z) = true → c = .ord ∨ c = .uno → Traps (.scmp sb c pd y z) s (trapCode .invop)) ∧
    (s.ready (.ssel sb x y z) = true → s.pval y &&& s.sp.lanes ≠ 0 → Completes (.ssel sb x y z) s (s.wS x (s.sval z))) ∧
    (s.ready (.ssel sb x y z) = true → s.pval y &&& s.sp.lanes = 0 → Completes (.ssel sb x y z) s s)

/-- R73: the pair instructions; and an odd register in a pair position traps REGALIGN (R6).
R74, R75: the affine instructions: bases wrap modulo 2^64, strides modulo 2^32; ZERO reads as base 0 and stride 0; AADD
takes an affine or a scalar Z. -/
def Obligations.PairAndAffineResults : Prop :=
  (∀ (s : State) (sb : Bool) (x y z : Opnd),
    let n := (s.sval z).toNat % 128
    (s.ready (.dadd sb x y z) = true →
      Completes (.dadd sb x y z) s (s.wD x (BitVec.ofNat 64 ((s.dval y).toNat + (s.dval z).toNat)))) ∧
    (s.ready (.dsub sb x y z) = true →
      Completes (.dsub sb x y z) s (s.wD x (BitVec.ofInt 64 (((s.dval y).toNat : Int) - (s.dval z).toNat)))) ∧
    (s.ready (.dshl sb x y z) = true →
      Completes (.dshl sb x y z) s (s.wD x (if 64 ≤ n then 0 else BitVec.ofNat 64 ((s.dval y).toNat * 2 ^ n)))) ∧
    (s.ready (.dshr sb x y z) = true →
      Completes (.dshr sb x y z) s (s.wD x (if 64 ≤ n then 0 else BitVec.ofNat 64 ((s.dval y).toNat / 2 ^ n)))) ∧
    (∀ k : Fin 64, k.val % 2 = 1 → s.running = true →
      ∀ i ∈ [Instr.dadd sb (.s k) y z, .dsub sb (.s k) y z, .dshl sb (.s k) y z, .dshr sb (.s k) y z,
        .dadd sb x (.s k) z, .dsub sb x (.s k) z, .dshl sb x (.s k) z, .dshr sb x (.s k) z,
        .dadd sb x y (.s k), .dsub sb x y (.s k)],
        i.accepted = true → TrapsAtDecode i s (trapCode .regalign))) ∧
  (∀ (s : State) (sb : Bool) (x y z : Opnd),
    let a := s.aval y
    let n := (s.sval z).toNat % 64
    s.aval .zero = ⟨0, 0⟩ ∧
    (s.ready (.amov sb x y) = true → Completes (.amov sb x y) s (s.wA x ⟨a.base, a.stride⟩)) ∧
    (∀ k, s.ready (.aadd sb x y (.a k)) = true →
      Completes (.aadd sb x y (.a k)) s (s.wA x ⟨a.base + (s.getA k).base, a.stride + (s.getA k).stride⟩)) ∧
    (s.ready (.aadd sb x y z) = true → (∀ k, z ≠ .a k) →
      Completes (.aadd sb x y z) s (s.wA x ⟨a.base + BitVec.ofInt 64 (s.sval z).toInt, a.stride⟩)) ∧
    (s.ready (.ascl sb x y z) = true →
      Completes (.ascl sb x y z) s (s.wA x ⟨a.base * BitVec.ofInt 64 (s.sval z).toInt, a.stride * s.sval z⟩)) ∧
    (s.ready (.ashl sb x y z) = true →
      Completes (.ashl sb x y z) s (s.wA x ⟨BitVec.ofNat 64 (a.base.toNat * 2 ^ n),
        if 32 ≤ n then 0 else BitVec.ofNat 32 (a.stride.toNat * 2 ^ n)⟩)) ∧
    (s.ready (.aexp sb x y z) = true → Completes (.aexp sb x y z) s (s.wA x ⟨s.dval y, s.sval z⟩)) ∧
    (s.ready (.aget sb x y .base) = true → Completes (.aget sb x y .base) s (s.wD x a.base)) ∧
    (s.ready (.aget sb x y .stride) = true → Completes (.aget sb x y .stride) s (s.wS x a.stride)))

/-- R76, R77: the predicate instructions; p0 reads all ones.
R64: pwrite: a write to p0 is discarded; a write to another predicate changes only bits of lanes that no other live
split holds, and a write of it that meets no other of a running window gives exactly those bits of the value. -/
def Obligations.PredicateResults : Prop :=
  (∀ (s : State) (sb : Bool) (x y z : Opnd),
    s.curP 0 = 0xFFFF ∧
    (s.ready (.pand sb x y z) = true → Completes (.pand sb x y z) s (s.wP x (s.pval y &&& s.pval z))) ∧
    (s.ready (.por sb x y z) = true → Completes (.por sb x y z) s (s.wP x (s.pval y ||| s.pval z))) ∧
    (s.ready (.pxor sb x y z) = true → Completes (.pxor sb x y z) s (s.wP x (s.pval y ^^^ s.pval z))) ∧
    (s.ready (.pmov sb x y) = true → Completes (.pmov sb x y) s (s.wP x (s.pval y))) ∧
    (s.ready (.punNot sb x y) = true → Completes (.punNot sb x y) s (s.wP x (0xFFFF - s.pval y))) ∧
    (s.ready (.punFirst sb x y) = true → ∃ v : BitVec 16, Completes (.punFirst sb x y) s (s.wP x v) ∧
      ∀ i < 16, v.getLsbD i = ((s.pval y).getLsbD i && (List.range i).all (fun j => !(s.pval y).getLsbD j))) ∧
    (s.ready (.punLast sb x y) = true → ∃ v : BitVec 16, Completes (.punLast sb x y) s (s.wP x v) ∧
      ∀ i < 16, v.getLsbD i = ((s.pval y).getLsbD i && (List.range 16).all (fun j => !(decide (i < j) && (s.pval y).getLsbD j)))) ∧
    (s.ready (.punSet sb x y) = true → Completes (.punSet sb x y) s (s.wP x ((s.sval y).extractLsb' 0 16))) ∧
    (s.ready (.punGet sb x y) = true →
      Completes (.punGet sb x y) s (s.wS x (BitVec.ofNat 32 (s.pval y).toNat))) ∧
    (s.ready (.punCnt sb x y) = true →
      Completes (.punCnt sb x y) s (s.wS x (BitVec.ofNat 32 ((List.range 16).filter (fun i => (s.pval y).getLsbD i)).length))) ∧
    (∀ i ∈ [Instr.punNot sb x y, .punFirst sb x y, .punLast sb x y, .punSet sb x y], s.ready i = true → ∃ k, x = .p k) ∧
    (∀ i ∈ [Instr.punGet sb x y, .punCnt sb x y], s.ready i = true → x = .zero ∨ ∃ k, x = .s k)) ∧
  (∀ (s : State) (n : Nat) (v : BitVec 16), n < 8 →
    s.pwrite 0 v = s ∧
    (∀ m, m ≠ n → (s.pwrite n v).curP m = s.curP m) ∧
    (s.unwritten (.p n) = true → ∀ l, s.predMask.getLsbD l = false → ((s.pwrite n v).curP n).getLsbD l = (s.curP n).getLsbD l) ∧
    (n ≠ 0 → s.unwritten (.p n) = true → ∀ l, s.predMask.getLsbD l = true →
      ((s.pwrite n v).curP n).getLsbD l = v.getLsbD l) ∧
    (s.sp.handler = false → ∀ l < 16, (s.predMask.getLsbD l = true ↔
      ∀ p ∈ s.g.splits, p.handler = false → p.lanes.getLsbD l = false)))

/-- R78, R79: the bits of the MODE fields that a mask of SETM selects (QG, ASCOPE, AORD, FTZ, TP, SAT, SR, RM, FMT, GP from
mask bit 9 down). -/
def modeBits (mask : BitVec 10) : Word :=
  let part (i hi lo : Nat) : Nat := if mask.getLsbD i then 2 ^ (hi + 1) - 2 ^ lo else 0
  BitVec.ofNat 32 (part 0 2 0 + part 1 6 3 + part 2 8 7 + part 3 9 9 + part 4 10 10 + part 5 11 11 + part 6 12 12 +
    part 7 14 13 + part 8 17 15 + part 9 19 18)

/-- R79, R81: SETM merges the selected fields; a nonzero v[31:20], a FMT of 10 or more, an ASCOPE of 6 or 7 or a QG of 3
traps MODEVAL and writes nothing; GETM reads MODE. -/
def Obligations.ModeResults : Prop :=
  ∀ (s : State) (sb : Bool) (x : Opnd) (mask : BitVec 10),
    let v := s.sval x
    let new := (s.mode &&& ~~~modeBits mask) ||| (v &&& modeBits mask)
    let bad := v.toNat / 2 ^ 20 ≠ 0 ∨ 10 ≤ new.toNat / 2 ^ 3 % 16 ∨ 6 ≤ new.toNat / 2 ^ 15 % 8 ∨ new.toNat / 2 ^ 18 % 4 = 3
    (s.ready (.setm sb x mask) = true → ¬ bad → Completes (.setm sb x mask) s (s.setMode new)) ∧
    (s.ready (.setm sb x mask) = true → bad → Traps (.setm sb x mask) s (trapCode .modeval)) ∧
    (s.ready (.getm sb x) = true → Completes (.getm sb x) s (s.wS x s.mode))

/-! ## Control, division, loops, traps and CSRs (spec 03, 08, 09, 19) -/

/-- R12, R13, R83, R91: the end of a position. In sequence a split goes on behind the instruction's words; at the end of a
LOOPS body with passes remaining it goes back to the start, the window ending; a transfer ends a loop whose body it leaves.
The window also ends at a stroke and at the sixty-fourth position. Nothing else of the state changes but the note of when
the registers of the instruction were last used (R167), and what the instruction has asked of another module is forgotten
(notes/assumptions/38.md). -/
def Obligations.PositionEnd : Prop :=
  ∀ (s : State) (i : Instr) (bit : Bool),
    let seq := s.sp.pc + BitVec.ofNat 64 (4 * i.len)
    let last := i.strokeBit || s.sp.pos == 63
    let moved (t : State) : Prop := t.sp.pos = s.sp.pos + 1 ∧
      t.sp.wcm = (if bit then s.sp.wcm ||| BitVec.ofNat 64 (2 ^ s.sp.pos) else s.sp.wcm) ∧
      ({ t with sp := s.sp, g := { t.g with vuse := s.g.vuse } } : State) = s ∧
      t.sp.asked = none ∧
      ({ t.sp with pc := s.sp.pc, after := s.sp.after, loop := s.sp.loop, wcm := s.sp.wcm, pos := s.sp.pos,
                   wend := s.sp.wend, st := s.sp.st, asked := s.sp.asked } : Split) = s.sp
    (∀ target, moved (s.retire i bit target)) ∧
    (s.sp.loop = none → (s.retire i bit none).sp.pc = seq ∧ (s.retire i bit none).sp.loop = none ∧
      (s.retire i bit none).sp.st = (if last then .win else .run)) ∧
    (∀ l, s.sp.loop = some l → seq = l.stop → 1 < l.left → (s.retire i bit none).sp.pc = l.start ∧
      (s.retire i bit none).sp.loop = some { l with left := l.left - 1 } ∧ (s.retire i bit none).sp.st = .win) ∧
    (∀ l, s.sp.loop = some l → seq = l.stop → l.left ≤ 1 → (s.retire i bit none).sp.pc = seq ∧
      (s.retire i bit none).sp.loop = none ∧ (s.retire i bit none).sp.st = (if last then .win else .run)) ∧
    (∀ l, s.sp.loop = some l → seq ≠ l.stop → (s.retire i bit none).sp.pc = seq ∧
      (s.retire i bit none).sp.loop = some l ∧ (s.retire i bit none).sp.st = (if last then .win else .run)) ∧
    (∀ a, (s.retire i bit (some a)).sp.pc = a ∧ (s.retire i bit (some a)).sp.st = (if last then .win else .run) ∧
      (s.sp.loop = none → (s.retire i bit (some a)).sp.loop = none) ∧
      (∀ l, s.sp.loop = some l → l.start.toNat ≤ a.toNat ∧ a.toNat < l.stop.toNat → (s.retire i bit (some a)).sp.loop = some l) ∧
      (∀ l, s.sp.loop = some l → ¬ (l.start.toNat ≤ a.toNat ∧ a.toNat < l.stop.toNat) →
        (s.retire i bit (some a)).sp.loop = none))

/-- R84, R85: BR, BRC, CALL and RET. A target is the address of the instruction plus the sign-extended offset. Inside a
LOOPS body CALL and RET trap INVOP (R92); a push onto a full return stack and RET on an empty one trap STACK. -/
def Obligations.TransferResults : Prop :=
  ∀ (s : State) (x : Opnd) (off : Word),
    let target := s.sp.pc + BitVec.ofInt 64 off.toInt
    let c := s.pval x &&& s.sp.lanes
    (s.ready (.br off) = true → Jumps (.br off) s s target) ∧
    (∀ t, s.ready (.brc x t off) = true →
      (match t with
        | .any => c ≠ 0
        | .all => c = s.sp.lanes
        | .none => c = 0
        | .nall => c ≠ s.sp.lanes) → Jumps (.brc x t off) s s target) ∧
    (∀ t, s.ready (.brc x t off) = true →
      (match t with
        | .any => c = 0
        | .all => c ≠ s.sp.lanes
        | .none => c ≠ 0
        | .nall => c = s.sp.lanes) → Completes (.brc x t off) s s) ∧
    (s.ready (.call off) = true → s.sp.inLoop = false → s.sp.rets.length < 64 →
      Jumps (.call off) s { s with sp := { s.sp with rets := (s.sp.pc + 8) :: s.sp.rets } } target) ∧
    (s.ready (.call off) = true → s.sp.inLoop = false → 64 ≤ s.sp.rets.length → Traps (.call off) s (trapCode .stack)) ∧
    (∀ a rest, s.ready .ret = true → s.sp.inLoop = false → s.sp.rets = a :: rest →
      Jumps .ret s { s with sp := { s.sp with rets := rest } } a) ∧
    (s.ready .ret = true → s.sp.inLoop = false → s.sp.rets = [] → Traps .ret s (trapCode .stack)) ∧
    (s.ready (.call off) = true → s.sp.inLoop = true → Traps (.call off) s (trapCode .invop)) ∧
    (s.ready .ret = true → s.sp.inLoop = true → Traps .ret s (trapCode .invop))

/-- R89: BRT and CALLT with a scalar index: the index picks a target, one at or past the count traps BRTARGET, CALLT pushes the
address behind the table and traps STACK where 64 addresses stand; and R92: CALLT inside a LOOPS body traps INVOP.
R90: with a vector index each lane of the execute mask picks its own: one at or past the count traps BRTARGET; the lanes with one
index make one split, in the order of their lowest lanes, the first of them the issuing split where no lane falls through; too many
for the table and the overflow stack trap SPLITOVF; CALLT pushes for every split that takes a target; under a zero execute mask the
split falls through. -/
def Obligations.BranchTableResults : Prop :=
  (∀ (s : State) (x : Opnd) (ts : List Word), (∀ n, x ≠ .v n) →
    let k := (s.sval x).toNat
    let goal (k : Nat) : DWord := s.sp.pc + BitVec.ofInt 64 (ts.getD k 0).toInt
    (s.ready (.brt x ts) = true → k < ts.length → Jumps (.brt x ts) s s (goal k)) ∧
    (s.ready (.brt x ts) = true → ts.length ≤ k → Traps (.brt x ts) s (trapCode .brtarget)) ∧
    (s.ready (.callt x ts) = true → s.sp.inLoop = false → k < ts.length → s.sp.rets.length < 64 →
      Jumps (.callt x ts) s
        { s with sp := { s.sp with rets := (s.sp.pc + BitVec.ofNat 64 (4 * (2 + ts.length))) :: s.sp.rets } } (goal k)) ∧
    (s.ready (.callt x ts) = true → s.sp.inLoop = false → k < ts.length → 64 ≤ s.sp.rets.length →
      Traps (.callt x ts) s (trapCode .stack)) ∧
    (s.ready (.callt x ts) = true → s.sp.inLoop = false → ts.length ≤ k → Traps (.callt x ts) s (trapCode .brtarget)) ∧
    (s.ready (.callt x ts) = true → s.sp.inLoop = true → Traps (.callt x ts) s (trapCode .invop))) ∧
  (∀ (s : State) (n : Fin 128) (ts : List Word) (call : Bool),
    let i : Instr := if call then .callt (.v n) ts else .brt (.v n) ts
    let e := s.exec
    let r := s.getV n
    let v (l : Fin 16) : Nat := if r.tag = .dead then 0 else r.lanes[l].toNat
    let goal (k : Nat) : DWord := s.sp.pc + BitVec.ofInt 64 (ts.getD k 0).toInt
    let rets := if call then (s.sp.pc + BitVec.ofNat 64 (4 * (2 + ts.length))) :: s.sp.rets else s.sp.rets
    let fall := s.sp.lanes &&& ~~~e
    let place (u : State) (g : Nat × BitVec 16) : State := u.addSplit { u.child g.2 (goal g.1) with rets := rets }
    s.ready i = true →
      (s.sp.handler = true ∨ s.sp.inLoop = true → Traps i s (trapCode .invop)) ∧
      (s.sp.handler = false → s.sp.inLoop = false → e = 0 → Completes i s s) ∧
      (s.sp.handler = false → s.sp.inLoop = false → e ≠ 0 →
        (r.tag = .poison → Traps i s { code := .poison, addr := r.paddr }) ∧
        (r.tag = .invalid → Traps i s (trapCode .tagmismatch)) ∧
        (r.tag ≠ .poison → r.tag ≠ .invalid →
          ((∃ l : Fin 16, e.getLsbD l = true ∧ ts.length ≤ v l) → Traps i s (trapCode .brtarget)) ∧
          ((∀ l : Fin 16, e.getLsbD l = true → v l < ts.length) → ∃ gs : List (Nat × BitVec 16),
            (∀ g ∈ gs, g.2 ≠ 0 ∧ ∀ l : Fin 16, g.2.getLsbD l = (e.getLsbD l && v l == g.1)) ∧
            (∀ l : Fin 16, e.getLsbD l = true → ∃ g ∈ gs, g.1 = v l) ∧
            gs.Pairwise (fun a b => a.1 ≠ b.1 ∧ ∃ l : Fin 16, a.2.getLsbD l = true ∧ ∀ m : Fin 16, m < l → b.2.getLsbD m = false) ∧
            let new := if fall = 0 then gs.length - 1 else gs.length
            (s.room < new → Traps i s (trapCode .splitovf)) ∧
            (new ≤ s.room → call = true → 64 ≤ s.sp.rets.length → Traps i s (trapCode .stack)) ∧
            (new ≤ s.room → (call = true → s.sp.rets.length < 64) → s.inFlight s.g s.sp.sid = false → s.sp.tripped = false →
              (fall ≠ 0 → Completes i s { gs.foldl place s with sp := { s.sp with lanes := fall } }) ∧
              (∀ g rest, fall = 0 → gs = g :: rest →
                Jumps i s { rest.foldl place s with sp := { s.sp with lanes := g.2, rets := rets } } (goal g.1)))))))

/-- R27: the words of an instruction: two of BR, BRC, CALL and LOOPS, three of BSPLIT, two and the table of BRT and CALLT, and of
any other two where an operand is LIT and else one. -/
def wordCount (i : Instr) : Nat :=
  match i with
  | .br _ | .brc _ _ _ | .call _ | .loops _ _ => 2
  | .bsplit _ _ _ => 3
  | .brt _ ts | .callt _ ts => 2 + ts.length
  | i => if i.slots.any (fun sl => match sl.o with | .lit _ => true | _ => false) then 2 else 1

/-- R91, R92: LOOPS measures its body and runs it: a count of 0 goes past the body, any other starts the loop with the
count, the body's start at A + 8, its end, and the copy of its words; inside a body it traps INVOP. The measure takes one
instruction after another with the length of R27, a word that traps INVOP as one word, until it has taken as many as LOOPS says;
that a body word which cannot be fetched stops the LOOPS is the model's choice (notes/assumptions/49.md). -/
def Obligations.CountedLoops : Prop :=
  (∀ (s : State) (pc : DWord) (n : Nat), s.measure pc 0 = .ok (s, []) ∧
    (∀ e, s.fetchWords pc = .error e → s.measure pc (n + 1) = .error e) ∧
    ∀ u ws, s.fetchWords pc = .ok (u, ws) →
      let k := match decode ws with
        | .ok (i, _) => if i.accepted && !alwaysInvop i then wordCount i else 1
        | .error _ => 1
      ∀ t rest, u.measure (pc + BitVec.ofNat 64 (4 * (ws.take k).length)) n = .ok (t, rest) →
        s.measure pc (n + 1) = .ok (t, ws.take k ++ rest)) ∧
  ∀ (s : State) (x : Opnd) (len : Word) (t : State) (ws : List Word),
    let start := s.sp.pc + 8
    let stop := start + BitVec.ofNat 64 (4 * ws.length)
    (s.ready (.loops x len) = true → s.sp.inLoop = true → Traps (.loops x len) s (trapCode .invop)) ∧
    (s.ready (.loops x len) = true → s.sp.inLoop = false → s.measure start len.toNat = .ok (t, ws) → t.sval x = 0 →
      Jumps (.loops x len) s t stop) ∧
    (s.ready (.loops x len) = true → s.sp.inLoop = false → s.measure start len.toNat = .ok (t, ws) → t.sval x ≠ 0 →
      Jumps (.loops x len) s { t with sp := { t.sp with loop := some ⟨(t.sval x).toNat, start, stop, ws⟩ } } start)

/-- R86, R87, R92: BSPLIT. Every resulting split holds the join entry with a family that no join stack of the group
holds; the lanes of the execute mask whose predicate bit is set go to the target, in a new split with a copy of the
registers, MODE, the join stack and the return stack, the rest go on behind it. -/
def Obligations.DivisionResults : Prop :=
  ∀ (s : State) (x : Opnd) (tgt join : Word),
    let i : Instr := .bsplit x tgt join
    let t := s.exec &&& s.pval x
    let rest := s.sp.lanes &&& ~~~t
    let s1 : State := { s with sp := { s.sp with joins := (s.target join, s.freshFamily) :: s.sp.joins } }
    let n := s1.child t (s.target tgt)
    (s.ready i = true → s.sp.handler = true ∨ s.sp.inLoop = true → Traps i s (trapCode .invop)) ∧
    (s.ready i = true → s.sp.handler = false → s.sp.inLoop = false → 16 ≤ s.sp.joins.length →
      Traps i s (trapCode .splitovf)) ∧
    (s.ready i = true → s.sp.handler = false → s.sp.inLoop = false → s.sp.joins.length < 16 → t ≠ 0 → rest ≠ 0 → s.room = 0 →
      Traps i s (trapCode .splitovf)) ∧
    (s.ready i = true → s.sp.handler = false → s.sp.inLoop = false → s.sp.joins.length < 16 →
      s.inFlight s.g s.sp.sid = false → s.sp.tripped = false → t = 0 → Completes i s s1) ∧
    (s.ready i = true → s.sp.handler = false → s.sp.inLoop = false → s.sp.joins.length < 16 →
      s.inFlight s.g s.sp.sid = false → s.sp.tripped = false → t ≠ 0 → rest = 0 → Jumps i s s1 (s.target tgt)) ∧
    (s.ready i = true → s.sp.handler = false → s.sp.inLoop = false → s.sp.joins.length < 16 →
      s.inFlight s.g s.sp.sid = false → s.sp.tripped = false → t ≠ 0 → rest ≠ 0 → s.room ≠ 0 →
      Completes i s { s1.addSplit n with sp := { s1.sp with lanes := rest } }) ∧
    (n.lanes = t ∧ n.pc = s.target tgt ∧ n.slo = s.sp.slo ∧ n.alo = s.sp.alo ∧ n.mode = s.sp.mode ∧
      n.joins = (s.target join, s.freshFamily) :: s.sp.joins ∧ n.rets = s.sp.rets) ∧
    ((s.allSplits.flatMap (·.joins)).length < 2 ^ 16 → ∀ p ∈ s.allSplits, ∀ e ∈ p.joins, e.2 ≠ s.freshFamily)

/-- R203, R213: the live splits of a group hold disjoint lane sets, none of them empty, and a handler split waits at no join. -/
def splitsApart (ps : List Split) : Prop :=
  (ps.filter (fun p => !p.handler)).Pairwise (fun p q => p.lanes &&& q.lanes = 0) ∧
  ∀ p ∈ ps, (p.handler = false → p.lanes ≠ 0) ∧ (p.handler = true → ∀ j f, p.st ≠ .joinWait j f)

/-- R87: place(): the new split takes the lowest free entry of the 8, or goes on top of the overflow stack.
R88: the merge. While another live split holds (J, f) nothing happens; when none does, the waiting splits become one
that holds all their lanes, continues at J + 4, and has the state of the one with the lowest-numbered lane, its join stack
popped; STATUS.SMIX is set where their states differ.
R203: dividing, placing and merging keep the lane sets of live splits disjoint and not empty. -/
def Obligations.PlacingAndMerging : Prop :=
  (∀ (g : Group) (also : Option Nat) (p : Split) (tick : Nat) (j : DWord) (f : BitVec 16),
    (splitsApart (p :: g.splits) → splitsApart (g.placeNew also p).splits) ∧
    (splitsApart g.splits → splitsApart (g.mergeAt tick j f).splits)) ∧
  (∀ (s : State) (m : BitVec 16) (pc : DWord), splitsApart (s.sp :: s.g.splits) → s.sp.handler = false →
    let t := s.sp.lanes &&& m
    let rest := s.sp.lanes &&& ~~~m
    let u := s.addSplit (s.child t pc)
    t ≠ 0 → rest ≠ 0 → splitsApart ({ s.sp with lanes := rest } :: u.g.splits)) ∧
  (∀ (g : Group) (also : Option Nat) (p : Split),
    let free (e : Nat) : Prop := e < 8 ∧ some e ≠ also ∧ ∀ q ∈ g.splits, q.entry ≠ some e
    (∀ e, free e → (∀ d < e, ¬ free d) →
      (g.placeNew also p).splits = g.splits ++ [{ p with entry := some e, count := 0 }] ∧ (g.placeNew also p).ovf = g.ovf) ∧
    ((∀ e, ¬ free e) →
      (g.placeNew also p).splits = g.splits ++ [{ p with entry := none, count := 0 }] ∧
        (g.placeNew also p).ovf = p.sid :: g.ovf)) ∧
  (∀ (g : Group) (tick : Nat) (j : DWord) (f : BitVec 16),
    let waits (p : Split) : Prop := p ∈ g.splits ∧ p.st = .joinWait j f
    (∀ p ∈ g.splits, p.handler = false → p.lanes ≠ 0 → p.st ≠ .joinWait j f → (j, f) ∈ p.joins →
      g.mergeAt tick j f = g) ∧
    ((∀ p ∈ g.splits, p.handler = false → p.lanes ≠ 0 → p.st ≠ .joinWait j f → (j, f) ∉ p.joins) →
      (∀ p, waits p → p.stopped = false) → (∃ p, waits p) →
      ∃ w m, waits w ∧ m ∈ (g.mergeAt tick j f).splits ∧ (∀ p ∈ (g.mergeAt tick j f).splits, p.st ≠ .joinWait j f) ∧
        (∀ p, waits p → ∀ l, (∀ k < l, w.lanes.getLsbD k = false) → ∀ k < l, p.lanes.getLsbD k = false) ∧
        m.pc = j + 4 ∧ m.st = .run ∧ m.joins = w.joins.drop 1 ∧ m.slo = w.slo ∧ m.alo = w.alo ∧ m.mode = w.mode ∧
        m.rets = w.rets ∧ m.sid = w.sid ∧
        (∀ l, m.lanes.getLsbD l = true ↔ ∃ p, waits p ∧ p.lanes.getLsbD l = true) ∧
        ((g.mergeAt tick j f).status.getLsbD 1 = true ↔ g.status.getLsbD 1 = true ∨
          ∃ p, waits p ∧ (p.slo ≠ w.slo ∨ p.alo ≠ w.alo ∨ p.mode ≠ w.mode ∨ p.rets ≠ w.rets))))

/-- A group in which nothing is pending: no trap, no cancel, no deferred trap, no watchdog, no handler, no hold. -/
def quiet (g : Group) : Prop :=
  g.traps = [] ∧ g.cancel = false ∧ g.deferred = [] ∧ g.wdog = false ∧ g.handler = none ∧ g.hold = false

/-- R88, R92: SJOIN. It traps INVOP in a LOOPS body and JOINMISMATCH where the top of the join stack does not name its
address; while another live split of a quiet group holds the entry it waits at (J, f), out of the table; the only split of
its group merges with itself and goes on at J + 4 with the entry popped. -/
def Obligations.JoinResults : Prop :=
  ∀ (s : State),
    (s.ready .sjoin = true → s.sp.handler = true ∨ s.sp.inLoop = true → Traps .sjoin s (trapCode .invop)) ∧
    (s.ready .sjoin = true → s.sp.handler = false → s.sp.inLoop = false → (∀ f rest, s.sp.joins ≠ (s.sp.pc, f) :: rest) →
      Traps .sjoin s (trapCode .joinmismatch)) ∧
    (∀ f rest p, s.ready .sjoin = true → s.sp.handler = false → s.sp.inLoop = false → s.sp.joins = (s.sp.pc, f) :: rest →
      s.inFlight s.g s.sp.sid = false → s.sp.wtrap = none → quiet s.g → s.g.ovf = [] →
      (∀ q ∈ s.g.splits, ∀ j k, q.st ≠ .joinWait j k) → p ∈ s.g.splits → p.handler = false → p.lanes ≠ 0 →
      (s.sp.pc, f) ∈ p.joins →
      ∃ u q, exec .sjoin s = .next u ∧ u.splitSeen s.g.tid s.sp.sid = some q ∧ q.st = .joinWait s.sp.pc f ∧ q.entry = none ∧
        q.lanes = s.sp.lanes ∧ q.joins = s.sp.joins) ∧
    (∀ f rest, s.ready .sjoin = true → s.sp.handler = false → s.sp.inLoop = false → s.sp.joins = (s.sp.pc, f) :: rest →
      s.inFlight s.g s.sp.sid = false → s.sp.wtrap = none → quiet s.g → s.g.ovf = [] → s.g.splits = [] → s.sp.stopped = false →
      ∃ u q, exec .sjoin s = .next u ∧ u.splitSeen s.g.tid s.sp.sid = some q ∧ q.st = .run ∧ q.pc = s.sp.pc + 4 ∧
        q.joins = rest ∧ q.lanes = s.sp.lanes ∧ q.entry = some 0)

/-- R93, R94, R95: EXIT ends the lanes of the execute mask, the split while lanes remain, and the task with the last
(its cell takes sig of s0 and s1, R245); YIELD marks split and group to give way; SINFO reads what its minor names.
R96, R167: LIVE: a register at or beyond the declared count traps REGRANGE before execution; LIVE.dead writes DEAD rows of
zeros over the range, whatever the mask, and frees them; LIVE.fetch changes nothing but which rows the register file holds:
where there is room, the range comes in and no row leaves. -/
def Obligations.ExitYieldInspectLive : Prop :=
  (∀ (s : State) (sb : Bool) (x : Opnd),
    (s.ready .exit = true → s.sp.handler = false → s.sp.tripped = false → s.sp.lanes &&& ~~~s.exec ≠ 0 →
      Completes .exit s { s with sp := { s.sp with lanes := s.sp.lanes &&& ~~~s.exec } }) ∧
    (s.ready .exit = true → s.sp.handler = false → s.sp.tripped = false → s.sp.lanes &&& ~~~s.exec = 0 → s.inFlight s.g s.sp.sid = false →
      (∀ p ∈ s.g.splits, p.handler = true ∨ p.lanes = 0) →
      exec .exit s = .next (((({ s with sp := { s.sp with lanes := 0 }, g := (s.g.absorb s.sp).countWindow s.time } : State).unfocus.endTask
        s.g.tid (.sig (s.getD 0)))).carryOn s.g.tid s.todo)) ∧
    (∀ p, s.ready .exit = true → s.sp.handler = false → s.sp.tripped = false → s.sp.lanes &&& ~~~s.exec = 0 → s.inFlight s.g s.sp.sid = false →
      s.sp.wtrap = none → quiet s.g → (∀ q ∈ s.g.splits, (∀ j k, q.st ≠ .joinWait j k) ∧ q.sid ≠ s.sp.sid ∧ q.parked = false) →
      p ∈ s.g.splits → p.handler = false → p.lanes ≠ 0 → (∀ m : Fin 4, s.g.teams[m] = none) →
      ∃ u, exec .exit s = .next u ∧ u.splitSeen s.g.tid s.sp.sid = none ∧ (u.splitSeen s.g.tid p.sid).isSome = true) ∧
    (s.ready .exit = true → s.sp.handler = true → Traps .exit s (trapCode .invop)) ∧
    (s.ready .yield = true →
      Completes .yield s { s with sp := { s.sp with yielded := true }, g := { s.g with giveWay := true } }) ∧
    (s.ready (.sinfoLanes sb x) = true → Completes (.sinfoLanes sb x) s (s.wS x (BitVec.ofNat 32 s.sp.lanes.toNat))) ∧
    (s.ready (.sinfoExec sb x) = true → Completes (.sinfoExec sb x) s (s.wS x (BitVec.ofNat 32 s.exec.toNat))) ∧
    (s.ready (.sinfoCount sb x) = true → Completes (.sinfoCount sb x) s (s.wS x (BitVec.ofNat 32
      ((s.sp :: s.g.splits).filter (fun p => !p.handler && p.lanes != 0)).length))) ∧
    (∀ e, s.ready (.sinfoId sb x) = true → s.sp.handler = false → s.sp.entry = some e →
      Completes (.sinfoId sb x) s (s.wS x (BitVec.ofNat 32 e))) ∧
    (∀ h p e, s.ready (.sinfoId sb x) = true → s.sp.handler = true → s.g.handler = some h →
      s.g.split? h.trap.sid = some p → p.entry = some e → Completes (.sinfoId sb x) s (s.wS x (BitVec.ofNat 32 e))) ∧
    (∀ h p, s.ready (.sinfoId sb x) = true → s.sp.handler = true → s.g.handler = some h →
      s.g.split? h.trap.sid = some p → p.entry = none → Completes (.sinfoId sb x) s (s.wS x 0xFFFFFFFF)) ∧
    (s.ready (.sinfoDepth sb x) = true → Completes (.sinfoDepth sb x) s (s.wS x (BitVec.ofNat 32 s.sp.joins.length))) ∧
    (s.ready (.sinfoOvf sb x) = true → Completes (.sinfoOvf sb x) s (s.wS x (BitVec.ofNat 32 s.g.ovf.length)))) ∧
  (∀ (s : State) (sb : Bool) (b : VReg) (n : Byte),
    (∀ i ∈ [Instr.liveDead sb b n, .liveFetch sb b n], s.running = true → i.accepted = true →
      tVregs s.g.record < b.val + n.toNat → TrapsAtDecode i s (trapCode .regrange)) ∧
    (s.ready (.liveDead sb b n) = true → b.val + n.toNat ≤ tVregs s.g.record → b.val + n.toNat ≤ 128 →
      (∀ k, s.unwritten (.v k) = true) →
      ∃ t, Completes (.liveDead sb b n) s t ∧
        (∀ k, b.val ≤ k → k < b.val + n.toNat → t.curV k = VRow.init ∧ k ∈ t.g.absent) ∧
        (∀ k, ¬ (b.val ≤ k ∧ k < b.val + n.toNat) → t.curV k = s.curV k)) ∧
    (s.ready (.liveFetch sb b n) = true → ∃ t, Completes (.liveFetch sb b n) s t ∧ t.sp = s.sp ∧ t.mem = s.mem ∧
      (∀ k, t.curV k = s.curV k) ∧ t.g.shi = s.g.shi ∧ t.g.ahi = s.g.ahi ∧ t.g.preds = s.g.preds ∧ t.g.qregs = s.g.qregs) ∧
    (∀ l, s.ready (.liveFetch sb b n) = true → (∀ q ∈ s.g.splits, q.sid ≠ s.sp.sid) → (∀ g ∈ s.groups, g.tid ≠ s.g.tid) →
      l = s.g.absent.filter (fun r => !(b.val ≤ r && r < b.val + n.toNat)) →
      (({ s with g := { s.g with absent := l } } : State).unfocus.heldRows s.here).length ≤ 8192 →
      Completes (.liveFetch sb b n) s { s with g := { s.g with absent := l } }))

/-- R163, R364, R365, R366: TAKING A HANDLED TRAP. In an undivided quiet group with nothing in flight and a handler, a
handled trap starts the handler split at TVEC, at a window start, with the trapping split's lanes and copies of its
scalar and affine registers, MODE, return stack and join stack; the trapping split stops where it stands, its own bit set
only for USER and BKPT; the record is in TRAP.REC and TRAP.ACT is 0; every other register of the group stands. The trap of
an instruction comes to this at once, or it stays with the window, whose bit it leaves clear, while later positions issue: R163
leaves to timing when the trap is known, which the model takes as a free choice (notes/assumptions/24.md). -/
def Obligations.HandlerEntry : Prop :=
  ∀ (s : State) (t : TrapReq), s.running = true → s.todo = [] → s.sp.handler = false → quiet s.g → s.g.splits = [] →
    s.sp.wtrap = none → s.inFlight s.g s.sp.sid = false → s.sp.sid ≠ s.g.nextSid → s.g.slot.isSome = true →
    t.code ∈ [TrapCode.tagmismatch, .bounds, .bkpt, .user] → t.fatal = false → s.g.launch.tvec ≠ 0 →
    let u := s.stop (.trap t)
    (∀ i, s.trips i t = u ∨ i.strokeBit = false ∧
      s.trips i t = ({ s with sp := { s.sp with wtrap := some (s.trapInfo t), tripped := true } } : State).leaveOpen i) ∧
    ∃ g p h hs, u.running = false ∧ u.groupSeen s.g.tid = some g ∧ u.splitSeen s.g.tid s.sp.sid = some p ∧
      u.splitSeen s.g.tid s.g.nextSid = some h ∧ g.handler = some hs ∧
      h.handler = true ∧ h.pc = s.g.launch.tvec ∧ h.wpc = s.g.launch.tvec ∧ h.pos = 0 ∧ h.wcm = 0 ∧ h.st = .run ∧
      h.lanes = s.sp.lanes ∧ h.slo = s.sp.slo ∧ h.alo = s.sp.alo ∧ h.mode = s.sp.mode ∧ h.rets = s.sp.rets ∧ h.joins = s.sp.joins ∧
      p = { s.sp with stopped := true,
                      wcm := if t.code = .user ∨ t.code = .bkpt then s.sp.wcm ||| BitVec.ofNat 64 (2 ^ s.sp.pos) else s.sp.wcm } ∧
      hs.act = 0 ∧ hs.trap.sid = s.sp.sid ∧ hs.trap.code = t.code ∧
      hs.record.extractLsb' 64 64 = s.sp.pc ∧ hs.record.extractLsb' 128 64 = t.addr ∧ hs.record.extractLsb' 192 64 = s.sp.wpc ∧
      hs.record.extractLsb' 256 64 = p.wcm ∧ hs.record.extractLsb' 464 16 = s.sp.lanes ∧
      hs.record.extractLsb' 480 16 = s.exec ∧
      g.vregs = s.g.vregs ∧ g.shi = s.g.shi ∧ g.ahi = s.g.ahi ∧ g.preds = s.g.preds ∧ g.qregs = s.g.qregs ∧
      g.lfsr = s.g.lfsr ∧ g.status = s.g.status ∧ g.traps = [] ∧ u.mem = s.mem

/-- R370, R371: the layout of a trap record: task, pc, address, window start, completion mask, time, INFO, core, tenant, entry,
lanes and execute mask at their bits; and of its INFO word: fatal, nested, kind, access, detail, position and code. -/
def Obligations.TrapRecordLayout : Prop :=
  ∀ (task pc addr wpc wcm time info core tenant entry lanes exec : Nat) (fatal nested : Bool) (kind access detail pos code : Nat),
    let r := trapRecord task pc addr wpc wcm time info core tenant entry lanes exec
    let w := BitVec.ofNat 32 (infoWord fatal nested kind access detail pos code)
    field r 63 0 = task % 2 ^ 64 ∧ field r 127 64 = pc % 2 ^ 64 ∧ field r 191 128 = addr % 2 ^ 64 ∧
    field r 255 192 = wpc % 2 ^ 64 ∧ field r 319 256 = wcm % 2 ^ 64 ∧ field r 383 320 = time % 2 ^ 64 ∧
    field r 415 384 = info % 2 ^ 32 ∧ field r 447 416 = core % 2 ^ 32 ∧ field r 455 448 = tenant % 2 ^ 8 ∧
    field r 463 456 = entry % 2 ^ 8 ∧ field r 479 464 = lanes % 2 ^ 16 ∧ field r 495 480 = exec % 2 ^ 16 ∧ field r 511 496 = 0 ∧
    w.getLsbD 31 = fatal ∧ w.getLsbD 30 = nested ∧ field w 29 28 = kind % 4 ∧ field w 27 24 = access % 16 ∧
    field w 23 16 = detail % 256 ∧ field w 15 14 = 0 ∧ field w 13 8 = pos % 64 ∧ field w 7 0 = code % 256

/-- R98, R367: THE RETURN FROM A HANDLER. RFT in the handler of a group whose one other split trapped: the handler split
ends, and under REPLAY and SKIP the trapping split takes the handler's scalar and affine registers and MODE and replays its
window from its WPC; SKIP first sets the bit of the faulting position, but for a CANCEL. -/
def Obligations.HandlerReturn : Prop :=
  ∀ (s : State) (p : Split) (hs : HandlerSt), s.ready .rft = true → s.sp.handler = true → s.g.handler = some hs → s.todo = [] →
    s.g.splits = [p] → hs.trap.sid = p.sid → p.sid ≠ s.sp.sid → p.stopped = true → p.st = .run → hs.act ≠ 2 →
    s.inFlight s.g s.sp.sid = false → s.sp.wtrap = none → s.g.traps = [] → s.g.wdog = false →
    ∃ u g q, exec .rft s = .next u ∧ u.running = false ∧ u.groupSeen s.g.tid = some g ∧ g.handler = none ∧
      u.splitSeen s.g.tid s.sp.sid = none ∧ u.splitSeen s.g.tid p.sid = some q ∧
      q.pc = p.wpc ∧ q.wpc = p.wpc ∧ q.pos = 0 ∧ q.st = .run ∧ q.stopped = false ∧ q.lanes = p.lanes ∧
      q.slo = s.sp.slo ∧ q.alo = s.sp.alo ∧ q.mode = s.sp.mode ∧ q.joins = p.joins ∧ q.rets = p.rets ∧
      q.wcm = (if hs.act = 1 ∧ hs.trap.code ≠ .cancel then p.wcm ||| BitVec.ofNat 64 (2 ^ hs.trap.pos) else p.wcm) ∧
      g.vregs = s.g.vregs ∧ g.shi = s.g.shi ∧ g.ahi = s.g.ahi ∧ g.preds = s.g.preds ∧ g.qregs = s.g.qregs ∧ u.mem = s.mem

/-- The error queue of a tenant (R398). -/
def errqOf (s : State) (tenant : Nat) : Nat := ((s.tenant? tenant).map (·.errq)).getD 0

/-- A state in which the step that takes a trap at `s` reads the time: memory, queues and tenants are as they were, the issuing
task stands with its record and launch, nothing issues, and the time has not gone back. -/
def trapTime (s d : State) : Prop :=
  d.running = false ∧ d.mem = s.mem ∧ d.queues = s.queues ∧ d.tenants = s.tenants ∧ s.time ≤ d.time ∧
    ∃ g, d.group? s.g.tid = some g ∧ g.record = s.g.record ∧ g.launch = s.g.launch

/-- R369: the record goes to a queue, and the task ends with fail of the code and the slot's address on its cell. -/
def failTask (d : State) (tid : Nat) (code : TrapCode) (rec512 : BitVec 512) (queue : Nat) : State :=
  let r := d.pushRecord queue rec512
  r.1.endTask tid (.fail (BitVec.ofNat 8 code.num) r.2)

/-- R368: once a task has ended, whatever the operation on its cell, no group of it is left; R245: where the cell can be reached,
the operation has been made on it at its place, and nothing else of memory has changed.
R369, R370: a fatal trap other than a CANCEL that no handler took: in a group with nothing in flight the step of the
instruction that raised it writes its trap record to the tenant's error queue and then ends the task with fail(CODE, a), a the
address that the record's slot has; so does RFT under TRAP.ACT 2 with the record of its trap, now FATAL (R367).
R388, R390: the slot of a record, and a record that finds the ring full is lost and counted, its address 0. -/
def Obligations.TaskEnd : Prop :=
  (∀ (s : State) (tid : Nat) (op : CellOp), s.running = false → (s.endTask tid op).group? tid = none) ∧
  -- R245: the cell
  (∀ (s : State) (tid : Nat) (op : CellOp) (g : Group), s.running = false → s.group? tid = some g → g.launch.root = none →
    (∀ x ∈ s.loads, x.tid ≠ tid) → s.poison = [] → allClean s → MemoryKept s →
    let va := tFuture g.record
    let t := s.endTask tid op
    (va = 0 → ∀ a, t.rd8 a = s.rd8 a) ∧
    (∀ l, va ≠ 0 → va.toNat % 16 = 0 → s.translate (agentEngine g.tenant g.core) hAtomic true va = .ok l → uncached s l.key 16 →
      BitVec.ofNat 128 (t.rdV l.key 16) = cellStep (BitVec.ofNat 128 (s.rdV l.key 16)) op ∧
      ∀ a, (a < l.key ∨ l.key + 16 ≤ a) → t.rd8 a = s.rd8 a)) ∧
  -- R369: the record, then the end with fail
  (∀ (s : State) (t : TrapReq), s.running = true → s.todo = [] → s.sp.handler = false → quiet s.g → s.g.splits = [] →
    s.sp.wtrap = none → s.inFlight s.g s.sp.sid = false →
    t.code ∈ [TrapCode.invop, .regalign, .regrange, .poison, .perm, .misalign, .brtarget, .splitovf, .splitwrite, .joinmismatch,
      .mxpartial, .mxmismatch, .mxcmd, .modeval, .stack] ∨ s.g.launch.tvec = 0 ∧ t.code ∈ [.tagmismatch, .bounds, .bkpt, .user] →
    (s.stop (.trap t)).group? s.g.tid = none ∧
    ∃ d : State, trapTime s d ∧
      let wcm := if t.code = .user ∨ t.code = .bkpt then s.sp.wcm ||| BitVec.ofNat 64 (2 ^ s.sp.pos) else s.sp.wcm
      let rec512 := trapRecord s.g.tid s.sp.pc.toNat t.addr.toNat s.sp.wpc.toNat wcm.toNat d.time
        (infoWord true false 0 t.access.num t.detail.toNat s.sp.pos t.code.num)
        (s.g.core / 128 * 2 ^ 8 + s.g.core / 32 % 4 * 2 ^ 5 + s.g.core % 32) s.g.tenant (s.sp.entry.getD 0xFF) s.sp.lanes.toNat s.exec.toNat
      s.stop (.trap t) = failTask d s.g.tid t.code rec512 (errqOf s s.g.tenant)) ∧
  -- R367: TRAP.ACT 2
  (∀ (s : State) (hs : HandlerSt), s.ready .rft = true → s.sp.handler = true → s.g.handler = some hs → hs.act = 2 → s.todo = [] →
    s.inFlight s.g s.sp.sid = false → s.sp.wtrap = none →
    ∃ d : State, trapTime s d ∧ exec .rft s = .next (failTask d s.g.tid hs.trap.code (hs.record ||| BitVec.ofNat 512 (2 ^ 415)) (errqOf s s.g.tenant))) ∧
  -- R388, R390: a record
  (∀ (s : State) (n : Nat) (q : Queue) (rec512 : BitVec 512), s.queue? n = some q → q.enabled = true →
    let a : DWord := q.ring + BitVec.ofNat 64 (q.prod.toNat % 2 ^ q.k * q.slotSize)
    let r := s.pushRecord n rec512
    (∀ l, (q.prod - q.cons).toNat < 2 ^ q.k → q.shadow = 0 → allClean s → MemoryKept s → s.queueLoc q hWrite a = .ok l → uncached s l.key 64 →
      r.2 = a ∧ r.1.rdN l.key 64 = toBytes 64 rec512 ∧ (∀ k, (k < l.key ∨ l.key + 64 ≤ k) → r.1.rd8 k = s.rd8 k) ∧
        ∃ q', r.1.queue? n = some q' ∧ q'.prod = q.prod + 1 ∧ q'.cons = q.cons ∧ q'.lost = q.lost) ∧
    (2 ^ q.k ≤ (q.prod - q.cons).toNat → r.2 = 0 ∧ r.1.mem = s.mem ∧ r.1.queue? n = some { q with lost := q.lost + 1 }))

/-- R55, R100, R143, R145, R168, R172, R187, R190, R194, R309, R320, R326, R344, R348, R372, R411: CSRR of every CSR that may be read at any
time writes its value to X: core and task ids, the tenant's locality values, the cellar's carve and status, STATUS, latencies,
slice counters, SR.SEED, SLICE.SNAP, VRF.MISS, the counts of carve changes, rack depth, windows and matrix blocks, the crew
watch and PWR.STATUS. That CELLAR.CARVE reads the old carve while a change is pending is the model's choice
(notes/assumptions/40.md), and so is that SLICE.SNAP and the slice counters stand for a tenant and a die
(notes/assumptions/48.md). -/
def Obligations.CsrReads : Prop :=
  ∀ (s : State) (sb : Bool) (x : Opnd), (∀ n : BitVec 16, s.ready (.csrr sb x n) = true) →
    let reads (n : BitVec 16) (v : Word) : Prop := Completes (.csrr sb x n) s (s.wS x v)
    let d := s.g.core / 128
    reads 0x0001 (BitVec.ofNat 32 (d * 2 ^ 8 + s.g.core / 32 % 4 * 2 ^ 5 + s.g.core % 32)) ∧
    reads 0x0002 (BitVec.ofNat 32 s.g.tid) ∧ reads 0x0003 (BitVec.ofNat 32 (s.g.tid / 2 ^ 32)) ∧
    (∀ t, s.tenant? s.g.tenant = some t → reads 0x0010 t.locDepth ∧ reads 0x0011 t.locBytes ∧ reads 0x0012 t.locIdle ∧
      reads 0x0408 (BitVec.ofNat 32 t.watch.length) ∧ reads 0x0421 (BitVec.ofNat 32 t.wdog)) ∧
    reads 0x0020 ((s.tdie? s.g.tenant d).scr ++ (s.tdie? s.g.tenant d).cache) ∧
    (∃ v : Word, reads 0x0021 v ∧ v.toNat < 8 ∧ v.getLsbD 0 = (s.die? d).hot ∧
      v.getLsbD 1 = (s.tdie? s.g.tenant d).change.isSome ∧ v.getLsbD 2 = (s.tdie? s.g.tenant d).hotSeen) ∧
    ((∀ p ∈ s.allSplits, p.wfresh = 0) → reads 0x0030 (BitVec.ofNat 32 s.g.status.toNat)) ∧
    reads 0x0040 s.g.latLast ∧ reads 0x0041 s.g.latStall ∧
    (∀ i < 128, reads (BitVec.ofNat 16 (0x0200 + i)) (BitVec.ofNat 32 (s.sliceCnt d i s.g.tenant).occ) ∧
      reads (BitVec.ofNat 16 (0x0280 + i)) (s.sliceCnt d i s.g.tenant).req) ∧
    (s.exec = 0 → reads 0x0400 0) ∧
    (∀ l : Fin 16, s.exec.getLsbD l = true → (∀ k < l.val, s.exec.getLsbD k = false) → reads 0x0400 s.g.lfsr[l]) ∧
    reads 0x0401 0 ∧ reads 0x0402 (BitVec.ofNat 32 ((s.tdie? s.g.tenant d).snapOff * 2 ^ 10)) ∧
    (∃ v : Word, reads 0x0409 v ∧ v.toNat < 8 ∧ v.getLsbD 0 = s.powerLow ∧ v.getLsbD 1 = (s.die? d).therm ∧
      ∀ t, s.tenant? s.g.tenant = some t → v.getLsbD 2 = t.pwrSeen) ∧
    reads 0x0403 s.g.vrfMiss ∧ reads 0x0404 (s.tdie? s.g.tenant d).carveDone ∧
    reads 0x0405 (BitVec.ofNat 32 (s.core? s.g.core).depth) ∧ reads 0x0406 s.g.coxWin ∧ reads 0x0407 s.g.mxKblk

/-- R100, R366: THE PRIVILEGE OF CSRS. TRAP.REC and TRAP.ACT outside a handler trap INVOP, read or written; in a handler
TRAP.REC reads the record and TRAP.ACT takes 0, 1 or 2 and traps on 3; a locality register without its grant and
CELLAR.CARVE without its grant or outside the allotment trap PERM, overlapping fields INVOP; a number that is no CSR traps
INVOP.
R55, R100, R101, R145, R184, R190, R194, R320, R411: what a CSRW that is allowed does: RW fields take the value, W1C
fields clear where a 1 is written, a register read-only in every field is left alone. That HOTSEEN and SEEN clear while HOT, LIMIT or
THERM stands is the model's reading (notes/assumptions/51.md); that SLICE.CLR and SLICE.SNAP act on a tenant and a die is its
choice (notes/assumptions/48.md). -/
def Obligations.CsrWrites : Prop :=
  (∀ (s : State) (sb : Bool) (x : Opnd) (n : BitVec 16),
    (0x0410 ≤ n.toNat ∧ n.toNat ≤ 0x0420 → s.sp.handler = false →
      (s.ready (.csrr sb x n) = true → Traps (.csrr sb x n) s (trapCode .invop)) ∧
      (s.ready (.csrw sb x n) = true → Traps (.csrw sb x n) s (trapCode .invop))) ∧
    (∀ h, s.sp.handler = true → s.g.handler = some h →
      (∀ w < 16, n = BitVec.ofNat 16 (0x0410 + w) → s.ready (.csrr sb x n) = true →
        Completes (.csrr sb x n) s (s.wS x (h.record.extractLsb' (32 * w) 32))) ∧
      (n.toNat = 0x0420 → s.ready (.csrr sb x n) = true → Completes (.csrr sb x n) s (s.wS x (BitVec.ofNat 32 h.act.toNat))) ∧
      (n.toNat = 0x0420 → s.ready (.csrw sb x n) = true → (s.sval x).toNat % 4 ≠ 3 →
        Completes (.csrw sb x n) s { s with g := { s.g with handler := some { h with act := BitVec.ofNat 2 (s.sval x).toNat } } }) ∧
      (n.toNat = 0x0420 → s.ready (.csrw sb x n) = true → (s.sval x).toNat % 4 = 3 → Traps (.csrw sb x n) s (trapCode .invop))) ∧
    (n.toNat ∈ [0x0010, 0x0011, 0x0012] → s.granted 1 = false → s.ready (.csrw sb x n) = true →
      Traps (.csrw sb x n) s (trapCode .perm)) ∧
    (s.granted 0 = false → s.ready (.cellarCarveWrite sb x) = true → Traps (.cellarCarveWrite sb x) s (trapCode .perm)) ∧
    (∀ t, s.tenant? s.g.tenant = some t → s.granted 0 = true → s.ready (.cellarCarveWrite sb x) = true →
      ((s.sval x).extractLsb' 16 16 ||| (s.sval x).extractLsb' 0 16) &&& ~~~(vget t.allot (s.g.core / 128) 0) ≠ 0 →
      Traps (.cellarCarveWrite sb x) s (trapCode .perm)) ∧
    (∀ t, s.tenant? s.g.tenant = some t → s.granted 0 = true → s.ready (.cellarCarveWrite sb x) = true →
      ((s.sval x).extractLsb' 16 16 ||| (s.sval x).extractLsb' 0 16) &&& ~~~(vget t.allot (s.g.core / 128) 0) = 0 →
      (s.sval x).extractLsb' 16 16 &&& (s.sval x).extractLsb' 0 16 ≠ (0 : BitVec 16) →
      Traps (.cellarCarveWrite sb x) s (trapCode .invop)) ∧
    (n.toNat ∈ [0x0000, 0x0004, 0x0013, 0x0022, 0x0031, 0x0042, 0x01FF, 0x0300, 0x03FF, 0x040A, 0x040F, 0x0422, 0xFFFF] →
      (s.ready (.csrr sb x n) = true → Traps (.csrr sb x n) s (trapCode .invop)) ∧
      (s.ready (.csrw sb x n) = true → Traps (.csrw sb x n) s (trapCode .invop)))) ∧
  (∀ (s : State) (sb : Bool) (x : Opnd) (n : BitVec 16),
    let v := s.sval x
    let d := s.g.core / 128
    (s.ready (.csrw sb x n) = true → n.toNat ∈ [0x0001, 0x0002, 0x0003, 0x0040, 0x0200, 0x027F, 0x0280, 0x02FF, 0x0403, 0x0404,
      0x0405, 0x0406, 0x0407, 0x0408, 0x0421] → Completes (.csrw sb x n) s s) ∧
    (s.ready (.csrw sb x 0x0010) = true → s.granted 1 = true →
      Completes (.csrw sb x 0x0010) s (s.updTenant s.g.tenant (fun t => { t with locDepth := v }))) ∧
    (s.ready (.csrw sb x 0x0011) = true → s.granted 1 = true →
      Completes (.csrw sb x 0x0011) s (s.updTenant s.g.tenant (fun t => { t with locBytes := v }))) ∧
    (s.ready (.csrw sb x 0x0012) = true → s.granted 1 = true →
      Completes (.csrw sb x 0x0012) s (s.updTenant s.g.tenant (fun t => { t with locIdle := v }))) ∧
    (s.ready (.csrw sb x 0x0021) = true → v.getLsbD 2 = true →
      Completes (.csrw sb x 0x0021) s (s.updTdie s.g.tenant d (fun t => { t with hotSeen := false }))) ∧
    (s.ready (.csrw sb x 0x0021) = true → v.getLsbD 2 = false → Completes (.csrw sb x 0x0021) s s) ∧
    (s.ready (.csrw sb x 0x0030) = true → (∀ p ∈ s.allSplits, p.wstatus = [] ∧ p.wfresh = 0) →
      (∀ t, s.g.smixAt = some t → t < s.cycleAt) →
      ∃ st : BitVec 4, Completes (.csrw sb x 0x0030) s { s with g := { s.g with status := st } } ∧
        ∀ i < 4, st.getLsbD i = (s.g.status.getLsbD i && !v.getLsbD i)) ∧
    (s.ready (.csrw sb x 0x0041) = true → Completes (.csrw sb x 0x0041) s { s with g := { s.g with latStall := v } }) ∧
    (s.ready (.csrw sb x 0x0409) = true → v.getLsbD 2 = true →
      Completes (.csrw sb x 0x0409) s (s.updTenant s.g.tenant (fun t => { t with pwrSeen := false }))) ∧
    (s.ready (.csrw sb x 0x0409) = true → v.getLsbD 2 = false → Completes (.csrw sb x 0x0409) s s) ∧
    (s.ready (.srSeedWrite sb x) = true → ∃ f : Vector Word 16,
      Completes (.srSeedWrite sb x) s { s with g := { s.g with lfsr := f } } ∧
      ∀ l : Fin 16, f[l] = if s.exec.getLsbD l = false then s.g.lfsr[l]
        else if v + BitVec.ofNat 32 (l.val * 0x9E3779B9) = 0 then 1 else v + BitVec.ofNat 32 (l.val * 0x9E3779B9)) ∧
    (s.ready (.sliceClr sb x) = true → ∃ t, Completes (.sliceClr sb x) s t ∧
      (∀ c, c ∈ t.slices ↔ c ∈ s.slices ∧ ¬ (c.die = d ∧ c.tenant = s.g.tenant)) ∧
      (∀ k, t.curV k = s.curV k) ∧ (∀ k, t.curS k = s.curS k) ∧
      ((∀ g ∈ s.groups, ∀ p ∈ g.splits, p.wsnaps = []) → (∀ p ∈ s.g.splits, p.wsnaps = []) → t.mem = s.mem)) ∧
    (s.ready (.sliceSnap sb x) = true → 1024 * (v.toNat / 2 ^ 10 % 2 ^ 11) + 1024 ≤ nearSize - s.stageBytes s.g.tenant →
      ∃ t : State, t = (s.updTdie s.g.tenant d (fun t => { t with snapOff := v.toNat / 2 ^ 10 % 2 ^ 11 })).storeLoc
        ⟨keyNear s.g.core (1024 * (v.toNat / 2 ^ 10 % 2 ^ 11)), BitVec.ofNat 64 (1024 * (v.toNat / 2 ^ 10 % 2 ^ 11)), .near, none⟩
        ((s.updTdie s.g.tenant d (fun t => { t with snapOff := v.toNat / 2 ^ 10 % 2 ^ 11 })).snapBlock) ∧
      Completes (.sliceSnap sb x) s { t with sp := { t.sp with
        wsnaps := (d, keyNear s.g.core (1024 * (v.toNat / 2 ^ 10 % 2 ^ 11)), []) :: t.sp.wsnaps } }) ∧
    (s.ready (.sliceSnap sb x) = true → nearSize - s.stageBytes s.g.tenant < 1024 * (v.toNat / 2 ^ 10 % 2 ^ 11) + 1024 →
      Traps (.sliceSnap sb x) s { code := .bounds, addr := BitVec.ofNat 64 (1024 * (v.toNat / 2 ^ 10 % 2 ^ 11)), access := .write }) ∧
    (∀ t, s.tenant? s.g.tenant = some t → s.granted 0 = true → s.ready (.cellarCarveWrite sb x) = true →
      (v.extractLsb' 16 16 ||| v.extractLsb' 0 16) &&& ~~~(vget t.allot d 0) = 0 → v.extractLsb' 16 16 &&& v.extractLsb' 0 16 = (0 : BitVec 16) →
      ((s.tdie? s.g.tenant d).change = none → Completes (.cellarCarveWrite sb x) s
        (s.updTdie s.g.tenant d (fun t => { t with change := some (v.extractLsb' 16 16, v.extractLsb' 0 16) }))) ∧
      ((s.tdie? s.g.tenant d).change ≠ none → Parks (.cellarCarveWrite sb x) s s (.carve d))))

/-- R97, R98, R99: TRAP raises USER with the scalar in the record and the code as DETAIL, BKPT raises BKPT; SYSC sends its
number and s0 to s7 and parks; RFT outside a handler traps INVOP; a word that decodes to nothing traps INVOP (R30).
R102: TIME writes the time base, which does not decrease, or the cycle counter. -/
def Obligations.SystemResults : Prop :=
  (∀ (s : State) (x : Opnd) (c : Byte),
    (s.ready (.trap x c) = true → Traps (.trap x c) s { code := .user, addr := BitVec.ofNat 64 (s.sval x).toNat, detail := c }) ∧
    (s.ready (.bkpt c) = true → Traps (.bkpt c) s { code := .bkpt, detail := c }) ∧
    (s.ready (.sysc x) = true → Parks (.sysc x) s s (.sysc (s.sval x)
      [s.getS 0, s.getS 1, s.getS 2, s.getS 3, s.getS 4, s.getS 5, s.getS 6, s.getS 7])) ∧
    (s.running = true → TrapsAtDecode .undefinedEncoding s (trapCode .invop)) ∧
    (s.ready .rft = true → s.sp.handler = false → Traps .rft s (trapCode .invop))) ∧
  (∀ (s : State) (sb : Bool) (x : Opnd),
    (s.ready (.time sb x 0xF8) = true → ∃ now, s.time ≤ now ∧
      Completes (.time sb x 0xF8) s (({ s with time := now } : State).wD x (BitVec.ofNat 64 now))) ∧
    (s.ready (.time sb x 0xFB) = true → ∃ t, t = s.cycle s.g.core ∧
      Completes (.time sb x 0xFB) s (t.wD x (BitVec.ofNat 64 (t.core? s.g.core).cycles))))

/-! ## Vector and lane instructions (spec 02, 04) -/

/-- R18, R48, R49: when a vector source may be read as a format: a register that is DEAD, or holds RAW32 or that format, or,
with MODE.TP clear, another with as many elements where neither is quantised; FONE under a format that is not quantised. -/
def readsAs (s : State) (f : Fmt) (o : Opnd) : Prop :=
  let quantised (q : Fmt) : Prop := q = .int8q ∨ q = .int4q
  match o with
  | .v n => (s.getV n).tag = .dead ∨ ∃ t, (s.getV n).tag = .fmt t ∧
      (t = .raw32 ∨ t = f ∨ modeTP s.mode = false ∧ t.elems = f.elems ∧ ¬ quantised t ∧ ¬ quantised f)
  | .fone => ¬ quantised f
  | _ => True

/-- R18, R109, R117, R121: when a vector source may be read raw: a register that is not POISON and, but where `invalidToo`,
not INVALID; FONE under a format that is not quantised. -/
def readsRaw (s : State) (invalidToo : Bool) (o : Opnd) : Prop :=
  match o with
  | .v n => (s.getV n).tag ≠ .poison ∧ (invalidToo = false → (s.getV n).tag ≠ .invalid)
  | .fone => modeFmt s.mode ≠ .int8q ∧ modeFmt s.mode ≠ .int4q
  | _ => True

/-- The registers of a source group of `k` registers (R115). -/
def groupOpnds (y : Opnd) : Nat → List Opnd
  | 0 => []
  | k + 1 => y :: groupOpnds (nextOpnd y) k

/-- R48, R103, R105: a vector instruction with the formats `ok`, the sources `srcs` that are checked against `g`, in order, and
after them the raw ones `raws`. Under a zero execute mask nothing happens; under a MODE.FMT it does not accept it traps INVOP;
the first source that may not be read traps; and where every source may be read it completes as `body` says. -/
def vectorForm (i : Instr) (s : State) (ok : Fmt → Bool) (g : Fmt) (srcs : List Opnd) (raws : List (Bool × Opnd)) (body : Prop) : Prop :=
  let runs := s.ready i = true ∧ s.exec ≠ 0 ∧ ok (modeFmt s.mode) = true
  (s.ready i = true → s.exec = 0 → Completes i s s) ∧
  (s.ready i = true → s.exec ≠ 0 → ok (modeFmt s.mode) = false → Traps i s (trapCode .invop)) ∧
  (runs → ∀ pre o post e, srcs = pre ++ o :: post → (∀ q ∈ pre, readsAs s g q) → s.tagcheck g o = .error (.trap e) → Traps i s e) ∧
  (runs → (∀ q ∈ srcs, readsAs s g q) → ∀ b o post e, raws = (b, o) :: post → s.rawRead b o = .error (.trap e) → Traps i s e) ∧
  (runs → (∀ q ∈ srcs, readsAs s g q) → (∀ r ∈ raws, readsRaw s r.1 r.2) → body)

/-- R104: an element-wise instruction of two sources: where both may be read every element is computed and the destination
takes MODE.FMT. -/
def twoSources (i : Instr) (s : State) (x y z : Opnd) (op : Word → Word → Nat → Word → Rounded) : Prop :=
  let f := modeFmt s.mode
  vectorForm i s fmtArith f [y, z] [] (∃ a b, s.tagcheck f y = .ok a ∧ s.tagcheck f z = .ok b ∧
    Completes i s (s.putLanes x 1 f (a.2 ||| b.2) (s.runLanes f.elems (fun l k t => op a.1[l] b.1[l] k t))))

/-- R51, R52, R54, R56: one element of a result: the exact floating value rounded, or the exact integer wrapped or clamped. -/
def element (s : State) (v : FVal) (n : Int) (t : Word) : Rounded :=
  let f := modeFmt s.mode
  if f.isFloat then fround f (modeR s.mode) t v else ⟨(intResult f (modeR s.mode).sat n).1.toNat, (intResult f (modeR s.mode).sat n).2, t⟩

/-- Element `k` of a lane as an exact floating operand (R39, R51). -/
def operandVal (s : State) (w : Word) (k : Nat) : FVal :=
  flushIn (modeFmt s.mode) (modeR s.mode).ftz (fdecode (modeFmt s.mode) (elem (modeFmt s.mode) w k))

/-- R104, R106, R107: VADD, VSUB, VMUL, VMIN, VMAX, VFMA and VFMS. Under a zero execute mask nothing happens and under a format
the instruction does not accept it traps INVOP (R103, R105); the first source that fails its tag check stops it; else each
element is the sum, difference, product, minimum, maximum or fused product and sum of the operands' elements, floating ones
rounded once, integers wrapped or clamped (R56), and the destination takes the format's tag. -/
def Obligations.VectorArithmetic : Prop :=
  ∀ (s : State) (sb : Bool) (x y z : Opnd),
    let f := modeFmt s.mode
    let down := (modeR s.mode).rm == 2
    let v := operandVal s
    let n (w : Word) : Int := if f = .uint32 then w.toNat else w.toInt
    twoSources (.vadd sb x y z) s x y z (fun a b k t => element s (fadd down (v a k) (v b k)) (n a + n b) t) ∧
    twoSources (.vsub sb x y z) s x y z (fun a b k t => element s (fadd down (v a k) (v b k).neg) (n a - n b) t) ∧
    twoSources (.vmul sb x y z) s x y z (fun a b k t => element s (fmul (v a k) (v b k)) (n a * n b) t) ∧
    twoSources (.vmin sb x y z) s x y z (fun a b k t => element s (fminmax false (v a k) (v b k)) (min (n a) (n b)) t) ∧
    twoSources (.vmax sb x y z) s x y z (fun a b k t => element s (fminmax true (v a k) (v b k)) (max (n a) (n b)) t) ∧
    (∀ (i : Instr) (sign : Bool), i = (if sign then .vfms sb x y z else .vfma sb x y z) →
      vectorForm i s fmtArith f [x, y, z] [] (∃ d a b, s.tagcheck f x = .ok d ∧ s.tagcheck f y = .ok a ∧ s.tagcheck f z = .ok b ∧
        Completes i s (s.putLanes x 1 f (d.2 ||| a.2 ||| b.2) (s.runLanes f.elems (fun l k t =>
          let p := fmul (v a.1[l] k) (v b.1[l] k)
          element s (fadd down (v d.1[l] k) (if sign then p.neg else p))
            (if sign then n d.1[l] - n a.1[l] * n b.1[l] else n d.1[l] + n a.1[l] * n b.1[l]) t)))))

/-- The rational number that a finite value stands for. -/
def valueQ (v : FVal) : ℚ :=
  match v with
  | .fin n m e => (if n then -1 else 1) * (m : ℚ) * (2 : ℚ) ^ e
  | _ => 0

/-- R21: the place of a value that is not NaN in the order of the floating formats. -/
def valueOrder (v : FVal) : WithBot (WithTop ℚ) :=
  match v with
  | .inf true => ⊥
  | .inf false => ((⊤ : WithTop ℚ) : WithBot (WithTop ℚ))
  | v => (((valueQ v : ℚ) : WithTop ℚ) : WithBot (WithTop ℚ))

/-- Two values that no format tells apart: both NaN, the same infinity, or one number with one sign. -/
def sameValue (a b : FVal) : Prop :=
  match a, b with
  | .nan, .nan => True
  | .inf p, .inf q => p = q
  | .fin p _ _, .fin q _ _ => p = q ∧ valueQ a = valueQ b
  | _, _ => False

/-- R51, R56: `k` is the integer that `v` rounds to under a rounding mode. -/
def nearestInt (rm : Nat) (v : ℚ) (k : Int) : Prop :=
  match rm with
  | 0 => |(k : ℚ) - v| ≤ 1 / 2 ∧ (|(k : ℚ) - v| = 1 / 2 → Even k)
  | 1 => k = if 0 ≤ v then ⌊v⌋ else ⌈v⌉
  | 2 => k = ⌊v⌋
  | _ => k = ⌈v⌉

/-- R56: an integer clamped to the range of a format, and whether it was. -/
def clampedTo (f : Fmt) (k : Int) (r : Word × Bool) : Prop :=
  let lo : Int := if f = .uint32 then 0 else -(2 ^ 31)
  let hi : Int := if f = .uint32 then 2 ^ 32 - 1 else 2 ^ 31 - 1
  let n : Int := if f = .uint32 then r.1.toNat else r.1.toInt
  (r.2 = true ↔ k < lo ∨ hi < k) ∧ n = max lo (min hi k)

/-- R51, R54: does the magnitude that lies `phi` of a unit above the unit's multiple `i` go up to the next one? `sr` under
stochastic rounding, whose draw is `s`. -/
def goesUp (rm : Nat) (sr : Bool) (s : Word) (neg : Bool) (i : Nat) (phi : ℚ) : Prop :=
  if sr then ((s.toNat % 2 ^ 24 : Nat) : ℚ) < phi * 2 ^ 24
  else match rm with
    | 0 => 1 / 2 < phi ∨ phi = 1 / 2 ∧ i % 2 = 1
    | 1 => False
    | 2 => neg = true ∧ 0 < phi
    | _ => neg = false ∧ 0 < phi

/-- R39, R51, R52, R54: `r` is what round() makes of the magnitude `v` with a sign. FTZ flushes before rounding; else the magnitude
is taken as a multiple of one unit of the last place at its exponent, or of the subnormals', goes up or not, and is written where
the format holds it and as R52's table says where it does not. The generator steps once under stochastic rounding. -/
def roundsRight (f : Fmt) (c : RCtx) (s : Word) (neg : Bool) (v : ℚ) (r : Rounded) : Prop :=
  let L := f.layout
  let sr := c.sr && f != .fp32
  let s' := if sr then lfsrStep s else s
  let least : Int := 1 - (L.bias : Int) - L.mb
  if c.ftz = true ∧ v ≠ 0 ∧ v < (2 : ℚ) ^ (1 - (L.bias : Int)) then r = ⟨signBits f neg, false, s⟩
  else r.lfsr = s' ∧ ∃ (q : Int) (i : Nat) (up : Bool),
    let phi := v / (2 : ℚ) ^ q - i
    let y := ((if up then i + 1 else i : Nat) : ℚ) * (2 : ℚ) ^ q
    0 ≤ phi ∧ phi < 1 ∧ least ≤ q ∧ i < 2 ^ (L.mb + 1) ∧ (i < 2 ^ L.mb → q = least) ∧
    (up = true ↔ goesUp c.rm sr s' neg i phi) ∧
    if valueQ (fdecode f (maxBits f)) < y then
      let rm := if sr then 0 else c.rm
      let most := maxBits f + signBits f neg
      let infinite := if f = .e4m3 then 0x7F else infBits f + signBits f neg
      r.sat = c.sat ∧ r.bits =
        if c.sat = true then most
        else if rm = 0 ∨ (rm = 2 ∧ neg = true) ∨ (3 ≤ rm ∧ neg = false) then infinite else most
    else r.sat = false ∧ ∃ b ≤ maxBits f, r.bits = b + signBits f neg ∧ valueQ (fdecode f b) = y

/-- R112, R113: a value stands for a positive real number, `less y` saying that y is below it and `equal y` that y is it: the
number itself, or the middle of two neighbouring multiples of a power of two of more than 100 bits that the number lies strictly
between, which rounds to every format as the number does. -/
def standsFor (v : FVal) (neg : Bool) (less equal : ℚ → Prop) : Prop :=
  ∃ m e, v = .fin neg m e ∧ (equal ((m : ℚ) * (2 : ℚ) ^ e) ∨ ∃ M : Nat, m = 2 * M + 1 ∧ 2 ^ 100 ≤ M ∧
    less ((M : ℚ) * (2 : ℚ) ^ (e + 1)) ∧ ¬ less (((M + 1 : Nat) : ℚ) * (2 : ℚ) ^ (e + 1)) ∧
    ¬ equal (((M + 1 : Nat) : ℚ) * (2 : ℚ) ^ (e + 1)))

/-- R41, R104: the arithmetic under the rounding is exact: a sum or product of finite values has the value of the sum or
product, and a NaN goes through.
R39, R51 to R54: what an encoding stands for, and round(): the specials, flushing, the one rounding of every finite value, the
overflow table and the step of the generator; the elements of a lane take its generator one after the other.
R56: integers wrap or clamp; R107: minimum and maximum put −0 below +0 and let a number win over NaN; R21, R114: the conditions
of VCMP over every element of a lane.
R112, R113: the special cases of VUN; rcp, sqrt and rsqrt stand for the exact number; exp2 and log2 are exact where the result is
a power of two or an integer and lie strictly between the neighbouring ones elsewhere; floor, ceil, trunc and rint.
R48, R49: tagcheck of a register, and the values of an in-flight conversion; that RAW32 is converted to as INT32 is the model's
choice (notes/assumptions/12.md). -/
def Obligations.ExactArithmetic : Prop :=
  (∀ (rd n1 n2 : Bool) (m1 m2 : Nat) (e1 e2 : Int) (x : FVal),
    valueQ (fadd rd (.fin n1 m1 e1) (.fin n2 m2 e2)) = valueQ (.fin n1 m1 e1) + valueQ (.fin n2 m2 e2) ∧
    valueQ (fmul (.fin n1 m1 e1) (.fin n2 m2 e2)) = valueQ (.fin n1 m1 e1) * valueQ (.fin n2 m2 e2) ∧
    (∃ n m e, fadd rd (.fin n1 m1 e1) (.fin n2 m2 e2) = .fin n m e) ∧
    fadd rd .nan x = .nan ∧ fadd rd x .nan = .nan ∧ fmul .nan x = .nan ∧ fmul x .nan = .nan ∧
    fadd rd (.inf n1) (.inf n2) = (if n1 = n2 then .inf n1 else .nan) ∧
    fmul (.inf n1) (.fin n2 0 e2) = .nan ∧ (m2 ≠ 0 → fmul (.inf n1) (.fin n2 m2 e2) = .inf (n1 != n2))) ∧
  -- encodings (R39)
  (∀ (f : Fmt) (sign : Bool) (E F : Nat), f.isFloat = true → E < 2 ^ f.layout.eb → F < 2 ^ f.layout.mb →
    let L := f.layout
    let v := fdecode f (E * 2 ^ L.mb + F + signBits f sign)
    let num : ℚ := (if sign then -1 else 1) * (2 : ℚ) ^ ((max E 1 : Int) - L.bias) * ((if E = 0 then 0 else 1) + (F : ℚ) / 2 ^ L.mb)
    if E = 2 ^ L.eb - 1 ∧ f ≠ .e4m3 then v = if F = 0 then .inf sign else .nan
    else if E = 15 ∧ F = 7 ∧ f = .e4m3 then v = .nan
    else ∃ m e, v = .fin sign m e ∧ valueQ v = num) ∧
  Fmt.fp32.layout = ⟨8, 23, 127, true⟩ ∧ Fmt.bf16.layout = ⟨8, 7, 127, true⟩ ∧ Fmt.fp16.layout = ⟨5, 10, 15, true⟩ ∧
  Fmt.e4m3.layout = ⟨4, 3, 7, false⟩ ∧ Fmt.e5m2.layout = ⟨5, 2, 15, true⟩ ∧
  [Fmt.fp32, .bf16, .fp16, .e4m3, .e5m2].map maxBits = [0x7F7FFFFF, 0x7F7F, 0x7BFF, 0x7E, 0x7B] ∧
  [Fmt.fp32, .bf16, .fp16, .e4m3, .e5m2].map canonNaN = [0x7FC00000, 0x7FC0, 0x7E00, 0x7F, 0x7E] ∧
  -- rounding (R51 to R54)
  (∀ (f : Fmt) (c : RCtx) (s : Word) (neg : Bool) (m : Nat) (e : Int), f.isFloat = true →
    roundsRight f c s neg ((m : ℚ) * (2 : ℚ) ^ e) (fround f c s (.fin neg m e)) ∧
    fround f c s .nan = ⟨canonNaN f, false, s⟩ ∧
    (f ≠ .e4m3 → fround f c s (.inf neg) = ⟨infBits f + signBits f neg, false, s⟩) ∧
    fround .e4m3 c s (.inf neg) = (if c.sat then ⟨0x7E + signBits .e4m3 neg, true, s⟩ else ⟨0x7F, false, s⟩) ∧
    flushIn f c.ftz (.fin neg m e) = if c.ftz = true ∧ m ≠ 0 ∧ (m : ℚ) * (2 : ℚ) ^ e < (2 : ℚ) ^ (1 - (f.layout.bias : Int))
      then .fin neg 0 0 else .fin neg m e) ∧
  (∀ s : Word, lfsrStep s = BitVec.ofNat 32 (s.toNat / 2) ^^^ (if s.toNat % 2 = 1 then 0x80200003 else 0)) ∧
  (∀ (op : Nat → Word → Rounded) (s : Word) (n : Nat),
    runElems op s 0 = ([], false, s) ∧
    let r := runElems op s n
    let q := op n r.2.2
    runElems op s (n + 1) = (r.1 ++ [q.bits], r.2.1 || q.sat, q.lfsr)) ∧
  -- integers (R56)
  (∀ (f : Fmt) (k : Int), f.isInt = true → clampedTo f k (intResult f true k) ∧
    intResult f false k = (BitVec.ofInt 32 k, false)) ∧
  (∀ (f : Fmt) (rm : Nat) (n : Bool) (m : Nat) (e : Int), f = .int32 ∨ f = .uint32 →
    floatToInt f rm .nan = (0, true) ∧ clampedTo f (if n then -(2 ^ 40) else 2 ^ 40) (floatToInt f rm (.inf n)) ∧
    ∃ k, nearestInt rm (valueQ (.fin n m e)) k ∧ clampedTo f k (floatToInt f rm (.fin n m e))) ∧
  (∀ (f g : Fmt) (w : Word), clampedTo g (if f = .uint32 then (w.toNat : Int) else w.toInt) (intToInt f g w)) ∧
  -- order (R21, R107, R114)
  (∀ a b : FVal, a ≠ .nan → b ≠ .nan → (fltVal a b = true ↔ valueOrder a < valueOrder b) ∧ (feqVal a b = true ↔ valueOrder a = valueOrder b) ∧
    ∀ mx, (fminmax mx a b = a ∨ fminmax mx a b = b) ∧
      valueOrder (fminmax mx a b) = (if mx then max (valueOrder a) (valueOrder b) else min (valueOrder a) (valueOrder b)) ∧
      (valueOrder a = valueOrder b → (fminmax mx a b).isNeg = if mx then a.isNeg && b.isNeg else a.isNeg || b.isNeg)) ∧
  (∀ a : FVal, fltVal .nan a = false ∧ fltVal a .nan = false ∧ feqVal .nan a = false ∧ feqVal a .nan = false ∧
    ∀ mx, fminmax mx .nan a = a ∧ fminmax mx a .nan = a) ∧
  (∀ (f : Fmt) (c : RCtx) (k : Cond) (a b : Word),
    (f.isInt = true → laneCond f c k a b =
      if k = .ord ∨ k = .uno then none
      else condInt (f == .uint32) k a b) ∧
    (f.isFloat = true →
      ((laneCond f c k a b).isSome = true ↔ k ∈ [Cond.eq, .ne, .lt, .le, .gt, .ge, .ord, .uno]) ∧
      ((laneCond f c k a b).isSome = true → (laneCond f c k a b = some true ↔ ∀ i < f.elems,
        condFloat k (fpIn f c a i) (fpIn f c b i) = some true)))) ∧
  -- the exact functions (R112, R113)
  (∀ n : Bool, frcp (.inf n) = .fin n 0 0 ∧ frsqrt (.inf n) = (if n then .nan else .fin false 0 0) ∧
    fsqrt (.inf n) = (if n then .nan else .inf false) ∧ fexp2 (.inf n) = (if n then .fin false 0 0 else .inf false) ∧
    flog2 (.inf n) = (if n then .nan else .inf false)) ∧
  ([frcp, frsqrt, fsqrt, fexp2, flog2].all (fun g => g .nan == .nan) = true) ∧
  (∀ (n : Bool) (m : Nat) (e : Int), let x := (m : ℚ) * (2 : ℚ) ^ e;
    (m = 0 → frcp (.fin n m e) = .inf n ∧ frsqrt (.fin n m e) = .inf n ∧ fsqrt (.fin n m e) = .fin n 0 0 ∧
      flog2 (.fin n m e) = .inf true) ∧
    (m ≠ 0 → n = true → frsqrt (.fin n m e) = .nan ∧ fsqrt (.fin n m e) = .nan ∧ flog2 (.fin n m e) = .nan) ∧
    (m ≠ 0 → standsFor (frcp (.fin n m e)) n (fun y => y * x < 1) (fun y => y * x = 1)) ∧
    (m ≠ 0 → n = false → standsFor (fsqrt (.fin n m e)) false (fun y => y * y < x) (fun y => y * y = x) ∧
      standsFor (frsqrt (.fin n m e)) false (fun y => y * y * x < 1) (fun y => y * y * x = 1)) ∧
    (∀ k : Int, -4096 ≤ k → k ≤ 4096 → valueQ (.fin n m e) = k → valueQ (fexp2 (.fin n m e)) = (2 : ℚ) ^ k) ∧
    (∀ k : Int, -4096 ≤ k → k < 4096 → (k : ℚ) < valueQ (.fin n m e) → valueQ (.fin n m e) < k + 1 →
      (2 : ℚ) ^ k < valueQ (fexp2 (.fin n m e)) ∧ valueQ (fexp2 (.fin n m e)) < (2 : ℚ) ^ (k + 1))) ∧
  (∀ (f : Fmt) (b : Nat) (k : Int), f.isFloat = true → let x := fdecode f b;
    (valueQ x = (2 : ℚ) ^ k → valueQ (flog2 x) = k) ∧
    ((2 : ℚ) ^ k < valueQ x → valueQ x < (2 : ℚ) ^ (k + 1) → (k : ℚ) < valueQ (flog2 x) ∧ valueQ (flog2 x) < k + 1)) ∧
  (∀ (f : Fmt) (b rm : Nat) (ftz : Bool), f.isFloat = true → b < 2 ^ f.width →
    match flushIn f ftz (fdecode f b) with
    | .fin n m e => ∃ k : Int, nearestInt rm (valueQ (.fin n m e)) k ∧
        ∃ m' e', fdecode f (fintegral f rm (.fin n m e)) = .fin n m' e' ∧ valueQ (.fin n m' e') = k
    | x => sameValue (fdecode f (fintegral f rm x)) x) ∧
  -- operands (R48, R49)
  (∀ (s : State) (f : Fmt) (n : Fin 128), let r := s.getV n;
    (r.tag = .poison → s.tagcheck f (.v n) = .error (.trap { code := .poison, addr := r.paddr })) ∧
    (r.tag = .invalid → s.tagcheck f (.v n) = trapOf .tagmismatch) ∧
    (r.tag = .dead → s.tagcheck f (.v n) = .ok (Vector.replicate 16 0, 0)) ∧
    (∀ t, r.tag = .fmt t → t = .raw32 ∨ t = f → ∃ v, s.tagcheck f (.v n) = .ok (v, 0) ∧
      ∀ l : Fin 16, s.exec.getLsbD l = true → v[l] = r.lanes[l]) ∧
    (∀ t, r.tag = .fmt t → t ≠ .raw32 → t ≠ f →
      (¬ readsAs s f (.v n) → s.tagcheck f (.v n) = trapOf .tagmismatch) ∧
      (readsAs s f (.v n) → ∃ v, s.tagcheck f (.v n) = .ok v ∧ v.2.getLsbD 2 = true ∧
        let g := if f = .raw32 then .int32 else f
        ∀ l : Fin 16, s.exec.getLsbD l = true → v.1[l] = (convLane t g (modeR s.mode) r.lanes[l]).1 ∧
          ((convLane t g (modeR s.mode) r.lanes[l]).2 = true → v.2.getLsbD 3 = true)))) ∧
  (∀ (f g : Fmt) (c : RCtx) (w : Word), f.elems = g.elems → f.elems ≤ 4 → f ≠ .int8q → g ≠ .int8q → ∀ i < f.elems,
    let r := convElem f g c (elem f w i)
    let x := flushIn f c.ftz (fdecode f (elem f w i))
    let off : RCtx := { c with sr := false }
    elem g (convLane f g c w).1 i = r.1 ∧ (r.2 = true → (convLane f g c w).2 = true) ∧
    (f.isFloat = true → g.isFloat = true → r = ((fround g off 0 x).bits, (fround g off 0 x).sat)) ∧
    (f.isFloat = true → g.isFloat = false → r = ((floatToInt g c.rm x).1.toNat, (floatToInt g c.rm x).2)) ∧
    (f.isFloat = false → g.isFloat = true →
      let q := fround g off 0 (.ofInt (if f = .uint32 then (w.toNat : Int) else w.toInt))
      r = (q.bits, q.sat)) ∧
    (f.isFloat = false → g.isFloat = false → r = ((intToInt f g w).1.toNat, (intToInt f g w).2)))

/-- R46, R47, R50: what a computation leaves of the registers: with a vector destination and no other write of it in a
running window, the lanes of the execute mask take their elements and the others stay, the whole register takes the format's tag
where no poison stays outside the mask, no other vector register changes, and the status bits are set and none cleared. -/
def Obligations.LaneWrites : Prop :=
  ∀ (s : State) (n : Fin 128) (f : Fmt) (st : BitVec 4) (r : Vector (List Nat × Bool × Word) 16),
    s.unwritten (.v n) = true → s.exec ≠ 0 →
    let t := s.putLanes (.v n) 1 f st r
    (∀ l : Fin 16, (t.curV n).lanes[l] =
      if s.exec.getLsbD l then packElems f (r[l].1.take f.elems) else (s.curV n).lanes[l]) ∧
    ((s.curV n).tag ≠ .poison → (t.curV n).tag = .fmt f) ∧
    ((s.curV n).tag = .poison → (s.curV n).pmask &&& ~~~s.exec = 0 → (t.curV n).tag = .fmt f) ∧
    ((s.curV n).tag = .poison → (s.curV n).pmask &&& ~~~s.exec ≠ 0 →
      (t.curV n).tag = .poison ∧ (t.curV n).pmask = (s.curV n).pmask &&& ~~~s.exec ∧ (t.curV n).paddr = (s.curV n).paddr) ∧
    (∀ m, m ≠ n.val → t.curV m = s.curV m) ∧
    (∀ i, t.g.status.getLsbD i = (s.g.status.getLsbD i || st.getLsbD i ||
      (decide (i = 3) && (List.finRange 16).any (fun l => r[l].2.1)))) ∧
    (∀ m, t.curS m = s.curS m) ∧ (∀ m, t.curA m = s.curA m) ∧ (∀ m, t.curP m = s.curP m) ∧ (∀ m, t.curQ m = s.curQ m) ∧
    t.mem = s.mem

/-- R56, R106: INT32 and UINT32 without saturation wrap, lane by lane; lanes outside the execute mask keep their bits.
R105, R106, R112, R119, R120: the instructions on raw bits of a lane and their tags. VMULH is signed but under UINT32;
VSHR fills with the sign but under UINT32; the shifts take bits 5:0 of a count that is read raw (R121). -/
def Obligations.IntegerAndBitLanes : Prop :=
  (∀ (s : State) (sb : Bool) (n : Fin 128) (y z : Opnd) (a b : Vector Word 16 × BitVec 4),
    modeFmt s.mode = .int32 ∨ modeFmt s.mode = .uint32 → (modeR s.mode).sat = false → s.exec ≠ 0 →
    s.unwritten (.v n) = true → s.tagcheck (modeFmt s.mode) y = .ok a → s.tagcheck (modeFmt s.mode) z = .ok b →
    let lanes (i : Instr) (g : Word → Word → Word) : Prop := s.ready i = true →
      ∃ t, Completes i s t ∧ (∀ l : Fin 16, (t.curV n).lanes[l] =
        if s.exec.getLsbD l then g a.1[l] b.1[l] else (s.curV n).lanes[l]) ∧ ∀ m, m ≠ n.val → t.curV m = s.curV m
    lanes (.vadd sb (.v n) y z) (fun p q => p + q) ∧ lanes (.vsub sb (.v n) y z) (fun p q => p - q) ∧
    lanes (.vmul sb (.v n) y z) (fun p q => p * q) ∧
    (modeFmt s.mode = .int32 → lanes (.vmin sb (.v n) y z) (fun p q => if p.toInt ≤ q.toInt then p else q) ∧
      lanes (.vmax sb (.v n) y z) (fun p q => if p.toInt ≤ q.toInt then q else p)) ∧
    (modeFmt s.mode = .uint32 → lanes (.vmin sb (.v n) y z) (fun p q => if p.toNat ≤ q.toNat then p else q) ∧
      lanes (.vmax sb (.v n) y z) (fun p q => if p.toNat ≤ q.toNat then q else p))) ∧
  (∀ (s : State) (sb : Bool) (x y z : Opnd),
    let f := modeFmt s.mode
    let two (i : Instr) (ok : Fmt → Bool) (tag : Fmt) (g : Word → Word → Word) : Prop := vectorForm i s ok f [y, z] []
      (∃ a b, s.tagcheck f y = .ok a ∧ s.tagcheck f z = .ok b ∧
        Completes i s ((s.setStatus (a.2 ||| b.2)).wVO x s.exec (fun l => g a.1[l] b.1[l]) (.fmt tag)))
    let shift (i : Instr) (g : Word → Nat → Word) : Prop := vectorForm i s Fmt.isInt f [y] [(false, z)]
      (∃ a n, s.tagcheck f y = .ok a ∧ s.rawRead false z = .ok n ∧
        Completes i s ((s.setStatus a.2).wVO x s.exec (fun l => g a.1[l] (n[l].toNat % 64)) (.fmt f)))
    let one (i : Instr) (ok : Fmt → Bool) (tag : Fmt) (g : Word → Word) : Prop := vectorForm i s ok f [y] []
      (∃ a, s.tagcheck f y = .ok a ∧ Completes i s ((s.setStatus a.2).wVO x s.exec (fun l => g a.1[l]) (.fmt tag)))
    two (.vmulh sb x y z) Fmt.isInt f (fun a b =>
      if f = .uint32 then (BitVec.ofNat 64 (a.toNat * b.toNat)).extractLsb' 32 32
      else (BitVec.ofInt 64 (a.toInt * b.toInt)).extractLsb' 32 32) ∧
    two (.vand sb x y z) (fun _ => true) .raw32 (fun a b => a &&& b) ∧
    two (.vor sb x y z) (fun _ => true) .raw32 (fun a b => a ||| b) ∧
    two (.vxor sb x y z) (fun _ => true) .raw32 (fun a b => a ^^^ b) ∧
    shift (.vshl sb x y z) (fun a k => BitVec.ofNat 32 (a.toNat * 2 ^ k)) ∧
    shift (.vshr sb x y z) (fun a k => if f = .uint32 then BitVec.ofNat 32 (a.toNat / 2 ^ k) else a.sshiftRight k) ∧
    one (.vunNot sb x y) (fun _ => true) .raw32 (fun a => 0xFFFFFFFF - a) ∧
    one (.vunClz sb x y) Fmt.isInt f (fun a => BitVec.ofNat 32 (clzNat 32 a.toNat)) ∧
    one (.vunPopc sb x y) Fmt.isInt f (fun a => BitVec.ofNat 32 ((List.range 32).filter (fun i => a.getLsbD i)).length) ∧
    two (.pack sb x y z) (fun f => decide (1 < f.elems)) f (fun a b => packElems f
      ((List.range (f.elems / 2)).map (elem f a) ++ (List.range (f.elems / 2)).map (elem f b))) ∧
    one (.unpk sb x y false) (fun f => decide (1 < f.elems)) f (fun a => packElems f ((List.range (f.elems / 2)).map (elem f a))) ∧
    one (.unpk sb x y true) (fun f => decide (1 < f.elems)) f
      (fun a => packElems f ((List.range (f.elems / 2)).map (fun i => elem f a (f.elems / 2 + i)))) ∧
    (∀ t, vectorForm (.tag sb x y t) s (fun _ => true) f [] [(true, y)]
      (∃ a, s.rawRead true y = .ok a ∧ Completes (.tag sb x y t) s (s.wVO x s.exec (fun l => a[l]) (.fmt t)))))

/-- R110, R111, R114: VCMP gives 1 for a lane of the execute mask where the condition holds for every element, and 0
elsewhere; a condition with no meaning under the format traps INVOP; VSEL takes the lanes the predicate names; VBFX and
VBFI are the bit-field operations of R70 lane by lane, their control read raw.
R112, R113: the floating minors of VUN: the exact function of each element, rounded once; floor, ceil, trunc and rint
under RDN, RUP, RTZ and MODE.RM; neg and abs in every arithmetic format. What the exact functions and the conditions are is said by
`Obligations.ExactArithmetic`. That neg and abs never step the generator of a lane is the model's choice (notes/assumptions/12.md). -/
def Obligations.VectorSelectAndUnary : Prop :=
  (∀ (s : State) (sb : Bool) (x y z : Opnd),
    let f := modeFmt s.mode
    (∀ c pd, vectorForm (.vcmp sb c pd y z) s (fun f => fmtArith f && (laneCond f (modeR s.mode) c 0 0).isSome) f [y, z] []
      (∃ a b v, s.tagcheck f y = .ok a ∧ s.tagcheck f z = .ok b ∧
        Completes (.vcmp sb c pd y z) s ((s.setStatus (a.2 ||| b.2)).pwrite pd v) ∧
        ∀ l : Fin 16, v.getLsbD l = (s.exec.getLsbD l && laneCond f (modeR s.mode) c a.1[l] b.1[l] == some true))) ∧
    vectorForm (.vsel sb x y z) s (fun _ => true) f [x, y] []
      (∃ d a, s.tagcheck f x = .ok d ∧ s.tagcheck f y = .ok a ∧
        Completes (.vsel sb x y z) s ((s.setStatus (d.2 ||| a.2)).wVO x s.exec
          (fun l => if (s.pval z).getLsbD l then a.1[l] else d.1[l]) (.fmt f))) ∧
    vectorForm (.vbfx sb x y z) s Fmt.isInt f [y] [(true, z)]
      (∃ a ctl, s.tagcheck f y = .ok a ∧ s.rawRead true z = .ok ctl ∧
        Completes (.vbfx sb x y z) s ((s.setStatus a.2).wVO x s.exec (fun l => bfExtract a.1[l] ctl[l]) (.fmt f))) ∧
    vectorForm (.vbfi sb x y z) s Fmt.isInt f [x, y] [(true, z)]
      (∃ d a ctl, s.tagcheck f x = .ok d ∧ s.tagcheck f y = .ok a ∧ s.rawRead true z = .ok ctl ∧
        Completes (.vbfi sb x y z) s ((s.setStatus (d.2 ||| a.2)).wVO x s.exec (fun l => bfInsert d.1[l] a.1[l] ctl[l]) (.fmt f)))) ∧
  (∀ (s : State) (sb : Bool) (x y : Opnd),
    let f := modeFmt s.mode
    let n (w : Word) : Int := if f = .uint32 then w.toNat else w.toInt
    let unary (i : Instr) (ok : Fmt → Bool) (op : Word → Nat → Word → Rounded) : Prop := vectorForm i s ok f [y] []
      (∃ a, s.tagcheck f y = .ok a ∧ Completes i s (s.putLanes x 1 f a.2 (s.runLanes f.elems (fun l k t => op a.1[l] k t))))
    let rounded (g : FVal → FVal) (w : Word) (k : Nat) (t : Word) : Rounded := fround f (modeR s.mode) t (g (operandVal s w k))
    let integral (rm : Nat) (w : Word) (k : Nat) (t : Word) : Rounded := ⟨fintegral f rm (operandVal s w k), false, t⟩
    unary (.vunNeg sb x y) fmtArith (fun w k t =>
      if f.isFloat then ⟨signElem f (modeR s.mode) true (elem f w k), false, t⟩ else element s .nan (-(n w)) t) ∧
    unary (.vunAbs sb x y) fmtArith (fun w k t =>
      if f.isFloat then ⟨signElem f (modeR s.mode) false (elem f w k), false, t⟩ else element s .nan ((n w).natAbs : Int) t) ∧
    unary (.vunRcp sb x y) Fmt.isFloat (rounded frcp) ∧ unary (.vunRsqrt sb x y) Fmt.isFloat (rounded frsqrt) ∧
    unary (.vunSqrt sb x y) Fmt.isFloat (rounded fsqrt) ∧ unary (.vunExp2 sb x y) Fmt.isFloat (rounded fexp2) ∧
    unary (.vunLog2 sb x y) Fmt.isFloat (rounded flog2) ∧
    unary (.vunFloor sb x y) Fmt.isFloat (integral 2) ∧ unary (.vunCeil sb x y) Fmt.isFloat (integral 3) ∧
    unary (.vunTrunc sb x y) Fmt.isFloat (integral 1) ∧ unary (.vunRint sb x y) Fmt.isFloat (integral (modeR s.mode).rm))

/-- R108, R109, R116, R117, R118: VDOT2 on packed pairs and on register pairs, VSCL, CVT over register groups, QNT with the
write-back of its scalar entry, DQNT. Each element of CVT, each code of QNT and each value of DQNT is the exact number of R43, R56
and R116 rounded and clamped as these say (`roundsRight` and `nearestInt` above): a copy keeps its bits but for a NaN; a scale of
zero, infinity or NaN, and a NaN value, quantise to the zero point; stochastic rounding of a code takes a unit of 1; a value of
DQNT is exact. A group's entry goes back with its reserved bits clear, whatever the execute mask holds. -/
def Obligations.VectorConversions : Prop :=
  ∀ (s : State) (sb : Bool) (x y z : Opnd),
    let f := modeFmt s.mode
    let c := modeR s.mode
    let down := c.rm == 2
    let v := operandVal s
    let n (w : Word) : Int := if f = .uint32 then w.toNat else w.toInt
    (f.elems = 2 → vectorForm (.vdot2 sb x y z) s fmtDot f [y, z] []
      (∃ a b, s.tagcheck f y = .ok a ∧ s.tagcheck f z = .ok b ∧
        Completes (.vdot2 sb x y z) s (s.putLanes x 1 .fp32 (a.2 ||| b.2) (s.runLanes 1 (fun l _ t =>
          fround .fp32 c t (fadd down (fmul (v a.1[l] 0) (v b.1[l] 0)) (fmul (v a.1[l] 1) (v b.1[l] 1)))))))) ∧
    (f.elems ≠ 2 → vectorForm (.vdot2 sb x y z) s fmtDot f [y, nextOpnd y, z, nextOpnd z] []
      (∃ a a' b b', s.tagcheck f y = .ok a ∧ s.tagcheck f (nextOpnd y) = .ok a' ∧ s.tagcheck f z = .ok b ∧
        s.tagcheck f (nextOpnd z) = .ok b' ∧
        Completes (.vdot2 sb x y z) s (s.putLanes x 1 f (a.2 ||| a'.2 ||| b.2 ||| b'.2) (s.runLanes 1 (fun l _ t =>
          element s (fadd down (fmul (v a.1[l] 0) (v b.1[l] 0)) (fmul (v a'.1[l] 0) (v b'.1[l] 0)))
            (n a.1[l] * n b.1[l] + n a'.1[l] * n b'.1[l]) t))))) ∧
    vectorForm (.vscl sb x y z) s Fmt.isFloat f [y] [(false, z)]
      (∃ a k, s.tagcheck f y = .ok a ∧ s.rawRead false z = .ok k ∧
        Completes (.vscl sb x y z) s (s.putLanes x 1 f a.2 (s.runLanes f.elems (fun l i t =>
          fround f c t (scaleBy (v a.1[l] i) k[l].toInt))))) ∧
    (∀ t : Code4, vectorForm (.cvt sb x y t) s fmtArith f (groupOpnds y (srcRegs f (cvtFmt t))) []
      (∃ g, s.groupCheck f y (srcRegs f (cvtFmt t)) = .ok g ∧
        Completes (.cvt sb x y t) s (s.putLanes x (dstRegs f (cvtFmt t)) (cvtFmt t) g.2
          (s.runLanes (dstRegs f (cvtFmt t) * (cvtFmt t).elems) (fun l i w =>
            cvtElem f (cvtFmt t) c w (groupElem f g.1 l i)))))) ∧
    (s.ready (.qnt sb x y z) = true → s.exec = 0 → Completes (.qnt sb x y z) s (s.entryBack z)) ∧
    (s.ready (.qnt sb x y z) = true → s.exec ≠ 0 → f ≠ .int8q → f ≠ .int4q → Traps (.qnt sb x y z) s (trapCode .invop)) ∧
    (s.ready (.qnt sb x y z) = true → s.exec ≠ 0 → f = .int8q ∨ f = .int4q → (∀ o ∈ groupOpnds y f.elems, readsAs s .fp32 o) →
      readsRaw s true z → ∃ g en, s.groupCheck .fp32 y f.elems = .ok g ∧ s.rawRead true z = .ok en ∧
        Completes (.qnt sb x y z) s ((s.putLanes x 1 f g.2 (s.runLanes f.elems (fun l i t =>
          let r := quant f c t en[l] (flushIn .fp32 c.ftz (fdecode .fp32 (groupElem .fp32 g.1 l i)))
          ⟨r.1, r.2.1, r.2.2⟩))).entryBack z)) ∧
    vectorForm (.dqnt sb x y z) s (fun f => f == .int8q || f == .int4q) f [y] [(true, z)]
      (∃ a en, s.tagcheck f y = .ok a ∧ s.rawRead true z = .ok en ∧
        Completes (.dqnt sb x y z) s (s.putLanes x f.elems .fp32 a.2 (s.runLanes f.elems (fun l i t =>
          ⟨(fp32RNE (dequant f en[l] (elem f a.1[l] i))).toNat, false, t⟩)))) ∧
    -- the entry in canonical form (R117)
    (∀ k, s.entryBack (.s k) = s.wS (.s k) (s.sval (.s k) &&& if f = .int4q then 0x000FFFFF else 0x00FFFFFF)) ∧
    ((∀ k, z ≠ .s k) → s.entryBack z = s) ∧
    -- one element of CVT (R56, R116)
    (∀ (p q : Fmt) (w : Word) (b : Nat), let r := cvtElem p q c w b
      let v := flushIn p c.ftz (fdecode p b)
      let num : Int := if p = .uint32 then ((BitVec.ofNat 32 b).toNat : Int) else (BitVec.ofNat 32 b).toInt
      (p = q → r = ⟨if p.isFloat = true ∧ fdecode p b = .nan then canonNaN p else b, false, w⟩) ∧
      (p ≠ q → p.isFloat = true → q.isFloat = true →
        (v = .nan → r = ⟨canonNaN q, false, w⟩) ∧ (∀ neg, v = .inf neg → r = fround q c w (.inf neg)) ∧
        ∀ neg m e, v = .fin neg m e → roundsRight q c w neg ((m : ℚ) * (2 : ℚ) ^ e) r) ∧
      (p ≠ q → p.isFloat = true → q = .int32 ∨ q = .uint32 → r.lfsr = w ∧
        (v = .nan → r.bits = 0 ∧ r.sat = true) ∧
        (∀ neg, v = .inf neg → clampedTo q (if neg then -(2 ^ 40) else 2 ^ 40) (BitVec.ofNat 32 r.bits, r.sat)) ∧
        ∀ neg m e, v = .fin neg m e →
          ∃ k, nearestInt c.rm (valueQ v) k ∧ clampedTo q k (BitVec.ofNat 32 r.bits, r.sat)) ∧
      (p ≠ q → p.isFloat = false → q.isFloat = true → roundsRight q c w (decide (num < 0)) (num.natAbs : ℚ) r) ∧
      (p ≠ q → p.isFloat = false → q.isFloat = false → clampedTo q num (BitVec.ofNat 32 r.bits, r.sat) ∧ r.lfsr = w)) ∧
    -- one code of QNT (R44, R56, R117)
    (∀ (p : Fmt) (w entry : Word) (v : FVal), p = .int8q ∨ p = .int4q →
      let scale := fdecode .fp16 (entry.toNat % 2 ^ 16)
      let zp := entry.toNat / 2 ^ 16 % 2 ^ p.width
      let most : Int := 2 ^ p.width - 1
      let r := quant p c w entry v
      (valueQ scale = 0 ∨ v = .nan → r = (zp, false, w)) ∧
      (valueQ scale ≠ 0 → ∀ neg, v = .inf neg → r = (if neg = decide (valueQ scale < 0) then most.toNat else 0, true, w)) ∧
      (valueQ scale ≠ 0 → ∀ neg m e, v = .fin neg m e →
        let exact := valueQ v / valueQ scale + zp
        let w' := if c.sr then lfsrStep w else w
        let phi := |exact| - ⌊|exact|⌋
        ∃ k : Int, (c.sr = false → nearestInt c.rm exact k) ∧
          (c.sr = true → |k| = ⌊|exact|⌋ + (if ((w'.toNat % 2 ^ 24 : Nat) : ℚ) < phi * 2 ^ 24 then 1 else 0) ∧ 0 ≤ (k : ℚ) * exact) ∧
          r.1 = (max 0 (min most k)).toNat ∧ (r.2.1 = true ↔ k < 0 ∨ most < k) ∧ r.2.2 = w')) ∧
    -- one value of DQNT (R43, R118)
    (∀ (p : Fmt) (entry : Word) (b : Nat), (p = .int8q ∨ p = .int4q) → b < 2 ^ p.width →
      let scale := fdecode .fp16 (entry.toNat % 2 ^ 16)
      let zp := entry.toNat / 2 ^ 16 % 2 ^ p.width
      let r := fp32Val (fp32RNE (dequant p entry b))
      (scale = .nan → fp32RNE (dequant p entry b) = 0x7FC00000) ∧
      (∀ neg, scale = .inf neg → r = if b = zp then .nan else .inf (neg != decide (b < zp))) ∧
      (∀ neg m e, scale = .fin neg m e → ∃ n' m' e', r = .fin n' m' e' ∧ valueQ r = valueQ scale * ((b : ℚ) - zp)))

/-- R103, R122 to R124: BALLOT, XCHG, SHUF and BCAST: the lane each lane reads, whatever the execute mask of the lane read;
BALLOT collects the lanes that hold, and a scalar X receives 0 under a zero mask.
R59, R103, R125: VRED and SCAN. The tree joins neighbours in four levels, (0,1), (2,3), … first, lanes outside the mask
standing as the identity of the operation; every leaf, node and root of every operation and format is given, and so is each
identity. VRED gives every lane of the mask, or a scalar, the root over all lanes, rounding with the generator of the lowest lane of
the mask; SCAN gives lane l the root over the lanes up to l with its own generator; a scalar X receives the identity under a zero
mask. The word of a zero mask under a format that the instruction does not accept is the model's choice (notes/assumptions/14.md),
and so it is that the root of a minimum or maximum never steps the generator (notes/assumptions/12.md). -/
def Obligations.PermutesAndReductions : Prop :=
  (∀ (s : State) (sb : Bool) (x y z : Opnd),
    let moves (i : Instr) (from_ : Fin 16 → Nat) : Prop :=
      (s.ready i = true → s.exec = 0 → Completes i s s) ∧
      (∀ e, s.ready i = true → s.exec ≠ 0 → s.rawRead false y = .error (.trap e) → Traps i s e) ∧
      (s.ready i = true → s.exec ≠ 0 → readsRaw s false y → ∃ a, s.rawRead false y = .ok a ∧
        Completes i s (s.wVO x s.exec (fun l => vget a (from_ l % 16) 0) (.fmt .raw32)))
    moves (.xchg sb x y z) (fun l => l.val ^^^ ((s.sval z).toNat % 16)) ∧
    moves (.bcast sb x y z) (fun _ => (s.sval z).toNat) ∧
    (s.ready (.shuf sb x y z) = true → s.exec ≠ 0 → readsRaw s false y → readsRaw s false z →
      ∃ a w, s.rawRead false y = .ok a ∧ s.rawRead false z = .ok w ∧
        Completes (.shuf sb x y z) s (s.wVO x s.exec (fun l => vget a (w[l].toNat % 16) 0) (.fmt .raw32))) ∧
    (s.ready (.shuf sb x y z) = true → s.exec = 0 → Completes (.shuf sb x y z) s s) ∧
    (∀ k, s.ready (.ballot sb (.s k) y) = true → s.exec = 0 → Completes (.ballot sb (.s k) y) s (s.setS k 0)) ∧
    (∀ k, s.ready (.ballot sb (.v k) y) = true → s.exec = 0 → Completes (.ballot sb (.v k) y) s s) ∧
    (∀ k m, s.ready (.ballot sb (.s k) (.v m)) = true → s.exec ≠ 0 → readsRaw s false (.v m) →
      ∃ a, s.rawRead false (.v m) = .ok a ∧ ∃ v : Word, Completes (.ballot sb (.s k) (.v m)) s (s.setS k v) ∧ v.toNat < 2 ^ 16 ∧
        ∀ l : Fin 16, v.getLsbD l = (s.exec.getLsbD l && a[l] != 0)) ∧
    (∀ k m, s.ready (.ballot sb (.v k) (.v m)) = true → s.exec ≠ 0 → readsRaw s false (.v m) →
      ∃ a, s.rawRead false (.v m) = .ok a ∧ ∃ v : Word,
        Completes (.ballot sb (.v k) (.v m)) s (s.wV k s.exec (fun _ => v) (.fmt .raw32)) ∧ v.toNat < 2 ^ 16 ∧
        ∀ l : Fin 16, v.getLsbD l = (s.exec.getLsbD l && a[l] != 0)) ∧
    (∀ k p, s.ready (.ballot sb (.s k) (.p p)) = true → s.exec ≠ 0 →
      Completes (.ballot sb (.s k) (.p p)) s (s.setS k (BitVec.ofNat 32 (s.exec &&& s.getP p).toNat))) ∧
    (∀ k p, s.ready (.ballot sb (.v k) (.p p)) = true → s.exec ≠ 0 →
      Completes (.ballot sb (.v k) (.p p)) s
        (s.wV k s.exec (fun _ => BitVec.ofNat 32 (s.exec &&& s.getP p).toNat) (.fmt .raw32))) ∧
    (∀ p, s.ready (.ballot sb .zero (.p p)) = true → Completes (.ballot sb .zero (.p p)) s s) ∧
    (∀ m, s.ready (.ballot sb .zero (.v m)) = true → s.exec = 0 ∨ readsRaw s false (.v m) →
      Completes (.ballot sb .zero (.v m)) s s) ∧
    (∀ m e, s.ready (.ballot sb x (.v m)) = true → s.exec ≠ 0 → s.rawRead false (.v m) = .error (.trap e) →
      Traps (.ballot sb x (.v m)) s e)) ∧
  (∀ (s : State) (sb : Bool) (y : Opnd) (op : RedOp),
    let f := modeFmt s.mode
    (∀ k, s.ready (.vred sb (.s k) y op) = true → s.exec = 0 → Completes (.vred sb (.s k) y op) s (s.setS k (redZero f op))) ∧
    (∀ k, s.ready (.vred sb (.v k) y op) = true → s.exec = 0 → Completes (.vred sb (.v k) y op) s s) ∧
    (∀ x, s.ready (.vred sb x y op) = true → s.exec ≠ 0 → redOk op f = false → Traps (.vred sb x y op) s (trapCode .invop)) ∧
    (∀ x, s.ready (.vred sb x y op) = true → s.exec ≠ 0 → redOk op f = true → readsAs s f y →
      ∃ t, Completes (.vred sb x y op) s t ∧ t.mem = s.mem ∧ (∀ n, (∀ k, x ≠ .v k) → t.curV n = s.curV n) ∧
        ∀ k n, x = .v k → n ≠ k.val → t.curV n = s.curV n) ∧
    (∀ k, f = .int32 → (modeR s.mode).sat = false → s.ready (.vred sb (.s k) y .add) = true → s.exec ≠ 0 → readsAs s f y →
      ∃ a t, s.tagcheck f y = .ok a ∧ Completes (.vred sb (.s k) y .add) s t ∧
        (s.sp.unwritten (.s k) = true → t.curS k =
          (List.finRange 16).foldl (fun (acc : Word) (l : Fin 16) => if s.exec.getLsbD l then acc + a.1[l] else acc) 0)) ∧
    (∀ k, s.ready (.vred sb (.v k) y .xor) = true → s.exec ≠ 0 → readsAs s f y → ∃ a, s.tagcheck f y = .ok a ∧
      Completes (.vred sb (.v k) y .xor) s ((s.setStatus a.2).wV k s.exec
        (fun _ => (List.finRange 16).foldl (fun (acc : Word) (l : Fin 16) => if s.exec.getLsbD l then acc ^^^ a.1[l] else acc) 0) (.fmt .raw32))) ∧
    -- every operation, into a vector, a scalar or ZERO
    (∀ x l, s.ready (.vred sb x y op) = true → lowLane s.exec = some l → redOk op f = true → readsAs s f y →
      ∃ a, s.tagcheck f y = .ok a ∧
        let r := runElems (fun i t => redElem f (modeR s.mode) op s.exec a.1 15 i t) (s.lfsr l) (redFmt f op).elems
        let t := (s.setLfsr (s.g.lfsr.set l r.2.2)).setStatus (a.2 ||| if r.2.1 then 8 else 0)
        let w := packElems (redFmt f op) r.1
        (∀ k, x = .s k → Completes (.vred sb x y op) s (t.setS k w)) ∧
        (∀ k, x = .v k → Completes (.vred sb x y op) s (t.wV k s.exec (fun _ => w) (redTag f op))) ∧
        (x = .zero → Completes (.vred sb x y op) s t)) ∧
    (∀ x e, s.ready (.vred sb x y op) = true → s.exec ≠ 0 → redOk op f = true → s.tagcheck f y = .error (.trap e) →
      Traps (.vred sb x y op) s e) ∧
    (s.ready (.vred sb .zero y op) = true → s.exec = 0 → Completes (.vred sb .zero y op) s s) ∧
    (redOk op f = true ↔ op ∈ [RedOp.and, .or, .xor] ∨ f.isInt = true ∨ f.isFloat = true) ∧
    redTag f op = .fmt (if op ∈ [RedOp.and, .or, .xor] then .raw32 else f) ∧
    redFmt f op = (if op ∈ [RedOp.and, .or, .xor] then .raw32 else f) ∧
    (∀ l : Fin 16, lowLane s.exec = some l ↔ s.exec.getLsbD l = true ∧ ∀ m : Fin 16, m < l → s.exec.getLsbD m = false) ∧
    (∀ x, vectorForm (.scan sb x y op) s (redOk op) f [y] []
      (∃ a, s.tagcheck f y = .ok a ∧
        Completes (.scan sb x y op) s (s.putLanes x 1 (redFmt f op) a.2 (s.runLanes (redFmt f op).elems
          (fun l i t => redElem f (modeR s.mode) op s.exec a.1 l.val i t))))) ∧
    (∀ node : Word → Word → Word × Bool, ∀ l : Vector Word 16, (∀ p q, (node p q).2 = false) →
      let p (i j : Nat) : Word := (node (vget l i 0) (vget l j 0)).1
      let q (a b c d : Nat) : Word := (node (p a b) (p c d)).1
      redTree node l.toList =
        ((node (node (q 0 1 2 3) (q 4 5 6 7)).1 (node (q 8 9 10 11) (q 12 13 14 15)).1).1, false))) ∧
  -- the tree of one element: leaves, nodes, root
  (∀ (f : Fmt) (c : RCtx) (op : RedOp) (e : BitVec 16) (v : Vector Word 16) (hi i : Nat) (t : Word),
    let x (k : Nat) : Word :=
      if k ≤ hi ∧ e.getLsbD k = true then redLeaf f c op (elem (redFmt f op) (vget v k 0) i) else redIdent f op
    let two (p q : Word × Bool) : Word × Bool :=
      ((redNode f c op p.1 q.1).1, p.2 || q.2 || (redNode f c op p.1 q.1).2)
    let p (k : Nat) : Word × Bool := two (x (2 * k), false) (x (2 * k + 1), false)
    let w := two (two (two (p 0) (p 1)) (two (p 2) (p 3))) (two (two (p 4) (p 5)) (two (p 6) (p 7)))
    let r := redRoot f c op t w.1
    redElem f c op e v hi i t = ⟨r.bits, r.sat || w.2, r.lfsr⟩) ∧
  (∀ (f : Fmt) (c : RCtx) (op : RedOp) (p q t : Word) (b : Nat),
    let logic : Prop := op = .and ∨ op = .or ∨ op = .xor
    let n (w : Word) : Int := if f = .uint32 then w.toNat else w.toInt
    let number : Prop := f.isInt = true ∧ ¬ logic
    let float : Prop := f.isFloat = true ∧ ¬ logic
    -- leaves: the element, exactly
    (logic ∨ number → redLeaf f c op b = BitVec.ofNat 32 b) ∧
    (float → b < 2 ^ f.width → sameValue (fp32Val (redLeaf f c op b)) (flushIn f c.ftz (fdecode f b))) ∧
    -- nodes
    (op = .and → redNode f c op p q = (p &&& q, false)) ∧ (op = .or → redNode f c op p q = (p ||| q, false)) ∧
    (op = .xor → redNode f c op p q = (p ^^^ q, false)) ∧
    (number → op = .add → redNode f c op p q = intResult f c.sat (n p + n q)) ∧
    (number → op = .min → n (redNode f c op p q).1 = min (n p) (n q) ∧ (redNode f c op p q).2 = false) ∧
    (number → op = .max → n (redNode f c op p q).1 = max (n p) (n q) ∧ (redNode f c op p q).2 = false) ∧
    (f = .fp32 → op = .add → let r := fround .fp32 c 0 (fadd (c.rm == 2) (fp32Val p) (fp32Val q))
      redNode f c op p q = (BitVec.ofNat 32 r.bits, r.sat)) ∧
    (float → f ≠ .fp32 → op = .add → redNode f c op p q =
      (BitVec.ofNat 32 (fround .fp32 ⟨0, false, false, false⟩ 0 (fadd false (fp32Val p) (fp32Val q))).bits, false)) ∧
    (float → op = .min ∨ op = .max → (redNode f c op p q).2 = false ∧
      sameValue (fp32Val (redNode f c op p q).1) (fminmax (op == .max) (fp32Val p) (fp32Val q))) ∧
    -- the root
    (logic ∨ number ∨ (f = .fp32 ∧ op = .add) → redRoot f c op t p = ⟨p.toNat, false, t⟩) ∧
    (float → f ≠ .fp32 → op = .add → redRoot f c op t p = fround f c t (fp32Val p)) ∧
    (float → op = .min ∨ op = .max → (redRoot f c op t p).sat = false ∧ (redRoot f c op t p).lfsr = t ∧
      (b < 2 ^ f.width → sameValue (fp32Val p) (fdecode f b) → sameValue (fdecode f (redRoot f c op t p).bits) (fdecode f b))) ∧
    -- the identities (R59, R125)
    (op = .and → redIdent f op = 0xFFFFFFFF) ∧ (op = .or ∨ op = .xor → redIdent f op = 0) ∧
    (number → n (redIdent f op) = if op = .add then 0
      else if f = .uint32 then (if op = .min then 2 ^ 32 - 1 else 0) else if op = .min then 2 ^ 31 - 1 else -(2 ^ 31)) ∧
    (float → op = .add → sameValue (fp32Val (redIdent f op)) (.fin true 0 0)) ∧
    (float → f ≠ .e4m3 → op = .min ∨ op = .max → fp32Val (redIdent f op) = .inf (op == .max)) ∧
    (op = .min ∨ op = .max → sameValue (fp32Val (redIdent .e4m3 op)) (.fin (op == .max) 448 0)) ∧
    -- the word a scalar takes under a zero mask (R59, R103)
    (logic ∨ number → redZero f op = redIdent f op)) ∧
  [RedOp.add, .min, .max].map (fun op => [Fmt.fp32, .bf16, .fp16, .e4m3, .e5m2].map (fun f => redZero f op)) =
    [[0x80000000, 0x80008000, 0x80008000, 0x80808080, 0x80808080], [0x7F800000, 0x7F807F80, 0x7C007C00, 0x7E7E7E7E, 0x7C7C7C7C],
      [0xFF800000, 0xFF80FF80, 0xFC00FC00, 0xFEFEFEFE, 0xFCFCFCFC]]

/-! ## Issue (spec 01, 03) -/

/-- R30, R63: THE CHECKS OF AN ISSUE. An instruction of the map whose operand codes or fields the decode checks reject
traps INVOP; else one whose wide operand does not start at a multiple of its width traps REGALIGN; else one whose vector
group, or whose range of registers (LIVE), reaches the declared count traps REGRANGE; else, while the group is divided, one that writes a group-wide scalar or
affine register traps SPLITWRITE. Each answers a next state in which the instruction has had no effect. -/
def Obligations.IssueChecks : Prop :=
  ∀ (s : State) (i : Instr), i.head.isSome = true → s.running = true →
    let aligned := ∀ sl ∈ i.slots, ∀ n, regNo sl.o = some n → n % s.slotCount i sl = 0
    let inRange := (∀ sl ∈ i.slots, ∀ n, sl.o = .v n → n.val + s.slotCount i sl ≤ tVregs s.g.record) ∧
      liveRange i ≤ tVregs s.g.record
    let groupWide := ∃ sl ∈ i.slots, clsWrites sl.cls = true ∧
      ((∃ n, sl.o = .s n ∧ 16 ≤ n.val) ∨ ∃ n, sl.o = .a n ∧ 8 ≤ n.val)
    (i.accepted = false → TrapsAtDecode i s (trapCode .invop)) ∧
    (i.accepted = true → ¬ aligned → TrapsAtDecode i s (trapCode .regalign)) ∧
    (i.accepted = true → aligned → ¬ inRange → TrapsAtDecode i s (trapCode .regrange)) ∧
    (i.accepted = true → aligned → inRange → s.divided = true → groupWide → TrapsAtDecode i s (trapCode .splitwrite)) ∧
    (s.ready i = true ↔ i.accepted = true ∧ aligned ∧ inRange ∧ (s.divided = true → ¬ groupWide) ∧ s.missing i = none)

/-! ## Memory (spec 04, 05, 07) -/

/-- R129: the offset of a lane. A vector Z is read raw and sign-extended, an affine Z gives its lane value, any other Z is
sign-extended and STRIDE0 added for each lane below; the sums are 64-bit. R130: the bounds modes.
R379, R380, R383: a walk of a tenant's tree reads one entry a level; the first that is not valid, is malformed or is a leaf ends it.
R179, R380, R381, R383, R399: an access translates by such a result, as the tables now are or as a TLB holds it: a fault of the walk,
PERM where the whole page does not lie in windows that match its SPACE or does not allow the access, OFFLINE, or a location. -/
def Obligations.OffsetsAndBounds : Prop :=
  (∀ (s : State) (r : Rec) (z : Opnd) (l : Fin 16) (v : Vector Word 16),
    (∀ n, s.laneOff r (.v n) v l = v[l].toInt) ∧
    (∀ n, s.laneOff r (.a n) v l =
      (BitVec.ofInt 64 ((s.getA n).base.toInt + (l.val : Int) * (s.getA n).stride.toInt)).toInt) ∧
    ((∀ n, z ≠ .v n) → (∀ n, z ≠ .a n) →
      s.laneOff r z v l = (BitVec.ofInt 64 ((s.sval z).toInt + (l.val : Int) * r.stride0)).toInt)) ∧
  (∀ (r : Rec) (o : Int) (w : Nat),
    let inside := 0 ≤ o ∧ o + w ≤ r.extent
    (r.bounds = 0 → inside → resolveOff r o w = .ok (some o)) ∧
    (r.bounds = 0 → ¬ inside → resolveOff r o w = .error ()) ∧
    (r.bounds = 1 → inside → resolveOff r o w = .ok (some o)) ∧
    (r.bounds = 1 → ¬ inside → resolveOff r o w = .ok none) ∧
    (r.bounds = 2 → r.extent < w → resolveOff r o w = .ok none) ∧
    (r.bounds = 2 → w ≤ r.extent → ∃ p, resolveOff r o w = .ok (some p) ∧ 0 ≤ p ∧ p + w ≤ r.extent ∧
      (inside → p = o) ∧ (o < 0 → p = 0) ∧ ((r.extent : Int) < o + w → 0 ≤ o → p = r.extent - w)) ∧
    (r.bounds = 3 → resolveOff r o w = .ok (some o))) ∧
  -- the walk
  (∀ (s : State) (tenant page : Nat) (x : Tenant), s.tenant? tenant = some x → page < 2 ^ 32 →
    let va := page * 2 ^ 16
    let node (e : DWord) : Nat := field e 51 8 * 2 ^ 8
    let pte (at_ index : Nat) : DWord := BitVec.ofNat 64 (s.rdV (at_ + 8 * index) 8)
    let e0 := pte x.ptroot (va / 2 ^ 39 % 512)
    let e1 := pte (node e0) (va / 2 ^ 30 % 512)
    let e2 := pte (node e1) (va / 2 ^ 21 % 512)
    let e3 := pte (node e2) (va / 2 ^ 16 % 32)
    let e (k : Nat) : DWord := [e0, e1, e2, e3].getD k 0
    let size (k : Nat) : Nat := [0, 2 ^ 30, 2 ^ 21, 2 ^ 16].getD k 0
    let leaf (k : Nat) : Prop := (e k).getLsbD 1 = true
    let valid (k : Nat) : Prop := (e k).getLsbD 0 = true
    let malformed (k : Nat) : Prop := field (e k) 63 56 ≠ 0 ∨ field (e k) 54 52 ≠ 0 ∨ field (e k) 5 4 = 3 ∨ field (e k) 7 6 = 3 ∨
      (k = 0 ∧ leaf k) ∨ (k = 3 ∧ ¬ leaf k) ∨ (leaf k ∧ node (e k) % size k ≠ 0) ∨
      (¬ leaf k ∧ node (e k) % (if k = 2 then 256 else 4096) ≠ 0)
    ∀ k < 4, (∀ j < k, valid j ∧ ¬ malformed j ∧ ¬ leaf j) →
      let r := s.walkNow tenant page
      r.tenant = tenant ∧ r.page = page ∧ (¬ valid k → r.fault = 1) ∧ (valid k → malformed k → r.fault = 2) ∧
      (valid k → ¬ malformed k → leaf k → r.fault = 0 ∧ r.size = size k ∧ r.frame = node (e k) + va % size k ∧ r.flags = (e k).extractLsb' 0 8 ∧
        r.nx = (e k).getLsbD 55)) ∧
  -- the translation of an access
  (∀ (s : State) (a : Agent) (h : How) (bypass : Bool) (va : DWord) (x : Tenant), s.tenant? a.tenant = some x →
    let r := s.translate a h bypass va
    let page := va.toNat / 2 ^ 16
    let mine (e : TlbEntry) : Prop := e.tenant = a.tenant ∧ e.page = page
    let own : Prop := ∃ e ∈ (s.core? a.core).tlb, mine e
    let gives (e : TlbEntry) : Prop :=
      let sp := field e.flags 5 4
      let pa := e.frame + va.toNat % 2 ^ 16
      let fits (w : Window) (p : Nat) : Prop := w.base ≤ p ∧ p < w.base + w.size ∧
        (sp = 0 ∧ (w.kind = 2 ∨ (w.kind < 2 ∧ w.medium = 0)) ∨ sp = 1 ∧ w.kind < 2 ∧ w.medium ≠ 0 ∨ sp = 2 ∧ w.kind = 3)
      let lo := e.frame / e.size * e.size
      let inside : Prop := ∀ p, lo ≤ p → p < lo + e.size → ∃ w ∈ x.windows, fits w p
      let denied : Prop := (h.wr = true ∧ e.flags.getLsbD 2 = false) ∨ (h.fetch = true ∧ e.nx = true) ∨ (h.sync = true ∧ sp = 2)
      (e.fault ≠ 0 → r = .error (.xlate e.fault)) ∧
      (e.fault = 0 → sp ≠ 3 → 0 < e.size →
        (¬ inside ∨ denied → r = .error .perm) ∧
        (inside → ¬ denied → ∃ w ∈ x.windows, fits w e.frame ∧ (w.offline = true → r = .error (.xlate 3)) ∧
          (w.offline = false → ∃ l, r = .ok l ∧ l.va = va ∧
            l.key = (if sp = 2 then keyHost pa else if w.kind = 2 then keyRemote w.module pa else pa) ∧
            (l.path = .uncached ↔ field e.flags 7 6 = 2 ∨ sp = 2) ∧ (l.path = .l1 ↔ ¬ (field e.flags 7 6 = 2 ∨ sp = 2) ∧ bypass = false ∧ w.kind ≠ 2) ∧ l.path ≠ .near ∧
            (w.kind = 0 → l.home = some (Nat.xor (Nat.xor (pa / 2 ^ 8 % 2 ^ 16) (pa / 2 ^ 24 % 2 ^ 16)) (pa / 2 ^ 40 % 2 ^ 12) % 9)) ∧
            (w.kind = 1 → l.home = some w.die) ∧ (2 ≤ w.kind → l.home = none))))
    (2 ^ 48 ≤ va.toNat → r = .error (.xlate 4)) ∧
    (va.toNat < 2 ^ 48 → a.waits = true → ¬ own → r = .error (.walk page)) ∧
    (va.toNat < 2 ^ 48 → a.waits = false ∨ own → ∃ e, gives e ∧ (e = s.walkNow a.tenant page ∨
      (mine e ∧ (e ∈ (s.core? a.core).tlb ∨ (a.core / 128, e) ∈ s.dtlb)))))

/-- What a step leaves of the issuing split, its group and memory, apart from loads: nothing else has changed. -/
def noneTouched (s t : State) : Prop := t.g = s.g ∧ t.sp = s.sp ∧ t.mem = s.mem ∧ t.groups = s.groups

/-- An instruction of the issuing split is in flight as a load of a kind at some locations. -/
def inFlightAs (s t : State) (kind : LoadKind) (ls : List (Nat × Option Loc)) : Prop :=
  ∃ l, t.loads = s.loads ++ [l] ∧ l.id = s.nextId ∧ l.tid = s.g.tid ∧ l.sid = s.sp.sid ∧ l.core = s.g.core ∧ l.pos = s.sp.pos ∧
    l.exec = s.exec ∧ l.kind = kind ∧ l.accs.map (·.lane) = ls.map (·.1) ∧ l.accs.map (·.key) = ls.map (fun p => p.2.map (·.key))

/-- A byte of memory is as it was, or an L1 has written back what it held dirty of it (R176). -/
def keptOrBack (s t : State) (a : Nat) : Prop :=
  t.rd8 a = s.rd8 a ∨ ∃ c x, x ∈ (s.core? c).l1 ∧ x.key = a / 64 ∧ x.dirty.getLsbD (a % 64) = true ∧
    t.rd8 a = byteOf x.data (a % 64)

/-- What a store of `n` bytes to each of some locations leaves alone: every register, every byte outside the sectors it
touches but for what an L1 evicts to make room (R177), every byte outside the stored ones where no location is reached
through the caches, and all of memory where every location is held by an L1 that has room. -/
def storesOnly (s t : State) (locs : List Loc) (n : Nat) : Prop :=
  t.g = s.g ∧ t.groups = s.groups ∧ (∃ w b, t.sp = { s.sp with wstores := w, wbase := b }) ∧
    (∀ a, (∀ l ∈ locs, a / 64 ∉ sectorsAt l.key n) → keptOrBack s t a) ∧
    ((∀ l ∈ locs, l.path = .near) → ∀ a, (∀ l ∈ locs, a < l.key ∨ l.key + n ≤ a) → t.rd8 a = s.rd8 a) ∧
    ((∀ l ∈ locs, l.path = .l1) →
      (∀ c, ((s.core? c).l1.map (fun x => x.key / 4)).dedup.length + (locs.flatMap (fun l => sectorsAt l.key n)).length ≤ 2048) →
      ∀ a, t.rd8 a = s.rd8 a)

/-- R132, R133: LD and ST. Under a zero execute mask neither does anything; else LD goes into flight with the locations
its lanes resolve to, and ST stores the lanes of its registers there, all of them or, where a check fails, none (R131): every
lane that no higher lane overlaps has its bytes at its location, in near memory, in memory that no L1 holds, or in the L1 that
serves the core, where it has room for them. That ST checks its registers after the record and before the addresses is the model's
choice (notes/assumptions/43.md). -/
def Obligations.VectorAccess : Prop :=
  ∀ (s : State) (sb : Bool) (x y z : Opnd),
    let r := s.qval y
    let w := r.laneBytes
    (s.ready (.ld sb x y z) = true → s.exec = 0 → Completes (.ld sb x y z) s s) ∧
    (s.ready (.st sb x y z) = true → s.exec = 0 → Completes (.st sb x y z) s s) ∧
    (∀ i ∈ [Instr.ld sb x y z, .st sb x y z], s.ready i = true → s.exec ≠ 0 → r.ok = false → Traps i s (trapCode .invop)) ∧
    (∀ offs ls, s.ready (.ld sb x y z) = true → s.exec ≠ 0 → r.ok = true → s.laneOffs r z = .ok offs →
      s.resolve s.me r hRead w w offs = .ok ls →
      ∃ t, StaysOpen (.ld sb x y z) s t ∧ noneTouched s t ∧ inFlightAs s t (.vec (vecReg x) w r.fmt) ls) ∧
    (∀ offs e, s.ready (.ld sb x y z) = true → s.exec ≠ 0 → r.ok = true → s.laneOffs r z = .ok offs →
      s.resolve s.me r hRead w w offs = .error e →
      (∀ q, e = .trap q → Traps (.ld sb x y z) s q) ∧ ((∀ q, e ≠ .trap q) → exec (.ld sb x y z) s = .next (s.stop e))) ∧
    (∀ offs ls rows, s.ready (.st sb x y z) = true → s.exec ≠ 0 → r.ok = true → s.storeRows r.fmt x (w / 4) = .ok rows →
      s.laneOffs r z = .ok offs → s.resolve s.me r hWrite w w offs = .ok ls →
      ∃ t, Completes (.st sb x y z) s t ∧ storesOnly s t (ls.filterMap (·.2)) w ∧
        (s.sp.wstores = [] → MemoryKept s → ∀ pre k l post, ls = pre ++ (k, some l) :: post →
          (∀ p ∈ post, ∀ q, p.2 = some q → q.key + w ≤ l.key ∨ l.key + w ≤ q.key) →
          ((∀ p ∈ ls, ∀ q, p.2 = some q → q.path = .near ∨ q.path ≠ .l1 ∧ uncached s q.key w) →
            t.rdN l.key w = laneBytesOf rows k) ∧
          ((∀ p ∈ ls, ∀ q, p.2 = some q → q.path = .l1) →
            (∀ c, ((s.core? c).l1.map (fun x => x.key / 4)).dedup.length +
              ((ls.filterMap (·.2)).flatMap (fun q => sectorsAt q.key w)).length ≤ 2048) →
            ∀ i < w, t.peek8 s.here .l1 (l.key + i) = (laneBytesOf rows k).getD i 0))) ∧
    (∀ offs rows e, s.ready (.st sb x y z) = true → s.exec ≠ 0 → r.ok = true → s.storeRows r.fmt x (w / 4) = .ok rows →
      s.laneOffs r z = .ok offs → s.resolve s.me r hWrite w w offs = .error e →
      (∀ q, e = .trap q → Traps (.st sb x y z) s q) ∧ ((∀ q, e ≠ .trap q) → exec (.st sb x y z) s = .next (s.stop e))) ∧
    (∀ n : Fin 128, s.ready (.st sb (.v n) y z) = true → s.exec ≠ 0 → r.ok = true → (r.space = 2 → field r 63 37 = 0) →
      ((s.getV n).tag = .poison → Traps (.st sb (.v n) y z) s { code := .poison, addr := (s.getV n).paddr }) ∧
      ((s.getV n).tag = .invalid ∨ (∃ f, (s.getV n).tag = .fmt f ∧ f ≠ .raw32 ∧ f ≠ r.fmt) →
        Traps (.st sb (.v n) y z) s (trapCode .tagmismatch)))

/-- R128, R130, R131, R134: LDS and STS through a SCRATCH record, whatever the execute mask, under each bounds mode: TRAP traps
BOUNDS outside the extent, ZERO drops the access there, CLAMP drops it where the extent holds no access and moves the offset into
the extent otherwise, NONE takes the offset as it is. Where BASE and the offset then lie in the scratch, at a multiple of w, LDS
goes into flight there and STS writes the low w bytes of its source there and nothing else; outside the scratch every mode traps
BOUNDS; a location that is no multiple of w traps MISALIGN; LW 2 traps INVOP. That BASE and the offset are added without wrapping
in the near spaces is the model's choice (notes/assumptions/43.md). -/
def Obligations.ScalarAccess : Prop :=
  ∀ (s : State) (sb : Bool) (x y z : Opnd),
    let r := s.qval y
    let w := r.laneBytes
    let o := s.scalOff z
    let lim := nearSize - s.stageBytes s.g.tenant
    let inside := 0 ≤ o ∧ o + w ≤ r.extent
    let goes (o' : Int) : Prop := (r.bounds = 2 ∧ w ≤ r.extent ∧ o' = min (max o 0) ((r.extent : Int) - w)) ∨
      (o' = o ∧ (r.bounds = 3 ∨ r.bounds < 2 ∧ inside))
    let dropped : Prop := r.bounds = 1 ∧ ¬ inside ∨ r.bounds = 2 ∧ r.extent < w
    let ld : Instr := .lds sb x y z
    let st : Instr := .sts sb x y z
    (∀ i ∈ [ld, st], s.ready i = true → r.ok = false ∨ r.lw = 2 → Traps i s (trapCode .invop)) ∧
    (r.ok = true → r.lw < 2 → r.space = 1 →
      (∀ o' : Int, goes o' →
        let at_ : Int := (r.base : Int) + o'
        let k := keyNear s.g.core at_.toNat
        let fits := 0 ≤ at_ ∧ at_ + w ≤ lim
        (s.ready ld = true → fits → at_ % w = 0 →
          ∃ t, StaysOpen ld s t ∧ noneTouched s t ∧ inFlightAs s t (.scal x w) [(0, some ⟨k, recAddr r o', .near, none⟩)]) ∧
        (s.ready st = true → fits → at_ % w = 0 → s.sp.wstores = [] →
          ∃ t, Completes st s t ∧ storesOnly s t [⟨k, recAddr r o', .near, none⟩] w ∧
            (w = 4 → MemoryKept s → t.rdN k 4 = toBytes 4 (s.sval x)) ∧ (w = 8 → MemoryKept s → t.rdN k 8 = toBytes 8 (s.dval x))) ∧
        (s.ready ld = true → ¬ fits → Traps ld s { code := .bounds, addr := recAddr r o', access := .read }) ∧
        (s.ready st = true → ¬ fits → Traps st s { code := .bounds, addr := recAddr r o', access := .write }) ∧
        (s.ready ld = true → fits → at_ % w ≠ 0 → Traps ld s { code := .misalign, addr := recAddr r o', access := .read }) ∧
        (s.ready st = true → fits → at_ % w ≠ 0 → Traps st s { code := .misalign, addr := recAddr r o', access := .write })) ∧
      (s.ready ld = true → ¬ inside → r.bounds = 0 →
        Traps ld s { code := .bounds, addr := recAddr r o, access := .read }) ∧
      (s.ready st = true → ¬ inside → r.bounds = 0 →
        Traps st s { code := .bounds, addr := recAddr r o, access := .write }) ∧
      (s.ready ld = true → dropped → ∃ t, StaysOpen ld s t ∧ noneTouched s t ∧ inFlightAs s t (.scal x w) [(0, none)]) ∧
      (s.ready st = true → dropped → ∃ t, Completes st s t ∧ storesOnly s t [] w)) ∧
    (∀ ls, s.ready st = true → r.ok = true → r.lw < 2 → s.resolve s.me r hWrite w w [(0, o)] = .ok ls →
      ∃ t, Completes st s t ∧ storesOnly s t (ls.filterMap (·.2)) w) ∧
    (∀ ls, s.ready ld = true → r.ok = true → r.lw < 2 → s.resolve s.me r hRead w w [(0, o)] = .ok ls →
      ∃ t, StaysOpen ld s t ∧ noneTouched s t ∧ inFlightAs s t (.scal x w) ls)

/-- R135, R136: RLD, RST and RSET. RSET leaves a record whose check byte is right and whose other fields are the old ones
but for the field it writes; CLEAR leaves the zero record; a value out of a field's range traps INVOP. -/
def Obligations.RecordAccess : Prop :=
  ∀ (s : State) (sb : Bool) (n : Fin 16) (y z : Opnd),
    let r := s.qval y
    let o := s.scalOff z
    (∀ ls, s.ready (.rld sb (.q n) y z) = true → r.ok = true → s.resolve s.me r hRead 32 32 [(0, o)] = .ok ls →
      ∃ t, StaysOpen (.rld sb (.q n) y z) s t ∧ noneTouched s t ∧ inFlightAs s t (.recd n) ls) ∧
    (∀ ls, s.ready (.rst sb (.q n) y z) = true → r.ok = true → s.resolve s.me r hWrite 32 32 [(0, o)] = .ok ls →
      ∃ t, Completes (.rst sb (.q n) y z) s t ∧ storesOnly s t (ls.filterMap (·.2)) 32 ∧
        (∀ l, ls = [(0, some l)] → l.path = .near → s.sp.wstores = [] → MemoryKept s → t.rdN l.key 32 = toBytes 32 (s.getQ n))) ∧
    (∀ i ∈ [Instr.rld sb (.q n) y z, .rst sb (.q n) y z], s.ready i = true → r.ok = false → Traps i s (trapCode .invop)) ∧
    (∀ sel, s.ready (.rset sb (.q n) y sel) = true →
      let v := s.dval y
      let u := s.sval y
      let puts (hi lo : Nat) (val : Nat) : Prop := ∃ q : Rec, Completes (.rset sb (.q n) y sel) s (s.setQ n q) ∧
        field q hi lo = val % 2 ^ (hi - lo + 1) ∧ field q 255 248 = (Rec.checkOf q).toNat ∧
        ∀ i < 248, (i < lo ∨ hi < i) → q.getLsbD i = (s.getQ n).getLsbD i
      (sel = .base → puts 63 0 v.toNat) ∧
      (sel = .extent → v.toNat < 2 ^ 40 → puts 103 64 v.toNat) ∧
      (sel = .extent → 2 ^ 40 ≤ v.toNat → Traps (.rset sb (.q n) y sel) s (trapCode .invop)) ∧
      (sel = .stride0 → puts 135 104 u.toNat) ∧
      (sel = .stride1 → puts 167 136 u.toNat) ∧
      (sel = .attr → u.toNat < 2 ^ 16 → puts 183 168 u.toNat) ∧
      (sel = .attr → 2 ^ 16 ≤ u.toNat → Traps (.rset sb (.q n) y sel) s (trapCode .invop)) ∧
      (sel = .sboff → -(2 ^ 39) ≤ v.toInt → v.toInt < 2 ^ 39 → puts 223 184 v.toNat) ∧
      (sel = .sboff → v.toInt < -(2 ^ 39) ∨ 2 ^ 39 ≤ v.toInt → Traps (.rset sb (.q n) y sel) s (trapCode .invop)) ∧
      (sel = .clear → Completes (.rset sb (.q n) y sel) s (s.setQ n 0)) ∧
      (sel = .advance → puts 63 0 ((s.getQ n).base + v.toNat)))

/-- The loads of which the statement below gives every byte: those of near memory alone, and those of memory that no L1 holds,
while no other request waits at a slice and no L1 holds dirty bytes. -/
def loadPlain (s : State) (l : Load) (w : Nat) : Prop :=
  l.allNear = true ∨ (allClean s ∧ (∀ r ∈ s.sreqs, r.load = l.id) ∧
    ∀ a ∈ l.accs, ∀ k, a.key = some k → a.path ≠ .near → uncached s k w)

/-- R132, R134, R135, R140, R159: LOAD_DATA_RETURN. A load of one near access whose requests have been served writes its
destination from memory and sets its position's completion bit; where a sector it touched is poisoned LDS and RLD leave
the destination and the bit alone and the split will trap POISON at its first poisoned address.
R50, R130, R143, R180: LD of several lanes and widths, of near memory and of GLOBAL memory past its home slices: every lane of the
mask has its bytes, a dropped lane zeros, a lane that touched poison zeros under the register's poison mask, whose address is the
lowest of these lanes' (the model's choice, notes/assumptions/50.md); the other lanes and registers stay. So for LDS to every scalar
register and RLD. That a load which may not return yet is left alone is the model's reading of an event that does not apply
(notes/assumptions/7.md), and so is what a load waits for (notes/assumptions/17.md). -/
def Obligations.LoadReturns : Prop :=
  ∀ (s : State) (l : Load) (a : LoadAcc) (k : Nat) (g : Group) (p : Split), s.running = false → s.loads.find? (fun q => q.id == l.id) = some l →
    let i : Instr := .loadDataReturn l.id
    ((∀ q ∈ s.loads, q.id = l.id → s.loadReady q = false ∧ ∀ f, q.kind ≠ .atom f) → Steps i s s) ∧
    (s.loadReady l = true → l.accs = [a] → a.lane = 0 → a.key = some k → a.path = .near → s.group? l.tid = some g → quiet g →
      g.split? l.sid = some p → p.wstores = [] → (∀ q ∈ g.splits, q.wlog = []) → p.wdone = [] →
      p.wtrap = none → l.poisoned = [] → l.held = [] →
      (∀ n w, l.kind = .scal (.s n) w → n.val < 15 → w = 4 ∨ w = 8 → (∀ q ∈ sectorsAt k w, q ∉ s.poison) →
        ∃ t q, exec i s = .next t ∧ t.splitSeen l.tid l.sid = some q ∧ vget q.slo n 0 = ofBytes 32 (s.rdN k 4) ∧
          (w = 8 → vget q.slo (n + 1) 0 = ofBytes 32 (s.rdN (k + 4) 4)) ∧
          (∀ m < 16, m ≠ n.val → (w = 8 → m ≠ n.val + 1) → vget q.slo m 0 = vget p.slo m 0) ∧
          q.wcm = setWcm p.wcm l.pos ∧ q.wtrap = none ∧ t.mem = s.mem ∧ (∀ x ∈ t.loads, x.id ≠ l.id)) ∧
      (∀ n, l.kind = .recd n → (∀ q ∈ sectorsAt k 32, q ∉ s.poison) →
        ∃ t q h, exec i s = .next t ∧ t.splitSeen l.tid l.sid = some q ∧ t.groupSeen l.tid = some h ∧
          h.qregs[n] = ofBytes 256 (s.rdN k 32) ∧ (∀ m, m ≠ n → h.qregs[m] = g.qregs[m]) ∧
          q.wcm = setWcm p.wcm l.pos ∧ q.wtrap = none ∧ t.mem = s.mem) ∧
      (∀ n f, l.kind = .vec (some n) 4 f → l.exec = 1 → (g.vregs[n]).tag ≠ .poison → (∀ q ∈ sectorsAt k 4, q ∉ s.poison) →
        ∃ t q h, exec i s = .next t ∧ t.splitSeen l.tid l.sid = some q ∧ t.groupSeen l.tid = some h ∧
          (h.vregs[n]).tag = .fmt f ∧ (h.vregs[n]).lanes[(0 : Fin 16)] = ofBytes 32 (s.rdN k 4) ∧
          (∀ ln : Fin 16, ln ≠ 0 → (h.vregs[n]).lanes[ln] = (g.vregs[n]).lanes[ln]) ∧
          (∀ m, m ≠ n → h.vregs[m] = g.vregs[m]) ∧ q.wcm = setWcm p.wcm l.pos ∧ t.mem = s.mem) ∧
      (∀ x w sec, (l.kind = .scal x w ∧ (w = 4 ∨ w = 8) ∨ (∃ n, l.kind = .recd n) ∧ w = 32) → sectorsAt k w = [sec] → sec ∈ s.poison →
        ∃ t q j, exec i s = .next t ∧ t.splitSeen l.tid l.sid = some q ∧ q.slo = p.slo ∧ q.alo = p.alo ∧ q.wcm = p.wcm ∧
          q.wtrap = some j ∧ j.code = .poison ∧ j.pos = l.pos ∧ j.pc = l.pc ∧
          j.addr = a.va + BitVec.ofNat 64 (64 * sec - k))) ∧
    (∀ (w : Nat), let got (b : LoadAcc) (j : Nat) : Byte := match b.key with
        | some q => s.rd8 (q + j)
        | none => 0
      let bad (b : LoadAcc) : Prop := ∃ q, b.key = some q ∧ q / 64 ∈ s.poison
      let word (b : LoadAcc) (j : Nat) : Word := ofBytes 32 ((List.range 4).map (fun x => got b (4 * j + x)))
      s.loadReady l = true → loadPlain s l w → s.group? l.tid = some g → quiet g → g.split? l.sid = some p → p.wstores = [] →
      (∀ q ∈ g.splits, q.wlog = []) → p.wdone = [] → p.wtrap = none → l.poisoned = [] → l.held = [] →
      (∀ b ∈ l.accs, ∀ q, b.key = some q → q % 64 + w ≤ 64) →
      (∀ n f, l.kind = .vec (some n) w f → w = 4 ∨ w = 8 ∨ w = 16 → n.val + w / 4 ≤ 128 →
        l.accs.map (·.lane) = (lanesOf l.exec).map (·.val) →
        (∀ m, n.val ≤ m → m < n.val + w / 4 → (vget g.vregs m VRow.init).tag ≠ .poison) →
        ∃ t q h, exec i s = .next t ∧ t.splitSeen l.tid l.sid = some q ∧ t.groupSeen l.tid = some h ∧
          (∀ j < w / 4, let row := vget h.vregs (n.val + j) VRow.init
            (∀ ln : Fin 16, l.exec.getLsbD ln = false → row.lanes[ln] = (vget g.vregs (n.val + j) VRow.init).lanes[ln]) ∧
            (∀ ln : Fin 16, ∀ b ∈ l.accs, b.lane = ln.val → (¬ bad b → row.lanes[ln] = word b j) ∧ (bad b → row.lanes[ln] = 0)) ∧
            ((∀ b ∈ l.accs, ¬ bad b) → l.exec ≠ 0 → row.tag = .fmt f) ∧
            ((∃ b ∈ l.accs, bad b) → row.tag = .poison ∧
              (∀ ln : Fin 16, row.pmask.getLsbD ln = true ↔ ∃ b ∈ l.accs, b.lane = ln.val ∧ bad b) ∧
              (∃ b ∈ l.accs, bad b ∧ row.paddr = b.va) ∧ ∀ b ∈ l.accs, bad b → row.paddr.toNat ≤ b.va.toNat)) ∧
          (∀ r, (∀ j < w / 4, r ≠ .v (n.val + j)) → regOf h q r = regOf g p r) ∧ q.wcm = setWcm p.wcm l.pos ∧
          ((∀ b ∈ l.accs, ¬ bad b) → t.mem = s.mem) ∧ ∀ x ∈ t.loads, x.id ≠ l.id) ∧
      (∀ f, l.kind = .vec none w f → w = 4 ∨ w = 8 ∨ w = 16 →
        ∃ t q h, exec i s = .next t ∧ t.splitSeen l.tid l.sid = some q ∧ t.groupSeen l.tid = some h ∧
          (∀ r, regOf h q r = regOf g p r) ∧ q.wcm = setWcm p.wcm l.pos) ∧
      (∀ x, l.kind = .scal x w → w = 4 ∨ w = 8 → l.accs = [a] → a.lane = 0 → ¬ bad a →
        ∃ t q h, exec i s = .next t ∧ t.splitSeen l.tid l.sid = some q ∧ t.groupSeen l.tid = some h ∧
          (x = .zero → ∀ r, regOf h q r = regOf g p r) ∧
          (∀ n, x = .s n → n.val + w / 4 ≤ 64 → regOf h q (.s n.val) = .w (word a 0) ∧
            (w = 8 → regOf h q (.s (n.val + 1)) = .w (word a 1)) ∧
            ∀ r, r ≠ .s n.val → (w = 8 → r ≠ .s (n.val + 1)) → regOf h q r = regOf g p r) ∧
          q.wcm = setWcm p.wcm l.pos ∧ q.wtrap = none ∧ t.mem = s.mem) ∧
      (∀ n, l.kind = .recd n → w = 32 → l.accs = [a] → a.lane = 0 → ¬ bad a →
        ∃ t q h, exec i s = .next t ∧ t.splitSeen l.tid l.sid = some q ∧ t.groupSeen l.tid = some h ∧
          regOf h q (.q n.val) = .q (ofBytes 256 ((List.range 32).map (got a))) ∧
          (∀ r, r ≠ .q n.val → regOf h q r = regOf g p r) ∧ q.wcm = setWcm p.wcm l.pos ∧ q.wtrap = none ∧ t.mem = s.mem))

/-- R138, R139: PREF changes nothing that a program sees; CACHE acts on the lines of GLOBAL that it names: icinv removes
them from every core's fetch copies, inv from the issuing core's L1, wb writes its dirty bytes of them to memory, wbinv does
both, zero writes zeros to those that R130 lets through. With no lane, or in a space other than GLOBAL, they do nothing,
zero apart. -/
def Obligations.PrefetchAndCache : Prop :=
  ∀ (s : State) (sb : Bool) (lv : PLevel) (x y z : Opnd),
    let r := s.qval y
    let dirtyAt (sec i : Nat) : Option Byte := (s.l1Find (s.l1Core s.here (64 * sec)) sec).bind
      (fun q => if q.dirty.getLsbD i then some (byteOf q.data i) else none)
    let ops := [Instr.cacheIcinv sb x y, .cacheWb sb x y, .cacheInv sb x y, .cacheWbinv sb x y]
    (s.ready (.pref sb lv y z) = true → s.noLine z = false → r.ok = true → (r.space = 2 → field r 63 37 = 0) →
      ∃ t, Completes (.pref sb lv y z) s t ∧ noneTouched s t ∧ t.cores = s.cores) ∧
    (s.ready (.pref sb lv y z) = true → s.noLine z = true → Completes (.pref sb lv y z) s s) ∧
    (s.ready (.pref sb lv y z) = true → s.noLine z = false → r.ok = false → Traps (.pref sb lv y z) s (trapCode .invop)) ∧
    (∀ i ∈ ops, s.ready i = true → s.noLine x = true ∨ (r.ok = true ∧ r.space ≠ 0 ∧ r.space ≠ 2) → Completes i s s) ∧
    (∀ i ∈ .cacheZero sb x y :: ops, s.ready i = true → s.noLine x = false → r.ok = false → Traps i s (trapCode .invop)) ∧
    (∀ vas ls, s.noLine x = false → r.ok = true → r.space = 0 → s.cacheLines r x = .ok vas →
      s.translateAll s.me hRead true vas = .ok ls →
      (s.ready (.cacheIcinv sb x y) = true → ∃ t, Completes (.cacheIcinv sb x y) s t ∧ noneTouched s t ∧
        ∀ l ∈ ls, ∀ c ∈ t.cores, ∀ q ∈ c.icopy, q.1 / 4 ≠ l.key / 256) ∧
      (s.ready (.cacheWb sb x y) = true → ∃ t, Completes (.cacheWb sb x y) s t ∧ t.g = s.g ∧ t.sp = s.sp ∧
        (MemoryKept s → ∀ l ∈ ls, ∀ sec i b, sec / 4 = l.key / 256 → i < 64 → dirtyAt sec i = some b → t.rd8 (64 * sec + i) = b) ∧
        (∀ a, (∀ l ∈ ls, a / 256 ≠ l.key / 256) → t.rd8 a = s.rd8 a)) ∧
      (s.ready (.cacheInv sb x y) = true → ∃ t, Completes (.cacheInv sb x y) s t ∧ noneTouched s t ∧
        ∀ l ∈ ls, ∀ sec, sec / 4 = l.key / 256 → t.l1Find (t.l1Core t.here (64 * sec)) sec = none) ∧
      (s.ready (.cacheWbinv sb x y) = true → ∃ t, Completes (.cacheWbinv sb x y) s t ∧ t.g = s.g ∧ t.sp = s.sp ∧
        (MemoryKept s → ∀ l ∈ ls, ∀ sec i b, sec / 4 = l.key / 256 → i < 64 → dirtyAt sec i = some b → t.rd8 (64 * sec + i) = b) ∧
        (∀ l ∈ ls, ∀ sec, sec / 4 = l.key / 256 → t.l1Find (t.l1Core t.here (64 * sec)) sec = none) ∧
        (∀ a, (∀ l ∈ ls, a / 256 ≠ l.key / 256) → t.rd8 a = s.rd8 a))) ∧
    (∀ vas ls, s.ready (.cacheZero sb x y) = true → s.noLine x = false → r.ok = true → s.cacheLines r x = .ok vas →
      s.resolve s.me r hWrite 256 256 (zeroOffs r vas) = .ok ls →
      ∃ t, Completes (.cacheZero sb x y) s t ∧ storesOnly s t (ls.filterMap (·.2)) 256 ∧
        (∀ k l, (k, some l) ∈ ls → l.path = .near → s.sp.wstores = [] → MemoryKept s → t.rdN l.key 256 = List.replicate 256 0)) ∧
    (s.ready (.cacheZero sb x y) = true → s.noLine x = true → Completes (.cacheZero sb x y) s s)

/-! ## Atomics, ordering, tasks, futures, teams, crews (spec 12, 17, 18) -/

/-- Every register of the issuing split and its group is as it was; STATUS may have gained SCOPEMISS. -/
def registersKept (s t : State) : Prop :=
  ({ t.g with status := s.g.status } : Group) = s.g ∧ s.g.status &&& ~~~t.g.status = 0 ∧ t.g.status &&& ~~~s.g.status &&& 0xE = 0 ∧
    ({ t.sp with wstatus := s.sp.wstatus, wfresh := s.sp.wfresh, relaxedNow := s.sp.relaxedNow } : Split) = s.sp

/-- R225: an atomic: how it is written, the formats it accepts, the tag of the old value, how many registers its data takes
at 32 bits, whether it clears bits of p7 where it does not write, and what it writes given MODE.FMT, the width in bits, the
old value, the data and (ATCAS) the second data value; none where it writes nothing. -/
structure AtomRow where
  instr : Bool → Opnd → Opnd → Opnd → Instr
  ok : Fmt → Bool
  tag : Fmt → Tag
  regs : Nat
  binc : Bool
  new : Fmt → Nat → Nat → Nat → Nat → Option Nat

/-- R225: the signed value of `bits` bits. -/
def asSigned (bits x : Nat) : Int := if x < 2 ^ (bits - 1) then x else (x : Int) - 2 ^ bits

/-- R225: the table of the atomics. -/
def atomRows : List AtomRow :=
  let f3 (f : Fmt) : Bool := f == .int32 || f == .uint32 || f == .raw32 || f == .fp32
  let less (f : Fmt) (bits a b : Nat) : Bool := if f = .uint32 then decide (a < b) else decide (asSigned bits a < asSigned bits b)
  let raw : Fmt → Tag := fun _ => .fmt .raw32
  [⟨.atadd, f3, Tag.fmt, 1, false, fun f bits old d _ => some (if f = .fp32
      then (fp32RNE (fadd false (fdecode .fp32 old) (fdecode .fp32 d))).toNat else (old + d) % 2 ^ bits)⟩,
   ⟨.atmin, f3, Tag.fmt, 1, false, fun f bits old d _ => some (if f = .fp32
      then (fp32RNE (fminmax false (fdecode .fp32 old) (fdecode .fp32 d))).toNat else if less f bits d old then d else old)⟩,
   ⟨.atmax, f3, Tag.fmt, 1, false, fun f bits old d _ => some (if f = .fp32
      then (fp32RNE (fminmax true (fdecode .fp32 old) (fdecode .fp32 d))).toNat else if less f bits old d then d else old)⟩,
   ⟨.atand, fun _ => true, raw, 1, false, fun _ _ old d _ => some (old &&& d)⟩,
   ⟨.ator, fun _ => true, raw, 1, false, fun _ _ old d _ => some (old ||| d)⟩,
   ⟨.atxor, fun _ => true, raw, 1, false, fun _ _ old d _ => some (old ^^^ d)⟩,
   ⟨.atxch, fun _ => true, raw, 1, false, fun _ _ _ d _ => some d⟩,
   ⟨.atcas, fun _ => true, raw, 2, false, fun _ _ old d d2 => if old = d then some d2 else none⟩,
   ⟨.atbinc, fun _ => true, raw, 1, true, fun _ _ old d _ => if old < d then some (old + 1) else none⟩]

/-- R215, R225 to R228: ATADD, ATMIN, ATMAX, ATAND, ATOR, ATXOR, ATXCH, ATCAS and ATBINC. The scalar form, for a location that
is not poisoned and that no L1 holds: the old value goes to X and the new one to the location, nothing else of memory or
the registers changes; a dropped access gives 0; ATBINC clears the bits of p7 where it does not add. The vector form of a
near access with 32-bit lanes: each lane of a location of its own gets the old value there and leaves the new one; two
lanes of one location act one after another, the lower first; a ZERO X with a vector Z is the vector form with data 0. A
zero execute mask does nothing; ATTIC, LW 2 and a format outside the table trap INVOP. -/
def Obligations.AtomicResults : Prop :=
  ∀ (e : AtomRow), e ∈ atomRows → ∀ (s : State) (sb : Bool) (x y z : Opnd),
    let i := e.instr sb x y z
    let r := s.qval y
    let w := r.laneBytes
    let f := modeFmt s.mode
    let put (u : State) (old : Nat) : State := if w = 8 then u.wD x (BitVec.ofNat 64 old) else u.wS x (BitVec.ofNat 32 old)
    let clear (u : State) (m : BitVec 16) : State := u.pwrite 7 (u.getP 7 &&& ~~~m)
    let scalarX := (∃ n, x = .s n) ∨ x = .zero ∧ ∀ n, z ≠ .v n
    let data (j : Nat) : Nat := match x with
      | .s n => if w = 8 then (s.getD (n.val + 2 * j)).toNat else (s.getS (n.val + j)).toNat
      | _ => 0
    let lanesV (j : Nat) (l : Fin 16) : Nat := match x with
      | .v n => ((s.getV (n.val + j)).lanes[l]).toNat
      | _ => 0
    let step (l : Fin 16) (old : Nat) : Option Nat := e.new f 32 old (lanesV 0 l) (lanesV 1 l)
    let runs := s.poison = [] ∧ MemoryKept s ∧ r.ok = true ∧ r.lw < 2 ∧ r.space ≠ 4 ∧ e.ok f = true
    let clean := (∀ j < e.regs, ∀ n, x = .v n → (s.getV (n.val + j)).tag = .fmt .raw32 ∨ (s.getV (n.val + j)).tag = .fmt f) ∧
      ∀ n, x = .v n → s.unwritten (.v n.val) = true ∧ (s.curV n.val).tag ≠ .poison
    let vecX := (∃ n, x = .v n) ∨ x = .zero ∧ ∃ n, z = .v n
    (s.ready i = true → s.exec = 0 → Completes i s s) ∧
    (s.ready i = true → s.exec ≠ 0 → r.ok = false ∨ r.lw = 2 ∨ e.ok f = false ∨ r.space = 4 ∨ (w = 8 ∧ f.isInt = false) →
      Traps i s (trapCode .invop)) ∧
    (∀ low l, s.ready i = true → scalarX → runs → (w = 4 ∨ f.isInt = true) → lowLane s.exec = some low →
      s.resolve s.me r hAtomic w w [(low.val, s.scalOff z)] = .ok [(low.val, some l)] → uncached s l.key w → s.portOf l.key = none →
      let old := s.rdV l.key w
      let new := e.new f (8 * w) old (data 0) (data 1)
      ∃ u, Completes i s (if e.binc = true ∧ new = none then clear (put u old) s.exec else put u old) ∧ registersKept s u ∧
        onlyAt s u l.key w ∧ u.rdV l.key w = new.getD old) ∧
    (∀ low, s.ready i = true → scalarX → runs → (w = 4 ∨ f.isInt = true) → lowLane s.exec = some low →
      s.resolve s.me r hAtomic w w [(low.val, s.scalOff z)] = .ok [(low.val, none)] →
      ∃ u, Completes i s (if e.binc then clear (put u 0) s.exec else put u 0) ∧ registersKept s u ∧ (allClean s → u.mem = s.mem)) ∧
    (∀ offs ls, s.ready i = true → vecX → s.exec ≠ 0 → runs → w = 4 → clean → s.laneOffs r z = .ok offs →
      s.resolve s.me r hAtomic 4 4 offs = .ok ls → (∀ p ∈ ls, ∀ l, p.2 = some l → l.path = .near ∧ l.key % 4 = 0 ∧ uncached s l.key 4) →
      (ls.Pairwise (fun a b => ∀ l m, a.2 = some l → b.2 = some m → l.key ≠ m.key)) →
      ∃ u m, Completes i s (if e.binc then clear u m else u) ∧
        (∀ l : Fin 16, m.getLsbD l.val = true ↔ s.exec.getLsbD l.val = true ∧
          ∀ k, (l.val, some k) ∈ ls → step l (s.rdV k.key 4) = none) ∧
        (∀ n, x = .v n → (u.curV n.val).tag = e.tag f ∧
          (∀ l : Fin 16, s.exec.getLsbD l.val = false → (u.curV n.val).lanes[l] = (s.curV n.val).lanes[l]) ∧
          (∀ l : Fin 16, (l.val, none) ∈ ls → (u.curV n.val).lanes[l] = 0) ∧
          ∀ (l : Fin 16) (k : Loc), (l.val, some k) ∈ ls → (u.curV n.val).lanes[l] = BitVec.ofNat 32 (s.rdV k.key 4)) ∧
        (x = .zero → registersKept s u) ∧
        (∀ (l : Fin 16) (k : Loc), (l.val, some k) ∈ ls → u.rdV k.key 4 = (step l (s.rdV k.key 4)).getD (s.rdV k.key 4)) ∧
        (allClean s → ∀ a, (∀ p ∈ ls, ∀ l, p.2 = some l → a < l.key ∨ l.key + 4 ≤ a) → u.rd8 a = s.rd8 a)) ∧
    (∀ (n : Fin 128) (j k : Fin 16) offs m m', x = .v n → s.ready i = true → j < k → s.exec = laneBit j ||| laneBit k → runs →
      w = 4 → clean → s.laneOffs r z = .ok offs →
      s.resolve s.me r hAtomic 4 4 offs = .ok [(j.val, some m), (k.val, some m')] → m.path = .near → m'.key = m.key → m'.path = .near →
      uncached s m.key 4 →
      let old := s.rdV m.key 4
      let first := (step j old).getD old
      ∃ u p, Completes i s (if e.binc then clear u p else u) ∧ (u.curV n.val).lanes[j] = BitVec.ofNat 32 old ∧
        (u.curV n.val).lanes[k] = BitVec.ofNat 32 first ∧ u.rdV m.key 4 = (step k first).getD first)

/-- R207, R216, R231, R232, R238, R266: FENCE, WAITC and BAR. A release writes every dirty byte of the L1s that act for
the scope to its place; an acquire discards what they hold clean; the registers stay. WAITC goes on where the counter, read
at its place, has reached its target, and parks where it has not. BAR parks at the membership slot's team; in an undivided
group whose team has no other member it completes in the same step; a slot that holds no team traps INVOP. -/
def Obligations.OrderingResults : Prop :=
  ∀ (s : State) (sb : Bool) (sc : Scope),
    let acting := s.actors s.g.core sc
    let released (t : State) : Prop := (∀ c ∈ acting, ∀ sec q, t.l1Find c sec = some q → q.dirty = 0) ∧
      (s.isFused s.g.core = false → acting = [s.g.core] → MemoryKept s → ∀ sec i q, s.l1Find s.g.core sec = some q → i < 64 →
        q.dirty.getLsbD i = true → t.rd8 (64 * sec + i) = byteOf q.data i) ∧
      (∀ a, (∀ c ∈ acting, ∀ q ∈ (s.core? c).l1, q.key = a / 64 → q.dirty.getLsbD (a % 64) = false) → t.rd8 a = s.rd8 a)
    let acquired (t : State) : Prop := ∀ c ∈ acting, ∀ sec q, t.l1Find c sec = some q → q.valid = q.dirty ∧ q.dirty ≠ 0
    (s.ready (.fenceRel sb sc) = true → ∃ t, Completes (.fenceRel sb sc) s t ∧ t.g = s.g ∧ released t ∧
      t.sp = { s.sp with fenceRel := none, fenceNow := some (some sc) }) ∧
    (s.ready (.fenceAcq sb sc) = true → s.sp.relaxed.all (fun q => q.meets sc s.me.party) = true →
      ∃ t, Completes (.fenceAcq sb sc) s t ∧ t.g = s.g ∧ t.mem = s.mem ∧ acquired t ∧
        t.sp = { s.sp with fenceRel := none, fenceNow := some none }) ∧
    (s.ready (.fenceAcq sb sc) = true → s.sp.relaxed.all (fun q => q.meets sc s.me.party) = false →
      ∃ t, Completes (.fenceAcq sb sc) s t ∧ t.g.status = s.g.status ||| stMiss ∧ t.mem = s.mem ∧ acquired t ∧
        t.sp.relaxed = s.sp.relaxed) ∧
    (s.ready (.fenceAr sb sc) = true → ∃ t, Completes (.fenceAr sb sc) s t ∧ registersKept s { t with sp := { t.sp with
        fenceRel := s.sp.fenceRel, fenceNow := s.sp.fenceNow } } ∧ t.sp.fenceNow = some (some sc) ∧ acquired t ∧
      (s.isFused s.g.core = false → acting = [s.g.core] → MemoryKept s → ∀ sec i q, s.l1Find s.g.core sec = some q → i < 64 → q.dirty.getLsbD i = true →
        t.rd8 (64 * sec + i) = byteOf q.data i)) ∧
    (∀ (x y z : Opnd),
      let r := s.qval y
      let i : Instr := .waitc x y z
      (∀ l, s.ready i = true → r.ok = true → s.resolve s.me r hWait 8 8 [(0, s.scalOff z)] = .ok [(0, some l)] → r.space < 4 →
        s.poison = [] → uncached s l.key 8 →
        ((s.dval x).toNat ≤ s.rdV l.key 8 → ∃ t, Completes i s t ∧ registersKept s t ∧ (allClean s → t.mem = s.mem)) ∧
        (s.rdV l.key 8 < (s.dval x).toNat → ∃ t, Parks i s t (.waitc (some l.key) l.va (s.dval x) none) ∧ t.g = s.g ∧ t.sp = s.sp)) ∧
      (s.ready i = true → r.ok = true → s.resolve s.me r hWait 8 8 [(0, s.scalOff z)] = .ok [(0, none)] → r.space < 4 →
        (s.dval x = 0 → ∃ t, Completes i s t ∧ registersKept s t ∧ t.mem = s.mem) ∧ (s.dval x ≠ 0 → Parks i s s (.waitc none 0 (s.dval x) none))) ∧
      (s.ready i = true → r.ok = false ∨ 4 ≤ r.space → Traps i s (trapCode .invop))) ∧
    (∀ slot : Slot, s.ready (.bar slot) = true →
      (s.g.teams[slot] = none → Traps (.bar slot) s (trapCode .invop)) ∧
      (∀ m, s.g.teams[slot] = some m →
        Parks (.bar slot) s s (.bar slot m.team (((s.team? s.g.core m.team).map (·.phase)).getD 0))) ∧
      (∀ m t, s.g.teams[slot] = some m → m.rank = 0 → s.team? s.g.core m.team = some t → t.n = 1 → s.g.splits = [] → s.todo = [] →
        s.sp.handler = false → s.sp.stopped = false → s.sp.lanes ≠ 0 → s.g.slot.isSome = true → s.g.ovf = [] →
        ∃ u q, exec (.bar slot) s = .next u ∧ u.splitSeen s.g.tid s.sp.sid = some q ∧ q.st = .win ∧ q.entry = some 0 ∧
          (s.sp.wcm ||| BitVec.ofNat 64 (2 ^ s.sp.pos)) &&& ~~~q.wcm = 0))

/-- R239, R131: the records at some offsets are read, in a state, and an instruction goes on with them whatever it does then. -/
def recsRead (s : State) (r : Rec) (offs : List (Nat × Int)) (u : State) (recs : List (Nat × BitVec 2048)) : Prop :=
  ∀ go, s.takeRecs r offs go = go u recs

/-- R148, R149, R172, R234, R239, R240: SPAWN, SPAWNL and TEAM.fork. With the records read, a release at MODULE is made; then
SPAWN places its task at the hot end of the core's rack and sets its predicate, or clears it where the rack is full;
SPAWNL takes as many of the lowest lanes of the mask as the rack has free slots, places those of them that are not dropped,
the lane's number in word 31 of ARGS, and sets their bits; TEAM.fork
places all its members as one unit and writes n, or 0. Each task has a fresh id, and inherits TVEC and FUSE. -/
def Obligations.TaskCreation : Prop :=
  ∀ (s : State) (sb : Bool) (x y z : Opnd),
    let r := s.qval y
    let announced (u : State) : State := u.release u.here .module
    let use := r.ok = true ∧ (r.space = 2 → field r 63 37 = 0)
    (∀ u k rec, s.ready (.spawn sb x y z) = true → use → recsRead s r (s.oneOff z) u [(k, rec)] →
      1 ≤ ((announced u).core? u.here).rackFree →
      Completes (.spawn sb x y z) s (((announced u).placeSingles [rec] .single).wP x 0xFFFF)) ∧
    (∀ u k rec, s.ready (.spawn sb x y z) = true → use → recsRead s r (s.oneOff z) u [(k, rec)] →
      ((announced u).core? u.here).rackFree = 0 → Completes (.spawn sb x y z) s ((announced u).wP x 0)) ∧
    (∀ u, s.ready (.spawn sb x y z) = true → use → recsRead s r (s.oneOff z) u [] →
      Completes (.spawn sb x y z) s ((announced u).wP x 0)) ∧
    (∀ l, r.ok = true → r.space ≠ 4 → s.resolve s.me r hRead 256 256 (s.oneOff z) = .ok [(0, some l)] → l.path = .near →
      s.poison = [] → s.sp.wstores = [] →
      recsRead s r (s.oneOff z) s [(0, ofBytes 2048 (s.rdN l.key 256))]) ∧
    (s.ready (.spawnl sb x y z) = true → s.exec = 0 → Completes (.spawnl sb x y z) s s) ∧
    (∀ offs u recs, s.ready (.spawnl sb x y z) = true → s.exec ≠ 0 → use → s.laneOffs r z = .ok offs →
      recsRead s r offs u recs →
      let low := (lanesOf s.exec).take ((announced u).core? u.here).rackFree
      let win := recs.filter (fun p => low.any (fun l => l.val == p.1))
      ∃ m : BitVec 16, Completes (.spawnl sb x y z) s (((announced u).placeSingles (win.map laneRecord) .single).wP x m) ∧
        ∀ l : Fin 16, m.getLsbD l.val = true ↔ ∃ rec, (l.val, rec) ∈ win) ∧
    (∀ l (rec : BitVec 2048), l < 16 → tArg (laneRecord (l, rec)) 31 = BitVec.ofNat 32 l ∧
      ∀ j < 2016, (laneRecord (l, rec)).getLsbD j = rec.getLsbD j) ∧
    (∀ (rec : BitVec 2048) (o : Origin), ∃ t : TaskRec, t.record = rec ∧ t.origin = o ∧ t.tid = s.nextTid ∧
      t.launch = { s.g.launch with root := none } ∧ s.nextTid < (s.placeSingles [rec] o).nextTid ∧
      ((s.placeSingles [rec] o).core? s.here).rack =
        (s.core? s.here).rack ++ [⟨s.nextId, [t], .waitStage, [], 0, false, none⟩]) ∧
    (let n := (s.sval x).toNat
      let i : Instr := .teamFork sb x y
      let offs : List (Nat × Int) := (List.range n).map (fun k => (k, ((256 * k : Nat) : Int)))
      (s.ready i = true → use → n = 0 ∨ 16 < n ∨ r.space = 4 → Traps i s (trapCode .invop)) ∧
      (s.ready i = true → use → 1 ≤ n → n ≤ 16 → r.space ≠ 4 → 256 * n ≤ r.extent → r.base % 256 ≠ 0 →
        Traps i s { code := .misalign, addr := recAddr r 0, access := .read }) ∧
      (s.ready i = true → use → 1 ≤ n → n ≤ 16 → r.space ≠ 4 → r.extent < 256 * n →
        ∃ a, Traps i s { code := .bounds, addr := a, access := .read }) ∧
      (∀ u recs, s.ready i = true → use → 1 ≤ n → n ≤ 16 → r.space ≠ 4 → 256 * n ≤ r.extent → r.base % 256 = 0 →
        recsRead s r offs u recs → ((announced u).core? u.here).rackFree < n → Completes i s ((announced u).wS x 0)) ∧
      (∀ u recs, s.ready i = true → use → 1 ≤ n → n ≤ 16 → r.space ≠ 4 → 256 * n ≤ r.extent → r.base % 256 = 0 →
        recsRead s r offs u recs → n ≤ ((announced u).core? u.here).rackFree →
        ∃ (t : State) (e : Entry), Completes i s (t.wS x (BitVec.ofNat 32 n)) ∧ t.g = u.g ∧
          (t.core? u.here).rack = ((announced u).core? u.here).rack ++ [e] ∧ e.members.map (·.record) = recs.map (·.2) ∧
          (∀ m ∈ e.members, m.origin = .team n) ∧ e.st = .waitStage))

/-- R242, R243, R244: the state table of a future cell, entry by entry. A malformed cell stays as it is.
R246, R247: FUT and JOIN on a cell that translates, is not poisoned and no L1 holds: the operation of R243 is made
on the cell at its place, and no register changes; FUT.peek writes the cell's image; JOIN on a final cell writes the image
and its predicate, JOIN.t on a FAULT cell will trap with the cell's code, and on a cell that is not final either parks. A
cell that is not 16-byte aligned traps MISALIGN, a fail with a code of 0 or above 255 INVOP. -/
def Obligations.FutureResults : Prop :=
  ((∀ c op, 6 ≤ field c 127 124 ∨ field c 123 104 ≠ 0 → cellStep c op = c) ∧
  (∀ (c : BitVec 128), field c 123 104 = 0 →
    let st := field c 127 124
    let n := field c 95 64
    let is (x : BitVec 128) (st code count : Nat) (v : DWord) : Prop := field x 127 124 = st ∧ field x 123 104 = 0 ∧
      field x 103 96 = code ∧ field x 95 64 = count ∧ x.extractLsb' 0 64 = v
    (st < 6 → cellStep c .init = 0) ∧
    (∀ op, op ≠ .init → st = 3 ∨ st = 4 ∨ st = 5 → cellStep c op = c) ∧
    (st < 3 → (∀ v, is (cellStep c (.set v)) 3 0 0 v) ∧ (∀ k a, is (cellStep c (.fail k a)) 4 k.toNat 0 a) ∧
      is (cellStep c .cancel) 5 0 0 0) ∧
    (st = 0 → (∀ v, is (cellStep c (.sig v)) 2 0 1 v) ∧ is (cellStep c (.pub 0)) 3 0 0 0 ∧
      ∀ k : Word, k ≠ 0 → is (cellStep c (.pub k)) 1 0 k.toNat 0) ∧
    (st = 1 → (∀ k, cellStep c (.pub k) = c) ∧ (∀ v, n = 1 → is (cellStep c (.sig v)) 3 0 0 v) ∧
      ∀ v, 1 < n → is (cellStep c (.sig v)) 1 0 (n - 1) 0) ∧
    (st = 2 → (∀ v, is (cellStep c (.sig v)) 2 0 (min (n + 1) (2 ^ 32 - 1)) v) ∧
      (∀ k : Word, k.toNat ≤ n → is (cellStep c (.pub k)) 3 0 0 (c.extractLsb' 0 64)) ∧
      ∀ k : Word, n < k.toNat → is (cellStep c (.pub k)) 1 0 (k.toNat - n) 0))) ∧
  (∀ (s : State) (sb : Bool) (x y z : Opnd) (pd : PReg),
    let acts (i : Instr) (op : CellOp) : Prop :=
      (∀ l, s.ready i = true → (s.dval y).toNat % 16 = 0 → s.translateAll s.me hAtomic true [s.dval y] = .ok [l] → s.poison = [] →
        MemoryKept s → uncached s l.key 16 → ∃ t, Completes i s t ∧ t.g = s.g ∧ t.sp = s.sp ∧ onlyAt s t l.key 16 ∧
          BitVec.ofNat 128 (t.rdV l.key 16) = cellStep (BitVec.ofNat 128 (s.rdV l.key 16)) op) ∧
      (s.ready i = true → (s.dval y).toNat % 16 ≠ 0 → Traps i s { code := .misalign, addr := s.dval y, access := .atomic })
    let code := s.quad x 2
    acts (.futInit sb y) .init ∧ acts (.futPub sb x y) (.pub (s.sval x)) ∧ acts (.futSig sb x y) (.sig (s.dval x)) ∧
    acts (.futSet sb x y) (.set (s.dval x)) ∧ acts (.futCancel sb y) .cancel ∧
    (code ≠ 0 → code.toNat < 256 → acts (.futFail sb x y) (.fail (code.setWidth 8) (s.quad x 1 ++ s.quad x 0))) ∧
    (s.ready (.futFail sb x y) = true → code = 0 ∨ 256 ≤ code.toNat → Traps (.futFail sb x y) s (trapCode .invop)) ∧
    (∀ l, s.ready (.futPeek sb x y) = true → (s.dval y).toNat % 16 = 0 → s.translateAll s.me hWait true [s.dval y] = .ok [l] →
      s.poison = [] → uncached s l.key 16 →
      ∃ u : State, Completes (.futPeek sb x y) s (u.wQuad x (cellImage (BitVec.ofNat 128 (s.rdV l.key 16)) (s.dval y))) ∧
        registersKept s u ∧ (allClean s → u.mem = s.mem)) ∧
    (∀ l, (s.dval z).toNat % 16 = 0 → s.translateAll s.me hWait true [s.dval z] = .ok [l] → s.poison = [] → uncached s l.key 16 →
      let img := cellImage (BitVec.ofNat 128 (s.rdV l.key 16)) (s.dval z)
      let st := field img 127 124
      let ends (i : Instr) : Prop := ∃ u : State, Completes i s ((u.wQuad y img).pwrite pd (if st = 3 then 0xFFFF else 0)) ∧
        registersKept s u ∧ (allClean s → u.mem = s.mem)
      (s.ready (.join pd y z) = true → 3 ≤ st → ends (.join pd y z)) ∧
      (s.ready (.joinT pd y z) = true → st = 3 ∨ st = 5 → ends (.joinT pd y z)) ∧
      (s.ready (.joinT pd y z) = true → st = 4 → s.sp.wtrap = none → ∃ u t, StaysOpen (.joinT pd y z) s u ∧ u.sp.wtrap = some t ∧
        t.code = .code (BitVec.ofNat 8 (field img 103 96)) ∧ t.addr = img.extractLsb' 0 64 ∧ t.fatal = true ∧ u.g.preds = s.g.preds) ∧
      (s.ready (.join pd y z) = true → st < 3 → ∃ u, Parks (.join pd y z) s u (.join l.key (s.dval z) y pd false none) ∧ u.g = s.g ∧
        u.sp = s.sp) ∧
      (s.ready (.joinT pd y z) = true → st < 3 → ∃ u, Parks (.joinT pd y z) s u (.join l.key (s.dval z) y pd true none) ∧ u.g = s.g ∧
        u.sp = s.sp)) ∧
    (∀ i ∈ [Instr.join pd y z, .joinT pd y z], s.ready i = true → (s.dval z).toNat % 16 ≠ 0 →
      Traps i s { code := .misalign, addr := s.dval z, access := .read }) ∧
    (∀ (c : BitVec 128) (va : DWord), (6 ≤ field c 127 124 ∨ field c 123 104 ≠ 0 → field (cellImage c va) 127 124 = 4 ∧
      field (cellImage c va) 103 96 = 1 ∧ (cellImage c va).extractLsb' 0 64 = va) ∧
      (field c 127 124 < 6 → field c 123 104 = 0 → cellImage c va = c)))

/-- R235 to R237, R248, R391: TEAM.enter makes or joins the derived team of its mask and key and takes the slot; leave empties
the slot and the rank is gone; rank and size read the membership; RSV.take reserves the next ticket of a shared queue, and
commit moves PROD past the tickets committed in order; what they do not accept traps INVOP or PERM. That an absent queue traps INVOP and
that PERM comes before the check of SHARED are the model's readings (notes/assumptions/41.md). -/
def Obligations.TeamAndTicketResults : Prop :=
  ∀ (s : State) (sb : Bool) (x y : Opnd),
    let v := s.sval y
    let n := v.toNat
    let here := s.g.core
    (∀ h : n ≤ 3,
      let m := s.g.teams[(⟨n, by omega⟩ : Fin 4)]
      (s.ready (.teamRank sb x y) = true → m = none → Completes (.teamRank sb x y) s (s.wS x 0xFFFFFFFF)) ∧
      (∀ k, s.ready (.teamRank sb x y) = true → m = some k → Completes (.teamRank sb x y) s (s.wS x (BitVec.ofNat 32 k.rank))) ∧
      (s.ready (.teamSize sb x y) = true → m = none → Completes (.teamSize sb x y) s (s.wS x 0)) ∧
      (∀ k t, s.ready (.teamSize sb x y) = true → m = some k → s.team? here k.team = some t →
        Completes (.teamSize sb x y) s (s.wS x (BitVec.ofNat 32 t.n))) ∧
      (s.ready (.teamLeave sb y) = true → n = 0 ∨ m = none → Traps (.teamLeave sb y) s (trapCode .invop)) ∧
      (∀ k, s.ready (.teamLeave sb y) = true → 1 ≤ n → m = some k → ∃ t, Completes (.teamLeave sb y) s t ∧
        t.g.teams = s.g.teams.set n none (by omega) ∧ (∀ e ∈ (t.core? here).teams, e.id = k.team → k.rank ∈ e.gone) ∧ t.mem = s.mem)) ∧
    (3 < n → ∀ i ∈ [Instr.teamRank sb x y, .teamSize sb x y, .teamLeave sb y], s.ready i = true → Traps i s (trapCode .invop)) ∧
    (let mask : BitVec 16 := v.extractLsb' 0 16
      let key : Byte := v.extractLsb' 24 8
      let i : Instr := .teamEnter sb x y
      (s.ready i = true → field v 23 18 ≠ 0 ∨ field v 17 16 = 0 ∨ s.g.teams[(0 : Fin 4)] = none → Traps i s (trapCode .invop)) ∧
      (∀ slot m0 t0, s.ready i = true → field v 23 18 = 0 → slot = Fin.ofNat 4 (field v 17 16) → slot ≠ 0 →
        s.g.teams[(0 : Fin 4)] = some m0 → s.team? here m0.team = some t0 → t0.id = m0.team →
        (mask.getLsbD m0.rank = false ∨ 2 ^ t0.n ≤ mask.toNat → Traps i s (trapCode .invop)) ∧
        (mask.getLsbD m0.rank = true → mask.toNat < 2 ^ t0.n →
          let rank := ((List.range m0.rank).filter (fun b => mask.getLsbD b)).length
          let same (e : TeamEntry) : Prop := e.parent = some (m0.team, mask, key)
          ((∀ e ∈ (s.core? here).teams, ¬ same e) → s.g.teams[slot] = none → (s.core? here).teams.length < 256 →
            ∃ (t : State) (e : TeamEntry), Completes i s (t.wS x 1) ∧ t.g.teams = s.g.teams.set slot (some ⟨s.nextId, rank⟩) ∧ e ∈ (t.core? here).teams ∧
              e.id = s.nextId ∧ same e ∧ e.n = ((List.range 16).filter (fun b => mask.getLsbD b)).length ∧ t.mem = s.mem) ∧
          ((∀ e ∈ (s.core? here).teams, ¬ same e) → s.g.teams[slot] = none → 256 ≤ (s.core? here).teams.length →
            Completes i s (s.wS x 0)) ∧
          (∀ e, (s.core? here).teams.find? (fun e => e.parent == some (m0.team, mask, key)) = some e → s.g.teams[slot] = none →
            ∃ t : State, Completes i s (t.wS x 1) ∧ t.g.teams = s.g.teams.set slot (some ⟨e.id, rank⟩) ∧ t.mem = s.mem) ∧
          (∀ e m, (s.core? here).teams.find? (fun e => e.parent == some (m0.team, mask, key)) = some e → s.g.teams[slot] = some m →
            (m.team = e.id → Completes i s (s.wS x 1)) ∧ (m.team ≠ e.id → Traps i s (trapCode .invop))) ∧
          (∀ m, (∀ e ∈ (s.core? here).teams, ¬ same e) → s.g.teams[slot] = some m → Traps i s (trapCode .invop))))) ∧
    (∀ i ∈ [Instr.rsvTake sb x y, .rsvCommit sb x y], s.ready i = true →
      (2 ^ 20 ≤ n ∨ s.queue? n = none → Traps i s (trapCode .invop)) ∧
      (∀ q, n < 2 ^ 20 → s.queue? n = some q → q.tenant ≠ s.g.tenant → Traps i s (trapCode .perm)) ∧
      (∀ q, n < 2 ^ 20 → s.queue? n = some q → q.tenant = s.g.tenant → q.shared = false → Traps i s (trapCode .invop))) ∧
    (∀ q, n < 2 ^ 20 → s.queue? n = some q → q.tenant = s.g.tenant → q.enabled = true → q.shared = true →
      (s.ready (.rsvTake sb x y) = true → 2 ^ q.k ≤ (q.resv - q.cons).toNat ∨ 1024 ≤ (q.resv - q.prod).toNat →
        Completes (.rsvTake sb x y) s (s.wS x 0xFFFFFFFF)) ∧
      (s.ready (.rsvTake sb x y) = true → (q.resv - q.cons).toNat < 2 ^ q.k → (q.resv - q.prod).toNat < 1024 →
        Completes (.rsvTake sb x y) s ((s.updQueue n (fun q => { q with resv := q.resv + 1 })).wS x q.resv)) ∧
      (s.ready (.rsvCommit sb x y) = true →
        let t := s.sval x
        let outstanding := (t - q.prod).toNat < (q.resv - q.prod).toNat ∧ t.toNat % 1024 ∉ q.bits
        (outstanding → ∃ u q', Completes (.rsvCommit sb x y) s u ∧ u.g = s.g ∧ u.sp = s.sp ∧ u.queue? n = some q' ∧ q'.resv = q.resv ∧
          (t ≠ q.prod → q.prod.toNat % 1024 ∉ q.bits → t.toNat % 1024 ≠ q.prod.toNat % 1024 → q'.prod = q.prod ∧ q'.bits = t.toNat % 1024 :: q.bits) ∧
          (t = q.prod → (q.prod + 1).toNat % 1024 ∉ q.bits → q'.prod = q.prod + 1)) ∧
        (¬ outstanding → ∃ u, Completes (.rsvCommit sb x y) s u ∧ u.g = s.g ∧ u.sp = s.sp ∧
          ((∀ e, s.tenant? s.g.tenant = some e → e.errq ≠ n) → u.queue? n = some q))))

/-! ## Crews (spec 12, 18) -/

/-- The three lines of a crew record translate, none is poisoned or held by an L1, they lie apart, and memory has its form. -/
def crewHere (s : State) (h : How) (c : CrewRef) : Prop :=
  c.va.toNat % 256 = 0 ∧ s.poison = [] ∧ MemoryKept s ∧
    (∃ a b d, s.translateAll s.me h true [c.va, c.va + 256, c.va + 512] = .ok [a, b, d] ∧ c.k0 = a.key ∧ c.k1 = b.key ∧ c.k2 = d.key) ∧
    (∀ k ∈ [c.k0, c.k1, c.k2], uncached s k 256) ∧
    ([c.k0, c.k1, c.k2].Pairwise (fun a b => a + 256 ≤ b ∨ b + 256 ≤ a))

/-- Memory outside a crew record is as it was, where no L1 holds a dirty byte. -/
def onlyCrew (s t : State) (c : CrewRef) : Prop :=
  allClean s → ∀ a, (∀ k ∈ [c.k0, c.k1, c.k2], a < k ∨ k + 256 ≤ a) → t.rd8 a = s.rd8 a

/-- R347: a record as an operation performed at a time finds it: an expired crew has been normalised first. -/
def crewFound (r : CrewRec) (time : Nat) : CrewRec :=
  if crewState r ≠ 3 ∧ ¬ (crewState r = 2 ∧ crewPause r = true) ∧ cget r 0 8 ≠ 0 ∧ cget r 0 8 ≤ time then normalize r else r

/-- R350, R351: NORMALIZE. STATE is DONE, HELDAT 0, and what seats reported stands. A cancelled seat's word is 7FC0DEAD, that
of a seat that neither reported nor was cancelled 7FC0CAFE; words of seats from N on stand. With no report FAILED is set and
MEAN and VARIANCE stand; with one report, or a variance of zero, ZVAR is set and each reporting seat has +0; otherwise MEAN,
VARIANCE and the words are as R350 computes them, each operation rounded once. FAILED and ZVAR stand in the other cases, and so do
the other bits of CTRL. The worked example of R360. -/
def Obligations.CrewNormalize : Prop :=
  (∀ r : CrewRec,
    let t := normalize r
    let n := crewN r
    let rep := (List.range n).filter (fun s => (cget r 32 8).testBit s)
    let round (x : FVal) : Word := fp32RNE x
    let reward (s : Nat) : FVal := fdecode .fp32 (cget r (256 + 4 * s) 4)
    let m : FVal := FVal.ofInt rep.length
    let sum := rep.foldl (fun a s => round (fadd false (fp32Val a) (reward s))) 0
    let mean := round (fdiv (fp32Val sum) m)
    let dev (s : Nat) : Word := round (fadd false (reward s) (fp32Val mean).neg)
    let sq := rep.foldl (fun a s => round (fadd false (fp32Val a) (fp32Val (round (fmul (fp32Val (dev s)) (fp32Val (dev s))))))) 0
    let var := round (fdiv (fp32Val sq) m)
    let den := round (fadd false (fp32Val (round (fsqrt (fp32Val var)))) (fdecode .fp32 (cget r 12 4)))
    n ≤ 64 →
    crewState t = 3 ∧ cget t 56 8 = 0 ∧ crewN t = n ∧ crewPause t = crewPause r ∧
    (∀ p ∈ [(0, 8), (12, 4), (16, 4), (28, 4), (32, 8), (40, 8), (48, 8)], cget t p.1 p.2 = cget r p.1 p.2) ∧
    (∀ s < 64, cget t (256 + 4 * s) 4 = cget r (256 + 4 * s) 4) ∧
    (∀ s < 64, n ≤ s → cget t (512 + 4 * s) 4 = cget r (512 + 4 * s) 4) ∧
    (∀ s < n, (cget r 40 8).testBit s = true → cget t (512 + 4 * s) 4 = 0x7FC0DEAD) ∧
    (∀ s < n, (cget r 40 8).testBit s = false → (cget r 32 8).testBit s = false → cget t (512 + 4 * s) 4 = 0x7FC0CAFE) ∧
    (rep = [] → (crewCtrl t).testBit 18 = true ∧ cget t 20 8 = cget r 20 8) ∧
    (rep ≠ [] → (crewCtrl t).testBit 18 = (crewCtrl r).testBit 18) ∧
    (rep = [] ∨ 1 < rep.length ∧ var ≠ 0 → (crewCtrl t).testBit 17 = (crewCtrl r).testBit 17) ∧
    (∀ i < 32, i ∉ [8, 9, 17, 18] → (crewCtrl t).testBit i = (crewCtrl r).testBit i) ∧
    (rep ≠ [] → cget t 20 4 = mean.toNat ∧ cget t 24 4 = var.toNat) ∧
    (rep ≠ [] → rep.length = 1 ∨ var = 0 → (crewCtrl t).testBit 17 = true ∧
      ∀ s ∈ rep, (cget r 40 8).testBit s = false → cget t (512 + 4 * s) 4 = 0) ∧
    (1 < rep.length → var ≠ 0 → ∀ s ∈ rep, (cget r 40 8).testBit s = false →
      cget t (512 + 4 * s) 4 = (round (fdiv (fp32Val (dev s)) (fp32Val den))).toNat)) ∧
  (let r := cset (cset (cset (cset (cset (cset (cset (cset 0 8 4 0x104) 12 4 0x35800000) 16 1 2) 17 1 1) 32 8 3) 40 8 4)
      256 4 0x3F800000) 260 4 0x40400000
    let t := normalize r
    cget t 512 4 = 0xBF7FFFF0 ∧ cget t 516 4 = 0x3F7FFFF0 ∧ cget t 520 4 = 0x7FC0DEAD ∧ cget t 524 4 = 0x7FC0CAFE ∧
      cget t 20 4 = 0x40000000 ∧ cget t 24 4 = 0x3F800000)

/-- R250 to R253, R255, R256, R258, R347, R349: CREW.init, report, await and peek on a record that translates, is not
poisoned and that no L1 holds; a crew that is expired at the time of the operation is normalised first. -/
def Obligations.CrewResults : Prop :=
  ∀ (s : State) (sb : Bool) (x y : Opnd) (c : CrewRef),
    let r := s.crewRead c
    let mine := tCrew s.g.record
    let seat := tSeat s.g.record
    let good := crewBad r = false
    -- a seat parked on the crew may receive its result (R361)
    let same (t : State) : Prop := ((∀ p ∈ s.g.splits, p.parked = false) → t.g = s.g) ∧ t.sp = s.sp ∧ s.time ≤ t.time
    -- the step completes with a record that depends on the record found, or traps INVOP with that record left
    let makes (i : Instr) (f : CrewRec → CrewRec) (bad : CrewRec → Prop) : Prop :=
      ∃ t, same t ∧ onlyCrew s t c ∧
        let q := crewFound r t.time
        (bad q → exec i s = .next (t.trips i (trapCode .invop)) ∧ t.crewRead c = q) ∧
        (¬ bad q → Completes i s t ∧ t.crewRead c = f q)
    let w := s.sval x
    let put (q : CrewRec) : CrewRec := cset (cset (cset q (256 + 4 * seat) 4 w.toNat) 32 8 (Nat.lor (cget q 32 8) (2 ^ seat)))
      16 1 (cget q 16 1 + 1)
    let settle (q : CrewRec) : CrewRec := if crewN q = cget q 16 1 + cget q 17 1 then normalize q else q
    (s.ready (.crewReport sb x) = true → mine ≠ 0 → c.va = mine → crewHere s hAtomic c → good →
      makes (.crewReport sb x)
        (fun q => if (cget q 32 8).testBit seat ∨ (cget q 40 8).testBit seat ∨ (cget q 48 8).testBit seat then q
          else if crewState q = 3 then cset (cset (cset q 48 8 (Nat.lor (cget q 48 8) (2 ^ seat))) 18 1 (cget q 18 1 + 1))
            (512 + 4 * seat) 4 0x7FC0CAFE
          else settle (put q))
        (fun q => crewState q = 0)) ∧
    (∀ i ∈ [Instr.crewReport sb x, .crewAwait x], s.ready i = true → mine = 0 → Traps i s (trapCode .invop)) ∧
    (s.ready (.crewAwait x) = true → mine ≠ 0 → c.va = mine → crewHere s hWait c → good →
      ∃ t, same t ∧ onlyCrew s t c ∧
        let q := crewFound r t.time
        let status : Nat := if (crewCtrl q).testBit 18 then 3 else if (cget q 40 8).testBit seat then 4
          else if (cget q 32 8).testBit seat = false then 2 else if (crewCtrl q).testBit 17 then 1 else 0
        t.crewRead c = q ∧
        (crewState q = 3 → Completes (.crewAwait x) s
          (t.wD x (BitVec.ofNat 32 status ++ BitVec.ofNat 32 (cget q (512 + 4 * seat) 4)))) ∧
        (crewState q ≠ 3 → Parks (.crewAwait x) s t (.crew c x none))) ∧
    (s.ready (.crewPeek sb x y) = true → c.va = s.dval y → crewHere s hWait c → good →
      ∃ t, same t ∧ onlyCrew s t c ∧ t.crewRead c = crewFound r t.time ∧ ∃ v : BitVec 128,
        Completes (.crewPeek sb x y) s (t.wQuad x v) ∧ field v 31 0 = crewCtrl (crewFound r t.time) ∧
        field v 63 32 = cget (crewFound r t.time) 16 4 ∧ field v 127 64 = cget r 0 8) ∧
    (let i : Instr := .crewInit sb x y
      let cfg := s.quad x 0
      let eps := s.quad x 1
      let cfgOk := (cfg.toNat % 2 ^ 16 / 2 ^ 7 = 0 ∧ cfg.toNat / 2 ^ 17 = 0) ∧ 1 ≤ cfg.toNat % 128 ∧ cfg.toNat % 128 ≤ 64
      let epsOk := eps = 0x80000000 ∨ eps.toNat < 0x7F800000
      (s.ready i = true → ¬ cfgOk ∨ ¬ epsOk → Traps i s (trapCode .invop)) ∧
      (s.ready i = true → cfgOk → epsOk → c.va = s.dval y → crewHere s hAtomic c → good → s.watched s.g.tenant c = false →
        ∃ t new, same t ∧ onlyCrew s t c ∧
          let q := crewFound r t.time
          (crewState q = 1 ∨ crewState q = 2 → exec i s = .next (t.trips i (trapCode .invop)) ∧ t.crewRead c = q) ∧
          (crewState q = 0 ∨ crewState q = 3 → Completes i s t ∧ t.crewRead c = new ∧
            cget new 0 8 = (s.quad x 2).toNat + (s.quad x 3).toNat * 2 ^ 32 ∧ cget new 8 4 = cfg.toNat ∧
            cget new 12 4 = (if eps.toNat % 2 ^ 31 = 0 then 0x35800000 else eps.toNat) ∧
            ∀ j < 6144, 128 ≤ j → new.getLsbD j = false))) ∧
    (∀ i ∈ [Instr.crewReport sb x, .crewAwait x], s.ready i = true → mine ≠ 0 → mine.toNat % 256 ≠ 0 →
      ∃ k, Traps i s { code := .misalign, addr := mine, access := k }) ∧
    (∀ i ∈ [Instr.crewCancel sb x y, .crewPeek sb x y], s.ready i = true → (s.dval y).toNat % 256 ≠ 0 →
      ∃ k, Traps i s { code := .misalign, addr := s.dval y, access := k }) ∧
    -- a malformed header: INVOP, and the crew is closed
    (∀ i ∈ [Instr.crewReport sb x, .crewAwait x, .crewCancel sb x y, .crewPeek sb x y], s.ready i = true →
      c.va = (if i = .crewCancel sb x y ∨ i = .crewPeek sb x y then s.dval y else mine) → mine ≠ 0 →
      crewHere s hAtomic c → crewHere s hWait c → crewBad r = true →
      (∀ e, s.tenant? s.g.tenant = some e → s.queue? e.errq = none) →
      ∃ t : State, exec i s = .next (t.trips i (trapCode .invop)) ∧
        (crewState r = 3 → t.crewRead c = r) ∧
        (crewState r ≠ 3 → crewState (t.crewRead c) = 3 ∧ (crewCtrl (t.crewRead c)).testBit 18 = true ∧
          t.watched s.g.tenant c = false ∧
          ∀ j < 6144, (j < 64 ∨ 96 ≤ j) → (t.crewRead c).getLsbD j = r.getLsbD j))

/-- R254, R257, R348, R355: CREW.fork places the seats from FORKED on that are not cancelled, as many as find a free rack
slot, each with the template's record but for CREWSEAT, ARGS word 31 and FUTURE, and FORKED stops at the first seat that
found none; a fork from INIT of a crew with a DEADLINE takes a watch entry, and the cell of a cancelled seat that it passes is
cancelled; CREW.cancel sets the seat's bit, and a task that is the seat is cancelled wherever it is. -/
def Obligations.CrewForkCancel : Prop :=
  ∀ (s : State) (sb : Bool) (x y : Opnd) (c : CrewRef),
    let r := s.crewRead c
    (∀ l,
      let i : Instr := .crewFork sb x y
      let tpl : BitVec 2048 := ofBytes 2048 (s.rdN l.key 256)
      (s.ready i = true → s.exec = 0 → Completes i s s) ∧
      (s.ready i = true → s.exec ≠ 0 → (s.dval x).toNat % 256 ≠ 0 → Traps i s { code := .misalign, addr := s.dval x, access := .read }) ∧
      (s.ready i = true → s.exec ≠ 0 → (s.dval x).toNat % 256 = 0 → s.translateAll s.me hRead false [s.dval x] = .ok [l] →
        l.key % 256 = 0 → uncached s l.key 256 → (∀ k ∈ [c.k0, c.k1, c.k2], l.key + 256 ≤ k ∨ k + 256 ≤ l.key) → s.sp.wstores = [] →
        c.va = s.dval y → crewHere s hAtomic c → crewBad r = false → (tFuture tpl = 0 ∨ cget r 40 8 = 0) →
        ∃ t : State, s.time ≤ t.time ∧
          let q := crewFound r t.time
          let n := crewN q
          let first := cget q 19 1
          let free := (s.core? s.g.core).rackFree
          let cand := (List.range n).filter (fun k => decide (first ≤ k) && !(cget q 40 8).testBit k)
          let next := if first < n then (cand.getD free n) else first
          let full := crewState q = 0 ∧ cget q 0 8 ≠ 0 ∧
            1024 ≤ ((s.tenant? s.g.tenant).map (fun e => e.watch.length)).getD 0
          let watch := ((s.tenant? s.g.tenant).map (fun e => e.watch)).getD []
          (2 ≤ crewState q → exec i s = .next (t.trips i (trapCode .invop)) ∧ t.crewRead c = q) ∧
          (crewState q < 2 → ∀ e, t.tenant? s.g.tenant = some e →
            e.watch = if crewState q = 0 ∧ cget q 0 8 ≠ 0 ∧ watch.length < 1024 then c :: watch else watch) ∧
          (crewState q < 2 → full → Completes i s (t.wD x (BitVec.ofNat 64 n)) ∧ t.crewRead c = q ∧
            (t.core? s.g.core).rack = (s.core? s.g.core).rack) ∧
          (crewState q < 2 → ¬ full → Completes i s (t.wD x (BitVec.ofNat 64 (n - next))) ∧ t.g = s.g ∧
            crewState (t.crewRead c) = 1 ∧ cget (t.crewRead c) 19 1 = next ∧
            (∀ p ∈ [(0, 8), (12, 4), (16, 3), (20, 236), (256, 512)], cget (t.crewRead c) p.1 p.2 = cget q p.1 p.2) ∧
            ∃ es, (t.core? s.g.core).rack = (s.core? s.g.core).rack ++ es ∧
              es.map (fun e => e.members.map (fun m => m.record)) =
                ((cand.take free).map (fun k => [seatRecord tpl c.va k])) ∧
              ∀ e ∈ es, ∀ m ∈ e.members, m.origin = .seat ∧ m.launch = { s.g.launch with root := none })) ∧
      -- the future cell of a seat that a cancel has taken out is cancelled when the fork passes it
      (∀ k l', s.ready i = true → s.exec ≠ 0 → (s.dval x).toNat % 256 = 0 → s.translateAll s.me hRead false [s.dval x] = .ok [l] →
        l.key % 256 = 0 → uncached s l.key 256 → (∀ k ∈ [c.k0, c.k1, c.k2], l.key + 256 ≤ k ∨ k + 256 ≤ l.key) → s.sp.wstores = [] →
        c.va = s.dval y → crewHere s hAtomic c → crewBad r = false → cget r 0 8 = 0 → crewState r < 2 → cget r 19 1 = 0 → k < crewN r →
        cget r 40 8 = 2 ^ k → 64 ≤ (s.core? s.g.core).rackFree → allClean s →
        let va := tFuture tpl + BitVec.ofNat 64 (16 * k)
        tFuture tpl ≠ 0 → va ≠ 0 → va.toNat % 16 = 0 → s.translate (agentEngine s.g.tenant s.g.core) hAtomic true va = .ok l' → uncached s l'.key 16 →
        (∀ a ∈ [c.k0, c.k1, c.k2], l'.key + 16 ≤ a ∨ a + 256 ≤ l'.key) →
        ∃ t : State, Completes i s (t.wD x 0) ∧ BitVec.ofNat 128 (t.rdV l'.key 16) = cellStep (BitVec.ofNat 128 (s.rdV l'.key 16)) .cancel) ∧
      (∀ k < 64, let u := seatRecord tpl c.va k
        tCrew u = BitVec.ofNat 64 (c.va.toNat % 2 ^ 48) ∧ tSeat u = k ∧ tArg u 31 = BitVec.ofNat 32 k ∧ tEntry u = tEntry tpl ∧
        tFlags u = tFlags tpl ∧ tFuture u = (if tFuture tpl = 0 then 0 else tFuture tpl + BitVec.ofNat 64 (16 * k)) ∧
        ∀ j, 256 ≤ j → j < 2016 → u.getLsbD j = tpl.getLsbD j)) ∧
    (let i : Instr := .crewCancel sb x y
      let seat := (s.sval x).toNat
      let is (rec : BitVec 2048) : Prop := tCrew rec = c.va ∧ tSeat rec = seat ∧ c.va ≠ 0
      s.ready i = true → c.va = s.dval y → crewHere s hAtomic c → crewBad r = false →
        (crewN r ≤ seat → ∃ t : State, exec i s = .next (t.trips i (trapCode .invop)) ∧
          ((∀ p ∈ s.g.splits, p.parked = false) → t.g = s.g) ∧ t.crewRead c = crewFound r t.time) ∧
        (seat < crewN r → ∃ t : State, Completes i s t ∧
          (∀ tid g, t.groupSeen tid = some g → g.tenant = s.g.tenant → is g.record → g.cancel = true ∧ g.cancelled = true) ∧
          (∀ k ∈ t.cores, s.coreTenant k.id = some s.g.tenant → ∀ e ∈ k.rack, ∀ m ∈ e.members, ¬ is m.record) ∧
          ((∀ p ∈ s.g.splits, p.sid ≠ s.sp.sid ∧ p.parked = false) → (∀ g ∈ s.unfocus.groups, ¬ is g.record) → (∀ k ∈ s.cores, ∀ m ∈ rackTasksOf k, ¬ is m.record) → s.saves = [] →
            t.g = s.g ∧ onlyCrew s t c ∧ s.time ≤ t.time ∧
            let q := crewFound r t.time
            let marked := cset (cset q 40 8 (Nat.lor (cget q 40 8) (2 ^ seat))) 17 1 (cget q 17 1 + 1)
            t.crewRead c = if crewState q = 3 ∨ (cget q 40 8).testBit seat ∨ (cget q 32 8).testBit seat then q
              else if crewN marked = cget marked 16 1 + cget marked 17 1 then normalize marked else marked)))

/-! ## The matrix and copy queues (spec 13) -/

/-- R282: may the issuing task name a tile? -/
def mayName (s : State) (h : Nat) : Prop := (s.tile s.g.core h).owner = none ∨ (s.tile s.g.core h).owner = some s.owner

/-- R219, R282, R289: one more command stands in the core's queue, for the issuing split and position, QUEUED: behind every
other but those that splits of higher table entries of its task have issued in the same cycle. The tile belongs to the issuing
task, and was given to it INVALID and unbound where it was free. Nothing else has changed. -/
def enqueued (s t : State) (h : Nat) (op : MOp) (named : Bool) : Prop :=
  let here := s.g.core
  let before (m y : MCmd) : Prop := y.tid = m.tid ∧ y.cycle = m.cycle ∧ m.entry < y.entry
  ∃ (m : MCmd) (a b : List MCmd), (s.core? here).mq = a ++ b ∧ (t.core? here).mq = a ++ m :: b ∧ (∀ y ∈ b, before m y) ∧
    (∀ y, a.getLast? = some y → ¬ before m y) ∧ m.cycle = s.cycleAt ∧ m.entry = (s.g.entryOf s.sp).getD 8 ∧ m.op = op ∧ m.handle = h ∧ m.st = .queued ∧ m.tid = s.g.tid ∧
    m.sid = s.sp.sid ∧ m.pos = s.sp.pos ∧ m.pc = s.sp.pc ∧ m.tenant = s.g.tenant ∧ m.mode = s.mode ∧ m.id = s.nextId ∧
    t.nextId = s.nextId + 1 ∧ t.g = s.g ∧ t.sp = s.sp ∧ t.mem = s.mem ∧
    (t.tile here h).owner = some s.owner ∧
    ((s.tile here h).owner = none → (t.tile here h).state = .invalid ∧ (t.tile here h).binding = none ∧ (t.tile here h).err = none) ∧
    ((s.tile here h).owner ≠ none → ({ t.tile here h with named := (s.tile here h).named } : Tile) = s.tile here h) ∧
    (t.tile here h).named = named ∧
    ∀ k < 8, k ≠ h → t.tile here k = s.tile here k

/-- R131, R218, R219, R282, R286, R287, R289, R294 to R296, R298: MCFG, MLOOP and MOP. A command is checked at issue, takes an entry
of the matrix queue, and completes, or in rdrow stays open until its registers are written; with 8 entries in use it stalls in its
table entry. A tile of another owner traps PERM; a block that lies outside SCRATCH traps BOUNDS even where it is misaligned, which is
the model's reading (notes/assumptions/19.md). wait completes with the status of the task's commands, or parks; check gives the
error state and clears it. -/
def Obligations.MatrixIssue : Prop :=
  ∀ (s : State) (sb : Bool) (h : Handle) (x y : Opnd),
    let here := s.g.core
    let use := ((s.core? here).mq.filter (fun m => !m.final)).length
    let free := mayName s h
    let was := (s.tile here h).owner.isSome && (s.tile here h).named
    -- the split stands stalled in its table entry, at this position
    let stalls (i : Instr) (c : StallCause) : Prop := exec i s = .next (({ s with sp := { s.sp with st := .stall c } }).advance)
    let takes (i : Instr) (op : MOp) (named : Bool) : Prop :=
      (s.ready i = true → free → use < 8 → ∃ t : State, Completes i s t ∧ enqueued s t h op named) ∧
      (s.ready i = true → free → 8 ≤ use → stalls i .matrix)
    let r := s.qval y
    let space := r.ok = true ∧ (r.space = 2 → field r 63 37 = 0)
    let ops := s.quadBits y
    let fd := field ops 31 24 = 0 ∧ field ops 63 48 = 0 ∧ field ops 127 80 = 0 ∧ field ops 39 32 ≤ field ops 47 40
    let off := (s.sval y).toNat
    let scratch := nearSize - s.stageBytes s.g.tenant
    (∀ i ∈ [Instr.mcfg sb h y, .mloop sb h y, .mopDrain sb h y, .mopDrainn sb h y, .mopFdrain sb h y, .mopZero sb h,
        .mopWait x (some h), .mopCheck sb x h], s.ready i = true → ¬ free → Traps i s (trapCode .perm)) ∧
    (s.poison = [] → s.sp.wstores = [] → off % 64 = 0 → off + 64 ≤ scratch →
      takes (.mcfg sb h y) (.mcfg (ofBytes 512 (s.rdN (keyNear here off) 64))) true) ∧
    (s.ready (.mcfg sb h y) = true → free → scratch < off + 64 →
      Traps (.mcfg sb h y) s { code := .bounds, addr := BitVec.ofNat 64 off, access := .read }) ∧
    (s.ready (.mcfg sb h y) = true → free → off + 64 ≤ scratch → off % 64 ≠ 0 →
      Traps (.mcfg sb h y) s { code := .misalign, addr := BitVec.ofNat 64 off, access := .read }) ∧
    (s.ready (.mloop sb h y) = true → free → s.sp.lanes ≠ 0xFFFF ∨ s.exec ≠ 0xFFFF → Traps (.mloop sb h y) s (trapCode .mxpartial)) ∧
    (s.ready (.mloop sb h y) = true → free → s.sp.lanes = 0xFFFF → s.exec = 0xFFFF →
      (s.tile here h).owner = none ∨ (s.tile here h).named = false ∨ 4096 < off → Traps (.mloop sb h y) s (trapCode .invop)) ∧
    (s.sp.lanes = 0xFFFF → s.exec = 0xFFFF → (s.tile here h).owner ≠ none → (s.tile here h).named = true → off ≤ 4096 →
      takes (.mloop sb h y) (.mloop off) was) ∧
    (space → r.fmt = .fp32 ∨ r.fmt = .raw32 → takes (.mopDrain sb h y) (.drain r) was) ∧
    (s.ready (.mopDrain sb h y) = true → free → ¬ space ∨ (r.fmt ≠ .fp32 ∧ r.fmt ≠ .raw32) →
      Traps (.mopDrain sb h y) s (trapCode .invop)) ∧
    (space → r.fmt ∈ [Fmt.bf16, .fp16, .e4m3, .e5m2] → takes (.mopDrainn sb h y) (.drainn r) was) ∧
    (s.ready (.mopDrainn sb h y) = true → free → ¬ space ∨ r.fmt ∉ [Fmt.bf16, .fp16, .e4m3, .e5m2] →
      Traps (.mopDrainn sb h y) s (trapCode .invop)) ∧
    (fd → takes (.mopFdrain sb h y) (.fdrain ops) was) ∧
    (s.ready (.mopFdrain sb h y) = true → free → ¬ fd → Traps (.mopFdrain sb h y) s (trapCode .invop)) ∧
    takes (.mopZero sb h) .zero was ∧
    -- wait and check
    (∀ w : WHandle, s.ready (.mopWait x w) = true → (∀ k, w = some k → mayName s k) →
      let cs := (s.core? here).mq.filter (fun m => m.tid == s.g.tid && (w.isNone || w == some (Fin.ofNat 8 m.handle)))
      (∀ m ∈ (s.core? here).mq, m.handle < 8) → ((s.core? here).mq.map (·.id)).Nodup →
      ((∀ m ∈ cs, m.final = true) → ∃ t : State, t.sp = s.sp ∧ t.g = s.g ∧ t.mem = s.mem ∧
        ((∀ m ∈ cs, m.st = .done) → Completes (.mopWait x w) s (t.wS x 0)) ∧
        (∀ m a code addr, cs = a ++ [m] ++ cs.drop (a.length + 1) → (∀ k ∈ a, k.st = .done) → m.st = .failed code addr →
          Completes (.mopWait x w) s (t.wS x (BitVec.ofNat 32 code.num)))) ∧
      ((∃ m ∈ cs, m.final = false) → ∃ t : State, Parks (.mopWait x w) s t (.mop (cs.map (·.id)) x) ∧ t.sp = s.sp ∧ t.g = s.g)) ∧
    (s.ready (.mopCheck sb x h) = true → free →
      ∃ (t : State) (v : BitVec 128), Completes (.mopCheck sb x h) s t ∧ t.sp = (s.wQuad x v).sp ∧ t.g = (s.wQuad x v).g ∧
        (t.tile here h).err = none ∧ t.mem = s.mem ∧
        ((s.tile here h).owner = none → v = 1) ∧
        ((s.tile here h).owner ≠ none → field v 1 0 = (match (s.tile here h).state with
            | .valid => 0
            | .invalid => 1
            | .poison => 2) ∧
          ((s.tile here h).err = none → field v 127 2 = 0) ∧
          ∀ code op n a, (s.tile here h).err = some (code, op, n, a) → field v 31 24 = code.toNat ∧ field v 23 16 = op.toNat ∧
            field v 15 2 = 0 ∧ field v 63 32 = n % 2 ^ 32 ∧ field v 127 64 = a.toNat))

/-- R218, R219, R282, R289, R294, R296, R299 to R301: the row commands and COPY. rdrow and wrrow name the tile and the row in a scalar; a
zero execute mask does nothing; wrrow takes the bits of FP32 and RAW32 registers and zeros of DEAD ones. COPY takes an entry
of each transfer queue for its slice, the next of its member in the team. With no entry free the split stalls in its table entry. -/
def Obligations.RowAndCopyIssue : Prop :=
  ∀ (s : State) (sb : Bool) (x y z : Opnd),
    let here := s.g.core
    let use := ((s.core? here).mq.filter (fun m => !m.final)).length
    let w := s.sval y
    let h := w.toNat / 2 ^ 8 % 8
    let row := w.toNat % 64
    let free := mayName s h
    let was := (s.tile here h).owner.isSome && (s.tile here h).named
    -- the split stands stalled in its table entry, at this position
    let stalls (i : Instr) (c : StallCause) : Prop := exec i s = .next (({ s with sp := { s.sp with st := .stall c } }).advance)
    let reg (n : Fin 128) (j : Nat) : VRow := s.getV (n.val + j)
    let words (v : VRow) : List Word := if v.tag = .dead then List.replicate 16 0 else v.lanes.toList
    (∀ i ∈ [Instr.mopRdrow sb x y, .mopWrrow sb x y], (s.ready i = true → s.exec = 0 → Completes i s s) ∧
      (s.ready i = true → s.exec ≠ 0 → ¬ free → Traps i s (trapCode .perm))) ∧
    (s.ready (.mopRdrow sb x y) = true → s.exec ≠ 0 → free → use < 8 →
      ∃ t, StaysOpen (.mopRdrow sb x y) s t ∧ enqueued s t h (.rdrow row (match x with
        | .v n => some n
        | _ => none) s.exec) was) ∧
    (s.ready (.mopRdrow sb x y) = true → s.exec ≠ 0 → free → 8 ≤ use → stalls (.mopRdrow sb x y) .matrix) ∧
    (∀ n : Fin 128, x = .v n → s.ready (.mopWrrow sb x y) = true → s.exec ≠ 0 → free →
      ((∀ j < 4, (reg n j).tag = .fmt .fp32 ∨ (reg n j).tag = .fmt .raw32 ∨ (reg n j).tag = .dead) →
        (use < 8 → ∃ t, Completes (.mopWrrow sb x y) s t ∧
          enqueued s t h (.wrrow row ((List.range 4).flatMap (fun j => words (reg n j))) s.exec) was) ∧
        (8 ≤ use → stalls (.mopWrrow sb x y) .matrix)) ∧
      (∀ j < 4, (∀ k < j, (reg n k).tag = .fmt .fp32 ∨ (reg n k).tag = .fmt .raw32 ∨ (reg n k).tag = .dead) →
        ((reg n j).tag = .poison → Traps (.mopWrrow sb x y) s { code := .poison, addr := (reg n j).paddr }) ∧
        ((reg n j).tag = .invalid ∨ (∃ f, (reg n j).tag = .fmt f ∧ f ≠ .fp32 ∧ f ≠ .raw32) →
          Traps (.mopWrrow sb x y) s (trapCode .tagmismatch)))) ∧
    (let i : Instr := .copy sb x y z
      let src := s.qval y
      let dst := s.qval z
      let space (r : Rec) : Prop := r.ok = true ∧ (r.space = 2 → field r 63 37 = 0)
      let rowBytes := (s.quad x 0).toNat
      let x1 := (s.quad x 1).toNat
      let cc := (s.quad x 2).toNat + (s.quad x 3).toNat * 2 ^ 32
      let good := space src ∧ space dst ∧ rowBytes % 4 = 0 ∧ 4 ≤ rowBytes ∧ rowBytes ≤ 2 ^ 20 ∧ x1 / 2 ^ 18 = 0 ∧ x1 % 2 ^ 16 ≠ 0 ∧
        cc % 8 = 0
      let member := s.g.teams[(Fin.ofNat 4 (x1 / 2 ^ 16 % 4) : Fin 4)]
      let busy := ((s.core? here).copyq.filter (fun c => c.result.isNone)).length
      (s.ready i = true → s.sp.lanes ≠ 0xFFFF → Traps i s (trapCode .mxpartial)) ∧
      (s.ready i = true → s.sp.lanes = 0xFFFF → ¬ good ∨ member = none → Traps i s (trapCode .invop)) ∧
      (∀ m, s.ready i = true → s.sp.lanes = 0xFFFF → good → member = some m → 16 ≤ busy → stalls i .copy) ∧
      (∀ m, s.ready i = true → s.sp.lanes = 0xFFFF → good → member = some m → busy < 16 →
        ∃ (t : State) (c : Slice), Completes i s t ∧ (t.core? here).copyq = (s.core? here).copyq ++ [c] ∧ c.src = src ∧ c.dst = dst ∧
          c.rowBytes = rowBytes ∧ c.rows = x1 % 2 ^ 16 ∧ c.cc.toNat = cc ∧ c.mode = s.mode ∧ c.tid = s.g.tid ∧
          c.tenant = s.g.tenant ∧ c.team = m.team ∧ c.started = false ∧ c.result = none ∧
          (∀ e, s.team? here m.team = some e → c.nth = (getKey m.rank e.copies).getD 0 ∧
            ∃ e', t.team? here m.team = some e' ∧ getKey m.rank e'.copies = some (c.nth + 1)) ∧
          t.g = s.g ∧ t.sp = s.sp ∧ t.mem = s.mem))

/-! ## The engines at work (spec 13, 16) -/

/-- R283, R291: a command block that is ill-formed when its MCFG takes effect, read off the table of R283: M and N outside
1–64, KB outside 1–4,096, formats that R288 does not pair, reserved bits and bytes, SCOPE above 5, DUAL with M above 32,
addresses and strides that are no multiple of 16, CCADDR that is no multiple of 8, and for quantised formats a group size
code of 3 or a KB that ends inside a group. -/
def Obligations.IllFormedBlocks : Prop :=
  ∀ b : BitVec 512,
    let byte (i : Nat) : Nat := b.toNat / 2 ^ (8 * i) % 256
    let half (i : Nat) : Nat := b.toNat / 2 ^ (8 * i) % 2 ^ 16
    let word (i : Nat) : Nat := b.toNat / 2 ^ (8 * i) % 2 ^ 32
    let fa := byte 4 % 16
    let fb := byte 4 / 16
    let ga := 32 * 2 ^ (byte 5 % 4)
    let gb := 32 * 2 ^ (byte 5 / 4 % 4)
    let float (f : Nat) : Prop := 4 ≤ f ∧ f ≤ 7
    let quant (f : Nat) : Prop := f = 8 ∨ f = 9
    let pairs := (quant fa ∧ quant fb) ∨ (float fa ∧ float fb ∧ (fa = fb ∨ (6 ≤ fa ∧ 6 ≤ fb)))
    blockBad b = true ↔ ¬ (
      (1 ≤ byte 0 ∧ byte 0 ≤ 64) ∧ (1 ≤ byte 1 ∧ byte 1 ≤ 64) ∧ (1 ≤ half 2 ∧ half 2 ≤ 4096) ∧ pairs ∧
      (quant fa → byte 5 % 4 ≠ 3 ∧ byte 5 / 4 % 4 ≠ 3 ∧ 16 * half 2 % max ga gb = 0) ∧
      byte 5 / 16 = 0 ∧ byte 6 / 32 = 0 ∧ byte 7 / 128 = 0 ∧ byte 7 / 4 % 8 ≤ 5 ∧ byte 20 / 64 = 0 ∧ byte 21 = 0 ∧ half 30 = 0 ∧
      b.toNat / 2 ^ 448 = 0 ∧ (byte 7 / 32 % 2 = 1 → byte 0 ≤ 32) ∧
      word 8 % 16 = 0 ∧ word 12 % 16 = 0 ∧ word 16 % 16 = 0 ∧ word 24 % 16 = 0 ∧ word 48 % 8 = 0)

/-- R289: the commands of a core have numbers of their own, this one names a tile, and its task lives. -/
def goodCmd (s : State) (core : Nat) (m : MCmd) : Prop :=
  s.cmd? core m.id = some m ∧ m.handle < 8 ∧ m.kept = none ∧ ((s.core? core).mq.map (·.id)).Nodup ∧ (s.group? m.tid).isSome = true

/-- R284: the bits of A(i, k): its row, K-block and element give the offset, whose granule is swizzled by the row. -/
def codeA (s : State) (core base : Nat) (b : Binding) (i k : Nat) : Nat :=
  let w := (codeFmt (cbA b.block)).width / 8
  let off := (b.abase + i * cb b.block 12 4 + k / 16 * cb b.block 16 4 + k % 16 * w) % 2 ^ 32
  s.rdV (keyNear core (base + Nat.xor (off / 16) (Nat.land i (cb b.block 20 1 % 64)) * 16 + off % 16)) w

/-- R191, R284: the bits of B(k, j): column bank j of the panel slot, row BK + k. -/
def codeB (s : State) (core : Nat) (b : Binding) (k j : Nat) : Nat :=
  let w := (codeFmt (cbB b.block)).width / 8
  s.rdV (keyAttic core (cb b.block 6 1 % 16 * 0x10000 + j * 0x400 + (b.bk + k) * w)) w

/-- R61, R191, R284: the offset of the byte of A(i, k) that an MLOOP reads, before and after the swizzle, for elements of
`w` bits. -/
def offA (b : Binding) (w i k : Nat) : Nat × Nat :=
  let off := (b.abase + i * cb b.block 12 4 + k / 16 * cb b.block 16 4 + k % 16 * w / 8) % 2 ^ 32
  (off, Nat.xor (off / 16) (Nat.land i (cb b.block 20 1 % 64)) * 16 + off % 16)

/-- R43, R284: the code A(i, k) of a quantised operand, the even one of a byte in its low half under INT4Q. -/
def quantA (s : State) (core base : Nat) (b : Binding) (i k : Nat) : Nat :=
  let w := (codeFmt (cbA b.block)).width
  s.rdV (keyNear core (base + (offA b w i k).2)) 1 / 2 ^ (k % 16 * w % 8) % 2 ^ w

/-- R43, R191, R284: the code B(k, j) of a quantised operand. -/
def quantB (s : State) (core : Nat) (b : Binding) (k j : Nat) : Nat :=
  let w := (codeFmt (cbB b.block)).width
  s.rdV (keyAttic core (cb b.block 6 1 % 16 * 0x10000 + j * 0x400 + (b.bk + k) * w / 8)) 1 / 2 ^ ((b.bk + k) * w % 8) % 2 ^ w

/-- R60, R61, R191, R284, R285, R287, R289, R291, R295 to R297, R335, R344: the sequencer. A queued command that is first on its
handle starts; an MCFG binds its block; an ill-formed command (for an MLOOP: a granule of A outside ASPACE, the last row of B past
the panel's share, a sideband entry outside SCRATCH, or under a quantised format a K range that ends inside a group, which is
the model's reading for an MLOOP of its own count, notes/assumptions/19.md) fails, makes its tile INVALID, drops the task's
commands queued behind it and halts the queue. On completion an MLOOP has added to each element of M by N the block sums of its
K-blocks, each rounded once, or for quantised formats the scaled sum of each group step; zero, wrrow, rdrow, drain and drainn
have moved the elements, to SCRATCH and to GLOBAL memory; the counter has gained 1. That the first product of a block sum gives
the sign of a sum of zeros, and that A's offset wraps at 32 bits, are readings of the model's (notes/assumptions/19.md); that an
event that does not apply leaves the state as it was is its choice (notes/assumptions/7.md). -/
def Obligations.MatrixCommandSteps : Prop :=
  ∀ (s : State) (core : Nat) (m : MCmd), s.running = false → goodCmd s core m →
    let c := s.core? core
    let tile := s.tile core m.handle
    let start := exec (.matrixCommandStart core m.id) s
    let complete := exec (.matrixCommandComplete core m.id) s
    let first := m.st = .queued ∧ c.mqHalt = none ∧ c.preempting = false ∧ (s.die? (core / 128)).shut = false ∧
      ∀ a b, c.mq = a ++ m :: b → (∀ y ∈ a, y.handle = m.handle → y.final = true) ∧
        (m.isLoop = true → (∀ y ∈ a, y.isLoop = true → y.final = true) ∧ ∀ y ∈ b, y.isLoop = true → y.final = true ∨ y.st = .queued)
    let becomes (t : State) (st : MState) : Prop := ∃ m', t.cmd? core m.id = some m' ∧ m'.st = st ∧ m'.op = m.op ∧ m'.tid = m.tid
    let ill (o : Host.Outcome State Fault Refusal) : Prop := ∃ t, o = .next t ∧ becomes t (.failed .mxcmd 0) ∧
      (t.core? core).mqHalt = some m.tid ∧ (t.tile core m.handle).state = .invalid ∧
      (∀ a b, c.mq = a ++ m :: b → ∃ m', (t.core? core).mq = a ++ m' :: b.filter (fun y => !(y.tid == m.tid && y.st == .queued))) ∧
      ∀ g, s.group? m.tid = some g → t.group? m.tid = some { g with deferred := g.deferred ++ [{ code := .mxcmd }] }
    let looped (n : Nat) (b : Binding) (value : Nat → Nat → Word → Word) : Prop :=
      let blocks := if n = 0 then cb b.block 2 2 else n
      ∃ t, complete = .next t ∧ becomes t .done ∧ (allClean s → t.mem = s.mem) ∧ (t.tile core m.handle).state = .valid ∧
        (t.tile core m.handle).binding = some ⟨b.block, (b.abase + cb b.block 24 4) % 2 ^ 32, b.bk + cb b.block 28 2, b.kpos + 16 * blocks⟩ ∧
        (∀ g, s.group? m.tid = some g → ∃ g', t.group? m.tid = some g' ∧
          g'.mxKblk.toNat = min (g.mxKblk.toNat + blocks) (2 ^ 32 - 1)) ∧
        ∀ i < 64, ∀ j < 64, (t.tile core m.handle).elem i j =
          if j < cb b.block 1 1 ∧ i < cb b.block 0 1 then value i j (tile.elem i j)
          else if j < cb b.block 1 1 ∧ cbDual b.block = true ∧ 32 ≤ i ∧ i < cb b.block 0 1 + 32 then value (i - 32) j (tile.elem i j)
          else tile.elem i j
    (m.st ≠ .queued → start = .next s) ∧
    (∀ b, first → m.op = .mcfg b → blockBad b = false → ∃ t, start = .next t ∧ becomes t .active ∧ t.mem = s.mem ∧
      (t.tile core m.handle).binding = some ⟨b, cb b 8 4, cb b 22 2, 0⟩ ∧
      (cbAccz b = true → (t.tile core m.handle).elems = [] ∧ (t.tile core m.handle).state = .valid) ∧
      (cbAccz b = false → (t.tile core m.handle).elems = tile.elems ∧ (t.tile core m.handle).state = tile.state)) ∧
    (∀ b, first → m.op = .mcfg b → blockBad b = true → ill start) ∧
    (∀ n, first → m.op = .mloop n → tile.binding = none → ill start) ∧
    (∀ n b, first → m.op = .mloop n → tile.binding = some b → s.loopBad m.tenant (if n = 0 then cb b.block 2 2 else n) b = true →
      cb b.block 48 8 = 0 → ill start) ∧
    (∀ n b, first → m.op = .mloop n → tile.binding = some b → s.loopBad m.tenant (if n = 0 then cb b.block 2 2 else n) b = false →
      cb b.block 48 8 = 0 → ∃ t, start = .next t ∧ becomes t .active ∧ t.mem = s.mem) ∧
    (first → (m.op = .zero ∨ (∃ r d e, m.op = .wrrow r d e) ∨ ∃ r x e, m.op = .rdrow r x e) →
      ∃ t, start = .next t ∧ becomes t .active ∧ t.mem = s.mem ∧ t.tile core m.handle = tile) ∧
    (∀ b, m.st = .active → m.op = .mcfg b → ∃ t, complete = .next t ∧ becomes t .done ∧ t.tile core m.handle = tile ∧ t.mem = s.mem) ∧
    (m.st = .active → m.op = .zero → ∃ t, complete = .next t ∧ becomes t .done ∧ t.mem = s.mem ∧
      t.tile core m.handle = { tile with elems := [], state := .valid }) ∧
    (∀ r d e, m.st = .active → m.op = .wrrow r d e → r < 64 → (tile.elems.map (·.1)).Pairwise (· < ·) → ∃ t, complete = .next t ∧ becomes t .done ∧ t.mem = s.mem ∧
      (t.tile core m.handle).state = tile.state ∧
      ∀ i < 64, ∀ j < 64, (t.tile core m.handle).elem i j =
        if e.getLsbD (j % 16) = true ∧ (i = r ∨ (tile.dual = true ∧ r < 32 ∧ i = r + 32)) then d.getD j 0 else tile.elem i j) ∧
    (∀ r (n : Fin 128) e g p, m.st = .active → m.op = .rdrow r (some n) e → tile.state = .valid → tile.dual = false → n.val + 3 < 128 →
      s.group? m.tid = some g → g.split? m.sid = some p → g.traps = [] → g.wdog = false →
      (∀ k < 4, (∀ y ∈ g.splits, y.unwritten (.v (n + k)) = true) ∧ (vget g.vregs (n + k) VRow.init).tag ≠ .poison) →
      ∃ t g' q, complete = .next t ∧ becomes t .done ∧ t.groupSeen m.tid = some g' ∧ t.splitSeen m.tid m.sid = some q ∧
        q.wcm = p.wcm ||| BitVec.ofNat 64 (2 ^ m.pos) ∧
        ∀ k < 4, (e ≠ 0 → (vget g'.vregs (n + k) VRow.init).tag = .fmt .fp32) ∧
          ∀ l : Fin 16, (vget g'.vregs (n + k) VRow.init).lanes[l] =
            if e.getLsbD l.val = true then tile.elem r (16 * k + l.val) else (vget g.vregs (n + k) VRow.init).lanes[l]) ∧
    (∀ r e g p, m.st = .active → m.op = .rdrow r none e → tile.state = .valid → tile.dual = false →
      s.group? m.tid = some g → g.split? m.sid = some p → g.traps = [] → g.wdog = false →
      ∃ t g' q, complete = .next t ∧ becomes t .done ∧ t.groupSeen m.tid = some g' ∧ t.splitSeen m.tid m.sid = some q ∧
        q.wcm = p.wcm ||| BitVec.ofNat 64 (2 ^ m.pos) ∧ g'.vregs = g.vregs ∧ q.slo = p.slo) ∧
    (∀ n b, m.st = .active → m.op = .mloop n → tile.binding = some b → tile.state = .valid → blockBad b.block = false → codeQ (cbA b.block) = false →
      b.abase % 16 = 0 → s.poison = [] → (∀ p ∈ m.snap, p.2 = s.rdN p.1 p.2.length) → cb b.block 48 8 = 0 →
      let blocks := if n = 0 then cb b.block 2 2 else n
      let base := if b.block.getLsbD 52 then nearSize - s.stageBytes m.tenant else 0
      let value (i j : Nat) (acc : Word) : Word := (List.range blocks).foldl (fun acc t =>
        let ps := (List.range 16).map (fun u => fmul (fdecode (codeFmt (cbA b.block)) (codeA s core base b i (16 * t + u)))
          (fdecode (codeFmt (cbB b.block)) (codeB s core b (16 * t + u) j)))
        fp32RNE (fadd false (fp32Val acc) (fp32Val (fp32RNE (ps.tail.foldl (fadd false) (ps.headD (.fin false 0 0))))))) acc
      looped n b value) ∧
    (∀ n b, m.st = .active → m.op = .mloop n → tile.binding = some b → tile.state = .valid → blockBad b.block = false → codeQ (cbA b.block) = true →
      b.abase % 16 = 0 → s.poison = [] → (∀ p ∈ m.snap, p.2 = s.rdN p.1 p.2.length) → cb b.block 48 8 = 0 →
      let blocks := if n = 0 then cb b.block 2 2 else n
      let base := if b.block.getLsbD 52 then nearSize - s.stageBytes m.tenant else 0
      let ga := 32 * 2 ^ (cb b.block 5 1 % 4)
      let gb := 32 * 2 ^ (cb b.block 5 1 / 4 % 4)
      let group := min ga gb
      let entry (at_ size g x : Nat) : Nat := s.rdV (keyNear core (cb b.block at_ 4 + x * cb b.block (at_ + 4) 4 + 4 * ((b.kpos + group * g) / size))) 4
      let zero (code e : Nat) : Nat := if code = 9 then e / 2 ^ 16 % 16 else e / 2 ^ 16 % 256
      let scale (e : Nat) : FVal := fdecode .fp16 (e % 2 ^ 16)
      let value (i j : Nat) (acc : Word) : Word := (List.range (16 * blocks / group)).foldl (fun acc g =>
        let ea := entry 32 ga g i
        let eb := entry 40 gb g j
        let sum : Int := ((List.range group).map (fun k => ((quantA s core base b i (group * g + k) : Int) - zero (cbA b.block) ea) *
          ((quantB s core b (group * g + k) j : Int) - zero (cbB b.block) eb))).sum
        let sc := fp32RNE (fmul (scale ea) (scale eb))
        let term := fp32RNE (fmul (fp32Val (fp32RNE (.ofInt sum))) (fp32Val sc))
        fp32RNE (fadd false (fp32Val acc) (fp32Val term))) acc
      16 * blocks % max ga gb = 0 → b.kpos % max ga gb = 0 → looped n b value) ∧
    (∀ n b, blockBad b.block = false → b.abase % 16 = 0 →
      let w (code : Nat) : Nat := if code = 9 then 4 else if code = 4 ∨ code = 5 then 16 else 8
      let scr := nearSize - s.stageBytes m.tenant
      let extent := if b.block.getLsbD 52 then s.stageBytes m.tenant else scr
      let ga := 32 * 2 ^ (cb b.block 5 1 % 4)
      let gb := 32 * 2 ^ (cb b.block 5 1 / 4 % 4)
      (s.loopBad m.tenant n b = true ↔
        (∃ i < cb b.block 0 1, ∃ k < 16 * n, extent < (offA b (w (cbA b.block)) i k).2 / 16 * 16 + 16) ∨
        1024 * 8 < (b.bk + 16 * n) * w (cbB b.block) ∨
        codeQ (cbA b.block) = true ∧
          ((∃ i < cb b.block 0 1, ∃ g < 16 * n / ga, scr < cb b.block 32 4 + i * cb b.block 36 4 + 4 * (b.kpos / ga + g) + 4) ∨
           (∃ j < cb b.block 1 1, ∃ g < 16 * n / gb, scr < cb b.block 40 4 + j * cb b.block 44 4 + 4 * (b.kpos / gb + g) + 4) ∨
           16 * n % max ga gb ≠ 0))) ∧
    (∀ n b l, m.st = .active → m.op = .mloop n → tile.binding = some b → cb b.block 48 8 ≠ 0 → cb b.block 48 8 % 8 = 0 → s.poison = [] → allClean s → MemoryKept s →
      s.translate (agentEngine m.tenant core) hAtomic true (BitVec.ofNat 64 (cb b.block 48 8)) = .ok l → uncached s l.key 8 →
      ∃ t, complete = .next t ∧ becomes t .done ∧ t.rdV l.key 8 = (s.rdV l.key 8 + 1) % 2 ^ 64) ∧
    (∀ r : Rec, m.st = .active → (m.op = .drain r ∧ (r.fmt = .fp32 ∨ r.fmt = .raw32)) ∨ (m.op = .drainn r ∧ r.fmt ∈ [Fmt.bf16, .fp16, .e4m3, .e5m2]) →
      r.ok = true → r.bounds = 0 → tile.state = .valid → tile.dual = false →
      tile.counter = 0 → allClean s → MemoryKept s → (∀ b, tile.binding = some b → 1 ≤ cb b.block 0 1 ∧ cb b.block 0 1 ≤ 64 ∧ 1 ≤ cb b.block 1 1 ∧ cb b.block 1 1 ≤ 64) →
      let rows := (tile.binding.map (fun b => cb b.block 0 1)).getD 64
      let cols := (tile.binding.map (fun b => cb b.block 1 1)).getD 64
      let w := if r.fmt = .fp32 ∨ r.fmt = .raw32 then 4 else if r.fmt = .bf16 ∨ r.fmt = .fp16 then 2 else 1
      let made (x : Word) : Rounded := if w = 4 then ⟨x.toNat, false, 0⟩ else fround r.fmt { modeR m.mode with sr := false, ftz := false } 0 (fp32Val x)
      let at_ (i : Nat) : Nat := r.base + i * r.stride1.toNat
      let drained (key : Nat → Nat) (read : State → Nat → Nat → Nat) : Prop := ∃ t, complete = .next t ∧ becomes t .done ∧ t.tile core m.handle = tile ∧
        (∀ i < rows, ∀ j < cols, read t i (w * j) = (made (tile.elem i j)).bits) ∧
        (∀ a, (∀ i < rows, a < key i ∨ key i + w * cols ≤ a) → t.rd8 a = s.rd8 a) ∧
        ∀ g, s.group? m.tid = some g → ∃ g', t.group? m.tid = some g' ∧
          ((∃ i < rows, ∃ j < cols, (made (tile.elem i j)).sat = true) → g'.status = g.status ||| 8) ∧
          ((∀ i < rows, ∀ j < cols, (made (tile.elem i j)).sat = false) → g'.status = g.status)
      (w * cols : Int) ≤ r.stride1 → r.stride1 % w = 0 → r.base % w = 0 → (rows - 1) * r.stride1.toNat + w * cols ≤ r.extent →
      (r.space = 1 → at_ (rows - 1) + w * cols ≤ nearSize - s.stageBytes m.tenant → drained (fun i => keyNear core (at_ i)) (fun t i o => t.rdV (keyNear core (at_ i) + o) w)) ∧
      (r.space = 0 → at_ (rows - 1) + w * cols ≤ 2 ^ 64 → ∀ loc : Nat → Loc, (∀ i < rows, at_ i % 2 ^ 16 + w * cols ≤ 2 ^ 16 ∧
          s.translate (agentEngine m.tenant core) hWrite r.bypass (BitVec.ofNat 64 (at_ i)) = .ok (loc i) ∧
          uncached s (loc i).key (w * cols) ∧ ∀ j < rows, j ≠ i → (loc i).key + w * cols ≤ (loc j).key ∨ (loc j).key + w * cols ≤ (loc i).key) →
        drained (fun i => (loc i).key) (fun t i o => natOfBytes ((List.range w).map (fun x => t.peek8 core (loc i).path ((loc i).key + o + x)))) ∧
        ((∀ i < rows, (loc i).path ≠ .l1) → drained (fun i => (loc i).key) (fun t i o => t.rdV ((loc i).key + o) w))))

/-- R285, R289, R292, R293, R295, R296, R298, R300, R339 to R342, R385: what goes wrong in an engine, and what it sends. A
drain of an INVALID or POISON tile fails with MXCMD or POISON, with the tile as it was; a failure is noted for MOP.check and
left to the task as a deferred trap, which ends the task; a translation fault waits for service. A reduction slot keeps a
contribution until every rank's has come, then writes each row's sum in increasing rank. A copy collective moves the bytes.
That a drain's state and DUAL checks come before any access failure is the model's reading (notes/assumptions/20.md), that an
engine reads and writes a whole access at its completion is its choice (notes/assumptions/21.md), and so are which split takes a
deferred trap (notes/assumptions/23.md) and which flit carries which sectors of a contribution (notes/assumptions/38.md). -/
def Obligations.EngineFailuresAndTransfers : Prop :=
  (∀ (s : State) (core : Nat) (m : MCmd) (a : DWord) (k : Byte), s.running = false → goodCmd s core m →
    let tile := s.tile core m.handle
    let fails (o : Host.Outcome State Fault Refusal) (code : TrapCode) (addr : DWord) (op : Nat) : Prop := ∃ t m', o = .next t ∧
      t.cmd? core m.id = some m' ∧ m'.st = .failed code addr ∧
      (t.tile core m.handle).state = tile.state ∧ (t.tile core m.handle).elems = tile.elems ∧
      (t.tile core m.handle).binding = tile.binding ∧
      (tile.err = none → (t.tile core m.handle).err = some (BitVec.ofNat 8 code.num, BitVec.ofNat 8 op, 1, addr)) ∧
      (∀ c o n b, tile.err = some (c, o, n, b) → (t.tile core m.handle).err = some (c, o, n + 1, b)) ∧
      ∀ g, s.group? m.tid = some g → t.group? m.tid = some { g with deferred := g.deferred ++ [{ code := code, addr := addr }] }
    let both (st : MState) : List Instr := match st with
      | .active => [.matrixCommandComplete core m.id, .engineAccessFailure core m.id k a]
      | _ => []
    (∀ r op, (m.op = .drain r ∧ op = 0 ∨ m.op = .drainn r ∧ op = 1) → ∀ i ∈ both m.st,
      (tile.state = .invalid → fails (exec i s) .mxcmd 0 op) ∧ (tile.state = .poison → fails (exec i s) .poison 0 op) ∧
      (∀ p q : Nat, tile.state = .valid → tile.dual = true → p < tile.span.1 → q < tile.span.2 → tile.elem p q ≠ tile.elem (p + 32) q →
        fails (exec i s) .mxmismatch 0 op)) ∧
    (∀ n b d, m.op = .mloop n → tile.binding = some b → cb b.block 48 8 ≠ 0 →
      s.translate (agentEngine m.tenant core) hAtomic true (BitVec.ofNat 64 (cb b.block 48 8)) = .error (.xlate d) → d ≠ 4 →
      ∀ i ∈ both m.st, ∃ t m', exec i s = .next t ∧ t.cmd? core m.id = some m' ∧
        m'.st = .service { code := .xlate, addr := BitVec.ofNat 64 (cb b.block 48 8), detail := d, access := .atomic } ∧
        t.tile core m.handle = tile ∧
        ∀ e, s.tenant? m.tenant = some e → ∃ e', t.tenant? m.tenant = some e' ∧
          ∃ f ∈ e'.faults, f.page = cb b.block 48 8 / 2 ^ 16) ∧
    (∀ ops, m.st = .sent → m.op = .fdrain ops → s.moduleNo ≠ some (ops.extractLsb' 8 16) → tile.binding = none →
      (∃ t m', exec (.matrixCommandComplete core m.id) s = .next t ∧ t.cmd? core m.id = some m' ∧ m'.st = .done) ∧
      fails (exec (.engineAccessFailure core m.id 1 a) s) .invop a 2 ∧ fails (exec (.engineAccessFailure core m.id 8 a) s) .perm a 2) ∧
    (∀ ops, (s.cmd? core m.id).map (·.st) = some .queued → m.op = .fdrain ops → s.moduleNo.isSome = true →
      s.moduleNo ≠ some (ops.extractLsb' 8 16) → (ops.extractLsb' 8 16).toNat ∉ s.routesDown → tile.binding = none → tile.state = .valid →
      (s.core? core).mqHalt = none → (s.core? core).preempting = false → (s.die? (core / 128)).shut = false →
      (∀ a b, (s.core? core).mq = a ++ m :: b → ∀ y ∈ a, y.handle = m.handle → y.final = true) →
      ∃ t m' fs, exec (.matrixCommandStart core m.id) s = .next t ∧ t.cmd? core m.id = some m' ∧ m'.st = .sent ∧
        t.outFlits = s.outFlits ++ fs ∧ fs.flatMap (fun f => f.sectors.flatMap (·.1)) =
          (List.range 4096).flatMap (fun k => (List.range 4).map (fun x => BitVec.ofNat 8 ((tile.elem (k / 64) (k % 64)).toNat / 2 ^ (8 * x)))) ∧
        ∀ f ∈ fs, f.kind = .reductionRow ∧ f.dst = ops.extractLsb' 8 16 ∧ some f.src = s.moduleNo ∧ f.tenant = m.tenant ∧ f.crcOk = true ∧
          f.sectors.length ≤ 3 ∧ (∀ x ∈ f.sectors, x.1.length = 64 ∧ x.2 = crc16 x.1) ∧ f.bad = 0 ∧
          ∃ c, f.row = some c ∧ c.rank = field ops 39 32 ∧ c.count = field ops 47 40 + 1 ∧ c.row0 = field ops 79 64 ∧ c.m = 64 ∧ c.n = 64)) ∧
  -- R292: the deferred trap ends its task
  (∀ (s : State) (tid : Nat) (g : Group) (p : Split), s.running = false → s.group? tid = some g → g.deferred ≠ [] → g.traps = [] →
    g.handler = none → p ∈ g.splits → p.atBoundary = true → p.entry.isSome = true → p.stopped = false →
    ∃ t, exec (.deferredTrap tid) s = .next t ∧ t.group? tid = none) ∧
  -- R341, R342: a contribution that leaves its round open, and one that completes it
  (∀ (s : State) (n : Nat) (c : Contribution) (q : RSlot) (failed : Bool), s.running = false → s.rslot? n = some q →
    c.sender = none → c.rank < c.count → c.count = q.get 15 1 + 1 → c.n = q.get 14 1 → c.row0 + c.m ≤ q.get 12 2 →
    q.modLo ≤ c.module → c.module ≤ q.modHi → c.tenant = q.get 24 1 →
    let i : Instr := if failed then .failureMarker n c else .reductionRowArrive n c
    let now := q.parts.filter (fun p => p.1 == q.round)
    let mine := q.round + (q.parts.filter (fun p => p.2.2.rank == c.rank)).length
    ((∃ r < c.count, (r ≠ c.rank ∨ mine ≠ q.round) ∧ ∀ p ∈ now, p.2.2.rank ≠ r) →
      ∃ t q', exec i s = .next t ∧ t.rslot? n = some q' ∧ q'.round = q.round ∧ q'.parts = q.parts ++ [(mine, failed, c)] ∧
        (failed = false → t.mem = s.mem)) ∧
    (mine = q.round → (∀ r < c.count, r ≠ c.rank → ∃ p ∈ now, p.2.2.rank = r) →
      ∃ t q', exec i s = .next t ∧ t.rslot? n = some q' ∧ q'.round = q.round + 1 ∧
        q'.parts = q.parts.filter (fun p => p.1 != q.round)) ∧
    (∀ l, failed = false → q.get 15 1 = 0 → q.parts = [] → q.get 12 2 = 1 → c.m = 1 → q.get 16 8 = 0 → s.poison = [] → MemoryKept s →
      s.translate (agentFront (q.get 24 1)) hWrite true (BitVec.ofNat 64 (q.get 0 8)) = .ok l → uncached s l.key (4 * c.n) →
      ∃ t, exec i s = .next t ∧ (∀ j < c.n, t.rdV (l.key + 4 * j) 4 = (((c.rows.getD 0 []).getD j 0)).toNat) ∧
        ∀ a, (a < l.key ∨ l.key + 4 * c.n ≤ a) → t.rd8 a = s.rd8 a)) ∧
  -- R341: the sum of a row, in increasing rank
  (∀ (x : Word) (xs : List Word) (y : Word), foldRank [] = 0 ∧ foldRank [x] = x ∧
    foldRank (x :: xs ++ [y]) = fp32RNE (fadd false (fp32Val (foldRank (x :: xs))) (fp32Val y))) ∧
  -- R299, R300: a collective of one slice within a core's scratch
  (∀ (s : State) (core team : Nat) (x : Slice), s.running = false → (s.core? core).copyq = [x] → x.team = team → x.started = true →
    x.service = none → x.result = none → x.snap = [] → x.cc = 0 → s.poison = [] → allClean s → MemoryKept s →
    let src : Rec := x.src
    let dst : Rec := x.dst
    let plain (r : Rec) : Prop := r.ok = true ∧ r.space = 1 ∧ r.bounds = 0 ∧ r.base % 4 = 0 ∧ (x.rowBytes : Int) ≤ r.stride1 ∧ r.stride1 % 4 = 0 ∧
      (x.rows - 1) * r.stride1.toNat + x.rowBytes ≤ r.extent ∧
      r.base + (x.rows - 1) * r.stride1.toNat + x.rowBytes ≤ nearSize - s.stageBytes x.tenant
    plain src → plain dst → 1 ≤ x.rows → 1 ≤ x.rowBytes →
      ∃ t, exec (.copyCollectiveComplete core team) s = .next t ∧ (t.core? core).copyq = [] ∧
        (∀ i < x.rows, ∀ j < x.rowBytes, t.rd8 (keyNear core (dst.base + i * dst.stride1.toNat + j)) =
          s.rd8 (keyNear core (src.base + i * src.stride1.toNat + j))) ∧
        ∀ a, (∀ i < x.rows, a < keyNear core (dst.base + i * dst.stride1.toNat) ∨
          keyNear core (dst.base + i * dst.stride1.toNat) + x.rowBytes ≤ a) → t.rd8 a = s.rd8 a)

/-! ## The steps of a core (spec 10, 14, 15, 19) -/

/-- R94, R99, R144, R159, R162, R166, R208, R220, R323, R326, R353, R372, R382, R401: the steps of a core. A side issues for
the ready group with the most credit, ties to the lowest slot, and for its runnable splits of the lowest counts; a window
that has ended starts the next at its pc; a row that arrives lets its splits go on; a walk fills the TLB; a request enters a
slice that has room, and counts; SYSC is answered; the watchdog and pending traps end or stop a task. That a group which gives way
counts in the sum of the weights is the model's reading (notes/assumptions/34.md), and so are the result and the reach of a walk
(notes/assumptions/18.md) and the watchdog's mark (notes/assumptions/25.md); which entries of a slice's queue have been left when
another request enters is its choice (notes/assumptions/48.md). -/
def Obligations.CoreSteps : Prop :=
  ∀ s : State, s.running = false →
    (∀ (core side : Nat) (g : Group) (p : Split),
      let mine := s.groups.filter (fun g => g.core == core && decide (g.slot.map (fun i => i / 64) = some side))
      (s.die? (core / 128)).shut = false → (s.groups.map (·.tid)).Nodup → (∀ k ∈ (s.core? core).teams, k.members = []) → g ∈ mine →
      g.splits = [p] → p.st = .run → p.stopped = false → p.handler = false → p.entry.isSome = true → p.lanes ≠ 0 →
      g.hold = false → g.wdog = false → g.traps = [] → g.handler = none → g.giveWay = false → g.wasReady = true →
      (∀ k ∈ mine, k.age < 960) →
      (∀ k ∈ mine, k.tid ≠ g.tid → k.ready = true → k.giveWay = true ∨ k.wasReady = true ∧
        (k.credit + (1 + tPrio k.record : Nat) < g.credit + (1 + tPrio g.record : Nat) ∨
          k.credit + (1 + tPrio k.record : Nat) = g.credit + (1 + tPrio g.record : Nat) ∧ g.slot.getD 256 < k.slot.getD 256)) →
      (∀ k ∈ mine, k.slot.getD 256 < 256) →
      ∃ t, exec (.issueCycle core side) s = .next t ∧ t.running = true ∧ t.g.tid = g.tid ∧ t.sp.sid = p.sid ∧ t.sp.count = 0 ∧
        t.todo = [] ∧ t.g.age = 0 ∧ t.mem = s.mem ∧
        t.g.credit = g.credit + (1 + tPrio g.record : Nat) - ((mine.filter (fun k => k.ready)).map (fun k => ((1 + tPrio k.record : Nat) : Int))).sum) ∧
    (∀ (tid sid : Nat) (g : Group) (p : Split), s.group? tid = some g → g.split? sid = some p → p.st = .win → s.inFlight g sid = false →
      p.stopped = false → p.entry.isSome = true → p.wtrap = none → g.traps = [] → g.deferred = [] → g.handler = none → g.wdog = false → g.cancel = false →
      ∃ t g' q, exec (.windowComplete tid sid) s = .next t ∧ t.groupSeen tid = some g' ∧ t.splitSeen tid sid = some q ∧ q.st = .run ∧
        q.wpc = p.pc ∧ q.pc = p.pc ∧ q.wcm = 0 ∧ q.pos = 0 ∧ q.slo = p.slo ∧ q.alo = p.alo ∧ q.mode = p.mode ∧ q.lanes = p.lanes ∧
        q.joins = p.joins ∧ q.rets = p.rets ∧ q.loop = p.loop ∧ g'.coxWin.toNat = min (g.coxWin.toNat + 1) (2 ^ 32 - 1) ∧
        g'.vregs = g.vregs ∧ g'.shi = g.shi ∧ g'.preds = g.preds ∧ g'.qregs = g.qregs ∧ t.mem = s.mem) ∧
    (∀ (tid reg : Nat) (g : Group) (p : Split), s.group? tid = some g → p ∈ g.splits → p.st = .res reg →
      ∃ t g', exec (.residencyFill tid reg) s = .next t ∧ t.group? tid = some g' ∧ reg ∉ g'.absent ∧
        (∀ q ∈ g'.splits, q.st ≠ .res reg) ∧ g'.vregs = g.vregs ∧ t.mem = s.mem) ∧
    (∀ (core tenant page : Nat), ∃ t e, exec (.pageWalkComplete core tenant page) s = .next t ∧ t.mem = s.mem ∧
      (e = s.walkNow tenant page ∨ (core / 128, e) ∈ s.dtlb ∧ e.tenant = tenant ∧ e.page = page) ∧
      (t.core? core).tlb.head? = some e ∧ (t.core? core).tlb.length ≤ 2048 ∧ (core / 128, e) ∈ t.dtlb ∧
      (∀ x ∈ t.dtlb, x.1 = core / 128 → x.2.tenant = tenant → x.2.page = page → x.2 = e) ∧
      (∀ g ∈ t.groups, g.core / 128 = core / 128 → g.tenant = tenant → ∀ p ∈ g.splits, p.st ≠ .walk page) ∧
      ∀ g ∈ s.groups, g.core / 128 = core / 128 → g.tenant = tenant → (∃ p ∈ g.splits, p.st = .walk page) →
        (t.core? g.core).tlb.head? = some e) ∧
    (∀ (id : Nat) (r : SliceReq), s.sreqs.find? (fun q => q.id == id && !q.counted) = some r →
      let here := s.sreqs.filter (fun q => q.counted && q.die == r.die && q.slice == r.slice)
      -- requests that wait at a CXL port hold their entries; the others may have left
      let stay := here.filter (fun q => q.port.isSome)
      let cnt (t : State) : SliceCnt := t.sliceCnt r.die r.slice r.tenant
      (32 ≤ stay.length → ∃ t, exec (.sliceRequestEnter id) s = .next t ∧ r ∈ t.sreqs ∧ t.slices = s.slices ∧ t.mem = s.mem) ∧
      (here.length < 32 → ∃ (t : State) (n : Nat), exec (.sliceRequestEnter id) s = .next t ∧
        (cnt t).req.toNat = min ((cnt s).req.toNat + 1) (2 ^ 32 - 1) ∧ stay.length < n ∧ n ≤ here.length + 1 ∧
        (cnt t).occ = max (cnt s).occ n ∧ (∀ q ∈ t.sreqs, q.id = id → q.counted = true) ∧
        ((∀ g ∈ s.groups, ∀ p ∈ g.splits, p.wsnaps = []) → t.mem = s.mem))) ∧
    (∀ (tid sid : Nat) (g : Group) (p : Split) (num : Word) (args : List Word), s.group? tid = some g → g.split? sid = some p →
      p.st = .park (.sysc num args) → p.stopped = false → p.handler = false → p.unwritten (.s 0) = true → p.unwritten (.s 1) = true →
      g.freeEntry none ≠ none → p.entry = none → sid ∉ g.ovf →
      let ones : DWord := 0xFFFFFFFFFFFFFFFF
      let gives (v : DWord) : Prop := ∃ t q, exec (.syscReply tid sid) s = .next t ∧ t.splitSeen tid sid = some q ∧ q.st = .win ∧
        q.slo[0] = v.setWidth 32 ∧ q.slo[1] = v.extractLsb' 32 32 ∧ q.entry.isSome = true ∧ q.pc = p.after ∧
        q.wcm = p.wcm ||| BitVec.ofNat 64 (2 ^ p.pos) ∧ (num = 2 → (args.headD 0).toNat < 64 → t.irqs = (some g.tenant, (args.headD 0).toNat) :: s.irqs)
      (num = 0 → gives 0) ∧ (num = 2 → (args.headD 0).toNat < 64 → gives 0) ∧ (num = 2 → 64 ≤ (args.headD 0).toNat → gives ones) ∧
      (num = 3 → gives (match s.moduleNo with
        | some m => BitVec.ofNat 64 m.toNat
        | none => ones)) ∧
      (∀ e, num = 4 → s.tenant? g.tenant = some e →
        gives (BitVec.ofNat 64 ((List.range 1152).filter (fun i => e.cores.getLsbD i)).length)) ∧
      (5 ≤ num.toNat → gives ones) ∧ (num = 1 → ∃ v, gives v ∧ (v = 0 ∨ v = 1))) ∧
    (∀ (tid : Nat) (g : Group) (p : Split) (i : TrapInfo), s.group? tid = some g → g.splits = [p] → g.traps = [i] → i.sid = p.sid →
      g.handler = none → p.stopped = true → g.wdog = false →
      (g.isFatal p i = true → ∃ t, exec (.trapTaken tid) s = .next t ∧ t.group? tid = none) ∧
      (g.isFatal p i = false → s.inFlight g p.sid = false → ∃ t g' h, exec (.trapTaken tid) s = .next t ∧ t.group? tid = some g' ∧
        g'.handler = some h ∧ h.trap = i ∧ g'.traps = [] ∧ ∃ q ∈ g'.splits, q.handler = true ∧ q.pc = g.launch.tvec ∧ q.slo = p.slo)) ∧
    (∀ (tid : Nat) (g : Group) (e : Tenant), s.group? tid = some g → s.tenant? g.tenant = some e → e.wdog ≠ 0 → g.wdogOff = none → g.wdog = false →
      g.traps = [] → g.handler = none → g.deferred = [] → (∃ p ∈ g.splits, p.lanes ≠ 0 ∧ p.handler = false) →
      (∀ p ∈ g.splits, p.stopped = false ∧ p.atBoundary = true) → g.wdogMark.2 + e.wdog * 1000 ≤ s.time →
      ∃ t, exec (.watchdog tid) s = .next t ∧ t.group? tid = none) ∧
    (∀ (e : Tenant) (c : CrewRef), s.tenants = [e] → e.watch = [c] → cget (s.crewRead c) 0 8 ≠ 0 → cget (s.crewRead c) 0 8 ≤ s.time →
      crewBad (s.crewRead c) = false → crewState (s.crewRead c) = 1 → MemoryKept s → (∀ k ∈ [c.k0, c.k1, c.k2], uncached s k 256) →
      ([c.k0, c.k1, c.k2].Pairwise (fun a b => a + 256 ≤ b ∨ b + 256 ≤ a)) →
      ∃ t, exec (.crewDeadlineCheck c.k0) s = .next t ∧ t.crewRead c = normalize (s.crewRead c) ∧ t.watched e.id c = false)

/-! ## Racks and stealing (spec 15) -/

/-- R317: the sum of what the present tiles of an entry stage, where every source record can be read and is in order. -/
def stagedSum (s : State) (victim tenant : Nat) (e : Entry) (n : Nat) : Prop :=
  ∃ ns : List Nat, n = ns.sum ∧ List.Forall₂ (fun (d : TileDesc) (m : Nat) => d.recAddr % 32 = 0 ∧
    ∃ l, s.translate (agentEngine tenant victim) hRead false (BitVec.ofNat 64 d.recAddr) = .ok l ∧ uncached s l.key 32 ∧ s.poison = [] ∧
      let src : Rec := ofBytes 256 (s.rdN l.key 32)
      src.ok = true ∧ m = d.rows * ((d.cols * src.fmt.width + 7) / 8)) (e.members.flatMap (fun t => (presentTiles t.record).map (·.2))) ns

/-- R155, R233, R302, R303, R306, R310, R311, R314, R316, R317, R327: a pop takes the hottest entry that may start, and the task starts with
the context of R155; a team unit starts whole or is skipped, and one that has been skipped 64 times holds the core's pops; staging
takes an entry, moves its rows and makes it runnable; an idle core probes others, a victim gives its coldest entry, to another die
only where its depth, the entry's staged bytes and the thief's idle time meet the thresholds, and the entry arrives at the thief's
hot end. That the rows of a tile arrive in order is the model's reading (notes/assumptions/33.md), and so are the passing over of
entries that do not fit (notes/assumptions/34.md) and the third step's joining the next round (notes/assumptions/35.md). -/
def Obligations.RackSteps : Prop :=
  (∀ (s : State) (core tenant : Nat) (t : TaskRec) (rest : List Entry) (eid : Nat) (tiles : List TileIn), s.running = false →
    let c := s.core? core
    let e : Entry := ⟨eid, [t], .runnable, tiles, 0, false, none⟩
    (∃ x, s.tenant? tenant = some x ∧ x.cores.getLsbD core = true) → s.coreTenant core = some tenant →
    c.preempting = false → c.saved = false → (s.die? (core / 128)).shut = false →
    c.rack = rest ++ [e] → (∀ x ∈ rest, x.eid ≠ eid ∧ x.skips < 64) → (c.pops + 1).toNat % 4096 ≠ 0 → t.origin = .single →
    (∀ g ∈ s.groups, g.tid ≠ t.tid) → (∃ k < 256, ∀ g ∈ s.groups, g.core = core → g.slot ≠ some k) → s.groups.length < 16000 →
    t.launch.fuse = false → s.saves = [] →
    ∃ u g p, exec (.pop core) s = .next u ∧ (u.core? core).rack = rest ∧ (u.core? core).pops = c.pops + 1 ∧ u.group? t.tid = some g ∧
      g.splits = [p] ∧ g.core = core ∧ g.tenant = tenant ∧ g.record = t.record ∧ g.launch = t.launch ∧
      (∃ k, g.slot = some k ∧ k < 256 ∧ ∀ q ∈ s.groups, q.core = core → q.slot ≠ some k) ∧
      p.lanes = 0xFFFF ∧ p.pc = tEntry t.record ∧ p.wpc = tEntry t.record ∧ p.entry = some 0 ∧ p.mode = 0x18 ∧ p.wcm = 0 ∧ p.pos = 0 ∧
      p.st = .run ∧ p.joins = [] ∧ p.rets = [] ∧ p.loop = none ∧ (∀ i : Fin 16, p.slo[i] = 0) ∧ (∀ i : Fin 8, p.alo[i] = ⟨0, 0⟩) ∧
      (∀ i : Fin 48, g.shi[i] = if i.val < 16 then 0 else tArg t.record (i.val - 16)) ∧ (∀ i : Fin 24, g.ahi[i] = ⟨0, 0⟩) ∧
      (∀ i : Fin 8, 0 < i.val → g.preds[i] = 0) ∧ (∀ i : Fin 128, g.vregs[i].tag = .dead) ∧ (tiles = [] → ∀ i : Fin 16, g.qregs[i] = 0) ∧
      g.status = 0 ∧ (∀ i : Fin 4, g.teams[i] = none) ∧ g.traps = [] ∧ g.handler = none) ∧
  (∀ (s : State) (core tenant : Nat) (t : TaskRec) (rest : List Entry) (eid : Nat), s.running = false →
    let c := s.core? core
    let e : Entry := ⟨eid, [t], .waitStage, [], 0, false, none⟩
    s.coreTenant core = some tenant → c.preempting = false → c.saved = false → (s.die? (core / 128)).shut = false →
    c.rack = rest ++ [e] → (∀ x ∈ rest, x.eid ≠ eid ∧ x.st ≠ .staging) →
    (memberOk t tenant = true → presentTiles t.record = [] →
      ∃ u, exec (.prefetchTake core) s = .next u ∧ (u.core? core).rack = rest ++ [{ e with st := .runnable }] ∧ u.mem = s.mem) ∧
    (memberOk t tenant = false → ∃ u, exec (.prefetchTake core) s = .next u ∧ (u.core? core).rack = rest)) ∧
  -- R233, R314, R327: a team unit
  (∀ (s : State) (core tenant : Nat) (e : Entry) (below above : List Entry), s.running = false →
    let c := s.core? core
    let n := e.members.length
    let free := ((List.range 256).filter (fun k => s.groups.all (fun g => g.core != core || g.slot != some k))).length
    (∃ x, s.tenant? tenant = some x ∧ x.cores.getLsbD core = true) → s.coreTenant core = some tenant →
    c.preempting = false → c.saved = false → (s.die? (core / 128)).shut = false → e.resume = none → e.held = false → e.st = .runnable →
    1 ≤ n → (∀ t ∈ e.members, t.origin = .team n ∧ t.launch.fuse = false) → (e.members.map (·.tid)).Nodup → (∀ t ∈ e.members, ∀ g ∈ s.groups, g.tid ≠ t.tid) →
    c.rack = below ++ e :: above → (∀ x ∈ below ++ above, x.eid ≠ e.eid ∧ x.skips < 64) → (∀ x ∈ above, x.st ≠ .runnable) →
    s.groups.length + n < 16000 → s.saves = [] → (c.pops + 1).toNat % 4096 ≠ 0 →
    (n ≤ free → c.teams.length < 256 →
      ∃ u, exec (.pop core) s = .next u ∧ (u.core? core).rack = below ++ above ∧ (u.core? core).pops = c.pops + 1 ∧
        ∃ (team : Nat) (slots : List Nat), slots.Nodup ∧ slots.length = n ∧ (∀ k ∈ slots, k < 256 ∧ ∀ g ∈ s.groups, g.core = core → g.slot ≠ some k) ∧
          (∃ k, (u.core? core).teams = c.teams ++ [k] ∧ k.id = team ∧ k.n = n ∧ k.members = e.members.zipIdx.map (fun p => (p.2, p.1.tid)) ∧
            k.parent = none ∧ k.gone = []) ∧
          ∀ i < n, ∀ t, e.members[i]? = some t → ∃ g, u.group? t.tid = some g ∧ g.slot = slots[i]? ∧ g.core = core ∧ g.tenant = tenant ∧
            g.record = t.record ∧ g.teams[0] = some ⟨team, i⟩) ∧
    -- it does not fit: it is skipped, and the entry below it is taken in its place
    (free < n ∨ 256 ≤ c.teams.length → 1 ≤ free → e.skips + 1 < 64 →
      (below = [] → ∃ u, exec (.pop core) s = .next u ∧ (u.core? core).rack = { e with skips := e.skips + 1 } :: above ∧
        (u.core? core).pops = c.pops + 1 ∧ u.groups = s.groups) ∧
      (∀ y t, below = [y] → y.members = [t] → t.origin = .single → t.launch.fuse = false → y.resume = none → y.st = .runnable → y.held = false →
        (∀ g ∈ s.groups, g.tid ≠ t.tid) → (∀ x ∈ above, x.eid ≠ y.eid) →
        ∃ u g, exec (.pop core) s = .next u ∧ (u.core? core).rack = { e with skips := e.skips + 1 } :: above ∧ u.group? t.tid = some g ∧ g.core = core)) ∧
    (free < n ∨ 256 ≤ c.teams.length → e.skips = 64 → ∃ u, exec (.pop core) s = .next u ∧ u.cores = s.cores ∧ u.groups = s.groups)) ∧
  -- R302, R303: one row of one tile, from memory past the L1 to the stage area
  (∀ (s : State) (core tenant off : Nat) (t : TaskRec) (eid : Nat) (src : Rec) (l : Loc), s.running = false →
    let d := tileDesc (tTile t.record 0)
    let tile : TileIn := ⟨0, 0, src, .stage off ((d.rows * stageStride d src.fmt + 255) / 256 * 256), d.rows, 0⟩
    let e : Entry := ⟨eid, [t], .staging, [tile], 0, false, none⟩
    let n := (d.cols * src.fmt.width + 7) / 8
    let start : Int := (d.row0 : Int) * src.stride1 + (d.col0 * src.fmt.width / 8 : Nat)
    let place := keyNear core (nearSize - s.stageBytes tenant + off)
    s.coreTenant core = some tenant → (s.core? core).rack = [e] → 1 ≤ d.rows → 1 ≤ d.cols → src.fmt.width % 8 = 0 → src.bounds = 0 → src.space = 0 →
    0 ≤ start → start + n ≤ src.extent → (recAddr src start).toNat % (src.fmt.width / 8) = 0 →
    (recAddr src start).toNat % 2 ^ 16 + n ≤ 2 ^ 16 → s.translate (agentEngine tenant core) hRead src.bypass (recAddr src start) = .ok l →
    s.poison = [] → uncached s l.key n → allClean s → MemoryKept s →
    ∃ u e', exec (.stagingRowArrive core eid) s = .next u ∧ (u.core? core).rack = [e'] ∧
      (d.rows = 1 → e'.st = .runnable) ∧ (1 < d.rows → e'.st = .staging) ∧ e'.tiles.map (·.done) = [1] ∧
      (∀ j < n, u.rd8 (place + j) = s.rd8 (l.key + j)) ∧ ∀ a, (a < place ∨ place + n ≤ a) → u.rd8 a = s.rd8 a) ∧
  -- R302: the record of a staged tile
  (∀ (d : TileDesc) (src : Rec) (off n : Nat), src.ok = true → off < 2 ^ 40 → n < 16 → d.rows < 2 ^ 16 → d.cols < 2 ^ 16 →
    let r := stagedRec d src (.stage off 0)
    let q := stagedRec d src (.attic n)
    let b := if src.fmt.width = 4 then 1 else src.fmt.width / 8
    r.ok = true ∧ r.base = off ∧ r.extent = d.rows * (((d.cols * src.fmt.width + 7) / 8 + 15) / 16 * 16) ∧ r.space = 5 ∧
    r.stride0 = src.laneBytes ∧ r.stride1 = ((((d.cols * src.fmt.width + 7) / 8 + 15) / 16 * 16 : Nat) : Int) ∧
    r.bounds = 0 ∧ r.policy = 0 ∧ r.fmt = src.fmt ∧ r.lw = src.lw ∧ r.qg = src.qg ∧ field r 223 184 = 0 ∧
    q.ok = true ∧ q.base = n * 0x10000 ∧ q.extent = 0x10000 ∧ q.space = 4 ∧ q.stride0 = 0x400 ∧ q.stride1 = (b : Int) ∧ q.bounds = 0 ∧
    q.policy = 0 ∧ q.fmt = src.fmt ∧ q.lw = src.lw ∧ q.qg = src.qg) ∧
  -- R316, R317: a round, a probe, a delivery
  (∀ (s : State) (core tenant : Nat) (x : Tenant), s.running = false → s.coreTenant core = some tenant → s.tenant? tenant = some x →
    let c := s.core? core
    c.preempting = false → c.saved = false → (s.die? (core / 128)).shut = false → c.rack = [] → c.inbound = [] → c.probes = [] →
    (∃ k < 256, ∀ g ∈ s.groups, g.core = core → g.slot ≠ some k) →
    ∃ u, exec (.stealRound core) s = .next u ∧
      (∀ d, d ∈ (u.core? core).probes ↔ d < 1152 ∧ x.cores.getLsbD d = true ∧ d ≠ core ∧ (d / 128 = core / 128 ∨ c.nearRound = true)) ∧
      ((u.core? core).probes.Pairwise (fun a b => ¬ (a / 32 ≠ core / 32 ∧ b / 32 = core / 32) ∧ ¬ (a / 128 ≠ core / 128 ∧ b / 128 = core / 128))) ∧
      u.mem = s.mem) ∧
  (∀ (s : State) (thief victim tenant : Nat) (e : Entry) (rest : List Entry), s.running = false → thief ≠ victim → thief / 128 = victim / 128 →
    s.coreTenant thief = some tenant → s.coreTenant victim = some tenant → (s.die? (thief / 128)).shut = false →
    let c := s.core? thief
    let v := s.core? victim
    c.preempting = false → c.saved = false → v.preempting = false → v.saved = false → c.rack = [] → c.inbound = [] →
    c.probes.head? = some victim → (∃ k < 256, ∀ g ∈ s.groups, g.core = thief → g.slot ≠ some k) →
    v.rack = e :: rest → e.resume = none → e.held = false → (∀ y ∈ rest, y.eid ≠ e.eid) →
    ∃ u, exec (.stealProbe thief victim) s = .next u ∧ (u.core? victim).rack = rest ∧
      (u.core? thief).inbound = [⟨victim, { e with st := .waitStage, tiles := [], skips := 0 }⟩] ∧ (u.core? thief).probes = [] ∧ u.mem = s.mem) ∧
  -- R317: a probe from another die
  (∀ (s : State) (thief victim tenant since : Nat) (x : Tenant) (e : Entry) (rest : List Entry), s.running = false → thief / 128 ≠ victim / 128 →
    s.coreTenant thief = some tenant → s.coreTenant victim = some tenant → s.tenant? tenant = some x →
    (s.die? (thief / 128)).shut = false → (s.die? (victim / 128)).shut = false →
    let c := s.core? thief
    let v := s.core? victim
    c.preempting = false → c.saved = false → v.preempting = false → v.saved = false → c.rack = [] → c.inbound = [] → c.idleSince = some since →
    c.probes.head? = some victim → (∃ k < 256, ∀ g ∈ s.groups, g.core = thief → g.slot ≠ some k) →
    v.rack = e :: rest → e.resume = none → e.held = false → (∀ y ∈ rest, y.eid ≠ e.eid) → allClean s →
    let depth := ((v.rack.filter (fun y => y.resume = none)).map (fun y => y.members.length)).sum
    ∃ u, exec (.stealProbe thief victim) s = .next u ∧ u.mem = s.mem ∧
      let taken : Prop := (u.core? victim).rack = rest ∧
        (u.core? thief).inbound = [⟨victim, { e with st := .waitStage, tiles := [], skips := 0 }⟩] ∧ (u.core? thief).probes = []
      let left : Prop := (u.core? victim).rack = v.rack ∧ (u.core? thief).inbound = [] ∧ (u.core? thief).probes = c.probes.drop 1
      (∀ n, stagedSum s victim tenant e n →
        (x.locDepth.toNat ≤ depth ∧ n ≤ x.locBytes.toNat ∧ x.locIdle.toNat ≤ (u.core? thief).cycles - since → taken) ∧
        (depth < x.locDepth.toNat ∨ x.locBytes.toNat < n ∨ (u.core? thief).cycles - since < x.locIdle.toNat → left)) ∧
      ((∃ m ∈ e.members, ∃ d ∈ presentTiles m.record, d.2.recAddr % 32 ≠ 0 ∨
          (∃ f, s.translate (agentEngine tenant victim) hRead false (BitVec.ofNat 64 d.2.recAddr) = .error f) ∨
          ∃ l, s.translate (agentEngine tenant victim) hRead false (BitVec.ofNat 64 d.2.recAddr) = .ok l ∧ uncached s l.key 32 ∧
            Rec.ok (ofBytes 256 (s.rdN l.key 32)) = false) → left)) ∧
  (∀ (s : State) (thief : Nat) (i : Inbound) (rest : List Inbound), s.running = false → (s.core? thief).inbound = i :: rest →
    s.fused = [] → i.victim ≠ thief →
    ∃ u, exec (.stealDelivery thief) s = .next u ∧ (u.core? thief).inbound = rest ∧ u.mem = s.mem ∧
      (i.entry.slots ≤ (s.core? thief).rackFree → (u.core? thief).rack = (s.core? thief).rack ++ [i.entry]) ∧
      ((s.core? thief).rackFree < i.entry.slots → (u.core? i.victim).rack = i.entry :: (s.core? i.victim).rack))

/-! ## The device and the host (spec 08, 09, 16, 19, 20) -/

/-- R185 to R187, R190, R193, R196, R197, R405 to R411: the steps of the device: carve changes, thermal throttling,
refresh, tiering epochs, CXL links, flits of the Dypied link, SRAM errors, the host's writes and completions, power and
shutdown, boot and recovery: each answers a next state, which holds what its rule says. Whether a bank group is in demand and what
has reached a port are free choices (notes/assumptions/37.md); which sectors a flit of an answer or a reduction carries is the model's
layout (notes/assumptions/38.md); that the host's own memory alone is writable before bring-up has ended is its reading
(notes/assumptions/39.md). -/
def Obligations.DeviceSteps : Prop :=
  ∀ s : State, s.running = false →
    (∀ (tenant die : Nat) (scr cache : BitVec 16), (s.tdie? tenant die).change = some (scr, cache) → s.loads = [] →
      let old := s.tdie? tenant die
      ∃ t, exec (.carveChangeComplete tenant die) s = .next t ∧ (t.tdie? tenant die).scr = scr ∧ (t.tdie? tenant die).cache = cache ∧
        (t.tdie? tenant die).change = none ∧ (t.tdie? tenant die).carveDone = old.carveDone + 1 ∧
        (∀ w < 16, ∀ o < 2 ^ 26, t.rd8 (keyCellar die w o) =
          if old.scr.getLsbD w = scr.getLsbD w then s.rd8 (keyCellar die w o) else 0) ∧
        ∀ a, (a < keyCellar die 0 0 ∨ keyCellar die 16 0 ≤ a) → t.rd8 a = s.rd8 a) ∧
    (∀ (die : Nat) (on : Bool), ∃ t, exec (.cellarThermalThrottle die on) s = .next t ∧ (t.die? die).hot = on ∧
      (on = true → ∀ e ∈ s.tenants, (t.tdie? e.id die).hotSeen = true) ∧ (on = false → t.tdies = s.tdies) ∧ t.mem = s.mem) ∧
    (∀ chan : Nat,
      let c := s.chan? chan
      let grp := c.due % 4
      ∃ t, exec (.perBankRefreshDue chan) s = .next t ∧ (t.chan? chan).due = c.due + 1 ∧
        (c.forced = true → (t.chan? chan).owed = c.owed ∧ (t.chan? chan).forced = true) ∧
        (c.forced = false → grp ∈ c.demand → c.owed.length < 8 → (t.chan? chan).owed = c.owed ++ [grp] ∧ (t.chan? chan).forced = false) ∧
        (c.forced = false → grp ∈ c.demand → 8 ≤ c.owed.length → (t.chan? chan).owed = [] ∧ (t.chan? chan).forced = true) ∧
        (c.forced = false → grp ∉ c.demand → (t.chan? chan).busy = some grp ∧ (t.chan? chan).owed = c.owed ∨ grp ∈ (t.chan? chan).demand)) ∧
    (∀ chan grp : Nat, grp ∈ (s.chan? chan).demand → ∃ t, exec (.demandWindowExpiry chan grp) s = .next t ∧
      grp ∉ (t.chan? chan).demand ∧ grp ∉ (t.chan? chan).owed ∧ (grp ∈ (s.chan? chan).owed → (t.chan? chan).busy = some grp) ∧
      ∀ k, k ≠ grp → (k ∈ (t.chan? chan).demand ↔ k ∈ (s.chan? chan).demand)) ∧
    (∀ chan : Nat, ∃ t, exec (.refreshComplete chan) s = .next t ∧ (t.chan? chan).forced = false ∧ (t.chan? chan).busy = none) ∧
    (∀ (tenant : Nat) (e : Tenant), s.tenant? tenant = some e → ∃ t e', exec (.tieringEpochEnd tenant) s = .next t ∧
      t.tenant? tenant = some e' ∧ e'.hot = [] ∧ e'.epochNo = e.epochNo + 1) ∧
    (∀ port < 2, ∃ t, exec (.cxlLinkDown port) s = .next t ∧
      (∀ e ∈ t.tenants, ∀ w ∈ e.windows, w.kind < 2 → w.medium = port + 1 → w.offline = true) ∧ (∀ r ∈ t.sreqs, r.port ≠ some port) ∧
      -- sectors of a load that are outstanding at the port come poisoned; those it has received stand
      (∀ l ∈ s.loads, ∀ a ∈ l.accs, ∀ k q, a.key = some k → q ∈ sectorsAt k l.width → s.portOf (64 * q) = some port →
        (∀ x ∈ s.sreqs, x.load = l.id → x.sec = q → x.counted = true) → ∃ l' ∈ t.loads, l'.id = l.id ∧
          ((∃ x ∈ s.sreqs, x.load = l.id ∧ x.sec = q ∧ x.port = some port) → q ∈ l'.poisoned) ∧
          ((∀ x ∈ s.sreqs, x.load = l.id → x.sec = q → x.port ≠ some port) → (∀ y, l.kind ≠ .atom y) →
            q ∈ l'.held.map (·.1) ∧ (q ∉ l.poisoned → q ∉ l'.poisoned)))) ∧
    (∀ port < 2, (∃ r ∈ s.sreqs, r.port = some port) → ∃ t, exec (.cxlCompletionTimeout port) s = .next t ∧
      (∀ e ∈ t.tenants, ∀ w ∈ e.windows, w.kind < 2 → w.medium = port + 1 → w.offline = true) ∧ (∀ r ∈ t.sreqs, r.port ≠ some port)) ∧
    (∀ port id : Nat, ∃ t, exec (.cxlResponse port id) s = .next t ∧ t.mem = s.mem ∧ t.loads = s.loads ∧
      (∀ r ∈ t.sreqs, r.id = id → r.port ≠ some port) ∧ ∀ r ∈ s.sreqs, r.id ≠ id → r ∈ t.sreqs) ∧
    (∀ f : Flit, (f.crcOk = false → exec (.dypiedFlitReceive f) s = .next s) ∧
      (f.crcOk = true → f.kind = .read → f.length = 64 → f.addr.toNat < 2 ^ 52 → f.addr.toNat % 64 = 0 → allClean s → ∃ t q bs crc, exec (.dypiedFlitReceive f) s = .next t ∧
        t.outFlits = s.outFlits ++ [q] ∧ q.kind = .readData ∧ q.dst = f.src ∧ q.tag = f.tag ∧ q.addr = f.addr ∧ q.sectors = [(bs, crc)] ∧
        bs = s.rdN (64 * (f.addr.toNat / 64)) 64 ∧ crc = crc16 bs ∧ (q.bad.getLsbD 0 = true ↔ f.addr.toNat / 64 ∈ s.poison) ∧ t.flitSeen = true) ∧
      (∀ bs crc, f.crcOk = true → f.kind = .write → f.sectors = [(bs, crc)] → bs.length = 64 → f.length = 64 → f.addr.toNat < 2 ^ 52 →
        f.addr.toNat % 64 = 0 → allClean s → MemoryKept s →
        (s.tenant? f.tenant = none ∨ crc = crc16 bs) →
        ∃ t, exec (.dypiedFlitReceive f) s = .next t ∧ t.rdN f.addr.toNat 64 = bs ∧ (f.addr.toNat / 64 ∈ t.poison ↔ crc ≠ crc16 bs ∨ f.bad.getLsbD 0 = true) ∧
          ∀ a, (a < f.addr.toNat ∨ f.addr.toNat + 64 ≤ a) → t.rd8 a = s.rd8 a) ∧
      -- an atomic of another module is performed here, and answered with what the word held
      (∀ v x : Nat, f.crcOk = true → f.kind = .atomic → f.op = some (.atomic .add .int32 [(v, x)]) → f.length = 4 → f.addr.toNat < 2 ^ 52 →
        f.addr.toNat % 4 = 0 → f.tags = [] → f.addr.toNat / 64 ∉ s.poison → allClean s → MemoryKept s →
        ∃ t q, exec (.dypiedFlitReceive f) s = .next t ∧ t.rdV f.addr.toNat 4 = (s.rdV f.addr.toNat 4 + v) % 2 ^ 32 ∧
          t.outFlits = s.outFlits ++ [q] ∧ q.kind = .readData ∧ q.dst = f.src ∧ q.tag = f.tag ∧
          q.sectors.map (·.1) = [s.rdN (64 * (f.addr.toNat / 64)) 64] ∧
          ∀ a, (a < f.addr.toNat ∨ f.addr.toNat + 4 ≤ a) → t.rd8 a = s.rd8 a) ∧
      -- an answer reaches the load that waits for it
      (∀ bs crc l, f.crcOk = true → f.kind = .readData → f.sectors = [(bs, crc)] → l ∈ s.loads → l.id = f.tag → (∀ y, l.kind ≠ .atom y) → bs.length = 64 →
        let sec := keyRemote f.src.toNat f.addr.toNat / 64
        ∃ t, exec (.dypiedFlitReceive f) s = .next t ∧ ∃ l' ∈ t.loads, l'.id = l.id ∧ l'.held = l.held ++ [(sec, bs)] ∧
          l'.poisoned = l.poisoned ++ (if crc ≠ crc16 bs ∨ f.bad.getLsbD 0 = true then [sec] else [])) ∧
      -- the row of a contribution of another module reaches its slot
      (∀ bs c q, f.crcOk = true → f.kind = .reductionRow → f.row = some c → f.sectors = [(bs, crc16 bs)] → bs.length = 64 → f.bad = 0 → f.addr.toNat < 256 →
        s.rslot? f.addr.toNat = some q → q.coming = [] → c.m = 1 → 1 ≤ c.n → c.n ≤ 16 → q.refuses c = none → c.rank < c.count →
        (∃ r < c.count, r ≠ c.rank ∧ ∀ p ∈ q.parts, p.2.2.rank ≠ r) →
        ∃ t q' d, exec (.dypiedFlitReceive f) s = .next t ∧ t.rslot? f.addr.toNat = some q' ∧ q'.round = q.round ∧
          q'.parts = q.parts ++ [(q.round + (q.parts.filter (fun p => p.2.2.rank == c.rank)).length, false, d)] ∧ d.rank = c.rank ∧ d.row0 = c.row0 ∧
          d.rows = [(List.range c.n).map (fun j => ofBytes 32 ((bs.drop (4 * j)).take 4))])) ∧
    (∀ module : BitVec 16, ∃ t, exec (.dypiedRouteFailure module) s = .next t ∧ module.toNat ∈ t.routesDown ∧
      ∀ e ∈ t.tenants, ∀ w ∈ e.windows, w.kind = 2 → w.module = module.toNat → w.offline = true) ∧
    (∀ k : Nat, s.tenants = [] → ∃ t, exec (.sramUncorrectedError (.sector k)) s = .next t ∧ k / 64 ∈ t.poison ∧ t.mem = s.mem) ∧
    (∀ (tid reg : Nat) (g : Group), reg < 128 → s.group? tid = some g → ∃ t g', exec (.sramUncorrectedError (.row tid reg)) s = .next t ∧
      t.group? tid = some g' ∧ (vget g'.vregs reg VRow.init).tag = .poison ∧ (vget g'.vregs reg VRow.init).pmask = 0xFFFF) ∧
    (∀ (core sec : Nat) (x : L1Sector), s.tenants = [] → s.l1Find core sec = some x →
      ∃ t x', exec (.sramUncorrectedError (.l1 core sec)) s = .next t ∧ t.l1Find core sec = some x' ∧ x'.poison = true ∧ x'.dirty = 0 ∧
        (x.dirty = 0 → t.mem = s.mem ∧ t.poison = s.poison) ∧ (x.dirty ≠ 0 → sec ∈ t.poison)) ∧
    (∀ k : Nat, s.tenants = [] → ∃ t, exec (.sramUncorrectedError (.check k)) s = .next t ∧ k / 64 ∈ t.poison ∧ t.mem = s.mem) ∧
    (∀ core h elem : Nat, h < 8 →
      ((∃ m ∈ (s.core? core).mq, m.handle = h ∧ m.st = .active ∧ ∃ n, m.op = .mloop n) →
        ∃ t, exec (.sramUncorrectedError (.tile core h elem)) s = .next t ∧ (t.tile core h).state = .poison) ∧
      ((∀ m ∈ (s.core? core).mq, m.handle ≠ h) → exec (.sramUncorrectedError (.tile core h elem)) s = .next s)) ∧
    (∀ (key : Nat) (bytes : List Byte), allClean s → MemoryKept s → (s.boot = .running ∨ keyHost 0 ≤ key ∧ key < keyNear 0 0) →
      ∃ t, exec (.hostWrite key bytes) s = .next t ∧ t.rdN key bytes.length = bytes ∧
      ∀ a, (a < key ∨ key + bytes.length ≤ a) → t.rd8 a = s.rd8 a) ∧
    (∀ (key : Nat) (bytes : List Byte), keyHost 0 ≤ key → key < keyNear 0 0 →
      (MemoryKept s → ∃ t, exec (.hostCompletion key bytes false) s = .next t ∧ t.rdN key bytes.length = bytes ∧
        (∀ a, (a < key ∨ key + bytes.length ≤ a) → t.rd8 a = s.rd8 a)) ∧
      ∃ t, exec (.hostCompletion key bytes true) s = .next t ∧ (s.cores = [] → t.mem = s.mem ∧ t.poison = s.poison) ∧
        ∀ l ∈ s.loads, ∀ a ∈ l.accs, ∀ k q, a.key = some k → q ∈ sectorsAt k l.width → q ∈ sectorsAt key bytes.length →
          (∀ x ∈ s.sreqs, x.load = l.id → x.sec = q → x.counted = true) → ∃ l' ∈ t.loads, l'.id = l.id ∧ q ∈ l'.poisoned) ∧
    (∀ (die : Nat) (limit therm : Bool), ∃ t, exec (.powerThrottle die limit therm) s = .next t ∧ t.powerLow = limit ∧
      (t.die? die).therm = therm ∧ (limit = true → ∀ e ∈ t.tenants, e.pwrSeen = true) ∧
      (therm = true → ∀ e ∈ t.tenants, ∀ c < 1152, e.cores.getLsbD c = true → c / 128 = die → e.pwrSeen = true)) ∧
    (∀ die : Nat, ∃ t, exec (.shutdownTemperature die) s = .next t ∧ (t.die? die).shut = true ∧ t.aer = die :: s.aer ∧ t.mem = s.mem) ∧
    (∃ t, exec .powerOnBoot s = .next t ∧ (s.boot ≠ .off → t = s) ∧
      (s.boot = .off → imageAccepted s.image = true → t.boot = .running ∧ ∃ q, t.queues = [q] ∧ q.num = 0 ∧ q.kind = 4 ∧ q.enabled = true) ∧
      (s.boot = .off → imageAccepted s.image = false → t.boot = .recovery)) ∧
    (∀ image : FwImage, (s.boot = .recovery → ∃ t, exec (.recoveryImageWrite image) s = .next t ∧ t.image = image ∧ t.boot = .off) ∧
      (s.boot ≠ .recovery → exec (.recoveryImageWrite image) s = .next s))

/-- R148 to R151: a task record that passes its checks, by the bits of its 256 bytes. -/
def recordRight (r : BitVec 2048) (tenant : Nat) : Prop :=
  let present (k : Nat) : Prop := r.getLsbD (256 + 192 * k + 168) = true
  let tile (k hi lo : Nat) : Nat := field r (256 + 192 * k + hi) (256 + 192 * k + lo)
  field r 1 0 = 0 ∧ field r 67 64 = 0 ∧
  field r 191 150 = 0 ∧ field r 149 144 = tenant ∧ field r 143 143 = 0 ∧ field r 142 138 ≤ 16 ∧
  field r 135 128 % 8 = 0 ∧ 8 ≤ field r 135 128 ∧ field r 135 128 ≤ 128 ∧
  field r 255 246 = 0 ∧ field r 199 192 = 0 ∧ (field r 239 192 = 0 → field r 245 240 = 0) ∧
  (∀ k < 4, present k → tile k 143 128 ≠ 0 ∧ tile k 159 144 ≠ 0 ∧ tile k 167 160 < 16 ∧ tile k 175 170 = 0 ∧ tile k 191 176 = 0) ∧
  ∀ j < 4, ∀ k < 4, j ≠ k → present j → present k → tile j 167 160 ≠ tile k 167 160

/-- R153, R394: a launch packet that may be launched for a tenant, by the bits of its 256 bytes. -/
def packetRight (s : State) (tenant : Nat) (p : BitVec 2048) : Prop :=
  field p 319 270 = 0 ∧ recordRight (rootRecord p) tenant ∧ field p 462 458 = 0 ∧
  ∃ t c, s.tenant? tenant = some t ∧ t.cores.getLsbD c = true ∧ c < 1152 ∧ p.getLsbD (256 + c / 128) = true ∧ p.getLsbD (265 + c / 32 % 4) = true

/-- R386: a control entry that QUEUE.SET accepts for a queue number, by its 64 bytes. -/
def entryRight (n : Nat) (e : BitVec 512) : Prop :=
  let kind := field e 247 240
  n < 2 ^ 20 ∧ n ≠ 1 ∧ 4 ≤ field e 231 224 ∧ field e 231 224 ≤ 20 ∧ field e 239 237 = 0 ∧ kind < 5 ∧ field e 255 248 < 64 ∧
  field e 287 272 = 0 ∧ field e 511 320 = 0 ∧ (kind = 0 ↔ e.getLsbD 234 = true) ∧ (kind = 4 ↔ n = 0) ∧
  field e 63 0 % (if e.getLsbD 234 then 256 else 64) = 0 ∧ (kind = 1 ∨ kind = 2 → e.getLsbD 233 = false) ∧
  (e.extractLsb' 128 32 - e.extractLsb' 160 32).toNat ≤ 2 ^ field e 231 224

/-- R399: a window entry that a tenant may be created with, by its 32 bytes. -/
def windowRight (e : BitVec 256) : Prop :=
  let kind := field e 135 128
  field e 63 0 % 65536 = 0 ∧ field e 127 64 ≠ 0 ∧ field e 127 64 % 65536 = 0 ∧ kind ≤ 3 ∧ field e 143 136 ≤ 8 ∧
  (kind ≠ 1 → field e 143 136 = 0) ∧ (kind ≠ 2 → field e 159 144 = 0) ∧ field e 167 160 ≤ 2 ∧ (2 ≤ kind → field e 167 160 = 0) ∧
  field e 255 168 = 0

/-- R398: a descriptor that a tenant may be created with, its windows apart, by its 512 bytes. -/
def descRight (s : State) (id : Nat) (d : BitVec 4096) : Prop :=
  (∀ t ∈ s.tenants, (∀ c < 1152, ¬ (t.cores.getLsbD c = true ∧ d.getLsbD c = true)) ∧
    ∀ i : Fin 9, ∀ w < 16, ¬ (t.allot[i].getLsbD w = true ∧ d.getLsbD (1152 + 16 * i.val + w) = true)) ∧
  (∀ i < 9, ∀ w < 16,
    let cache := d.getLsbD (1312 + 32 * i + w)
    let scr := d.getLsbD (1312 + 32 * i + 16 + w)
    (cache = true ∨ scr = true → d.getLsbD (1152 + 16 * i + w) = true) ∧ ¬ (cache = true ∧ scr = true)) ∧
  field d 1311 1296 = 0 ∧ field d 1839 1836 = 0 ∧ field d 1855 1840 = 0 ∧ field d 4095 2176 = 0 ∧ field d 1831 1824 ≤ 8 ∧
  1 ≤ field d 2111 2080 ∧ field d 2111 2080 ≤ 256 ∧ ∃ q, s.queue? (field d 1983 1952) = some q ∧ q.kind = 1 ∧ q.tenant = id

/-- R339: a slot descriptor in order, by its 64 bytes. -/
def slotRight (d : BitVec 512) : Prop :=
  field d 511 208 = 0 ∧ field d 207 201 = 0 ∧
  (d.getLsbD 200 = true → field d 7 0 = 0 ∧ field d 71 64 = 0 ∧ 1 ≤ field d 111 96 ∧ field d 111 96 ≤ 4096 ∧
    1 ≤ field d 119 112 ∧ field d 119 112 ≤ 64 ∧ field d 199 192 < 64)

/-- R375, R376, R386 to R391, R393 to R395: doorbells move PROD and CONS within their bounds and are dropped outside them; tickets
are taken and committed; a launch packet is taken, checked and its root task placed on a core its placement allows, kept where
none has room, or held until its START; and the save block of a core holds what stood on it. Which packets are refused is said by the
bits of a packet (R148 to R153): such a packet is taken and enters no rack. The bytes of a save block in its first part are the
model's choice (notes/assumptions/30.md), and so are the cores that may take a task (notes/assumptions/36.md) and the record of
what the host read (notes/assumptions/45.md). -/
def Obligations.FrontEndSteps : Prop :=
  ∀ s : State, s.running = false →
    (∀ (fn : Option Nat) (n : Nat) (q : Queue) (v : Word), s.queue? n = some q → (∀ t, fn = some t → q.tenant = t) →
      (q.enabled = true → q.shared = false → q.kind ≠ 1 → q.kind ≠ 2 → (v - q.cons).toNat ≤ 2 ^ q.k → (q.prod - q.cons).toNat ≤ (v - q.cons).toNat →
        ∃ t q', exec (.prodDoorbell fn n v) s = .next t ∧ t.queue? n = some q' ∧ q'.prod = v ∧ q'.cons = q.cons ∧ t.mem = s.mem) ∧
      (q.enabled = true → q.kind ≠ 0 → q.kind ≠ 4 → (v - q.cons).toNat ≤ (q.prod - q.cons).toNat →
        ∃ t q', exec (.consDoorbell fn n v) s = .next t ∧ t.queue? n = some q' ∧ q'.cons = v ∧ q'.prod = q.prod ∧ q'.armed = true ∧ t.mem = s.mem) ∧
      (q.enabled = true → q.shared = true → (q.resv - q.cons).toNat < 2 ^ q.k → (q.resv - q.prod).toNat < 1024 →
        ∃ t q', exec (.resvRead fn n) s = .next t ∧ t.queue? n = some q' ∧ q'.resv = q.resv + 1 ∧ q'.prod = q.prod ∧
          t.hostReads = ⟨fn, n, q.resv⟩ :: s.hostReads ∧ t.mem = s.mem) ∧
      (q.enabled = true → q.shared = true → v = q.prod → 0 < (q.resv - q.prod).toNat → q.bits = [] →
        ∃ t q', exec (.commitDoorbell fn n v) s = .next t ∧ t.queue? n = some q' ∧ q'.prod = q.prod + 1 ∧ q'.bits = [] ∧
          (q.kind ≠ 3 ∨ q.shadow = 0 → t.mem = s.mem)) ∧
      ((s.tenant? q.tenant = none ∨ ∀ e, s.tenant? q.tenant = some e → e.errq ≠ n) →
        (q.shared = true ∨ 2 ^ q.k < (v - q.cons).toNat ∨ (v - q.cons).toNat < (q.prod - q.cons).toNat →
          ∃ t, exec (.prodDoorbell fn n v) s = .next t ∧ t.queue? n = some q) ∧
        ((q.prod - q.cons).toNat < (v - q.cons).toNat → ∃ t, exec (.consDoorbell fn n v) s = .next t ∧ t.queue? n = some q))) ∧
    (∀ (fn : Option Nat) (n : Nat) (v : Word), (s.queue? n = none ∨ ∃ t q, fn = some t ∧ s.queue? n = some q ∧ q.tenant ≠ t) →
      ∀ i ∈ [Instr.prodDoorbell fn n v, .consDoorbell fn n v, .commitDoorbell fn n v],
        exec i s = .next { s with dropped := s.dropped + 1 } ∧ exec (.resvRead fn n) s = .next { s with hostReads := ⟨fn, n, 0xFFFFFFFF⟩ :: s.hostReads }) ∧
    (∀ (n : Nat) (q : Queue), s.queue? n = some q → q.kind = 0 → q.enabled = true → q.prod ≠ q.cons → q.virt = false → q.slotSize = 256 →
      (∀ p ∈ s.keptPackets, p.queue ≠ n) → s.poison = [] → allClean s →
      let pk : BitVec 2048 := ofBytes 2048 (s.rdN (keyHost (q.ring + BitVec.ofNat 64 (q.cons.toNat % 2 ^ q.k * 256)).toNat) 256)
      let rec256 := rootRecord pk
      let open_ (c : Nat) : Prop := s.working c = true ∧ 1 ≤ (s.core? c).rackFree
      (tEntry rec256 = 0 → ∃ t q', exec (.launchPacketTake n) s = .next t ∧ t.queue? n = some q' ∧ q'.cons = q.cons + 1 ∧
        ∀ c, (t.core? c).rack = (s.core? c).rack) ∧
      (s.packetOk q.tenant pk = true ↔ packetRight s q.tenant pk) ∧
      (field rec256 191 0 = field pk 511 320 ∧ field rec256 255 192 = 0 ∧ field rec256 1023 256 = field pk 1279 512 ∧
        field rec256 1791 1024 = field pk 2047 1280 ∧ field rec256 2047 1792 = 0) ∧
      (∀ c, c ∈ s.placeCores q.tenant pk ↔ c < 1152 ∧ pk.getLsbD (256 + c / 128) = true ∧ pk.getLsbD (265 + c / 32 % 4) = true ∧
        ∃ t, s.tenant? q.tenant = some t ∧ t.cores.getLsbD c = true) ∧
      (tEntry rec256 ≠ 0 → s.packetOk q.tenant pk = false → ∃ t q', exec (.launchPacketTake n) s = .next t ∧
        t.queue? n = some q' ∧ q'.cons = q.cons + 1 ∧ t.keptPackets = s.keptPackets ∧ t.packets = s.packets ∧
        ∀ c, (t.core? c).rack = (s.core? c).rack) ∧
      (tEntry rec256 ≠ 0 → s.packetOk q.tenant pk = true → field pk 63 0 = 0 → (∃ c ∈ s.placeCores q.tenant pk, open_ c) →
        ∃ t q' c e m, exec (.launchPacketTake n) s = .next t ∧ t.queue? n = some q' ∧ q'.cons = q.cons + 1 ∧ c ∈ s.placeCores q.tenant pk ∧
          open_ c ∧ (t.core? c).rack = (s.core? c).rack ++ [e] ∧ e.members = [m] ∧ e.st = .waitStage ∧ m.record = rec256 ∧ m.origin = .single ∧
          m.launch.tvec = pk.extractLsb' 192 64 ∧ m.launch.fuse = pk.getLsbD (256 + 13) ∧
          m.launch.root = some (pk.extractLsb' 64 64, pk.extractLsb' 128 64)) ∧
      (tEntry rec256 ≠ 0 → s.packetOk q.tenant pk = true → field pk 63 0 = 0 → (∀ c ∈ s.placeCores q.tenant pk, ¬ open_ c) →
        ∃ t p, exec (.launchPacketTake n) s = .next t ∧ t.keptPackets = s.keptPackets ++ [p] ∧ p.queue = n ∧ p.record = rec256)) ∧
    (∀ p : Packet, (∃ c ∈ p.cores, s.working c = true ∧ 1 ≤ (s.core? c).rackFree) →
      let placed (t : State) : Prop := ∃ c e m, c ∈ p.cores ∧ s.working c = true ∧ (t.core? c).rack = (s.core? c).rack ++ [e] ∧
        e.members = [m] ∧ m.record = p.record ∧ m.launch = p.launch ∧ m.tid = s.nextTid ∧ t.mem = s.mem
      (s.keptPackets.find? (fun x => x.queue == p.queue) = some p → ∃ t, exec (.rootTaskPlace p.queue) s = .next t ∧ placed t ∧
        ∀ x ∈ t.keptPackets, x.queue ≠ p.queue) ∧
      (s.packets = [p] → p.start ≤ s.time → ∃ t, exec (.heldPacketStart p.tenant) s = .next t ∧ placed t ∧ t.packets = [])) ∧
    (∀ core tenant : Nat, s.maySave core = true → s.coreTenant core = some tenant →
      (∀ g ∈ s.groups, g.core = core → tCrew g.record = 0) → (∀ e ∈ (s.core? core).rack, ∀ m ∈ e.members, tCrew m.record = 0) → allClean s →
      let area := (s.core? core).saveAt
      ∃ t b, exec (.preemptCoreSave core) s = .next t ∧ t.saves = s.saves ++ [b] ∧ b.core = core ∧ b.tenant = tenant ∧
        b.groups.map (fun g => { g with wdogOff := none, parkedAt := 0, spilled := false }) =
          (s.groups.filter (fun g => g.core == core)).map (fun g => { g with wdogOff := none, parkedAt := 0, spilled := false }) ∧
        b.state.rack = (s.core? core).rack ∧ b.state.resv = (s.core? core).resv ∧ b.state.teams = (s.core? core).teams ∧
        b.state.tiles = (s.core? core).tiles ∧ b.state.mq = (s.core? core).mq ∧ b.state.copyq = (s.core? core).copyq ∧
        b.area = area ∧
        (s.adminBusy = false → MemoryKept s → area + 3 * 2 ^ 20 ≤ keyNear 0 0 → area % 64 = 0 →
          (∀ o < nearSize, t.rd8 (area + o) = s.rd8 (keyNear core o)) ∧
          (∀ o < 2 ^ 20, t.rd8 (area + nearSize + o) = s.rd8 (keyAttic core o)) ∧
          ∀ a, (a < area ∨ area + nearSize + 2 ^ 20 ≤ a) → t.rd8 a = s.rd8 a) ∧
        (∀ g ∈ t.groups, g.core ≠ core) ∧ (t.core? core).saved = true ∧ (t.core? core).rack = [] ∧ (t.core? core).mq = [])

/-- R175, R199, R339, R357, R375 to R378, R382, R385, R386, R392, R396 to R399, R405, R410, R411: the admin commands. Each runs
at the head of the admin ring while none is at work; its effect is made, STATUS is written and CONS moves past the slot; an
unknown OP completes with BADOP, an operand out of range with BADARG, and so does an entry, a descriptor or a window that breaks its
layout, which the bits of each say. PREEMPT keeps its slot until its work is done. The places of the operands in a slot and the
statuses that R397 and the commands' rules do not name are the model's choice (notes/assumptions/27.md, 28.md, 29.md), and so are
the bytes of a save block (notes/assumptions/30.md). -/
def Obligations.AdminCommands : Prop :=
  ∀ (s : State) (a : AdminSlot) (ring : Queue), s.running = false → s.boot = .running → s.queue? 0 = some ring →
    let head (op : Nat) : Prop := s.adminBusy = false ∧ s.adminHead = some a ∧ a.op = op
    let does (i : Instr) (u : State) : Prop := exec i s = .next (u.adminFinish ring .ok)
    let answers (i : Instr) (st : Status) : Prop := exec i s = .next (s.adminFinish ring st)
    let all : List Instr := [.tenantCreate, .tenantDestroy, .queueSet, .queueClear, .queueGet, .preempt, .restore, .tlbInv, .faultReply,
      .windowOnline, .slotSet, .timeSet, .timeAdj, .powerLimit, .moduleId, .attest, .cxlTimeout]
    let x0 := a.get 0
    let x1 := a.get 1
    let held := fun (i : Nat) (n : Nat) => s.rdN (keyHost i) n
    -- STATUS and CONS
    (∀ (u : State) (q : Queue) (st : Status), u.queue? 0 = some q → q.virt = false → q.shadow = 0 → allClean u → MemoryKept u →
      ∃ q', (u.adminFinish q st).queue? 0 = some q' ∧ q'.cons = q.cons + 1 ∧ (u.adminFinish q st).adminBusy = false ∧
        (u.adminFinish q st).rdV (keyHost (q.slotAddr q.cons + 60).toNat) 4 = st.num ∧
        ∀ k, (k < keyHost (q.slotAddr q.cons + 60).toNat ∨ keyHost (q.slotAddr q.cons + 60).toNat + 4 ≤ k) →
          (u.adminFinish q st).rd8 k = u.rd8 k) ∧
    (s.adminBusy = false → s.adminHead = some a → a.op = 0 ∨ 0x11 < a.op → ∀ i ∈ all, answers i .badop) ∧
    (s.adminBusy = true → ∀ i ∈ all, i ≠ .preempt → exec i s = .next s) ∧
    -- tenants
    (head 0x0001 →
      let d : BitVec 4096 := ofBytes 4096 (held x0 512)
      let es : List (BitVec 256) := (List.range (field d 2111 2080)).map (fun i => ofBytes 256 (held (field d 2175 2112 + 32 * i) 32))
      (a.tenant < 64 → (s.tenant? a.tenant).isSome = true → answers .tenantCreate .denied) ∧
      (64 ≤ a.tenant → answers .tenantCreate .badarg) ∧
      (s.descBad a.tenant d = false ↔ descRight s a.tenant d) ∧ (∀ e, windowBad e = false ↔ windowRight e) ∧
      (a.tenant < 64 → s.tenant? a.tenant = none → s.descBad a.tenant d = true ∨ (∃ e ∈ es, windowBad e = true) →
        answers .tenantCreate .badarg) ∧
      (a.tenant < 64 → s.tenant? a.tenant = none → s.descBad a.tenant d = false → (∀ e ∈ es, windowBad e = false) →
        ∃ u t, does .tenantCreate u ∧ u.tenant? a.tenant = some t ∧ t.cores = d.extractLsb' 0 1152 ∧ t.ptroot = field d 1663 1600 ∧
          t.spill = field d 1727 1664 ∧ t.spillSize = field d 1791 1728 ∧ t.wdog = field d 1823 1792 ∧ t.stage = field d 1831 1824 ∧
          t.grants.toNat = field d 1839 1832 ∧ t.errq = field d 1983 1952 ∧ t.windows = es.map windowOf ∧ t.faults = [] ∧ t.watch = [] ∧
          (d.getLsbD 1835 = false → t.locDepth = 0x10 ∧ t.locBytes = 0x40000 ∧ t.locIdle = 0x1000) ∧
          (d.getLsbD 1835 = true → t.locDepth.toNat = field d 1887 1856 ∧ t.locBytes.toNat = field d 1919 1888 ∧ t.locIdle.toNat = field d 1951 1920) ∧
          (∀ i : Fin 9, t.allot[i].toNat = field d (1152 + 16 * i.val + 15) (1152 + 16 * i.val) ∧
            (u.tdie? a.tenant i).cache.toNat = field d (1312 + 32 * i.val + 15) (1312 + 32 * i.val) ∧
            (u.tdie? a.tenant i).scr.toNat = field d (1312 + 32 * i.val + 31) (1312 + 32 * i.val + 16)) ∧ u.mem = s.mem)) ∧
    (∀ t, head 0x0002 → s.tenant? a.tenant = some t → ∃ u, does .tenantDestroy u ∧ u.tenant? a.tenant = none ∧
      (∀ g ∈ u.groups, g.tenant ≠ a.tenant) ∧ (∀ q ∈ u.queues, q.num = 0 ∨ q.tenant ≠ a.tenant) ∧ (∀ b ∈ u.saves, b.tenant ≠ a.tenant) ∧
      (∀ p ∈ u.packets, p.tenant ≠ a.tenant) ∧ (∀ c ∈ u.cores, t.cores.getLsbD c.id = true → c.rack = [] ∧ c.teams = [] ∧ c.mq = [])) ∧
    (∀ i ∈ [(Instr.tenantDestroy, 2), (.preempt, 6), (.restore, 7), (.tlbInv, 8), (.faultReply, 9), (.windowOnline, 10)],
      head i.2 → s.tenant? a.tenant = none → answers i.1 .denied) ∧
    -- queues
    (head 0x0003 →
      let e : BitVec 512 := ofBytes 512 (held x1 64)
      (entryBad x0 e = false ↔ entryRight x0 e) ∧ (entryBad x0 e = true → answers .queueSet .badarg) ∧
      (entryBad x0 e = false → e.getLsbD 233 = false → ∃ u q, does .queueSet u ∧ u.queue? x0 = some q ∧ q.ring = e.extractLsb' 0 64 ∧
        q.shadow = e.extractLsb' 64 64 ∧ q.prod.toNat = field e 159 128 ∧ q.cons.toNat = field e 191 160 ∧ q.k = field e 231 224 ∧
        q.flags.toNat = field e 239 232 ∧ q.kind = field e 247 240 ∧ q.tenant = field e 255 248 ∧ q.vector = field e 271 256 ∧ q.bits = [] ∧
        ∀ n, n ≠ x0 → u.queue? n = s.queue? n)) ∧
    (∀ q, head 0x0004 → s.queue? x0 = some q → ∃ u q', does .queueClear u ∧ u.queue? x0 = some q' ∧ q'.enabled = false ∧ q'.cons = q.prod ∧
      q'.resv = q.prod ∧ q'.bits = []) ∧
    (∀ q, head 0x0005 → x0 ≠ 1 → s.queue? x0 = some q → allClean s → MemoryKept s → ∃ u, does .queueGet u ∧
      u.rdV (keyHost x1) 8 = q.ring.toNat ∧ u.rdV (keyHost (x1 + 8)) 8 = q.shadow.toNat ∧ u.rdV (keyHost (x1 + 16)) 4 = q.prod.toNat ∧
      u.rdV (keyHost (x1 + 20)) 4 = q.cons.toNat ∧ ∀ k, (k < keyHost x1 ∨ keyHost x1 + 64 ≤ k) → u.rd8 k = s.rd8 k) ∧
    (∀ i ∈ [(Instr.queueClear, 4), (.queueGet, 5)], head i.2 → x0 ≠ 1 → s.queue? x0 = none → answers i.1 .badarg) ∧
    -- pre-emption and restoration
    (∀ t, head 0x0006 → s.tenant? a.tenant = some t → x0 < 9 → x1 < 2 ^ 4 → a.get 2 < 2 ^ 32 →
      let cs := (List.range 1152).filter (fun c => decide (c / 128 = x0) && x1.testBit (c / 32 % 4) && (a.get 2).testBit (c % 32))
      (∀ c ∈ cs, t.cores.getLsbD c = true ∧ (s.core? c).saved = false) → cs ≠ [] →
        ∃ u : State, exec .preempt s = .next { u with adminBusy := true } ∧ (∀ c ∈ cs, (u.core? c).preempting = true) ∧
          (∀ i (h : i < cs.length), (u.core? cs[i]).saveAt = a.get 3 + 3 * 2 ^ 20 * i) ∧
          (∀ g ∈ u.groups, g.core ∈ cs → g.hold = true) ∧ u.mem = s.mem) ∧
    (∀ t, head 0x0006 → s.tenant? a.tenant = some t → 9 ≤ x0 ∨ 2 ^ 4 ≤ x1 ∨ 2 ^ 32 ≤ a.get 2 → answers .preempt .badarg) ∧
    (∀ t c, head 0x0006 → s.tenant? a.tenant = some t → x0 < 9 → x1 < 2 ^ 4 → a.get 2 < 2 ^ 32 → c < 1152 → c / 128 = x0 →
      x1.testBit (c / 32 % 4) = true → (a.get 2).testBit (c % 32) = true →
      (t.cores.getLsbD c = false → answers .preempt .badarg) ∧
      ((∀ k < 1152, k / 128 = x0 → x1.testBit (k / 32 % 4) = true → (a.get 2).testBit (k % 32) = true → t.cores.getLsbD k = true) →
        (s.core? c).saved = true → answers .preempt .denied)) ∧
    (∀ t, head 0x0007 → s.tenant? a.tenant = some t →
      let src := x0
      let dst := 4 * x1 + a.get 2
      let bs := s.saves.filter (fun b => b.tenant == a.tenant && decide (b.core / 32 = src))
      let idx (b : SaveBlock) : Nat := if a.get 3 = 0 then b.core % 32 else (s.rd8 (keyHost (a.get 3 + b.core % 32))).toNat
      let inRange := src < 36 ∧ x1 < 9 ∧ a.get 2 < 4
      let mapped := (∀ b ∈ bs, idx b < 32 ∧ t.cores.getLsbD (32 * dst + idx b) = true) ∧ (bs.map idx).Nodup
      (¬ inRange → answers .restore .badarg) ∧
      (inRange → bs = [] → answers .restore .denied) ∧
      (inRange → bs ≠ [] → dst ≠ src → t.grants.getLsbD 2 = false → answers .restore .denied) ∧
      (inRange → bs ≠ [] → dst = src ∨ t.grants.getLsbD 2 = true → ¬ mapped → answers .restore .badarg) ∧
      (inRange → bs ≠ [] → dst = src ∨ t.grants.getLsbD 2 = true → mapped → ∀ b ∈ bs,
        let c := 32 * dst + idx b
        (∃ g ∈ s.groups, g.core = c) ∨ (s.core? c).rack ≠ [] ∨ (s.core? c).resv ≠ [] ∨ (∃ x ∈ s.saves, x.core = c ∧ c / 32 ≠ src) →
        answers .restore .denied)) ∧
    (s.adminBusy = true → s.preemptDone = true → does .preempt s) ∧
    (∀ t b, head 0x0007 → s.tenant? a.tenant = some t → s.saves = [b] → b.tenant = a.tenant → x0 = b.core / 32 → x1 = b.core / 128 →
      a.get 2 = b.core / 32 % 4 → a.get 3 = 0 → t.cores.getLsbD b.core = true → b.core < 1152 → s.groups = [] →
      (∀ c ∈ s.cores, c.rack = [] ∧ c.resv = [] ∧ c.inbound = []) → s.heldCrews = [] → b.replies = [] → MemoryKept s →
      (∀ r ∈ b.state.resv, r.2 = false) → b.area + 3 * 2 ^ 20 ≤ keyNear 0 0 →
      ∃ u, does .restore u ∧ u.saves = [] ∧ (u.core? b.core).saved = false ∧ (u.core? b.core).rack = b.state.rack ∧
        (u.core? b.core).resv = b.state.resv ∧ (u.core? b.core).teams = b.state.teams ∧ (u.core? b.core).tiles = b.state.tiles ∧
        u.groups.map (fun g => (g.tid, g.core, g.slot)) = b.groups.map (fun g => (g.tid, b.core, g.slot)) ∧
        u.groups.map (fun g => (g.vregs, g.shi, g.ahi, g.preds, g.qregs, g.status, g.lfsr)) =
          b.groups.map (fun g => (g.vregs, g.shi, g.ahi, g.preds, g.qregs, g.status, g.lfsr)) ∧
        u.groups.map (fun g => g.splits.map (fun p => (p.sid, p.entry, p.lanes, p.pc, p.wpc, p.wcm, p.pos, p.slo, p.alo, p.mode, p.joins, p.rets))) =
          b.groups.map (fun g => g.splits.map (fun p => (p.sid, p.entry, p.lanes, p.pc, p.wpc, p.wcm, p.pos, p.slo, p.alo, p.mode, p.joins, p.rets))) ∧
        (∀ g ∈ u.groups, ∀ p ∈ g.splits, p.count = 0) ∧
        (∀ o < nearSize, u.rd8 (keyNear b.core o) = s.rd8 (b.area + o)) ∧
        ∀ o < 2 ^ 20, u.rd8 (keyAttic b.core o) = s.rd8 (b.area + nearSize + o)) ∧
    -- translations, faults, windows
    (∀ t, head 0x0008 → s.tenant? a.tenant = some t → ∃ u, does .tlbInv u ∧ u.mem = s.mem ∧ u.groups = s.groups ∧
      ∀ c : Nat, (u.core? c).tlb = (s.core? c).tlb.filter (fun e =>
        !(e.tenant == a.tenant && decide (x0 < (e.page + 1) * 65536 ∧ e.page * 65536 < x0 + x1))) ∧
      ∀ d ∈ u.dtlb, d.2.tenant = a.tenant → ¬ (x0 < (d.2.page + 1) * 65536 ∧ d.2.page * 65536 < x0 + x1)) ∧
    (∀ t f g p i, head 0x0009 → s.tenant? a.tenant = some t → t.faults = [f] → f.page = x0 / 65536 → s.saves = [] →
      (∀ c ∈ s.cores, c.mq = [] ∧ c.copyq = []) → s.groups = [g] → g.splits = [p] → g.tenant = a.tenant → p.st = .park (.service f.page i) →
      s.heldCrews = [] → p.stopped = false → p.handler = false → p.wtrap = none → p.entry = none → g.ovf = [] → i.sid = p.sid → g.handler = none → g.traps = [] →
      (x1 = 0 → ∃ u q g' t', does .faultReply u ∧ u.tenant? a.tenant = some t' ∧ t'.faults = [] ∧
        (∀ c ∈ u.cores, ∀ e ∈ c.tlb, ¬ (e.tenant = a.tenant ∧ e.page = f.page)) ∧ u.groups = [g'] ∧ g'.splits = [q] ∧
        q.st = .run ∧ q.pc = p.wpc ∧ q.pos = 0 ∧ q.entry = some 0 ∧ q.wcm = p.wcm) ∧
      (x1 = 1 → ∃ u, does .faultReply u ∧ u.group? g.tid = none)) ∧
    (∀ t, head 0x0009 → s.tenant? a.tenant = some t → 2 ≤ x1 → answers .faultReply .badarg) ∧
    (∀ t, head 0x000A → s.tenant? a.tenant = some t → (t.windows.length ≤ x0 → answers .windowOnline .badarg) ∧
      (∀ h : x0 < t.windows.length, ∃ u t', does .windowOnline u ∧ u.tenant? a.tenant = some t' ∧
        t'.windows = t.windows.set x0 { t.windows[x0] with offline := false } ∧ u.mem = s.mem)) ∧
    -- slots, time, power, links
    (∀ d, slotDescBad d = false ↔ slotRight d) ∧
    (head 0x000B → 256 ≤ x0 ∨ 65536 ≤ a.get 2 ∨ 65536 ≤ a.get 3 ∨ slotDescBad (ofBytes 512 (held x1 64)) = true →
      answers .slotSet .badarg) ∧
    (head 0x000B → x0 < 256 → a.get 2 < 65536 → a.get 3 < 65536 → slotDescBad (ofBytes 512 (held x1 64)) = false →
      ((∀ q ∈ s.rslots, q.num = x0 → q.parts = [] ∧ q.coming = []) → ∃ u q, does .slotSet u ∧ u.rslots.find? (fun q => q.num == x0) = some q ∧
        q.desc = ofBytes 512 (held x1 64) ∧ q.modLo = a.get 2 ∧ q.modHi = a.get 3 ∧ q.round = 0 ∧ q.parts = [] ∧
        ∀ k ∈ s.rslots, k.num ≠ x0 → k ∈ u.rslots) ∧
      ((∃ q ∈ s.rslots, q.num = x0 ∧ (q.parts ≠ [] ∨ q.coming ≠ [])) → answers .slotSet .denied)) ∧
    (head 0x000C → (x0 < s.time → answers .timeSet .badarg) ∧
      let now := s.clock.time
      s.time ≤ now ∧ (now ≤ x0 → ∃ u, does .timeSet u ∧ u.time = x0 ∧ u.mem = s.mem) ∧ (x0 < now → answers .timeSet .badarg)) ∧
    (head 0x000D → let v : Int := (BitVec.ofNat 64 x0).toInt
      (v.natAbs ≤ 200 → ∃ u, does .timeAdj u ∧ u.timeRate = v ∧ u.time = s.time) ∧ (200 < v.natAbs → answers .timeAdj .badarg)) ∧
    (head 0x000E → (1500 ≤ x0 → x0 ≤ 7000 → does .powerLimit { s with powerLimit := x0 }) ∧
      (x0 < 1500 ∨ 7000 < x0 → answers .powerLimit .badarg)) ∧
    (head 0x000F → (x0 < 65536 → s.flitSeen = false → s.outFlits = [] → does .moduleId { s with moduleNo := some (BitVec.ofNat 16 x0) }) ∧
      (x0 < 65536 → s.flitSeen = true ∨ s.outFlits ≠ [] → answers .moduleId .denied) ∧ (65536 ≤ x0 → answers .moduleId .badarg)) ∧
    (head 0x0010 → allClean s → MemoryKept s →
      let said := (List.range 9).flatMap (Config.diePublicKey s.bootNo) ++ Config.sha3 (imageSigned s.image) ++ held x0 32
      let out := said ++ Config.mldsaSign s.bootNo 0 (Config.sha3 said)
      ∃ u, does .attest u ∧ u.rdN (keyHost x1) out.length = out ∧
        ∀ k, (k < keyHost x1 ∨ keyHost x1 + out.length ≤ k) → u.rd8 k = s.rd8 k) ∧
    (head 0x0011 → (x0 < 2 → 1000 ≤ x1 → x1 ≤ 1000000 → ∃ u, does .cxlTimeout u ∧
        (∀ p q, s.portTimeout = [(0, p), (1, q)] → u.portTimeout = if x0 = 0 then [(0, x1), (1, q)] else [(0, p), (1, x1)]) ∧ u.mem = s.mem) ∧
      (2 ≤ x0 ∨ x1 < 1000 ∨ 1000000 < x1 → answers .cxlTimeout .badarg))

/-! ## Frames, the step, encodings, invariants -/

/-- The `k` registers from a register operand on. -/
def regNames (o : Opnd) (k : Nat) : List RegName :=
  match o with
  | .s n => (List.range k).map (fun j => .s (n.val + j))
  | .a n => (List.range k).map (fun j => .a (n.val + j))
  | .v n => (List.range k).map (fun j => .v (n.val + j))
  | .p n => [.p n.val]
  | .q n => [.q n.val]
  | _ => []

/-- The registers an instruction of the lists below may change when it issues: its destination positions (R16), the
predicate of a compare (R21), MODE under SETM (R79) and the registers LIVE.dead names (R96). -/
def destsOf (s : State) (i : Instr) : List RegName :=
  (i.slots.filter (fun sl => [Cls.vd, .vdr, .vsd, .vzw, .sd, .sdr, .d64, .ad, .pd, .qd].contains sl.cls)).flatMap
      (fun sl => regNames sl.o (s.slotCount i sl)) ++
    match i with
    | .scmp _ _ p _ _ | .vcmp _ _ p _ _ => [.p p.val]
    | .setm _ _ _ => [.mode]
    | .liveDead _ b n => (List.range n.toNat).map (fun k => .v (b.val + k))
    | _ => []

/-- The instructions of spec 03 that change registers and the control state of their split alone. -/
def scalarForm : Instr → Bool
  | .nop _ | .mov _ (.s _) _ | .sadd .. | .ssub .. | .smul .. | .smulh .. | .smulhu .. | .sand .. | .sor .. | .sxor .. | .sshl ..
  | .sshr .. | .ssar .. | .smin .. | .smax .. | .sminu .. | .smaxu .. | .sunNot .. | .sunNeg .. | .sunAbs .. | .sunClz ..
  | .sunCtz .. | .sunPopc .. | .sunBrev .. | .sunBswap .. | .sunSext8 .. | .sunSext16 .. | .sunZext8 .. | .sunZext16 ..
  | .sbfx .. | .sbfi .. | .scmp .. | .ssel .. | .dadd .. | .dsub .. | .dshl .. | .dshr .. | .amov .. | .aadd .. | .ascl ..
  | .ashl .. | .aexp .. | .aget .. | .pand .. | .por .. | .pxor .. | .punNot .. | .punFirst .. | .punLast .. | .punSet ..
  | .punGet .. | .punCnt .. | .pmov .. | .setm .. | .getm .. | .br _ | .brc .. | .call _ | .ret | .yield | .sinfoLanes ..
  | .sinfoExec .. | .sinfoCount .. | .sinfoId .. | .sinfoDepth .. | .sinfoOvf .. | .liveDead .. | .liveFetch .. | .rset .. => true
  | _ => false

/-- The vector instructions (spec 04), each of which works on registers alone. -/
def laneForm : Instr → Bool
  | .mov _ (.v _) _ | .mov _ .zero _ | .vadd .. | .vsub .. | .vmul .. | .vmulh .. | .vfma .. | .vfms .. | .vmin .. | .vmax ..
  | .vand .. | .vor .. | .vxor .. | .vshl .. | .vshr .. | .vcmp .. | .vsel .. | .vunNeg .. | .vunAbs .. | .vunNot ..
  | .vunRcp .. | .vunRsqrt .. | .vunSqrt .. | .vunExp2 .. | .vunLog2 .. | .vunFloor .. | .vunCeil .. | .vunTrunc ..
  | .vunRint .. | .vunClz .. | .vunPopc .. | .vbfx .. | .vbfi .. | .vdot2 .. | .vscl .. | .cvt .. | .qnt .. | .dqnt ..
  | .pack .. | .unpk .. | .tag .. | .ballot .. | .xchg .. | .shuf .. | .bcast .. | .scan .. | .vred .. => true
  | _ => false

/-- THE FRAME of the scalar, affine, predicate, mode, control and vector instructions. Where the position has ended (the
split stands one position on), every register but the destinations is as it was; so are the lanes, the join stack, the record,
the teams and, but for CALL and RET, the return stack; a scalar instruction leaves STATUS and the stochastic-rounding state
alone, a vector instruction clears no bit of STATUS (R57) and moves that state only under MODE.SR (R53); and every byte of
memory, every other split, task, core and table is as it was. -/
def Obligations.RegisterFrames : Prop :=
  ∀ (s : State) (i : Instr) (u : State) (g : Group) (p : Split),
    scalarForm i = true ∨ laneForm i = true → exec i s = .next u → u.groupSeen s.g.tid = some g →
    u.splitSeen s.g.tid s.sp.sid = some p → p.pos = s.sp.pos + 1 →
      (∀ r, r ∉ destsOf s i → regOf g p r = regOf s.g s.sp r) ∧ p.lanes = s.sp.lanes ∧ p.joins = s.sp.joins ∧
      ((∀ off, i ≠ .call off) → i ≠ .ret → p.rets = s.sp.rets) ∧ g.record = s.g.record ∧ g.teams = s.g.teams ∧
      (scalarForm i = true → g.status = s.g.status ∧ p.wstatus = s.sp.wstatus ∧ g.lfsr = s.g.lfsr) ∧
      (laneForm i = true → s.g.status &&& ~~~g.status = 0 ∧ (s.mode.getLsbD 9 = false → g.lfsr = s.g.lfsr)) ∧
      OthersKept s u

/-- The reset state: memory lists nothing and is in its canonical form; no tenant, task, queue or translation stands; the pop
counts of racks are 0 (R314), PWR.STATUS and the cellars' HOT read 0 (R190, R411) and the machine waits for its boot (R411). That
unlisted memory reads 0 and no sector is poisoned is the model's choice (notes/assumptions/4.md), and so are the empty TLBs, L1s,
racks and lists of every kind and the cycle counters of 0 (notes/assumptions/3.md). -/
def Obligations.ResetValues : Prop :=
  let s := State.reset
  s.mem = [] ∧ Memory.wf s.mem = true ∧ (∀ k, s.rd8 k = 0) ∧ s.boot = .off ∧ s.running = false ∧ s.groups = [] ∧ s.tenants = [] ∧
    s.queues = [] ∧ s.rslots = [] ∧ s.saves = [] ∧ s.poison = [] ∧ s.tags = [] ∧ s.moduleNo = none ∧ s.powerLow = false ∧
    (∀ c : Nat, (s.core? c).rack = [] ∧ (s.core? c).pops = 0 ∧ (s.core? c).tlb = [] ∧ (s.core? c).l1 = [] ∧ (s.core? c).cycles = 0) ∧
    (∀ d : Nat, (s.die? d).hot = false ∧ (s.die? d).therm = false)

/-- Words of each family, written out from R10, R15, R21, R22, R24, R26 and the majors of R29. The first is the word of the
example of R10. -/
def Obligations.DecodeWords : Prop :=
  decodeTableWord 32 0xC4050607 = some (.vfma true (.v 5) (.v 6) (.v 7)) ∧
  decodeTableWord 32 0x00000000 = some (.nop false) ∧ decodeTableWord 32 0x80000000 = some (.nop true) ∧
  decodeTableWord 32 0x028081FA = some (.sadd false (.s 0) (.s 1) .ones) ∧
  decodeTableWord 64 0x12345678028081FF = some (.sadd false (.s 0) (.s 1) (.lit 0x12345678)) ∧
  decodeTableWord 32 0x1193BF07 = some (.sunBswap false (.s 19) (.s 63)) ∧
  decodeTableWord 32 0x1413BFF8 = some (.scmp false .lt 3 (.s 63) .zero) ∧
  decodeTableWord 32 0x1AC3DF00 = some (.amov false (.a 3) (.a 31)) ∧
  decodeTableWord 32 0xA0E1E2E7 = some (.pand true (.p 1) (.p 2) (.p 7)) ∧
  decodeTableWord 64 0x00000010A8000000 = some (.br 16) ∧
  decodeTableWord 32 0x38BF02FF = some (.csrr false (.s 63) 0x02FF) ∧
  decodeTableWord 32 0x6005F284 = some (.ld false (.v 5) (.q 10) (.s 4)) ∧
  decodeTableWord 32 0x6905F2C6 = some (.atadd false (.v 5) (.q 10) (.a 6)) ∧
  decodeTableWord 32 0x75E3E9F8 = some (.spawn false (.p 3) (.q 1) .zero) ∧
  decodeTableWord 32 0xF7038488 = some (.join 3 (.s 4) (.s 8)) ∧
  decodeTableWord 32 0x78858401 = some (.futPub false (.s 5) (.s 4)) ∧
  decodeTableWord 32 0x7C028400 = some (.mcfg false 2 (.s 4)) ∧
  decodeTableWord 32 0x7F84E8E9 = some (.copy false (.s 4) (.q 0) (.q 1)) ∧
  -- an unassigned major, a stroke-required word without its stroke bit, the reserved operand code, a reserved field
  decodeTableWord 32 0x27000000 = none ∧ decodeTableWord 64 0x0000001028000000 = none ∧ decodeTableWord 32 0x028081FE = none ∧
  decodeTableWord 32 0x1AC3DF01 = none

/-- A STEP RUNS THE DECODED INSTRUCTION. Where a split issues and the fetch at its pc gives the well-formed instruction i, the
step is exec of i on the state after the fetch, then what follows every step. And the fetch gives i where the words that encode
i stand in this module's memory at the translations of the addresses from the pc on, the core holds no fetch copies, no loop body is under
way and no L1 holds dirty bytes: the state that exec then sees differs from the one before the step in the step count and in
the core's fetch copies alone. -/
def Obligations.StepRunsDecoded : Prop :=
  ∀ (s : State) (i : Instr),
    let s1 := { s with tick := s.tick + 1 }
    (∀ t, s.running = true → s1.fetch = .ok (t, some i) → t.skips = false → step s = afterStep (exec i t)) ∧
    (∀ ws : List Word, s.running = true → i.wellFormed = true → encode i = some ws → s.sp.loopWords = none → s.sp.tripped = false → allClean s →
      (s.core? s.here).icopy = [] → s.sp.pc.toNat % 4 = 0 → s.skips = false →
      (∀ k (h : k < ws.length), ∃ l, s1.translate s1.me hFetch true (s.sp.pc + BitVec.ofNat 64 (4 * k)) = .ok l ∧ l.key % 4 = 0 ∧
        farKey l.key = false ∧ l.key / 64 ∉ s.poison ∧ s.rdN l.key 4 = toBytes 4 ws[k]) →
      -- where the first word of several traps, no other word is fetched (R27, R30)
      let first := 1 < ws.length ∧ headProbe (ws.headD 0) = none
      ∃ t, (¬ first → step s = afterStep (exec i t)) ∧ (first → step s = afterStep (exec .undefinedEncoding t)) ∧
        { t with cores := s.cores, tick := s.tick } = s ∧ ∀ c, ({ t.core? c with icopy := [] } : CoreSt) = { s.core? c with icopy := [] })

/-- The rows of the table that are events of the machine: no word encodes them. -/
def eventRow : Instr → Bool
  | .syscReply _ _ | .loadDataReturn _ | .crewDeadlineCheck _ | .copyCollectiveComplete _ _ | .matrixCommandStart _ _
  | .matrixCommandComplete _ _ | .engineAccessFailure _ _ _ _ | .deferredTrap _ | .reductionRowArrive _ _
  | .failureMarker _ _ | .issueCycle _ _ | .windowComplete _ _ | .residencyFill _ _ | .trapTaken _ | .watchdog _
  | .pageWalkComplete _ _ _ | .pop _ | .prefetchTake _ | .stagingRowArrive _ _ | .stealRound _ | .stealProbe _ _
  | .stealDelivery _ | .sliceRequestEnter _ | .carveChangeComplete _ _ | .cellarThermalThrottle _ _ | .perBankRefreshDue _
  | .demandWindowExpiry _ _ | .tieringEpochEnd _ | .cxlLinkDown _ | .cxlCompletionTimeout _ | .cxlResponse _ _
  | .dypiedFlitReceive _ | .dypiedRouteFailure _ | .sramUncorrectedError _ | .prodDoorbell _ _ _ | .resvRead _ _
  | .commitDoorbell _ _ _ | .consDoorbell _ _ _ | .launchPacketTake _ | .rootTaskPlace _ | .heldPacketStart _ | .tenantCreate
  | .tenantDestroy | .queueSet | .queueClear | .queueGet | .preempt | .preemptCoreSave _ | .restore | .tlbInv | .faultReply
  | .windowOnline | .slotSet | .timeSet | .timeAdj | .powerLimit | .moduleId | .attest | .cxlTimeout | .powerThrottle _ _ _
  | .shutdownTemperature _ | .powerOnBoot | .recoveryImageWrite _ | .hostWrite _ _ | .hostCompletion _ _ _
  | .refreshComplete _ => true
  | .undefinedEncoding => true
  | _ => false

/-- DECODE AND ENCODE AGREE: every row of the table but the machine's events has an encoding, and for every well-formed
instruction decoding its words, whatever follows them, gives the instruction back, and the words after it. -/
def Obligations.RoundTrip : Prop :=
  (∀ i : Instr, (encode i).isSome = true ↔ eventRow i = false) ∧
  ∀ (i : Instr) (ws rest : List Word), i.wellFormed = true → encode i = some ws → decode (ws ++ rest) = .ok (i, rest)

/-- AN INVARIANT THAT EVERY STEP KEEPS: memory stays in its canonical form, so that equal memories are equal data. The form is the
model's own representation of the bytes of the spaces of R128 (notes/assumptions/4.md), no rule of the spec. -/
def Obligations.MemoryInvariant : Prop :=
  ∀ s u : State, MemoryKept s → step s = .next u → MemoryKept u
end

