-- ==== Sys2Proof/Laws/Bits.lean ====
section
/-!
SUPPORT. Bit fields, counts, shifts and reversals, bit by bit; and lists keyed by number.
-/

namespace Sys2Proof.Laws

open Sys2Proof Sys2Proof.Machine

/-! ## Fields -/

theorem field_testBit {n : Nat} (x : BitVec n) (hi lo i : Nat) :
    (field x hi lo).testBit i = (decide (i < hi - lo + 1) && x.getLsbD (lo + i)) := by
  unfold field
  rw [BitVec.testBit_toNat, BitVec.getLsbD_extractLsb']

theorem testBit_mask (w lo i : Nat) : ((2 ^ w - 1) * 2 ^ lo).testBit i = (decide (lo ≤ i) && decide (i < lo + w)) := by
  rw [Nat.testBit_mul_two_pow, Nat.testBit_two_pow_sub_one]
  by_cases h : lo ≤ i <;> simp [h] <;> omega

theorem setField_getLsbD {n : Nat} (x : BitVec n) (hi lo v i : Nat) (h : lo ≤ hi) :
    (setField x hi lo v).getLsbD i =
      if lo ≤ i ∧ i ≤ hi then decide (i < n) && v.testBit (i - lo) else x.getLsbD i := by
  unfold setField
  have e1 : decide (i < lo + (hi - lo + 1)) = decide (i ≤ hi) := by
    by_cases h2 : i ≤ hi <;> simp [h2] <;> omega
  simp only [BitVec.getLsbD_or, BitVec.getLsbD_and, BitVec.getLsbD_not, BitVec.getLsbD_ofNat, testBit_mask,
    Nat.testBit_mul_two_pow, Nat.testBit_mod_two_pow, e1]
  by_cases h1 : lo ≤ i
  · by_cases h2 : i ≤ hi
    · have h3 : i - lo < hi - lo + 1 := by omega
      by_cases h4 : i < n <;> simp [h1, h2, h3, h4]
    · have h3 : ¬ i - lo < hi - lo + 1 := by omega
      by_cases h4 : i < n
      · simp [h1, h2, h3, h4]
      · simp [h1, h2, h3, h4, BitVec.getLsbD_of_ge x i (by omega)]
  · by_cases h4 : i < n
    · simp [h1, h4]
    · simp [h1, h4, BitVec.getLsbD_of_ge x i (by omega)]

/-- R79: the fields that SETM selects, bit by bit. -/
theorem modeMerge_getLsbD (old v : Word) (mask : BitVec 10) (i : Nat) (hi : i < 32) :
    (modeMerge old v mask).getLsbD i =
      if (match i with
        | 0 | 1 | 2 => mask.getLsbD 0
        | 3 | 4 | 5 | 6 => mask.getLsbD 1
        | 7 | 8 => mask.getLsbD 2
        | 9 => mask.getLsbD 3
        | 10 => mask.getLsbD 4
        | 11 => mask.getLsbD 5
        | 12 => mask.getLsbD 6
        | 13 | 14 => mask.getLsbD 7
        | 15 | 16 | 17 => mask.getLsbD 8
        | 18 | 19 => mask.getLsbD 9
        | _ => false) then v.getLsbD i else old.getLsbD i := by
  have step (m : Word) (b : Bool) (top lo : Nat) (h : lo ≤ top) :
      (if b then setField m top lo (field v top lo) else m).getLsbD i =
        if b && (decide (lo ≤ i) && decide (i ≤ top)) then v.getLsbD i else m.getLsbD i := by
    cases b
    · simp
    · simp only [if_true, setField_getLsbD _ _ _ _ _ h, field_testBit, Bool.true_and]
      by_cases h1 : lo ≤ i <;> by_cases h2 : i ≤ top <;> simp [h1, h2]
      have : i - lo < top - lo + 1 := by omega
      simp [this, hi]
      omega
  simp only [modeMerge, modeFields, List.zipIdx_cons, List.zipIdx_nil, List.foldl_cons, List.foldl_nil, Nat.zero_add,
    Nat.reduceAdd]
  rw [step _ _ 19 18 (by decide), step _ _ 17 15 (by decide), step _ _ 14 13 (by decide), step _ _ 12 12 (by decide),
    step _ _ 11 11 (by decide), step _ _ 10 10 (by decide), step _ _ 9 9 (by decide), step _ _ 8 7 (by decide),
    step _ _ 6 3 (by decide), step _ _ 2 0 (by decide)]
  interval_cases i <;> simp

/-! ## Scalar arithmetic (R68, R69) -/

theorem smulh_eq (a b : Word) :
    BitVec.ofInt 32 ((a.toInt * b.toInt) / 2 ^ 32) = (BitVec.ofInt 64 (a.toInt * b.toInt)).extractLsb' 32 32 := by
  apply BitVec.eq_of_toNat_eq
  rw [BitVec.extractLsb'_toNat, BitVec.toNat_ofInt, BitVec.toNat_ofInt, Nat.shiftRight_eq_div_pow]
  generalize a.toInt * b.toInt = p
  omega

theorem smulhu_eq (a b : Word) :
    BitVec.ofNat 32 (a.toNat * b.toNat / 2 ^ 32) = (BitVec.ofNat 64 (a.toNat * b.toNat)).extractLsb' 32 32 := by
  apply BitVec.eq_of_toNat_eq
  rw [BitVec.extractLsb'_toNat, BitVec.toNat_ofNat, BitVec.toNat_ofNat, Nat.shiftRight_eq_div_pow]
  generalize a.toNat * b.toNat = p
  omega

theorem shl_eq {w : Nat} (a : BitVec w) (n : Nat) : a <<< n = BitVec.ofNat w (a.toNat * 2 ^ n) := by
  apply BitVec.eq_of_toNat_eq
  simp [Nat.shiftLeft_eq]

theorem shr_eq {w : Nat} (a : BitVec w) (n : Nat) : a >>> n = BitVec.ofNat w (a.toNat / 2 ^ n) := by
  apply BitVec.eq_of_toNat_eq
  rw [BitVec.toNat_ushiftRight, BitVec.toNat_ofNat, Nat.shiftRight_eq_div_pow, Nat.mod_eq_of_lt]
  exact lt_of_le_of_lt (Nat.div_le_self _ _) a.isLt

theorem sar_min (a : Word) (n : Nat) :
    a.sshiftRight (min 31 n) = if 32 ≤ n then (if a.msb then 0xFFFFFFFF else 0) else a.sshiftRight n := by
  by_cases h : 32 ≤ n
  · rw [if_pos h, Nat.min_eq_left (by omega)]
    apply BitVec.eq_of_getLsbD_eq
    intro i hi
    rw [BitVec.getLsbD_sshiftRight]
    have e : a.getLsbD 31 = a.msb := by simp [BitVec.msb_eq_getLsbD_last]
    have o : (0xFFFFFFFF : Word).getLsbD i = decide (i < 32) := BitVec.getLsbD_allOnes (v := 32)
    by_cases h0 : i = 0
    · subst h0
      cases hm : a.msb
      · simp only [hm] at e; simpa using e
      · simp only [hm] at e; simpa using e
    · have h1 : ¬ 31 + i < 32 := by omega
      cases hm : a.msb
      · simp [h1, hm]
      · rw [if_pos rfl, o, if_neg h1]; simp [hi]
  · rw [if_neg h, Nat.min_eq_right (by omega)]

theorem smin_eq (a b : Word) : (if a.slt b then a else b) = BitVec.ofInt 32 (min a.toInt b.toInt) := by
  simp only [BitVec.slt_iff_toInt_lt]
  split
  · rename_i h; rw [min_eq_left (le_of_lt h), BitVec.ofInt_toInt]
  · rename_i h; rw [min_eq_right (not_lt.1 h), BitVec.ofInt_toInt]

theorem smax_eq (a b : Word) : (if a.slt b then b else a) = BitVec.ofInt 32 (max a.toInt b.toInt) := by
  simp only [BitVec.slt_iff_toInt_lt]
  split
  · rename_i h; rw [max_eq_right (le_of_lt h), BitVec.ofInt_toInt]
  · rename_i h; rw [max_eq_left (not_lt.1 h), BitVec.ofInt_toInt]

theorem sminu_eq (a b : Word) : (if a.ult b then a else b) = BitVec.ofNat 32 (min a.toNat b.toNat) := by
  simp only [BitVec.ult_iff_lt, BitVec.lt_def]
  split
  · rename_i h; rw [min_eq_left (le_of_lt h), BitVec.ofNat_toNat, BitVec.setWidth_eq]
  · rename_i h; rw [min_eq_right (not_lt.1 h), BitVec.ofNat_toNat, BitVec.setWidth_eq]

theorem smaxu_eq (a b : Word) : (if a.ult b then b else a) = BitVec.ofNat 32 (max a.toNat b.toNat) := by
  simp only [BitVec.ult_iff_lt, BitVec.lt_def]
  split
  · rename_i h; rw [max_eq_right (le_of_lt h), BitVec.ofNat_toNat, BitVec.setWidth_eq]
  · rename_i h; rw [max_eq_left (not_lt.1 h), BitVec.ofNat_toNat, BitVec.setWidth_eq]

theorem sabs_eq (a : Word) : (if a.msb then -a else a) = BitVec.ofNat 32 a.toInt.natAbs := by
  apply BitVec.eq_of_toNat_eq
  have h1 := BitVec.toInt_eq_msb_cond a
  have h2 := a.isLt
  cases hm : a.msb
  · simp only [hm, Bool.false_eq_true, if_false] at h1 ⊢
    rw [h1, BitVec.toNat_ofNat]
    omega
  · simp only [hm, if_true] at h1 ⊢
    have h3 := BitVec.le_toNat_of_msb_true hm
    rw [h1, BitVec.toNat_ofNat, BitVec.toNat_neg]
    omega

/-- R69: clz counts the zeros above the highest one. -/
theorem clz_spec (a : Word) :
    (BitVec.ofNat 32 (clzNat 32 a.toNat)).toNat ≤ 32 ∧
      (∀ i < (BitVec.ofNat 32 (clzNat 32 a.toNat)).toNat, a.getLsbD (31 - i) = false) ∧
      ((BitVec.ofNat 32 (clzNat 32 a.toNat)).toNat < 32 →
        a.getLsbD (31 - (BitVec.ofNat 32 (clzNat 32 a.toNat)).toNat) = true) := by
  have h2 := a.isLt
  have hle : clzNat 32 a.toNat ≤ 32 := by unfold clzNat; split <;> omega
  have e : (BitVec.ofNat 32 (clzNat 32 a.toNat)).toNat = clzNat 32 a.toNat := by
    rw [BitVec.toNat_ofNat]; omega
  rw [e]
  refine ⟨hle, ?_, ?_⟩
  · intro i hi
    rw [← BitVec.testBit_toNat]
    by_cases h0 : a.toNat = 0
    · simp [h0]
    · have hl : Nat.log2 a.toNat < 32 := (Nat.log2_lt h0).2 h2
      simp only [clzNat, h0, if_false] at hi
      exact Nat.testBit_lt_two_pow ((Nat.log2_lt h0).1 (by omega))
  · intro hlt
    rw [← BitVec.testBit_toNat]
    by_cases h0 : a.toNat = 0
    · simp [clzNat, h0] at hlt
    · have hl : Nat.log2 a.toNat < 32 := (Nat.log2_lt h0).2 h2
      simp only [clzNat, h0, if_false]
      have : 31 - (32 - 1 - Nat.log2 a.toNat) = Nat.log2 a.toNat := by omega
      rw [this]
      exact Nat.testBit_log2 h0

/-- R69: ctz counts the zeros below the lowest one. -/
theorem ctz_spec (a : Word) :
    (BitVec.ofNat 32 (ctzNat 32 a.toNat)).toNat ≤ 32 ∧
      (∀ i < (BitVec.ofNat 32 (ctzNat 32 a.toNat)).toNat, a.getLsbD i = false) ∧
      ((BitVec.ofNat 32 (ctzNat 32 a.toNat)).toNat < 32 →
        a.getLsbD (BitVec.ofNat 32 (ctzNat 32 a.toNat)).toNat = true) := by
  unfold ctzNat
  cases h : (List.range 32).find? (fun i => a.toNat.testBit i) with
  | none =>
    rw [List.find?_eq_none] at h
    simp only [Option.getD_none, BitVec.toNat_ofNat]
    refine ⟨by omega, ?_, by omega⟩
    intro i hi
    have := h i (List.mem_range.2 (by omega))
    simpa [BitVec.testBit_toNat] using this
  | some k =>
    rw [List.find?_range_eq_some] at h
    obtain ⟨h1, h2, h3⟩ := h
    have hk := List.mem_range.1 h2
    simp only [Option.getD_some, BitVec.toNat_ofNat]
    have e : k % 2 ^ 32 = k := by omega
    rw [e]
    refine ⟨by omega, ?_, ?_⟩
    · intro i hi
      have := h3 i hi
      simpa [BitVec.testBit_toNat] using this
    · intro _
      simpa [BitVec.testBit_toNat] using h1

theorem add_two_pow_or (a k : Nat) (h : a.testBit k = false) : a + 2 ^ k = a ||| 2 ^ k := by
  apply Nat.eq_of_testBit_eq
  intro j
  rw [Nat.testBit_or, Nat.testBit_two_pow, Nat.add_comm]
  rcases lt_trichotomy j k with hj | hj | hj
  · rw [Nat.testBit_two_pow_add_gt hj]
    have : k ≠ j := by omega
    simp [this]
  · subst hj
    rw [Nat.testBit_two_pow_add_eq, h]
    simp
  · have e : (2 ^ k + a) / 2 ^ (k + 1) = a / 2 ^ (k + 1) := by
      rw [Nat.pow_succ, ← Nat.div_div_eq_div_mul, ← Nat.div_div_eq_div_mul, Nat.add_div_left _ (Nat.two_pow_pos k)]
      have h2 : a / 2 ^ k % 2 = 0 := by
        rw [Nat.testBit_eq_decide_div_mod_eq] at h
        have := of_decide_eq_false h
        omega
      omega
    obtain ⟨d, rfl⟩ : ∃ d, j = d + (k + 1) := ⟨j - (k + 1), by omega⟩
    rw [← Nat.testBit_div_two_pow (2 ^ k + a) d, e, Nat.testBit_div_two_pow]
    have : k ≠ d + (k + 1) := by omega
    simp [this]

/-- A sum over distinct powers of two, bit by bit. -/
theorem foldl_pow_testBit (p : Nat → Bool) (f : Nat → Nat) (hf : ∀ i j, f i = f j → i = j) (l : List Nat) (hl : l.Nodup)
    (acc : Nat) (hacc : ∀ j ∈ l, acc.testBit (f j) = false) (k : Nat) :
    (l.foldl (fun a i => if p i then a + 2 ^ f i else a) acc).testBit k =
      (acc.testBit k || l.any (fun i => p i && decide (f i = k))) := by
  induction l generalizing acc with
  | nil => simp
  | cons i l ih =>
    have hn := List.nodup_cons.1 hl
    simp only [List.foldl_cons, List.any_cons]
    have hi : acc.testBit (f i) = false := hacc i (by simp)
    have add : acc + 2 ^ f i = acc ||| 2 ^ f i := add_two_pow_or _ _ hi
    cases hp : p i
    · simp only [Bool.false_eq_true, if_false, Bool.false_and, Bool.false_or]
      exact ih hn.2 acc (fun j hj => hacc j (by simp [hj]))
    · simp only [if_true, Bool.true_and]
      rw [ih hn.2, add, Nat.testBit_or, Nat.testBit_two_pow, Bool.or_assoc]
      intro j hj
      rw [add, Nat.testBit_or, Nat.testBit_two_pow, hacc j (by simp [hj])]
      have : f i ≠ f j := fun e => hn.1 (hf _ _ e ▸ hj)
      simp [this]

/-- R69: brev sends bit i to bit 31 − i. -/
theorem bitRev_spec (a : Word) (i : Nat) (hi : i < 32) : (bitRev a).getLsbD (31 - i) = a.getLsbD i := by
  have key : ∀ acc k, acc = 0 →
      ((List.range 32).foldl (fun acc i => if a.getLsbD i then acc + 2 ^ (31 - i) else acc) acc).testBit k =
        (List.range 32).any (fun i => a.getLsbD i && decide (31 - i = k)) := by
    rintro acc k rfl
    have h := foldl_pow_testBit (fun i => a.getLsbD i) (fun i => if i < 32 then 31 - i else i) (by
      intro x y h; split at h <;> split at h <;> omega) (List.range 32) List.nodup_range 0 (by simp) k
    simp only [Nat.zero_testBit, Bool.false_or] at h
    have e1 : ∀ l : List Nat, (∀ i ∈ l, i < 32) → ∀ acc : Nat,
        l.foldl (fun acc i => if a.getLsbD i then acc + 2 ^ (31 - i) else acc) acc =
          l.foldl (fun acc i => if a.getLsbD i then acc + 2 ^ (if i < 32 then 31 - i else i) else acc) acc := by
      intro l hl
      induction l with
      | nil => intro acc; rfl
      | cons i l ih =>
        intro acc
        simp only [List.foldl_cons]
        rw [if_pos (hl i (by simp))]
        exact ih (fun j hj => hl j (by simp [hj])) _
    rw [e1 _ (fun i hi => List.mem_range.1 hi), h]
    apply Bool.eq_iff_iff.2
    simp only [List.any_eq_true, List.mem_range, Bool.and_eq_true, decide_eq_true_eq]
    constructor
    · rintro ⟨x, h1, h2, h3⟩; rw [if_pos h1] at h3; exact ⟨x, h1, h2, h3⟩
    · rintro ⟨x, h1, h2, h3⟩; refine ⟨x, h1, h2, ?_⟩; rw [if_pos h1]; exact h3
  unfold bitRev
  rw [BitVec.getLsbD_ofNat, key 0 (31 - i) rfl]
  have hlt : 31 - i < 32 := by omega
  apply Bool.eq_iff_iff.2
  simp only [hlt, decide_true, Bool.true_and, List.any_eq_true, List.mem_range, Bool.and_eq_true, decide_eq_true_eq]
  constructor
  · rintro ⟨x, h1, h2, h3⟩
    have : x = i := by omega
    rwa [this] at h2
  · intro h
    exact ⟨i, hi, h, rfl⟩

/-- The lanes of a mask that a test picks. -/
theorem maskOf_getLsbD (p : Fin 16 → Bool) (l : Fin 16) : (maskOf p).getLsbD l.val = p l := by
  have e : maskOf p = BitVec.ofNat 16 ((List.range 16).foldl
      (fun acc i => if (if h : i < 16 then p ⟨i, h⟩ else false) then acc + 2 ^ i else acc) 0) := by
    unfold maskOf
    simp [List.finRange_eq_pmap_range, List.range_succ_eq_map, List.finRange_succ]
  rw [e, BitVec.getLsbD_ofNat,
    foldl_pow_testBit (fun i => if h : i < 16 then p ⟨i, h⟩ else false) (fun i => i) (fun _ _ h => h) (List.range 16)
      List.nodup_range 0 (by simp) l.val]
  simp only [l.isLt, decide_true, Bool.true_and, Nat.zero_testBit, Bool.false_or]
  apply Bool.eq_iff_iff.2
  simp only [List.any_eq_true, List.mem_range, Bool.and_eq_true, decide_eq_true_eq]
  constructor
  · rintro ⟨x, h1, h2, h3⟩
    subst h3
    simpa [l.isLt] using h2
  · intro h
    exact ⟨l.val, l.isLt, by simpa [l.isLt] using h, rfl⟩

/-! ## Bytes (R4) -/

theorem natOfBytes_testBit (bs : List Byte) (i : Nat) :
    (natOfBytes bs).testBit i = (bs.getD (i / 8) 0).getLsbD (i % 8) := by
  induction bs generalizing i with
  | nil => simp [natOfBytes]
  | cons b bs ih =>
    have e : natOfBytes (b :: bs) = 2 ^ 8 * natOfBytes bs + b.toNat := by simp [natOfBytes]; omega
    rw [e, Nat.testBit_two_pow_mul_add _ b.isLt]
    by_cases h : i < 8
    · have h1 : i / 8 = 0 := by omega
      have h2 : i % 8 = i := by omega
      simp [h, h1, h2, BitVec.testBit_toNat]
    · have h1 : i / 8 = (i - 8) / 8 + 1 := by omega
      have h2 : i % 8 = (i - 8) % 8 := by omega
      rw [if_neg h, ih, h1, h2]
      simp

theorem toBytes_getD {w : Nat} (n : Nat) (x : BitVec w) (j : Nat) :
    (toBytes n x).getD j 0 = if j < n then byteOf x j else 0 := by
  unfold toBytes
  by_cases h : j < n <;> simp [h]

/-- R4: the bytes of a value give the value back. -/
theorem ofBytes_toBytes {w : Nat} (n : Nat) (x : BitVec w) (h : w ≤ 8 * n) : ofBytes w (toBytes n x) = x := by
  apply BitVec.eq_of_getLsbD_eq
  intro i hi
  unfold ofBytes
  rw [BitVec.getLsbD_ofNat, natOfBytes_testBit, toBytes_getD, if_pos (by omega)]
  unfold byteOf
  rw [BitVec.getLsbD_extractLsb']
  have h1 : i % 8 < 8 := Nat.mod_lt _ (by decide)
  have h2 : 8 * (i / 8) + i % 8 = i := by omega
  simp [hi, h1, h2]

/-- R69: bswap sends byte i to byte 3 − i. -/
theorem bswap_spec (a : Word) (i : Nat) (hi : i < 4) :
    (ofBytes 32 (toBytes 4 a).reverse).extractLsb' (8 * (3 - i)) 8 = a.extractLsb' (8 * i) 8 := by
  apply BitVec.eq_of_getLsbD_eq
  intro j hj
  have h1 : 8 * (3 - i) + j < 32 := by omega
  have h2 : (8 * (3 - i) + j) / 8 = 3 - i := by omega
  have h3 : (8 * (3 - i) + j) % 8 = j := by omega
  rw [BitVec.getLsbD_extractLsb', BitVec.getLsbD_extractLsb']
  unfold ofBytes
  rw [BitVec.getLsbD_ofNat, natOfBytes_testBit, h2, h3]
  have e : (toBytes 4 a).reverse.getD (3 - i) 0 = byteOf a i := by
    interval_cases i <;> rfl
  rw [e]
  unfold byteOf
  rw [BitVec.getLsbD_extractLsb']
  simp [h1, hj]

theorem sext8_eq (a : Word) : (a.setWidth 8).signExtend 32 = BitVec.ofInt 32 (a.extractLsb' 0 8).toInt := by
  have e : a.extractLsb' 0 8 = a.setWidth 8 := by
    apply BitVec.eq_of_toNat_eq; simp
  rw [e, BitVec.signExtend]

theorem sext16_eq (a : Word) : (a.setWidth 16).signExtend 32 = BitVec.ofInt 32 (a.extractLsb' 0 16).toInt := by
  have e : a.extractLsb' 0 16 = a.setWidth 16 := by
    apply BitVec.eq_of_toNat_eq; simp
  rw [e, BitVec.signExtend]

theorem zext8_eq (a : Word) : a &&& 0xFF = BitVec.ofNat 32 (a.toNat % 2 ^ 8) := by
  apply BitVec.eq_of_toNat_eq
  have : a.toNat &&& 255 = a.toNat % 2 ^ 8 := Nat.and_two_pow_sub_one_eq_mod _ 8
  simp [this]
  omega

theorem zext16_eq (a : Word) : a &&& 0xFFFF = BitVec.ofNat 32 (a.toNat % 2 ^ 16) := by
  apply BitVec.eq_of_toNat_eq
  have : a.toNat &&& 65535 = a.toNat % 2 ^ 16 := Nat.and_two_pow_sub_one_eq_mod _ 16
  simp [this]
  omega

/-! ## Bit fields (R70) -/

theorem bfPos_eq (c : Word) : bfPos c = c.toNat % 32 := by
  unfold bfPos field
  simp [BitVec.extractLsb'_toNat]

theorem bfTop_eq (c : Word) : field c 12 8 = c.toNat / 2 ^ 8 % 32 := by
  unfold field
  rw [BitVec.extractLsb'_toNat, Nat.shiftRight_eq_div_pow]

theorem bfMask_getLsbD (c : Word) (i : Nat) :
    (bfMask c).getLsbD i = (decide (i < 32) && (decide (bfPos c ≤ i) && decide (i < bfPos c + bfLen c))) := by
  unfold bfMask
  rw [BitVec.getLsbD_ofNat, testBit_mask]

/-- R70: SBFX bit by bit. -/
theorem bfExtract_spec (y c : Word) (i : Nat) (hi : i < 32) :
    let pos := c.toNat % 32
    let top := min (pos + c.toNat / 2 ^ 8 % 32) 31
    (bfExtract y c).getLsbD i =
      if i ≤ top - pos then y.getLsbD (pos + i) else c.getLsbD 16 && y.getLsbD top := by
  intro pos top
  have hp : bfPos c = pos := bfPos_eq c
  have hl : bfLen c = top - pos + 1 := by
    unfold bfLen
    rw [hp, bfTop_eq]
  have hpos : pos < 32 := Nat.mod_lt _ (by decide)
  have htop : top ≤ 31 := Nat.min_le_right _ _
  have hle : pos ≤ top := by omega
  have hf : ∀ j, ((y &&& bfMask c) >>> bfPos c).getLsbD j = (decide (j ≤ top - pos) && y.getLsbD (pos + j)) := by
    intro j
    rw [BitVec.getLsbD_ushiftRight, BitVec.getLsbD_and, bfMask_getLsbD, hp, hl]
    by_cases h : j ≤ top - pos
    · have h1 : pos + j < 32 := by omega
      have h2 : pos + j < pos + (top - pos + 1) := by omega
      simp [h, h1, h2]
    · have h2 : ¬ pos + j < pos + (top - pos + 1) := by omega
      simp [h, h2]
  have hlast : bfLen c - 1 = top - pos := by omega
  have htp : pos + (top - pos) = top := by omega
  unfold bfExtract
  simp only [hlast]
  have hs : ((y &&& bfMask c) >>> bfPos c).getLsbD (top - pos) = y.getLsbD top := by
    rw [hf, htp]; simp
  rw [hs]
  have hones : (~~~(BitVec.ofNat 32 (2 ^ bfLen c - 1))).getLsbD i = decide (top - pos < i) := by
    rw [BitVec.getLsbD_not, BitVec.getLsbD_ofNat, Nat.testBit_two_pow_sub_one, hl]
    by_cases h : top - pos < i
    · have : ¬ i < top - pos + 1 := by omega
      simp [hi, h, this]
    · have : i < top - pos + 1 := by omega
      simp [hi, h, this]
  by_cases hc : (c.getLsbD 16 && y.getLsbD top) = true
  · rw [if_pos hc, BitVec.getLsbD_or, hf, hones, hc]
    by_cases h : i ≤ top - pos
    · have : ¬ top - pos < i := by omega
      simp [h, this]
    · have : top - pos < i := by omega
      simp [h, this]
  · rw [if_neg hc, hf]
    simp only [Bool.not_eq_true] at hc
    rw [hc]
    by_cases h : i ≤ top - pos <;> simp [h]

/-- R70: SBFI bit by bit. -/
theorem bfInsert_spec (x y c : Word) (i : Nat) (hi : i < 32) :
    let pos := c.toNat % 32
    let top := min (pos + c.toNat / 2 ^ 8 % 32) 31
    (bfInsert x y c).getLsbD i = if pos ≤ i ∧ i ≤ top then y.getLsbD (i - pos) else x.getLsbD i := by
  intro pos top
  have hp : bfPos c = pos := bfPos_eq c
  have hl : bfLen c = top - pos + 1 := by
    unfold bfLen
    rw [hp, bfTop_eq]
  have hpos : pos < 32 := Nat.mod_lt _ (by decide)
  have hle : pos ≤ top := by omega
  unfold bfInsert
  rw [BitVec.getLsbD_or, BitVec.getLsbD_and, BitVec.getLsbD_and, BitVec.getLsbD_not, bfMask_getLsbD,
    BitVec.getLsbD_shiftLeft, hp, hl]
  by_cases h1 : pos ≤ i
  · by_cases h2 : i ≤ top
    · have h3 : i < pos + (top - pos + 1) := by omega
      have h4 : ¬ i < pos := by omega
      simp [h1, h2, h3, h4, hi]
    · have h3 : ¬ i < pos + (top - pos + 1) := by omega
      simp [h1, h2, h3, hi]
  · simp [h1, hi]

/-! ## Conditions and predicates (R71, R77) -/

theorem condInt_ordinary (uns : Bool) (c : Cond) (a b : Word) (h1 : c ≠ .ord) (h2 : c ≠ .uno) :
    (condInt uns c a b).isSome = true := by
  cases c <;> simp_all [condInt]

theorem lowBit_spec (m : BitVec 16) (i : Nat) (hi : i < 16) :
    (lowBit m).getLsbD i = (m.getLsbD i && (List.range i).all (fun j => !m.getLsbD j)) := by
  unfold lowBit
  have e : (0 : BitVec 16) - m = -m := by simp
  rw [e, BitVec.getLsbD_and, BitVec.getLsbD_neg]
  by_cases h : ∃ j < i, m.getLsbD j = true
  · have h2 : (List.range i).all (fun j => !m.getLsbD j) = false := by
      obtain ⟨j, hj, hb⟩ := h
      rw [List.all_eq_false]
      exact ⟨j, List.mem_range.2 hj, by simp [hb]⟩
    rw [h2]
    simp only [h, decide_true]
    cases m.getLsbD i <;> simp [hi]
  · have h2 : (List.range i).all (fun j => !m.getLsbD j) = true := by
      rw [List.all_eq_true]
      intro j hj
      have := h
      simp only [not_exists, not_and, Bool.not_eq_true] at this
      simp [this j (List.mem_range.1 hj)]
    rw [h2]
    simp only [h, decide_false]
    cases m.getLsbD i <;> simp

theorem highBit_spec (m : BitVec 16) (i : Nat) (hi : i < 16) :
    (highBit m).getLsbD i =
      (m.getLsbD i && (List.range 16).all (fun j => !(decide (i < j) && m.getLsbD j))) := by
  unfold highBit
  by_cases h0 : m = 0
  · subst h0; simp
  · rw [if_neg h0]
    have hn : m.toNat ≠ 0 := fun h => h0 (BitVec.eq_of_toNat_eq (by simpa using h))
    have hlt : Nat.log2 m.toNat < 16 := (Nat.log2_lt hn).2 m.isLt
    have top : m.getLsbD (Nat.log2 m.toNat) = true := by
      rw [← BitVec.testBit_toNat]; exact Nat.testBit_log2 hn
    have above : ∀ j, Nat.log2 m.toNat < j → m.getLsbD j = false := by
      intro j hj
      rw [← BitVec.testBit_toNat]
      exact Nat.testBit_lt_two_pow ((Nat.log2_lt hn).1 hj)
    unfold laneBit
    rw [BitVec.getLsbD_ofNat, Nat.testBit_two_pow]
    apply Bool.eq_iff_iff.2
    simp only [hi, decide_true, Bool.true_and, decide_eq_true_eq, Bool.and_eq_true, List.all_eq_true, List.mem_range,
      Bool.not_eq_true', Bool.and_eq_false_imp]
    constructor
    · intro h
      subst h
      exact ⟨top, fun j _ hj => above j hj⟩
    · rintro ⟨h1, h2⟩
      by_contra hne
      rcases Nat.lt_or_gt_of_ne hne with h | h
      · rw [above i h] at h1; exact Bool.noConfusion h1
      · rw [h2 _ hlt h] at top; exact Bool.noConfusion top

/-! ## Lists keyed by number -/

theorem getKey_putKey_same {α : Type} (k : Nat) (v : Option α) (l : List (Nat × α))
    (hs : l.Pairwise (fun a b => a.1 < b.1)) : getKey k (putKey k v l) = v := by
  induction l with
  | nil => cases v <;> simp [putKey, getKey]
  | cons p l ih =>
    obtain ⟨a, y⟩ := p
    have hp := List.pairwise_cons.1 hs
    unfold putKey
    by_cases h1 : a < k
    · have : a ≠ k := by omega
      simp [h1, getKey, this, ih hp.2]
    · rw [if_neg h1]
      have tail : getKey k (if a = k then l else (a, y) :: l) = none := by
        have none_above : ∀ m : List (Nat × α), (∀ q ∈ m, k < q.1) → getKey k m = none := by
          intro m
          induction m with
          | nil => intro _; rfl
          | cons q m ihm =>
            intro hq
            have : q.1 ≠ k := by have := hq q (by simp); omega
            simp [getKey, this, ihm (fun r hr => hq r (by simp [hr]))]
        apply none_above
        intro q hq
        split at hq
        · rename_i e; have := hp.1 q hq; omega
        · rcases List.mem_cons.1 hq with rfl | hq
          · show k < a; omega
          · have := hp.1 q hq; simp only at this; omega
      cases v with
      | none => simpa using tail
      | some x => simp [getKey]

theorem getKey_putKey_other {α : Type} (k j : Nat) (v : Option α) (l : List (Nat × α)) (h : j ≠ k) :
    getKey j (putKey k v l) = getKey j l := by
  induction l with
  | nil => cases v <;> simp [putKey, getKey, h.symm]
  | cons p l ih =>
    obtain ⟨a, y⟩ := p
    unfold putKey
    by_cases h1 : a < k
    · simp [h1, getKey, ih]
    · rw [if_neg h1]
      by_cases h2 : a = k
      · subst h2
        cases v <;> simp [getKey, h.symm]
      · cases v <;> simp [h2, getKey, h.symm]

end Sys2Proof.Laws
end

