-- ==== Sys2Proof/Laws/Dispatch.lean ====
section
/-!
SUPPORT. The meaning that each constructor of Instr calls, one equation each: a proof about one instruction rewrites with its
equation and never unfolds `exec`.
-/

namespace Sys2Proof.Laws

open Sys2Proof Sys2Proof.Machine

theorem exec_nop (sb : Bool) (s : State) :
  exec (.nop sb) s = execNop sb s := rfl
theorem exec_mov (sb : Bool) (x : Opnd) (y : Opnd) (s : State) :
  exec (.mov sb x y) s = execMov sb x y s := rfl
theorem exec_sadd (sb : Bool) (x : Opnd) (y : Opnd) (z : Opnd) (s : State) :
  exec (.sadd sb x y z) s = execSadd sb x y z s := rfl
theorem exec_ssub (sb : Bool) (x : Opnd) (y : Opnd) (z : Opnd) (s : State) :
  exec (.ssub sb x y z) s = execSsub sb x y z s := rfl
theorem exec_smul (sb : Bool) (x : Opnd) (y : Opnd) (z : Opnd) (s : State) :
  exec (.smul sb x y z) s = execSmul sb x y z s := rfl
theorem exec_smulh (sb : Bool) (x : Opnd) (y : Opnd) (z : Opnd) (s : State) :
  exec (.smulh sb x y z) s = execSmulh sb x y z s := rfl
theorem exec_smulhu (sb : Bool) (x : Opnd) (y : Opnd) (z : Opnd) (s : State) :
  exec (.smulhu sb x y z) s = execSmulhu sb x y z s := rfl
theorem exec_sand (sb : Bool) (x : Opnd) (y : Opnd) (z : Opnd) (s : State) :
  exec (.sand sb x y z) s = execSand sb x y z s := rfl
theorem exec_sor (sb : Bool) (x : Opnd) (y : Opnd) (z : Opnd) (s : State) :
  exec (.sor sb x y z) s = execSor sb x y z s := rfl
theorem exec_sxor (sb : Bool) (x : Opnd) (y : Opnd) (z : Opnd) (s : State) :
  exec (.sxor sb x y z) s = execSxor sb x y z s := rfl
theorem exec_sshl (sb : Bool) (x : Opnd) (y : Opnd) (z : Opnd) (s : State) :
  exec (.sshl sb x y z) s = execSshl sb x y z s := rfl
theorem exec_sshr (sb : Bool) (x : Opnd) (y : Opnd) (z : Opnd) (s : State) :
  exec (.sshr sb x y z) s = execSshr sb x y z s := rfl
theorem exec_ssar (sb : Bool) (x : Opnd) (y : Opnd) (z : Opnd) (s : State) :
  exec (.ssar sb x y z) s = execSsar sb x y z s := rfl
theorem exec_smin (sb : Bool) (x : Opnd) (y : Opnd) (z : Opnd) (s : State) :
  exec (.smin sb x y z) s = execSmin sb x y z s := rfl
theorem exec_smax (sb : Bool) (x : Opnd) (y : Opnd) (z : Opnd) (s : State) :
  exec (.smax sb x y z) s = execSmax sb x y z s := rfl
theorem exec_sminu (sb : Bool) (x : Opnd) (y : Opnd) (z : Opnd) (s : State) :
  exec (.sminu sb x y z) s = execSminu sb x y z s := rfl
theorem exec_smaxu (sb : Bool) (x : Opnd) (y : Opnd) (z : Opnd) (s : State) :
  exec (.smaxu sb x y z) s = execSmaxu sb x y z s := rfl
theorem exec_sunNot (sb : Bool) (x : Opnd) (y : Opnd) (s : State) :
  exec (.sunNot sb x y) s = execSunNot sb x y s := rfl
theorem exec_sunNeg (sb : Bool) (x : Opnd) (y : Opnd) (s : State) :
  exec (.sunNeg sb x y) s = execSunNeg sb x y s := rfl
theorem exec_sunAbs (sb : Bool) (x : Opnd) (y : Opnd) (s : State) :
  exec (.sunAbs sb x y) s = execSunAbs sb x y s := rfl
theorem exec_sunClz (sb : Bool) (x : Opnd) (y : Opnd) (s : State) :
  exec (.sunClz sb x y) s = execSunClz sb x y s := rfl
theorem exec_sunCtz (sb : Bool) (x : Opnd) (y : Opnd) (s : State) :
  exec (.sunCtz sb x y) s = execSunCtz sb x y s := rfl
theorem exec_sunPopc (sb : Bool) (x : Opnd) (y : Opnd) (s : State) :
  exec (.sunPopc sb x y) s = execSunPopc sb x y s := rfl
theorem exec_sunBrev (sb : Bool) (x : Opnd) (y : Opnd) (s : State) :
  exec (.sunBrev sb x y) s = execSunBrev sb x y s := rfl
theorem exec_sunBswap (sb : Bool) (x : Opnd) (y : Opnd) (s : State) :
  exec (.sunBswap sb x y) s = execSunBswap sb x y s := rfl
theorem exec_sunSext8 (sb : Bool) (x : Opnd) (y : Opnd) (s : State) :
  exec (.sunSext8 sb x y) s = execSunSext8 sb x y s := rfl
theorem exec_sunSext16 (sb : Bool) (x : Opnd) (y : Opnd) (s : State) :
  exec (.sunSext16 sb x y) s = execSunSext16 sb x y s := rfl
theorem exec_sunZext8 (sb : Bool) (x : Opnd) (y : Opnd) (s : State) :
  exec (.sunZext8 sb x y) s = execSunZext8 sb x y s := rfl
theorem exec_sunZext16 (sb : Bool) (x : Opnd) (y : Opnd) (s : State) :
  exec (.sunZext16 sb x y) s = execSunZext16 sb x y s := rfl
theorem exec_sbfx (sb : Bool) (x : Opnd) (y : Opnd) (z : Opnd) (s : State) :
  exec (.sbfx sb x y z) s = execSbfx sb x y z s := rfl
theorem exec_sbfi (sb : Bool) (x : Opnd) (y : Opnd) (z : Opnd) (s : State) :
  exec (.sbfi sb x y z) s = execSbfi sb x y z s := rfl
theorem exec_scmp (sb : Bool) (cond : Cond) (pd : PReg) (y : Opnd) (z : Opnd) (s : State) :
  exec (.scmp sb cond pd y z) s = execScmp sb cond pd y z s := rfl
theorem exec_ssel (sb : Bool) (x : Opnd) (y : Opnd) (z : Opnd) (s : State) :
  exec (.ssel sb x y z) s = execSsel sb x y z s := rfl
theorem exec_dadd (sb : Bool) (x : Opnd) (y : Opnd) (z : Opnd) (s : State) :
  exec (.dadd sb x y z) s = execDadd sb x y z s := rfl
theorem exec_dsub (sb : Bool) (x : Opnd) (y : Opnd) (z : Opnd) (s : State) :
  exec (.dsub sb x y z) s = execDsub sb x y z s := rfl
theorem exec_dshl (sb : Bool) (x : Opnd) (y : Opnd) (z : Opnd) (s : State) :
  exec (.dshl sb x y z) s = execDshl sb x y z s := rfl
theorem exec_dshr (sb : Bool) (x : Opnd) (y : Opnd) (z : Opnd) (s : State) :
  exec (.dshr sb x y z) s = execDshr sb x y z s := rfl
theorem exec_amov (sb : Bool) (x : Opnd) (y : Opnd) (s : State) :
  exec (.amov sb x y) s = execAmov sb x y s := rfl
theorem exec_aadd (sb : Bool) (x : Opnd) (y : Opnd) (z : Opnd) (s : State) :
  exec (.aadd sb x y z) s = execAadd sb x y z s := rfl
theorem exec_ascl (sb : Bool) (x : Opnd) (y : Opnd) (z : Opnd) (s : State) :
  exec (.ascl sb x y z) s = execAscl sb x y z s := rfl
theorem exec_ashl (sb : Bool) (x : Opnd) (y : Opnd) (z : Opnd) (s : State) :
  exec (.ashl sb x y z) s = execAshl sb x y z s := rfl
theorem exec_aexp (sb : Bool) (x : Opnd) (y : Opnd) (z : Opnd) (s : State) :
  exec (.aexp sb x y z) s = execAexp sb x y z s := rfl
theorem exec_aget (sb : Bool) (x : Opnd) (y : Opnd) (part : APart) (s : State) :
  exec (.aget sb x y part) s = execAget sb x y part s := rfl
theorem exec_pand (sb : Bool) (x : Opnd) (y : Opnd) (z : Opnd) (s : State) :
  exec (.pand sb x y z) s = execPand sb x y z s := rfl
theorem exec_por (sb : Bool) (x : Opnd) (y : Opnd) (z : Opnd) (s : State) :
  exec (.por sb x y z) s = execPor sb x y z s := rfl
theorem exec_pxor (sb : Bool) (x : Opnd) (y : Opnd) (z : Opnd) (s : State) :
  exec (.pxor sb x y z) s = execPxor sb x y z s := rfl
theorem exec_punNot (sb : Bool) (x : Opnd) (y : Opnd) (s : State) :
  exec (.punNot sb x y) s = execPunNot sb x y s := rfl
theorem exec_punFirst (sb : Bool) (x : Opnd) (y : Opnd) (s : State) :
  exec (.punFirst sb x y) s = execPunFirst sb x y s := rfl
theorem exec_punLast (sb : Bool) (x : Opnd) (y : Opnd) (s : State) :
  exec (.punLast sb x y) s = execPunLast sb x y s := rfl
theorem exec_punSet (sb : Bool) (x : Opnd) (y : Opnd) (s : State) :
  exec (.punSet sb x y) s = execPunSet sb x y s := rfl
theorem exec_punGet (sb : Bool) (x : Opnd) (y : Opnd) (s : State) :
  exec (.punGet sb x y) s = execPunGet sb x y s := rfl
theorem exec_punCnt (sb : Bool) (x : Opnd) (y : Opnd) (s : State) :
  exec (.punCnt sb x y) s = execPunCnt sb x y s := rfl
theorem exec_pmov (sb : Bool) (x : Opnd) (y : Opnd) (s : State) :
  exec (.pmov sb x y) s = execPmov sb x y s := rfl
theorem exec_setm (sb : Bool) (x : Opnd) (mask : BitVec 10) (s : State) :
  exec (.setm sb x mask) s = execSetm sb x mask s := rfl
theorem exec_getm (sb : Bool) (x : Opnd) (s : State) :
  exec (.getm sb x) s = execGetm sb x s := rfl
theorem exec_br (off : Word) (s : State) :
  exec (.br off) s = execBr off s := rfl
theorem exec_brc (x : Opnd) (test : BTest) (off : Word) (s : State) :
  exec (.brc x test off) s = execBrc x test off s := rfl
theorem exec_bsplit (x : Opnd) (tgt : Word) (join : Word) (s : State) :
  exec (.bsplit x tgt join) s = execBsplit x tgt join s := rfl
theorem exec_sjoin (s : State) :
  exec (.sjoin) s = execSjoin s := rfl
theorem exec_brt (x : Opnd) (targets : List Word) (s : State) :
  exec (.brt x targets) s = execBrt x targets s := rfl
theorem exec_call (off : Word) (s : State) :
  exec (.call off) s = execCall off s := rfl
theorem exec_callt (x : Opnd) (targets : List Word) (s : State) :
  exec (.callt x targets) s = execCallt x targets s := rfl
theorem exec_ret (s : State) :
  exec (.ret) s = execRet s := rfl
theorem exec_loops (x : Opnd) (len : Word) (s : State) :
  exec (.loops x len) s = execLoops x len s := rfl
theorem exec_exit (s : State) :
  exec (.exit) s = execExit s := rfl
theorem exec_yield (s : State) :
  exec (.yield) s = execYield s := rfl
theorem exec_sinfoLanes (sb : Bool) (x : Opnd) (s : State) :
  exec (.sinfoLanes sb x) s = execSinfoLanes sb x s := rfl
theorem exec_sinfoExec (sb : Bool) (x : Opnd) (s : State) :
  exec (.sinfoExec sb x) s = execSinfoExec sb x s := rfl
theorem exec_sinfoCount (sb : Bool) (x : Opnd) (s : State) :
  exec (.sinfoCount sb x) s = execSinfoCount sb x s := rfl
theorem exec_sinfoId (sb : Bool) (x : Opnd) (s : State) :
  exec (.sinfoId sb x) s = execSinfoId sb x s := rfl
theorem exec_sinfoDepth (sb : Bool) (x : Opnd) (s : State) :
  exec (.sinfoDepth sb x) s = execSinfoDepth sb x s := rfl
theorem exec_sinfoOvf (sb : Bool) (x : Opnd) (s : State) :
  exec (.sinfoOvf sb x) s = execSinfoOvf sb x s := rfl
theorem exec_liveDead (sb : Bool) (b : VReg) (n : Byte) (s : State) :
  exec (.liveDead sb b n) s = execLiveDead sb b n s := rfl
theorem exec_liveFetch (sb : Bool) (b : VReg) (n : Byte) (s : State) :
  exec (.liveFetch sb b n) s = execLiveFetch sb b n s := rfl
theorem exec_trap (x : Opnd) (c : Byte) (s : State) :
  exec (.trap x c) s = execTrap x c s := rfl
theorem exec_sysc (x : Opnd) (s : State) :
  exec (.sysc x) s = execSysc x s := rfl
theorem exec_rft (s : State) :
  exec (.rft) s = execRft s := rfl
theorem exec_csrr (sb : Bool) (x : Opnd) (num : BitVec 16) (s : State) :
  exec (.csrr sb x num) s = execCsrr sb x num s := rfl
theorem exec_csrw (sb : Bool) (x : Opnd) (num : BitVec 16) (s : State) :
  exec (.csrw sb x num) s = execCsrw sb x num s := rfl
theorem exec_srSeedWrite (sb : Bool) (x : Opnd) (s : State) :
  exec (.srSeedWrite sb x) s = execSrSeedWrite sb x s := rfl
theorem exec_sliceClr (sb : Bool) (x : Opnd) (s : State) :
  exec (.sliceClr sb x) s = execSliceClr sb x s := rfl
theorem exec_sliceSnap (sb : Bool) (x : Opnd) (s : State) :
  exec (.sliceSnap sb x) s = execSliceSnap sb x s := rfl
theorem exec_cellarCarveWrite (sb : Bool) (x : Opnd) (s : State) :
  exec (.cellarCarveWrite sb x) s = execCellarCarveWrite sb x s := rfl
theorem exec_bkpt (c : Byte) (s : State) :
  exec (.bkpt c) s = execBkpt c s := rfl
theorem exec_time (sb : Bool) (x : Opnd) (sel : Byte) (s : State) :
  exec (.time sb x sel) s = execTime sb x sel s := rfl
theorem exec_vadd (sb : Bool) (x : Opnd) (y : Opnd) (z : Opnd) (s : State) :
  exec (.vadd sb x y z) s = execVadd sb x y z s := rfl
theorem exec_vsub (sb : Bool) (x : Opnd) (y : Opnd) (z : Opnd) (s : State) :
  exec (.vsub sb x y z) s = execVsub sb x y z s := rfl
theorem exec_vmul (sb : Bool) (x : Opnd) (y : Opnd) (z : Opnd) (s : State) :
  exec (.vmul sb x y z) s = execVmul sb x y z s := rfl
theorem exec_vmulh (sb : Bool) (x : Opnd) (y : Opnd) (z : Opnd) (s : State) :
  exec (.vmulh sb x y z) s = execVmulh sb x y z s := rfl
theorem exec_vfma (sb : Bool) (x : Opnd) (y : Opnd) (z : Opnd) (s : State) :
  exec (.vfma sb x y z) s = execVfma sb x y z s := rfl
theorem exec_vfms (sb : Bool) (x : Opnd) (y : Opnd) (z : Opnd) (s : State) :
  exec (.vfms sb x y z) s = execVfms sb x y z s := rfl
theorem exec_vmin (sb : Bool) (x : Opnd) (y : Opnd) (z : Opnd) (s : State) :
  exec (.vmin sb x y z) s = execVmin sb x y z s := rfl
theorem exec_vmax (sb : Bool) (x : Opnd) (y : Opnd) (z : Opnd) (s : State) :
  exec (.vmax sb x y z) s = execVmax sb x y z s := rfl
theorem exec_vand (sb : Bool) (x : Opnd) (y : Opnd) (z : Opnd) (s : State) :
  exec (.vand sb x y z) s = execVand sb x y z s := rfl
theorem exec_vor (sb : Bool) (x : Opnd) (y : Opnd) (z : Opnd) (s : State) :
  exec (.vor sb x y z) s = execVor sb x y z s := rfl
theorem exec_vxor (sb : Bool) (x : Opnd) (y : Opnd) (z : Opnd) (s : State) :
  exec (.vxor sb x y z) s = execVxor sb x y z s := rfl
theorem exec_vshl (sb : Bool) (x : Opnd) (y : Opnd) (z : Opnd) (s : State) :
  exec (.vshl sb x y z) s = execVshl sb x y z s := rfl
theorem exec_vshr (sb : Bool) (x : Opnd) (y : Opnd) (z : Opnd) (s : State) :
  exec (.vshr sb x y z) s = execVshr sb x y z s := rfl
theorem exec_vcmp (sb : Bool) (cond : Cond) (pd : PReg) (y : Opnd) (z : Opnd) (s : State) :
  exec (.vcmp sb cond pd y z) s = execVcmp sb cond pd y z s := rfl
theorem exec_vsel (sb : Bool) (x : Opnd) (y : Opnd) (z : Opnd) (s : State) :
  exec (.vsel sb x y z) s = execVsel sb x y z s := rfl
theorem exec_vunNeg (sb : Bool) (x : Opnd) (y : Opnd) (s : State) :
  exec (.vunNeg sb x y) s = execVunNeg sb x y s := rfl
theorem exec_vunAbs (sb : Bool) (x : Opnd) (y : Opnd) (s : State) :
  exec (.vunAbs sb x y) s = execVunAbs sb x y s := rfl
theorem exec_vunNot (sb : Bool) (x : Opnd) (y : Opnd) (s : State) :
  exec (.vunNot sb x y) s = execVunNot sb x y s := rfl
theorem exec_vunRcp (sb : Bool) (x : Opnd) (y : Opnd) (s : State) :
  exec (.vunRcp sb x y) s = execVunRcp sb x y s := rfl
theorem exec_vunRsqrt (sb : Bool) (x : Opnd) (y : Opnd) (s : State) :
  exec (.vunRsqrt sb x y) s = execVunRsqrt sb x y s := rfl
theorem exec_vunSqrt (sb : Bool) (x : Opnd) (y : Opnd) (s : State) :
  exec (.vunSqrt sb x y) s = execVunSqrt sb x y s := rfl
theorem exec_vunExp2 (sb : Bool) (x : Opnd) (y : Opnd) (s : State) :
  exec (.vunExp2 sb x y) s = execVunExp2 sb x y s := rfl
theorem exec_vunLog2 (sb : Bool) (x : Opnd) (y : Opnd) (s : State) :
  exec (.vunLog2 sb x y) s = execVunLog2 sb x y s := rfl
theorem exec_vunFloor (sb : Bool) (x : Opnd) (y : Opnd) (s : State) :
  exec (.vunFloor sb x y) s = execVunFloor sb x y s := rfl
theorem exec_vunCeil (sb : Bool) (x : Opnd) (y : Opnd) (s : State) :
  exec (.vunCeil sb x y) s = execVunCeil sb x y s := rfl
theorem exec_vunTrunc (sb : Bool) (x : Opnd) (y : Opnd) (s : State) :
  exec (.vunTrunc sb x y) s = execVunTrunc sb x y s := rfl
theorem exec_vunRint (sb : Bool) (x : Opnd) (y : Opnd) (s : State) :
  exec (.vunRint sb x y) s = execVunRint sb x y s := rfl
theorem exec_vunClz (sb : Bool) (x : Opnd) (y : Opnd) (s : State) :
  exec (.vunClz sb x y) s = execVunClz sb x y s := rfl
theorem exec_vunPopc (sb : Bool) (x : Opnd) (y : Opnd) (s : State) :
  exec (.vunPopc sb x y) s = execVunPopc sb x y s := rfl
theorem exec_vbfx (sb : Bool) (x : Opnd) (y : Opnd) (z : Opnd) (s : State) :
  exec (.vbfx sb x y z) s = execVbfx sb x y z s := rfl
theorem exec_vbfi (sb : Bool) (x : Opnd) (y : Opnd) (z : Opnd) (s : State) :
  exec (.vbfi sb x y z) s = execVbfi sb x y z s := rfl
theorem exec_vdot2 (sb : Bool) (x : Opnd) (y : Opnd) (z : Opnd) (s : State) :
  exec (.vdot2 sb x y z) s = execVdot2 sb x y z s := rfl
theorem exec_vscl (sb : Bool) (x : Opnd) (y : Opnd) (z : Opnd) (s : State) :
  exec (.vscl sb x y z) s = execVscl sb x y z s := rfl
theorem exec_cvt (sb : Bool) (x : Opnd) (y : Opnd) (t : Code4) (s : State) :
  exec (.cvt sb x y t) s = execCvt sb x y t s := rfl
theorem exec_qnt (sb : Bool) (x : Opnd) (y : Opnd) (z : Opnd) (s : State) :
  exec (.qnt sb x y z) s = execQnt sb x y z s := rfl
theorem exec_dqnt (sb : Bool) (x : Opnd) (y : Opnd) (z : Opnd) (s : State) :
  exec (.dqnt sb x y z) s = execDqnt sb x y z s := rfl
theorem exec_pack (sb : Bool) (x : Opnd) (y : Opnd) (z : Opnd) (s : State) :
  exec (.pack sb x y z) s = execPack sb x y z s := rfl
theorem exec_unpk (sb : Bool) (x : Opnd) (y : Opnd) (half : Half) (s : State) :
  exec (.unpk sb x y half) s = execUnpk sb x y half s := rfl
theorem exec_tag (sb : Bool) (x : Opnd) (y : Opnd) (fmt : Fmt) (s : State) :
  exec (.tag sb x y fmt) s = execTag sb x y fmt s := rfl
theorem exec_ballot (sb : Bool) (x : Opnd) (y : Opnd) (s : State) :
  exec (.ballot sb x y) s = execBallot sb x y s := rfl
theorem exec_xchg (sb : Bool) (x : Opnd) (y : Opnd) (z : Opnd) (s : State) :
  exec (.xchg sb x y z) s = execXchg sb x y z s := rfl
theorem exec_shuf (sb : Bool) (x : Opnd) (y : Opnd) (z : Opnd) (s : State) :
  exec (.shuf sb x y z) s = execShuf sb x y z s := rfl
theorem exec_bcast (sb : Bool) (x : Opnd) (y : Opnd) (z : Opnd) (s : State) :
  exec (.bcast sb x y z) s = execBcast sb x y z s := rfl
theorem exec_scan (sb : Bool) (x : Opnd) (y : Opnd) (op : RedOp) (s : State) :
  exec (.scan sb x y op) s = execScan sb x y op s := rfl
theorem exec_vred (sb : Bool) (x : Opnd) (y : Opnd) (op : RedOp) (s : State) :
  exec (.vred sb x y op) s = execVred sb x y op s := rfl
theorem exec_ld (sb : Bool) (x : Opnd) (y : Opnd) (z : Opnd) (s : State) :
  exec (.ld sb x y z) s = execLd sb x y z s := rfl
theorem exec_st (sb : Bool) (x : Opnd) (y : Opnd) (z : Opnd) (s : State) :
  exec (.st sb x y z) s = execSt sb x y z s := rfl
theorem exec_lds (sb : Bool) (x : Opnd) (y : Opnd) (z : Opnd) (s : State) :
  exec (.lds sb x y z) s = execLds sb x y z s := rfl
theorem exec_sts (sb : Bool) (x : Opnd) (y : Opnd) (z : Opnd) (s : State) :
  exec (.sts sb x y z) s = execSts sb x y z s := rfl
theorem exec_rld (sb : Bool) (x : Opnd) (y : Opnd) (z : Opnd) (s : State) :
  exec (.rld sb x y z) s = execRld sb x y z s := rfl
theorem exec_rst (sb : Bool) (x : Opnd) (y : Opnd) (z : Opnd) (s : State) :
  exec (.rst sb x y z) s = execRst sb x y z s := rfl
theorem exec_rset (sb : Bool) (x : Opnd) (y : Opnd) (sel : RSel) (s : State) :
  exec (.rset sb x y sel) s = execRset sb x y sel s := rfl
theorem exec_pref (sb : Bool) (lv : PLevel) (y : Opnd) (z : Opnd) (s : State) :
  exec (.pref sb lv y z) s = execPref sb lv y z s := rfl
theorem exec_cacheIcinv (sb : Bool) (x : Opnd) (y : Opnd) (s : State) :
  exec (.cacheIcinv sb x y) s = execCacheIcinv sb x y s := rfl
theorem exec_cacheWb (sb : Bool) (x : Opnd) (y : Opnd) (s : State) :
  exec (.cacheWb sb x y) s = execCacheWb sb x y s := rfl
theorem exec_cacheInv (sb : Bool) (x : Opnd) (y : Opnd) (s : State) :
  exec (.cacheInv sb x y) s = execCacheInv sb x y s := rfl
theorem exec_cacheWbinv (sb : Bool) (x : Opnd) (y : Opnd) (s : State) :
  exec (.cacheWbinv sb x y) s = execCacheWbinv sb x y s := rfl
theorem exec_cacheZero (sb : Bool) (x : Opnd) (y : Opnd) (s : State) :
  exec (.cacheZero sb x y) s = execCacheZero sb x y s := rfl
theorem exec_atadd (sb : Bool) (x : Opnd) (y : Opnd) (z : Opnd) (s : State) :
  exec (.atadd sb x y z) s = execAtadd sb x y z s := rfl
theorem exec_atmin (sb : Bool) (x : Opnd) (y : Opnd) (z : Opnd) (s : State) :
  exec (.atmin sb x y z) s = execAtmin sb x y z s := rfl
theorem exec_atmax (sb : Bool) (x : Opnd) (y : Opnd) (z : Opnd) (s : State) :
  exec (.atmax sb x y z) s = execAtmax sb x y z s := rfl
theorem exec_atand (sb : Bool) (x : Opnd) (y : Opnd) (z : Opnd) (s : State) :
  exec (.atand sb x y z) s = execAtand sb x y z s := rfl
theorem exec_ator (sb : Bool) (x : Opnd) (y : Opnd) (z : Opnd) (s : State) :
  exec (.ator sb x y z) s = execAtor sb x y z s := rfl
theorem exec_atxor (sb : Bool) (x : Opnd) (y : Opnd) (z : Opnd) (s : State) :
  exec (.atxor sb x y z) s = execAtxor sb x y z s := rfl
theorem exec_atxch (sb : Bool) (x : Opnd) (y : Opnd) (z : Opnd) (s : State) :
  exec (.atxch sb x y z) s = execAtxch sb x y z s := rfl
theorem exec_atcas (sb : Bool) (x : Opnd) (y : Opnd) (z : Opnd) (s : State) :
  exec (.atcas sb x y z) s = execAtcas sb x y z s := rfl
theorem exec_atbinc (sb : Bool) (x : Opnd) (y : Opnd) (z : Opnd) (s : State) :
  exec (.atbinc sb x y z) s = execAtbinc sb x y z s := rfl
theorem exec_fenceAcq (sb : Bool) (sc : Scope) (s : State) :
  exec (.fenceAcq sb sc) s = execFenceAcq sb sc s := rfl
theorem exec_fenceRel (sb : Bool) (sc : Scope) (s : State) :
  exec (.fenceRel sb sc) s = execFenceRel sb sc s := rfl
theorem exec_fenceAr (sb : Bool) (sc : Scope) (s : State) :
  exec (.fenceAr sb sc) s = execFenceAr sb sc s := rfl
theorem exec_waitc (x : Opnd) (y : Opnd) (z : Opnd) (s : State) :
  exec (.waitc x y z) s = execWaitc x y z s := rfl
theorem exec_bar (slot : Slot) (s : State) :
  exec (.bar slot) s = execBar slot s := rfl
theorem exec_spawn (sb : Bool) (x : Opnd) (y : Opnd) (z : Opnd) (s : State) :
  exec (.spawn sb x y z) s = execSpawn sb x y z s := rfl
theorem exec_spawnl (sb : Bool) (x : Opnd) (y : Opnd) (z : Opnd) (s : State) :
  exec (.spawnl sb x y z) s = execSpawnl sb x y z s := rfl
theorem exec_join (pd : PReg) (y : Opnd) (z : Opnd) (s : State) :
  exec (.join pd y z) s = execJoin pd y z s := rfl
theorem exec_joinT (pd : PReg) (y : Opnd) (z : Opnd) (s : State) :
  exec (.joinT pd y z) s = execJoinT pd y z s := rfl
theorem exec_futInit (sb : Bool) (y : Opnd) (s : State) :
  exec (.futInit sb y) s = execFutInit sb y s := rfl
theorem exec_futPub (sb : Bool) (x : Opnd) (y : Opnd) (s : State) :
  exec (.futPub sb x y) s = execFutPub sb x y s := rfl
theorem exec_futSig (sb : Bool) (x : Opnd) (y : Opnd) (s : State) :
  exec (.futSig sb x y) s = execFutSig sb x y s := rfl
theorem exec_futSet (sb : Bool) (x : Opnd) (y : Opnd) (s : State) :
  exec (.futSet sb x y) s = execFutSet sb x y s := rfl
theorem exec_futFail (sb : Bool) (x : Opnd) (y : Opnd) (s : State) :
  exec (.futFail sb x y) s = execFutFail sb x y s := rfl
theorem exec_futCancel (sb : Bool) (y : Opnd) (s : State) :
  exec (.futCancel sb y) s = execFutCancel sb y s := rfl
theorem exec_futPeek (sb : Bool) (x : Opnd) (y : Opnd) (s : State) :
  exec (.futPeek sb x y) s = execFutPeek sb x y s := rfl
theorem exec_teamFork (sb : Bool) (x : Opnd) (y : Opnd) (s : State) :
  exec (.teamFork sb x y) s = execTeamFork sb x y s := rfl
theorem exec_teamEnter (sb : Bool) (x : Opnd) (y : Opnd) (s : State) :
  exec (.teamEnter sb x y) s = execTeamEnter sb x y s := rfl
theorem exec_teamLeave (sb : Bool) (y : Opnd) (s : State) :
  exec (.teamLeave sb y) s = execTeamLeave sb y s := rfl
theorem exec_teamRank (sb : Bool) (x : Opnd) (y : Opnd) (s : State) :
  exec (.teamRank sb x y) s = execTeamRank sb x y s := rfl
theorem exec_teamSize (sb : Bool) (x : Opnd) (y : Opnd) (s : State) :
  exec (.teamSize sb x y) s = execTeamSize sb x y s := rfl
theorem exec_rsvTake (sb : Bool) (x : Opnd) (y : Opnd) (s : State) :
  exec (.rsvTake sb x y) s = execRsvTake sb x y s := rfl
theorem exec_rsvCommit (sb : Bool) (x : Opnd) (y : Opnd) (s : State) :
  exec (.rsvCommit sb x y) s = execRsvCommit sb x y s := rfl
theorem exec_crewFork (sb : Bool) (x : Opnd) (y : Opnd) (s : State) :
  exec (.crewFork sb x y) s = execCrewFork sb x y s := rfl
theorem exec_crewReport (sb : Bool) (x : Opnd) (s : State) :
  exec (.crewReport sb x) s = execCrewReport sb x s := rfl
theorem exec_crewAwait (x : Opnd) (s : State) :
  exec (.crewAwait x) s = execCrewAwait x s := rfl
theorem exec_crewCancel (sb : Bool) (x : Opnd) (y : Opnd) (s : State) :
  exec (.crewCancel sb x y) s = execCrewCancel sb x y s := rfl
theorem exec_crewInit (sb : Bool) (x : Opnd) (y : Opnd) (s : State) :
  exec (.crewInit sb x y) s = execCrewInit sb x y s := rfl
theorem exec_crewPeek (sb : Bool) (x : Opnd) (y : Opnd) (s : State) :
  exec (.crewPeek sb x y) s = execCrewPeek sb x y s := rfl
theorem exec_mcfg (sb : Bool) (h : Handle) (y : Opnd) (s : State) :
  exec (.mcfg sb h y) s = execMcfg sb h y s := rfl
theorem exec_mloop (sb : Bool) (h : Handle) (y : Opnd) (s : State) :
  exec (.mloop sb h y) s = execMloop sb h y s := rfl
theorem exec_mopDrain (sb : Bool) (h : Handle) (y : Opnd) (s : State) :
  exec (.mopDrain sb h y) s = execMopDrain sb h y s := rfl
theorem exec_mopDrainn (sb : Bool) (h : Handle) (y : Opnd) (s : State) :
  exec (.mopDrainn sb h y) s = execMopDrainn sb h y s := rfl
theorem exec_mopFdrain (sb : Bool) (h : Handle) (y : Opnd) (s : State) :
  exec (.mopFdrain sb h y) s = execMopFdrain sb h y s := rfl
theorem exec_mopZero (sb : Bool) (h : Handle) (s : State) :
  exec (.mopZero sb h) s = execMopZero sb h s := rfl
theorem exec_mopRdrow (sb : Bool) (x : Opnd) (y : Opnd) (s : State) :
  exec (.mopRdrow sb x y) s = execMopRdrow sb x y s := rfl
theorem exec_mopWrrow (sb : Bool) (x : Opnd) (y : Opnd) (s : State) :
  exec (.mopWrrow sb x y) s = execMopWrrow sb x y s := rfl
theorem exec_mopWait (x : Opnd) (h : WHandle) (s : State) :
  exec (.mopWait x h) s = execMopWait x h s := rfl
theorem exec_mopCheck (sb : Bool) (x : Opnd) (h : Handle) (s : State) :
  exec (.mopCheck sb x h) s = execMopCheck sb x h s := rfl
theorem exec_copy (sb : Bool) (x : Opnd) (y : Opnd) (z : Opnd) (s : State) :
  exec (.copy sb x y z) s = execCopy sb x y z s := rfl
theorem exec_syscReply (tid sid : Nat) (s : State) :
  exec (.syscReply tid sid) s = execSyscReply tid sid s := rfl
theorem exec_loadDataReturn (id : Nat) (s : State) :
  exec (.loadDataReturn id) s = execLoadDataReturn id s := rfl
theorem exec_crewDeadlineCheck (key : Nat) (s : State) :
  exec (.crewDeadlineCheck key) s = execCrewDeadlineCheck key s := rfl
theorem exec_copyCollectiveComplete (core team : Nat) (s : State) :
  exec (.copyCollectiveComplete core team) s = execCopyCollectiveComplete core team s := rfl
theorem exec_matrixCommandStart (core id : Nat) (s : State) :
  exec (.matrixCommandStart core id) s = execMatrixCommandStart core id s := rfl
theorem exec_matrixCommandComplete (core id : Nat) (s : State) :
  exec (.matrixCommandComplete core id) s = execMatrixCommandComplete core id s := rfl
theorem exec_engineAccessFailure (core id : Nat) (code : BitVec 8) (addr : BitVec 64) (s : State) :
  exec (.engineAccessFailure core id code addr) s = execEngineAccessFailure core id code addr s := rfl
theorem exec_deferredTrap (tid : Nat) (s : State) :
  exec (.deferredTrap tid) s = execDeferredTrap tid s := rfl
theorem exec_reductionRowArrive (slot : Nat) (c : Contribution) (s : State) :
  exec (.reductionRowArrive slot c) s = execReductionRowArrive slot c s := rfl
theorem exec_failureMarker (slot : Nat) (c : Contribution) (s : State) :
  exec (.failureMarker slot c) s = execFailureMarker slot c s := rfl
theorem exec_issueCycle (core side : Nat) (s : State) :
  exec (.issueCycle core side) s = execIssueCycle core side s := rfl
theorem exec_windowComplete (tid sid : Nat) (s : State) :
  exec (.windowComplete tid sid) s = execWindowComplete tid sid s := rfl
theorem exec_residencyFill (tid reg : Nat) (s : State) :
  exec (.residencyFill tid reg) s = execResidencyFill tid reg s := rfl
theorem exec_trapTaken (tid : Nat) (s : State) :
  exec (.trapTaken tid) s = execTrapTaken tid s := rfl
theorem exec_watchdog (tid : Nat) (s : State) :
  exec (.watchdog tid) s = execWatchdog tid s := rfl
theorem exec_pageWalkComplete (core tenant page : Nat) (s : State) :
  exec (.pageWalkComplete core tenant page) s = execPageWalkComplete core tenant page s := rfl
theorem exec_pop (core : Nat) (s : State) :
  exec (.pop core) s = execPop core s := rfl
theorem exec_prefetchTake (core : Nat) (s : State) :
  exec (.prefetchTake core) s = execPrefetchTake core s := rfl
theorem exec_stagingRowArrive (core eid : Nat) (s : State) :
  exec (.stagingRowArrive core eid) s = execStagingRowArrive core eid s := rfl
theorem exec_stealRound (core : Nat) (s : State) :
  exec (.stealRound core) s = execStealRound core s := rfl
theorem exec_stealProbe (thief victim : Nat) (s : State) :
  exec (.stealProbe thief victim) s = execStealProbe thief victim s := rfl
theorem exec_stealDelivery (thief : Nat) (s : State) :
  exec (.stealDelivery thief) s = execStealDelivery thief s := rfl
theorem exec_sliceRequestEnter (id : Nat) (s : State) :
  exec (.sliceRequestEnter id) s = execSliceRequestEnter id s := rfl
theorem exec_carveChangeComplete (tenant die : Nat) (s : State) :
  exec (.carveChangeComplete tenant die) s = execCarveChangeComplete tenant die s := rfl
theorem exec_cellarThermalThrottle (die : Nat) (on : Bool) (s : State) :
  exec (.cellarThermalThrottle die on) s = execCellarThermalThrottle die on s := rfl
theorem exec_perBankRefreshDue (chan : Nat) (s : State) :
  exec (.perBankRefreshDue chan) s = execPerBankRefreshDue chan s := rfl
theorem exec_demandWindowExpiry (chan grp : Nat) (s : State) :
  exec (.demandWindowExpiry chan grp) s = execDemandWindowExpiry chan grp s := rfl
theorem exec_tieringEpochEnd (tenant : Nat) (s : State) :
  exec (.tieringEpochEnd tenant) s = execTieringEpochEnd tenant s := rfl
theorem exec_cxlLinkDown (port : Nat) (s : State) :
  exec (.cxlLinkDown port) s = execCxlLinkDown port s := rfl
theorem exec_cxlCompletionTimeout (port : Nat) (s : State) :
  exec (.cxlCompletionTimeout port) s = execCxlCompletionTimeout port s := rfl
theorem exec_cxlResponse (port id : Nat) (s : State) :
  exec (.cxlResponse port id) s = execCxlResponse port id s := rfl
theorem exec_dypiedFlitReceive (f : Flit) (s : State) :
  exec (.dypiedFlitReceive f) s = execDypiedFlitReceive f s := rfl
theorem exec_dypiedRouteFailure (module : BitVec 16) (s : State) :
  exec (.dypiedRouteFailure module) s = execDypiedRouteFailure module s := rfl
theorem exec_sramUncorrectedError (site : SramSite) (s : State) :
  exec (.sramUncorrectedError site) s = execSramUncorrectedError site s := rfl
theorem exec_prodDoorbell (fn : Option Nat) (q : Nat) (idx : BitVec 32) (s : State) :
  exec (.prodDoorbell fn q idx) s = execProdDoorbell fn q idx s := rfl
theorem exec_resvRead (fn : Option Nat) (q : Nat) (s : State) :
  exec (.resvRead fn q) s = execResvRead fn q s := rfl
theorem exec_commitDoorbell (fn : Option Nat) (q : Nat) (t : BitVec 32) (s : State) :
  exec (.commitDoorbell fn q t) s = execCommitDoorbell fn q t s := rfl
theorem exec_consDoorbell (fn : Option Nat) (q : Nat) (idx : BitVec 32) (s : State) :
  exec (.consDoorbell fn q idx) s = execConsDoorbell fn q idx s := rfl
theorem exec_launchPacketTake (q : Nat) (s : State) :
  exec (.launchPacketTake q) s = execLaunchPacketTake q s := rfl
theorem exec_rootTaskPlace (q : Nat) (s : State) :
  exec (.rootTaskPlace q) s = execRootTaskPlace q s := rfl
theorem exec_heldPacketStart (tenant : Nat) (s : State) :
  exec (.heldPacketStart tenant) s = execHeldPacketStart tenant s := rfl
theorem exec_tenantCreate (s : State) :
  exec (.tenantCreate) s = execTenantCreate s := rfl
theorem exec_tenantDestroy (s : State) :
  exec (.tenantDestroy) s = execTenantDestroy s := rfl
theorem exec_queueSet (s : State) :
  exec (.queueSet) s = execQueueSet s := rfl
theorem exec_queueClear (s : State) :
  exec (.queueClear) s = execQueueClear s := rfl
theorem exec_queueGet (s : State) :
  exec (.queueGet) s = execQueueGet s := rfl
theorem exec_preempt (s : State) :
  exec (.preempt) s = execPreempt s := rfl
theorem exec_preemptCoreSave (core : Nat) (s : State) :
  exec (.preemptCoreSave core) s = execPreemptCoreSave core s := rfl
theorem exec_restore (s : State) :
  exec (.restore) s = execRestore s := rfl
theorem exec_tlbInv (s : State) :
  exec (.tlbInv) s = execTlbInv s := rfl
theorem exec_faultReply (s : State) :
  exec (.faultReply) s = execFaultReply s := rfl
theorem exec_windowOnline (s : State) :
  exec (.windowOnline) s = execWindowOnline s := rfl
theorem exec_slotSet (s : State) :
  exec (.slotSet) s = execSlotSet s := rfl
theorem exec_timeSet (s : State) :
  exec (.timeSet) s = execTimeSet s := rfl
theorem exec_timeAdj (s : State) :
  exec (.timeAdj) s = execTimeAdj s := rfl
theorem exec_powerLimit (s : State) :
  exec (.powerLimit) s = execPowerLimit s := rfl
theorem exec_moduleId (s : State) :
  exec (.moduleId) s = execModuleId s := rfl
theorem exec_attest (s : State) :
  exec (.attest) s = execAttest s := rfl
theorem exec_cxlTimeout (s : State) :
  exec (.cxlTimeout) s = execCxlTimeout s := rfl
theorem exec_powerThrottle (die : Nat) (limit therm : Bool) (s : State) :
  exec (.powerThrottle die limit therm) s = execPowerThrottle die limit therm s := rfl
theorem exec_shutdownTemperature (die : Nat) (s : State) :
  exec (.shutdownTemperature die) s = execShutdownTemperature die s := rfl
theorem exec_powerOnBoot (s : State) :
  exec (.powerOnBoot) s = execPowerOnBoot s := rfl
theorem exec_recoveryImageWrite (image : FwImage) (s : State) :
  exec (.recoveryImageWrite image) s = execRecoveryImageWrite image s := rfl
theorem exec_undefinedEncoding (s : State) :
  exec (.undefinedEncoding) s = execUndefinedEncoding s := rfl
theorem exec_hostWrite (key : Nat) (bytes : List (BitVec 8)) (s : State) :
  exec (.hostWrite key bytes) s = execHostWrite key bytes s := rfl
theorem exec_hostCompletion (key : Nat) (bytes : List (BitVec 8)) (bad : Bool) (s : State) :
  exec (.hostCompletion key bytes bad) s = execHostCompletion key bytes bad s := rfl
theorem exec_refreshComplete (chan : Nat) (s : State) :
  exec (.refreshComplete chan) s = execRefreshComplete chan s := rfl

end Sys2Proof.Laws
end

