-- ==== Sys2Proof/Laws/Issue.lean ====
section
/-!
SUPPORT. What issue does: once an instruction is ready, its step is its own effect and how that ends. The provers cite these
instead of unfolding `issue`.
-/

namespace Sys2Proof.Laws

open Sys2Proof Sys2Proof.Machine

/-- The parts of `ready`. -/
theorem ready_iff (s : State) (i : Instr) :
    s.ready i = true ↔ s.running = true ∧ s.precheck i = .ok () ∧ s.missing i = none := by
  unfold State.ready
  cases h : s.precheck i <;> cases h2 : s.missing i <;> simp [Except.isOk, Except.toBool]

/-- A ready instruction's step by the end of its own effect. -/
theorem issue_ready {i : Instr} {s : State} (h : s.ready i = true) (body : State → Res Act) :
    issue i s body = match body s with
      | .error (.trap e) => .next (s.trips i e)
      | .error e => .next (s.stop e)
      | .ok (.done t) => .next (t.finish i)
      | .ok (.jump t a) => .next (t.finishAt i a)
      | .ok (.pending t) => .next (t.leaveOpen i)
      | .ok (.late t) => .next (t.leaveOpen i)
      | .ok (.park t c) => .next (t.parkSplit i c)
      | .ok (.trap t e) => .next (t.trips i e)
      | .ok (.wait t) => .next (t.stop (.stall .remote))
      | .ok (.over t) => .next (t.carryOn s.g.tid s.todo) := by
  obtain ⟨h1, h2, h3⟩ := (ready_iff s i).1 h
  unfold issue
  simp only [h1, h2, h3]
  cases body s with
  | error e => cases e <;> rfl
  | ok a => cases a <;> rfl

/-- The same where the effect is a change of the state. -/
theorem issueDone_ready {i : Instr} {s : State} (h : s.ready i = true) (f : State → Res State) :
    issueDone i s f = match f s with
      | .error (.trap e) => .next (s.trips i e)
      | .error e => .next (s.stop e)
      | .ok t => .next (t.finish i) := by
  unfold issueDone
  rw [issue_ready h]
  cases f s with
  | error e => cases e <;> rfl
  | ok a => rfl

/-- R163: a trap of an instruction that ends its window leaves the window no further position. -/
theorem trips_stroke {i : Instr} {s : State} (h : i.strokeBit = true) (t : TrapReq) : s.trips i t = s.stop (.trap t) := by
  unfold State.trips
  rw [h]
  rfl

/-- R163: a trap during execution stops the split at once, or stays with the window while later positions issue. -/
theorem trips_cases (i : Instr) (s : State) (t : TrapReq) : s.trips i t = s.stop (.trap t) ∨
    i.strokeBit = false ∧ s.sp.pos ≠ 63 ∧
      s.trips i t = ({ s with sp := { s.sp.late (s.trapInfo t) with tripped := true } }).leaveOpen i := by
  unfold State.trips
  split
  · exact .inl rfl
  · rename_i h
    simp only [Bool.or_eq_true, beq_iff_eq, not_or, Bool.not_eq_true] at h
    exact .inr ⟨h.1.1, h.1.2, rfl⟩

/-- Where the checks of R30 and R63 fail, the step is the trap they name. -/
theorem issue_stop {i : Instr} {s : State} (h : s.running = true) {e : Stop} (he : s.precheck i = .error e)
    (body : State → Res Act) : issue i s body = .next (s.stop e) := by
  unfold issue
  simp [h, he]

/-- Where no split issues, an instruction word has nothing to act on. -/
theorem issue_idle {i : Instr} {s : State} (h : s.running = false) (body : State → Res Act) :
    issue i s body = .fault .noIssuingSplit := by
  unfold issue
  simp [h]

end Sys2Proof.Laws
end

