-- ==== Sys2Proof/Laws/Memory.lean ====
section
/-!
SUPPORT. Memory: its canonical form, which every operation that changes memory keeps; and what a byte reads as after a write.
-/

namespace Sys2Proof.Laws

open Sys2Proof Sys2Proof.Machine

/-! ## The canonical form -/

/-- The canonical form as two facts: keys rise strictly, and no entry is 0. -/
theorem wf_iff (m : List Host.Cell) :
    Memory.wf m = true ↔ m.Pairwise (fun a b => a.1 < b.1) ∧ ∀ c ∈ m, c.2 ≠ 0 := by
  have key : ∀ (m : List Host.Cell) (lo : Option Nat), wfFrom lo m = true ↔
      (∀ a, lo = some a → ∀ c ∈ m, a < c.1) ∧ m.Pairwise (fun a b => a.1 < b.1) ∧ ∀ c ∈ m, c.2 ≠ 0 := by
    intro m
    induction m with
    | nil => intro lo; simp [wfFrom]
    | cons c m ih =>
      intro lo
      obtain ⟨k, b⟩ := c
      simp only [wfFrom, Bool.and_eq_true, ih, List.pairwise_cons, List.mem_cons, forall_eq_or_imp, bne_iff_ne]
      constructor
      · rintro ⟨⟨h1, h2⟩, h3, h4, h5⟩
        have h3' := h3 k rfl
        refine ⟨?_, ⟨fun c hc => h3' c hc, h4⟩, h2, h5⟩
        rintro a rfl
        have h1' : a < k := by simpa using h1
        exact ⟨h1', fun c hc => lt_trans h1' (h3' c hc)⟩
      · rintro ⟨h1, ⟨h2, h3⟩, h4, h5⟩
        refine ⟨⟨?_, h4⟩, ?_, h3, h5⟩
        · cases lo with
          | none => rfl
          | some a => simpa using (h1 a rfl).1
        · rintro a ha c hc
          cases ha
          exact h2 c hc
  simpa [Memory.wf] using key m none

theorem wf_nil : Memory.wf [] = true := rfl

theorem wf_filter (m : List Host.Cell) (p : Host.Cell → Bool) (h : Memory.wf m = true) : Memory.wf (m.filter p) = true := by
  rw [wf_iff] at *
  exact ⟨h.1.filter p, fun c hc => h.2 c (List.mem_of_mem_filter hc)⟩

/-- The entries of a list after `putKey`. -/
theorem mem_putKey {α : Type} (k : Nat) (v : Option α) (l : List (Nat × α)) (c : Nat × α) (h : c ∈ putKey k v l) :
    c ∈ l ∨ (c.1 = k ∧ v = some c.2) := by
  induction l with
  | nil => cases v <;> simp [putKey] at h; right; simp [h]
  | cons p l ih =>
    obtain ⟨a, y⟩ := p
    unfold putKey at h
    by_cases h1 : a < k
    · rw [if_pos h1] at h
      rcases List.mem_cons.1 h with rfl | h
      · simp
      · rcases ih h with h | h
        · simp [h]
        · exact Or.inr h
    · rw [if_neg h1] at h
      have tail : ∀ d ∈ (if a = k then l else (a, y) :: l), d ∈ (a, y) :: l := by
        intro d hd; split at hd
        · simp [hd]
        · exact hd
      cases v with
      | none => exact Or.inl (tail c h)
      | some x =>
        rcases List.mem_cons.1 h with rfl | h
        · exact Or.inr ⟨rfl, rfl⟩
        · exact Or.inl (tail c h)

theorem rising_putKey {α : Type} (k : Nat) (v : Option α) (l : List (Nat × α)) (h : l.Pairwise (fun a b => a.1 < b.1)) :
    (putKey k v l).Pairwise (fun a b => a.1 < b.1) := by
  induction l with
  | nil => cases v <;> simp [putKey]
  | cons p l ih =>
    obtain ⟨a, y⟩ := p
    have hp := List.pairwise_cons.1 h
    unfold putKey
    by_cases h1 : a < k
    · rw [if_pos h1, List.pairwise_cons]
      refine ⟨?_, ih hp.2⟩
      intro c hc
      rcases mem_putKey k v l c hc with hc | ⟨hc, -⟩
      · exact hp.1 c hc
      · rw [hc]; exact h1
    · rw [if_neg h1]
      have tail : (if a = k then l else (a, y) :: l).Pairwise (fun a b => a.1 < b.1) ∧
          ∀ c ∈ (if a = k then l else (a, y) :: l), k < c.1 := by
        split
        · rename_i e
          exact ⟨hp.2, fun c hc => by have := hp.1 c hc; simp only at this; omega⟩
        · refine ⟨h, fun c hc => ?_⟩
          rcases List.mem_cons.1 hc with rfl | hc
          · show k < a; omega
          · have := hp.1 c hc; simp only at this; omega
      cases v with
      | none => exact tail.1
      | some x => exact List.pairwise_cons.2 ⟨tail.2, tail.1⟩

theorem wf_putKey (k : Nat) (b : Byte) (m : List Host.Cell) (hb : b ≠ 0) (h : Memory.wf m = true) :
    Memory.wf (putKey k (some b) m) = true := by
  rw [wf_iff] at *
  refine ⟨rising_putKey k _ m h.1, fun c hc => ?_⟩
  rcases mem_putKey k _ m c hc with hc | ⟨-, hc⟩
  · exact h.2 c hc
  · cases hc; exact hb

theorem wf_memPut (m : List Host.Cell) (k : Nat) (b : Byte) (h : Memory.wf m = true) : Memory.wf (memPut m k b) = true := by
  unfold memPut
  split
  · rw [wf_iff] at *
    refine ⟨rising_putKey k _ m h.1, fun c hc => ?_⟩
    rcases mem_putKey k _ m c hc with hc | ⟨-, hc⟩
    · exact h.2 c hc
    · exact absurd hc (by simp)
  · rename_i hb; exact wf_putKey k b m hb h

theorem wf_memPutN (m : List Host.Cell) (k : Nat) (bs : List Byte) (h : Memory.wf m = true) :
    Memory.wf (memPutN m k bs) = true := by
  induction bs generalizing m k with
  | nil => exact h
  | cons b bs ih => exact ih _ _ (wf_memPut m k b h)

theorem wf_foldl_memPut (l m : List Host.Cell) (h : Memory.wf m = true) :
    Memory.wf (l.foldl (fun m c => memPut m c.1 c.2) m) = true := by
  induction l generalizing m with
  | nil => exact h
  | cons c l ih => exact ih _ (wf_memPut m _ _ h)

theorem wf_pasteRange (base len : Nat) (new m : List Host.Cell) (hn : ∀ c ∈ new, c.2 ≠ 0) (h : Memory.wf m = true) :
    Memory.wf (pasteRange base len new m) = true := by
  unfold pasteRange
  have key : ∀ (l m : List Host.Cell), (∀ c ∈ l, c.2 ≠ 0) → Memory.wf m = true →
      Memory.wf (l.foldl (fun l p => putKey (base + p.1) (some p.2) l) m) = true := by
    intro l
    induction l with
    | nil => intro m _ h; exact h
    | cons c l ih =>
      intro m hl h
      exact ih _ (fun d hd => hl d (by simp [hd])) (wf_putKey _ _ m (hl c (by simp)) h)
  exact key new _ hn (wf_filter m _ h)

/-- What pre-emption takes from a range of memory holds no byte that an unlisted address reads as. -/
theorem cutRange_nonzero (base len : Nat) (m : List Host.Cell) (h : Memory.wf m = true) :
    ∀ c ∈ cutRange base len m, c.2 ≠ 0 := by
  intro c hc
  obtain ⟨d, hd, rfl⟩ := List.mem_map.1 hc
  exact ((wf_iff m).1 h).2 d (List.mem_of_mem_filter hd)

/-! ## What a byte reads as -/

theorem memPut_same (m : List Host.Cell) (k : Nat) (b : Byte) (h : Memory.wf m = true) : (getKey k (memPut m k b)).getD 0 = b := by
  unfold memPut
  rw [getKey_putKey_same _ _ _ ((wf_iff m).1 h).1]
  split
  · rename_i hb; simp [hb]
  · rfl

theorem memPut_other (m : List Host.Cell) (k j : Nat) (b : Byte) (h : j ≠ k) : getKey j (memPut m k b) = getKey j m :=
  getKey_putKey_other k j _ m h

theorem memPutN_other (m : List Host.Cell) (k j : Nat) (bs : List Byte) (h : j < k ∨ k + bs.length ≤ j) :
    getKey j (memPutN m k bs) = getKey j m := by
  induction bs generalizing m k with
  | nil => rfl
  | cons b bs ih =>
    simp only [List.length_cons] at h
    have h' : j < k + 1 ∨ k + 1 + bs.length ≤ j := by omega
    rw [memPutN, ih _ _ h', memPut_other _ _ _ _ (by omega)]

theorem memPutN_same (m : List Host.Cell) (k i : Nat) (bs : List Byte) (hm : Memory.wf m = true) (h : i < bs.length) :
    (getKey (k + i) (memPutN m k bs)).getD 0 = bs[i] := by
  induction bs generalizing m k i with
  | nil => simp at h
  | cons b bs ih =>
    rw [memPutN]
    cases i with
    | zero => rw [memPutN_other _ _ _ _ (by omega)]; exact memPut_same m k b hm
    | succ i =>
      have e : k + (i + 1) = k + 1 + i := by omega
      rw [e, ih _ _ _ (wf_memPut m k b hm) (by simpa using h)]
      simp

/-! ## The operations of the machine that change memory -/

@[simp] theorem keepOld_mem (s : State) (k : Nat) : (s.keepOld k).mem = s.mem := by unfold State.keepOld; split <;> rfl
@[simp] theorem keepOld_saves (s : State) (k : Nat) : (s.keepOld k).saves = s.saves := by unfold State.keepOld; split <;> rfl
@[simp] theorem clearPoison_mem (s : State) (k n : Nat) : (s.clearPoison k n).mem = s.mem := by
  unfold State.clearPoison; split <;> rfl
@[simp] theorem clearPoison_saves (s : State) (k n : Nat) : (s.clearPoison k n).saves = s.saves := by
  unfold State.clearPoison; split <;> rfl
@[simp] theorem clearTags_mem (s : State) (k n : Nat) : (s.clearTags k n).mem = s.mem := by unfold State.clearTags; split <;> rfl
@[simp] theorem clearTags_saves (s : State) (k n : Nat) : (s.clearTags k n).saves = s.saves := by
  unfold State.clearTags; split <;> rfl

@[simp] theorem l2Fit_mem (s : State) (line : Nat) : (s.l2Fit line).mem = s.mem := by
  unfold State.l2Fit; dsimp only; repeat' split
  all_goals rfl
@[simp] theorem l2Fit_saves (s : State) (line : Nat) : (s.l2Fit line).saves = s.saves := by
  unfold State.l2Fit; dsimp only; repeat' split
  all_goals rfl

theorem foldl_l2Fit (l : List Nat) (k : Nat) (s : State) :
    (l.foldl (fun s i => s.l2Fit (k + i)) s).mem = s.mem ∧ (l.foldl (fun s i => s.l2Fit (k + i)) s).saves = s.saves := by
  induction l generalizing s with
  | nil => exact ⟨rfl, rfl⟩
  | cons a l ih =>
    have := ih (s.l2Fit (k + a))
    exact ⟨this.1.trans (l2Fit_mem s _), this.2.trans (l2Fit_saves s _)⟩

/-- Which dirty lines L2 and the cellar hold is not what memory holds. -/
@[simp] theorem l2Settle_mem (s : State) (k n : Nat) : (s.l2Settle k n).mem = s.mem := by
  unfold State.l2Settle
  split
  · rfl
  · exact (foldl_l2Fit _ _ s).1
@[simp] theorem l2Settle_saves (s : State) (k n : Nat) : (s.l2Settle k n).saves = s.saves := by
  unfold State.l2Settle
  split
  · rfl
  · exact (foldl_l2Fit _ _ s).2
@[simp] theorem through_mem (s : State) (p : Path) (k n : Nat) : (s.through p k n).mem = s.mem := by
  unfold State.through; split <;> rfl
@[simp] theorem through_saves (s : State) (p : Path) (k n : Nat) : (s.through p k n).saves = s.saves := by
  unfold State.through; split <;> rfl

theorem foldl_keepOld (l : List Nat) (k : Nat) (s : State) :
    (l.foldl (fun s i => s.keepOld (k + i)) s).mem = s.mem ∧ (l.foldl (fun s i => s.keepOld (k + i)) s).saves = s.saves := by
  induction l generalizing s with
  | nil => exact ⟨rfl, rfl⟩
  | cons a l ih =>
    have := ih (s.keepOld (k + a))
    exact ⟨this.1.trans (keepOld_mem s _), this.2.trans (keepOld_saves s _)⟩

@[simp] theorem place_mem (s : State) (k : Nat) (bs : List Byte) : (s.place k bs).mem = memPutN s.mem k bs := by
  unfold State.place
  simp only [l2Settle_mem, clearPoison_mem]
  rw [(foldl_keepOld _ k s).1]
@[simp] theorem place_saves (s : State) (k : Nat) (bs : List Byte) : (s.place k bs).saves = s.saves := by
  unfold State.place
  simp only [l2Settle_saves, clearPoison_saves]
  exact (foldl_keepOld _ k s).2
@[simp] theorem placePlain_mem (s : State) (k : Nat) (bs : List Byte) : (s.placePlain k bs).mem = memPutN s.mem k bs := by
  unfold State.placePlain; simp
@[simp] theorem placePlain_saves (s : State) (k : Nat) (bs : List Byte) : (s.placePlain k bs).saves = s.saves := by
  unfold State.placePlain; simp

/-- A read after a write: the bytes written read back, and every other byte reads as before. -/
theorem place_rd8 (s : State) (k j : Nat) (bs : List Byte) (h : Memory.wf s.mem = true) :
    (s.place k bs).rd8 j = if hj : k ≤ j ∧ j - k < bs.length then bs[j - k] else s.rd8 j := by
  unfold State.rd8
  rw [place_mem]
  split
  · rename_i hj
    have := memPutN_same s.mem k (j - k) bs h hj.2
    rwa [show k + (j - k) = j by omega] at this
  · rename_i hj
    rw [memPutN_other _ _ _ _ (by omega)]

theorem place_rdN (s : State) (k : Nat) (bs : List Byte) (h : Memory.wf s.mem = true) : (s.place k bs).rdN k bs.length = bs := by
  apply List.ext_getElem
  · simp [State.rdN]
  · intro i h1 h2
    simp only [State.rdN, List.getElem_map, List.getElem_range]
    rw [place_rd8 s k _ bs h, dif_pos ⟨by omega, by omega⟩]
    congr 1
    omega

/-- Every write of memory keeps its canonical form: bytes at their place, plain or not; a way zeroed; dirty bytes discarded;
a save block written back; and an instruction placed for the next step. -/
theorem place_wf (s : State) (k : Nat) (bs : List Byte) (h : Memory.wf s.mem = true) : Memory.wf (s.place k bs).mem = true := by
  rw [place_mem]; exact wf_memPutN _ _ _ h
theorem placePlain_wf (s : State) (k : Nat) (bs : List Byte) (h : Memory.wf s.mem = true) :
    Memory.wf (s.placePlain k bs).mem = true := by
  rw [placePlain_mem]; exact wf_memPutN _ _ _ h
theorem clearWay_wf (s : State) (die way : Nat) (h : Memory.wf s.mem = true) : Memory.wf (s.clearWay die way).mem = true :=
  wf_filter _ _ h
theorem discardDirty_wf (s : State) (port : Nat) (h : Memory.wf s.mem = true) : Memory.wf (s.discardDirty port).1.mem = true :=
  wf_foldl_memPut _ _ h
theorem placeWord_wf (s : State) (n w : Nat) (h : Memory.wf s.mem = true) : Memory.wf (s.placeWord n w).mem = true := by
  have base : Memory.wf s.fetchBase.mem = true := wf_memPutN _ _ _ (wf_memPutN _ _ _ h)
  unfold State.placeWord
  split
  · dsimp only
    split
    · exact wf_memPutN _ _ _ h
    · exact h
  · dsimp only
    split
    · exact wf_memPutN _ _ _ base
    · exact base

/-! ## What keeps the memory of a machine -/

/-- A change that leaves memory alone keeps it. -/
theorem kept_of_eq {s t : State} (h1 : t.mem = s.mem) (h : MemoryKept s) : MemoryKept t := by
  unfold MemoryKept at *; rw [h1]; exact h

theorem kept_foldl {α : Type} (f : State → α → State) (hf : ∀ s a, MemoryKept s → MemoryKept (f s a)) (l : List α) (s : State)
    (h : MemoryKept s) : MemoryKept (l.foldl f s) := by
  induction l generalizing s with
  | nil => exact h
  | cons a l ih => exact ih _ (hf s a h)

/-- The same where the fold carries something besides the state. -/
theorem kept_foldl_fst {α β : Type} (f : State × β → α → State × β) (hf : ∀ p a, MemoryKept p.1 → MemoryKept (f p a).1) (l : List α)
    (p : State × β) (h : MemoryKept p.1) : MemoryKept (l.foldl f p).1 := by
  induction l generalizing p with
  | nil => exact h
  | cons a l ih => exact ih _ (hf p a h)

theorem place_kept (s : State) (k : Nat) (bs : List Byte) (h : MemoryKept s) : MemoryKept (s.place k bs) :=
  place_wf s k bs h
theorem placePlain_kept (s : State) (k : Nat) (bs : List Byte) (h : MemoryKept s) : MemoryKept (s.placePlain k bs) :=
  placePlain_wf s k bs h
theorem clearWay_kept (s : State) (die way : Nat) (h : MemoryKept s) : MemoryKept (s.clearWay die way) :=
  clearWay_wf s die way h
theorem discardDirty_kept (s : State) (port : Nat) (h : MemoryKept s) : MemoryKept (s.discardDirty port).1 :=
  discardDirty_wf s port h

theorem updCore_kept (s : State) (c : Nat) (f : CoreSt → CoreSt) (h : MemoryKept s) : MemoryKept (s.updCore c f) := h
theorem tagWords_kept (s : State) (k n : Nat) (t : RTag) (h : MemoryKept s) : MemoryKept (s.tagWords k n t) := h
theorem l1Set_kept (s : State) (c : Nat) (x : L1Sector) (h : MemoryKept s) : MemoryKept (s.l1Set c x) := h
theorem l1Drop_kept (s : State) (c sec : Nat) (h : MemoryKept s) : MemoryKept (s.l1Drop c sec) := by
  unfold State.l1Drop; split <;> exact h
theorem touchPort_kept (s : State) (thru : Bool) (k : Nat) (wr : Bool) (h : MemoryKept s) : MemoryKept (s.touchPort thru k wr) := by
  unfold State.touchPort
  split
  · exact kept_foldl (fun s (t : Tenant) => s.countHot t.id k wr) (fun s t hs => hs) _ s h
  · exact h
theorem wbBytes_kept (s : State) (x : L1Sector) (h : MemoryKept s) : MemoryKept (s.wbBytes x) := by
  have h' := touchPort_kept s false (64 * x.key) true h
  unfold State.wbBytes
  dsimp only
  split
  · exact placePlain_kept _ _ _ h'
  · exact kept_foldl _ (fun s (p : Nat × Byte) hs => placePlain_kept s p.1 [p.2] hs) _ _ h'
theorem l1Wb_kept (s : State) (c sec : Nat) (h : MemoryKept s) : MemoryKept (s.l1Wb c sec) := by
  unfold State.l1Wb
  split
  · split
    · exact h
    · exact l1Set_kept _ _ _ (wbBytes_kept _ _ h)
  · exact h
theorem settle_kept (s : State) (sec : Nat) (e : Option Nat) (h : MemoryKept s) : MemoryKept (s.settle sec e) := by
  unfold State.settle
  refine kept_foldl _ (fun s c hs => ?_) _ s h
  split
  · exact l1Drop_kept _ _ _ (l1Wb_kept _ _ _ hs)
  · exact hs
theorem l1Fit_kept (s : State) (c sec : Nat) (h : MemoryKept s) : MemoryKept (s.l1Fit c sec) := by
  unfold State.l1Fit
  dsimp only
  split
  · exact h
  · exact kept_foldl _ (fun s i hs => l1Drop_kept _ _ _ (l1Wb_kept _ _ _ hs)) _ s h
theorem l1Age_kept (s : State) (c sec : Nat) (h : MemoryKept s) : MemoryKept (s.l1Age c sec) := by
  unfold State.l1Age
  split
  · exact h
  · dsimp only
    split
    · split
      · exact l1Drop_kept _ _ _ h
      · exact l1Set_kept _ _ _ h
    · exact h
theorem l1Ready_kept (s : State) (c sec : Nat) (need : BitVec 64) (h : MemoryKept s) : MemoryKept (s.l1Ready c sec need).1 := by
  have h' := l1Age_kept _ c sec (settle_kept s sec (some c) h)
  unfold State.l1Ready
  dsimp only
  split
  · exact l1Fit_kept _ _ _ (l1Set_kept _ _ _ h')
  · repeat' split
    all_goals exact h'
theorem passL1_kept (s : State) (c sec i n : Nat) (h : MemoryKept s) : MemoryKept (s.passL1 c sec i n) := by
  have h' := settle_kept _ sec (some c) (l1Wb_kept s c sec h)
  unfold State.passL1
  dsimp only
  split
  · split
    · exact h'
    · exact l1Drop_kept _ _ _ h'
  · exact h'
theorem readPart_kept (s : State) (core : Nat) (path : Path) (sec i n : Nat) (h : MemoryKept s) :
    MemoryKept (s.readPart core path sec i n).1 := by
  unfold State.readPart
  split
  · exact l1Ready_kept _ _ _ _ h
  · split
    · exact h
    · exact passL1_kept _ _ _ _ _ h
  · split
    · exact h
    · exact passL1_kept _ _ _ _ _ h
  · exact h
theorem readLoc_kept (s : State) (core : Nat) (l : Loc) (n : Nat) (h : MemoryKept s) : MemoryKept (s.readLoc core l n).1 := by
  unfold State.readLoc
  refine kept_foldl_fst _ (fun p a hp => ?_) _ (s, _) h
  exact readPart_kept _ _ _ _ _ _ hp
theorem writePart_kept (s : State) (core : Nat) (path : Path) (sec i : Nat) (bs : List Byte) (h : MemoryKept s) :
    MemoryKept (s.writePart core path sec i bs) := by
  unfold State.writePart
  dsimp only
  split
  · exact l1Fit_kept _ _ _ (l1Set_kept _ _ _ h)
  · split
    · exact h
    · refine placePlain_kept _ _ _ (settle_kept _ _ _ ?_)
      split
      · exact l1Set_kept _ _ _ h
      · exact h
  · split
    · exact h
    · refine placePlain_kept _ _ _ (settle_kept _ _ _ ?_)
      split
      · exact l1Set_kept _ _ _ h
      · exact h
  · exact placePlain_kept _ _ _ h
theorem writeLoc_kept (s : State) (core : Nat) (l : Loc) (bs : List Byte) (h : MemoryKept s) : MemoryKept (s.writeLoc core l bs) := by
  unfold State.writeLoc
  exact kept_foldl _ (fun s p hs => writePart_kept _ _ _ _ _ _ hs) _ s h
theorem storeUnit_kept (s : State) (prior : List (Nat × List Byte)) (l : Loc) (bs : List Byte) (h : MemoryKept s) :
    MemoryKept (s.storeUnit prior l bs) := by
  unfold State.storeUnit
  refine kept_of_eq (s := if farKey l.key then _ else _) rfl ?_
  split <;> exact writeLoc_kept _ _ _ _ h
theorem storeLocs_kept (s : State) (ls : List (Loc × List Byte)) (h : MemoryKept s) : MemoryKept (s.storeLocs ls) := by
  unfold State.storeLocs
  exact kept_foldl _ (fun s p hs => kept_foldl _ (fun s u hs => storeUnit_kept _ _ _ _ hs) _ s hs) ls s h
theorem l1WbAll_kept (s : State) (c : Nat) (h : MemoryKept s) : MemoryKept (s.l1WbAll c) := by
  unfold State.l1WbAll
  refine kept_foldl _ (fun s x hs => ?_) _ s h
  split
  · exact hs
  · exact l1Wb_kept _ _ _ hs
theorem l1Discard_kept (s : State) (c : Nat) (h : MemoryKept s) : MemoryKept (s.l1Discard c) := by
  unfold State.l1Discard; split <;> exact h
theorem release_kept (s : State) (core : Nat) (sc : Scope) (h : MemoryKept s) : MemoryKept (s.release core sc) := by
  have h' := kept_foldl State.l1WbAll (fun s c hs => l1WbAll_kept s c hs) (s.actors core sc) s h
  unfold State.release
  dsimp only
  split <;> exact h'
theorem acquire_kept (s : State) (core : Nat) (sc : Scope) (h : MemoryKept s) : MemoryKept (s.acquire core sc) :=
  kept_foldl _ (fun s c hs => l1Discard_kept s c hs) _ s h
theorem lineHome_kept (s : State) (core : Nat) (l : Loc) (h : MemoryKept s) : MemoryKept (s.lineHome core l) := by
  unfold State.lineHome
  split
  · exact h
  · exact kept_foldl _ (fun s i hs => l1Drop_kept _ _ _ (l1Wb_kept _ _ _ hs)) _ s h
theorem atHome_kept (s : State) (core : Nat) (l : Loc) (n : Nat) (h : MemoryKept s) : MemoryKept (s.atHome core l n) := by
  unfold State.atHome
  split
  · exact h
  · exact kept_foldl _ (fun s sec hs => settle_kept _ _ _ hs) _ _ (lineHome_kept _ _ _ h)
theorem openAt_kept (s : State) (core : Option Nat) (l : Loc) (n : Nat) (h : MemoryKept s) : MemoryKept (s.openAt core l n) := by
  unfold State.openAt
  split
  · exact atHome_kept _ _ _ _ h
  · split
    · exact h
    · exact kept_foldl _ (fun s sec hs => settle_kept _ _ _ hs) _ s h
theorem counterAdd_kept (s : State) (core : Option Nat) (l : Loc) (inc : DWord) (t : Option RTag) (h : MemoryKept s) :
    MemoryKept (s.counterAdd core l inc t) := by
  unfold State.counterAdd
  dsimp only
  split
  · exact tagWords_kept _ _ _ _ (place_kept _ _ _ (openAt_kept _ _ _ _ h))
  · exact place_kept _ _ _ (openAt_kept _ _ _ _ h)
theorem cellAt_kept (s : State) (core : Option Nat) (k : Loc) (op : CellOp) (t : RTag) (h : MemoryKept s) :
    MemoryKept (s.cellAt core k op t) := by
  have h' := openAt_kept s core k 16 h
  unfold State.cellAt
  dsimp only
  split
  · split
    · exact h'
    · exact placePlain_kept _ _ _ h'
  · split
    · exact h'
    · exact tagWords_kept _ _ _ _ (place_kept _ _ _ h')
theorem queuePut_kept (s : State) (q : Queue) (l : Loc) (bs : List Byte) (h : MemoryKept s) :
    MemoryKept (s.queuePut q l bs) := by
  unfold State.queuePut
  split
  · exact h
  · exact placePlain_kept _ _ _ (openAt_kept _ _ _ _ h)
theorem queueWrite_kept (s : State) (q : Queue) (a : DWord) (bs : List Byte) (h : MemoryKept s) :
    MemoryKept (s.queueWrite q a bs) := by
  unfold State.queueWrite
  split
  · exact queuePut_kept _ _ _ _ h
  · exact h
theorem unfocus_kept (s : State) (h : MemoryKept s) : MemoryKept s.unfocus := by unfold State.unfocus; split <;> exact h
theorem refocus_kept (s : State) (tid sid : Nat) (todo : List Nat) (h : MemoryKept s) : MemoryKept (s.refocus tid sid todo) := by
  unfold State.refocus
  split
  · exact h
  · split <;> exact h
theorem copyBytes_kept (s : State) (src dst n : Nat) (h : MemoryKept s) : MemoryKept (s.copyBytes src dst n) := by
  unfold State.copyBytes
  refine kept_of_eq (clearTags_mem _ _ _) ?_
  exact wf_pasteRange _ _ _ _ (cutRange_nonzero _ _ _ h) h

/-- State.reset's memory has the canonical form. -/
theorem reset_wf : Memory.wf State.reset.mem = true := rfl
theorem reset_kept : MemoryKept State.reset := rfl

end Sys2Proof.Laws
end

