-- ==== Sys2Proof/Laws/Scalar.lean ====
section
/-!
SUPPORT. The shared shapes of scalar instructions once they are ready, what a write of a predicate or of MODE leaves, and
the trap of an odd register in a pair position.
-/

namespace Sys2Proof.Laws

open Sys2Proof Sys2Proof.Machine

theorem scalarD_ready {i : Instr} {s : State} (h : s.ready i = true) (x y z : Opnd) (f : Word → Word → Word) :
    scalarD i x y z f s = .next ((s.wS x (f (s.sval y) (s.sval z))).finish i) := by
  simp only [scalarD, issueDone_ready h]

theorem scalarU_ready {i : Instr} {s : State} (h : s.ready i = true) (x y : Opnd) (f : Word → Word) :
    scalarU i x y f s = .next ((s.wS x (f (s.sval y))).finish i) := by
  simp only [scalarU, issueDone_ready h]

theorem pairD_ready {i : Instr} {s : State} (h : s.ready i = true) (x : Opnd) (f : State → DWord) :
    pairD i x s f = .next ((s.wD x (f s)).finish i) := by
  simp only [pairD, issueDone_ready h]

theorem affineD_ready {i : Instr} {s : State} (h : s.ready i = true) (x : Opnd) (f : State → Affine) :
    affineD i x s f = .next ((s.wA x (f s)).finish i) := by
  simp only [affineD, issueDone_ready h]

theorem predD_ready {i : Instr} {s : State} (h : s.ready i = true) (x : Opnd) (f : State → BitVec 16) :
    predD i x s f = .next ((s.wP x (f s)).finish i) := by
  simp only [predD, issueDone_ready h]

/-- R6, R30: an accepted instruction with an operand that is not aligned traps REGALIGN. -/
theorem precheck_unaligned {s : State} {i : Instr} (ha : i.accepted = true) {sl : OSlot} (hm : sl ∈ i.slots)
    (hs : slotAligned sl (s.slotCount i sl) = false) : s.precheck i = trapOf .regalign := by
  unfold State.precheck
  rw [if_neg (by simp [ha]), if_pos]
  exact List.any_eq_true.2 ⟨sl, hm, by simp [hs]⟩

theorem sub_eq_ofInt {w : Nat} (a b : BitVec w) : a - b = BitVec.ofInt w ((a.toNat : Int) - b.toNat) := by
  apply BitVec.eq_of_toInt_eq
  rw [BitVec.toInt_sub, BitVec.toInt_ofInt, BitVec.toInt_eq_toNat_bmod, BitVec.toInt_eq_toNat_bmod]
  simp

theorem add_eq_ofNat {w : Nat} (a b : BitVec w) : a + b = BitVec.ofNat w (a.toNat + b.toNat) := by
  apply BitVec.eq_of_toNat_eq
  simp

theorem mul_eq_ofNat {w : Nat} (a b : BitVec w) : a * b = BitVec.ofNat w (a.toNat * b.toNat) := by
  apply BitVec.eq_of_toNat_eq
  simp

theorem not_eq_sub (a : Word) : ~~~a = 0xFFFFFFFF - a := by
  apply BitVec.eq_of_toNat_eq
  have := a.isLt
  rw [BitVec.toNat_not, BitVec.toNat_sub]
  simp
  omega

theorem not_eq_sub16 (a : BitVec 16) : ~~~a = 0xFFFF - a := by
  apply BitVec.eq_of_toNat_eq
  have := a.isLt
  rw [BitVec.toNat_not, BitVec.toNat_sub]
  simp
  omega

/-! ## Vectors by number -/

theorem vget_vset_same {α : Type} {n : Nat} (v : Vector α n) (i : Nat) (x d : α) (h : i < n) :
    vget (vset v i x) i d = x := by
  simp [vget, vset, h]

theorem vget_vset_other {α : Type} {n : Nat} (v : Vector α n) (i j : Nat) (x d : α) (h : j ≠ i) :
    vget (vset v i x) j d = vget v j d := by
  unfold vget vset
  by_cases hj : j < n
  · by_cases hi : i < n
    · simp [hi, hj, Vector.getElem_set_ne hi hj h.symm]
    · simp [hi, hj]
  · simp [hj]

/-! ## Predicates (R64) -/

theorem foldl_or_getLsbD {n : Nat} (l : List (BitVec n)) (a : BitVec n) (i : Nat) :
    (l.foldl (· ||| ·) a).getLsbD i = (a.getLsbD i || l.any (fun m => m.getLsbD i)) := by
  induction l generalizing a with
  | nil => simp
  | cons m l ih => simp [ih, Bool.or_assoc]

/-- R64: the bits a split that is no handler may write. -/
theorem predMask_getLsbD (s : State) (h : s.sp.handler = false) (l : Nat) (hl : l < 16) :
    s.predMask.getLsbD l = true ↔ ∀ p ∈ s.g.splits, p.handler = false → p.lanes.getLsbD l = false := by
  unfold State.predMask
  rw [BitVec.getLsbD_not, foldl_or_getLsbD]
  simp [h, hl]

theorem pick_of_all {α : Type} [DecidableEq α] (s : State) (site : Site) (idx : Nat) (cur : α) (others : List α)
    (h : ∀ o ∈ others, o = cur) : s.pick site idx cur others = cur := by
  unfold State.pick
  rw [if_pos]
  rw [List.all_eq_true]
  intro o ho
  simp [h o ho]

/-- A pick is one of the values offered. -/
theorem pick_mem {α : Type} [DecidableEq α] (s : State) (site : Site) (idx : Nat) (cur : α) (others : List α) :
    s.pick site idx cur others ∈ cur :: others := by
  unfold State.pick
  split
  · simp
  · have h : s.free site idx % (others.length + 1) < (cur :: others).length := by
      rw [List.length_cons]; exact Nat.mod_lt _ (Nat.succ_pos _)
    rw [List.getD_eq_getElem _ _ h]
    exact List.getElem_mem h

/-- R64: a write to p0 is discarded. -/
theorem pwrite_zero (s : State) (v : BitVec 16) : s.pwrite 0 v = s := rfl

/-- R210: a sibling's write that may fall late is one that may still be on its way. -/
theorem siblingLate_nil (s : State) (r : RegName) (h : s.siblingLog r = []) : s.siblingLate r = [] := by
  unfold State.siblingLog at h
  unfold State.siblingLate
  split
  · rename_i hc
    rw [if_pos hc, List.flatMap_eq_nil_iff] at h
    rw [List.flatMap_eq_nil_iff]
    intro q hq
    rw [h q hq, List.filter_nil]
  · rfl

/-- R160, R210: the first write of a register in its window, with none of a sibling's on its way, leaves exactly its result. -/
theorem write_unwritten (s : State) (r : RegName) (m : BitVec 16) (x : RegVal) (w : Bool) (h : s.unwritten r = true) :
    ∃ e, s.write r m x w = { s.store r ((s.cur r).over m x) with
      sp := { (s.store r ((s.cur r).over m x)).sp with wlog := e :: (s.store r ((s.cur r).over m x)).sp.wlog } } := by
  unfold State.unwritten Split.unwritten at h
  simp only [Bool.and_eq_true, List.isEmpty_iff] at h
  obtain ⟨⟨h1, h2⟩, h3⟩ := h
  unfold State.write
  simp only [h1, h2, siblingLate_nil s r h3, List.append_nil, List.isEmpty_nil, if_true, Bool.not_true, Bool.false_and, Bool.false_eq_true, if_false]
  exact ⟨_, rfl⟩

theorem write_curP_other (s : State) (n m : Nat) (e : BitVec 16) (x : RegVal) (w : Bool) (h : m ≠ n) :
    (s.write (.p n) e x w).curP m = s.curP m := by
  have key : ∀ v : RegVal, (s.store (.p n) v).g.preds = s.g.preds ∨ ∃ y, (s.store (.p n) v).g.preds = vset s.g.preds n y := by
    intro v
    match v with
    | .p y => exact .inr ⟨y, rfl⟩
    | .w _ | .a _ | .v _ | .q _ => exact .inl rfl
  unfold State.curP
  by_cases hm : m = 0
  · simp [hm]
  · simp only [hm, if_false]
    unfold State.write
    rcases key _ with hk | ⟨y, hk⟩
    · exact congrArg (fun v => vget v m 0) hk
    · exact (congrArg (fun v => vget v m 0) hk).trans (vget_vset_other _ _ _ _ _ h)

theorem pwrite_curP_other (s : State) (n m : Nat) (v : BitVec 16) (h : m ≠ n) : (s.pwrite n v).curP m = s.curP m := by
  unfold State.pwrite
  by_cases h0 : n = 0
  · simp [h0]
  · rw [if_neg h0]
    exact write_curP_other _ _ _ _ _ _ h

/-- R64: the first write of a predicate in its window. -/
theorem pwrite_curP (s : State) (n : Nat) (v : BitVec 16) (hn : n < 8) (h0 : n ≠ 0) (h : s.unwritten (.p n) = true) :
    (s.pwrite n v).curP n = bitMix s.predMask v (s.curP n) := by
  unfold State.pwrite
  rw [if_neg h0]
  obtain ⟨e, he⟩ := write_unwritten s (.p n) s.predMask (.p v) false h
  rw [he]
  unfold State.curP
  rw [if_neg h0, if_neg h0]
  have hc : s.curP n = vget s.g.preds n 0 := by simp [State.curP, h0]
  simp only [State.cur, RegVal.over, State.store, hc]
  exact vget_vset_same _ _ _ _ hn

/-- R64: a write leaves the bits of lanes that another live split holds. -/
theorem pwrite_curP_outside (s : State) (n : Nat) (v : BitVec 16) (hn : n < 8) (hu : s.unwritten (.p n) = true) (l : Nat)
    (h : s.predMask.getLsbD l = false) : ((s.pwrite n v).curP n).getLsbD l = (s.curP n).getLsbD l := by
  by_cases h0 : n = 0
  · simp [h0, pwrite_zero]
  · rw [pwrite_curP s n v hn h0 hu]
    unfold bitMix
    rw [BitVec.getLsbD_or, BitVec.getLsbD_and, BitVec.getLsbD_and, BitVec.getLsbD_not, h]
    by_cases hl : l < 16
    · simp [hl]
    · simp [BitVec.getLsbD_of_ge _ l (not_lt.1 hl)]

/-- R64: the first write of a window gives the bits of the value where the split may write. -/
theorem pwrite_curP_inside (s : State) (n : Nat) (v : BitVec 16) (hn : n < 8) (h0 : n ≠ 0) (hu : s.unwritten (.p n) = true) (l : Nat)
    (h : s.predMask.getLsbD l = true) : ((s.pwrite n v).curP n).getLsbD l = v.getLsbD l := by
  rw [pwrite_curP s n v hn h0 hu]
  unfold bitMix
  rw [BitVec.getLsbD_or, BitVec.getLsbD_and, BitVec.getLsbD_and, BitVec.getLsbD_not, h]
  simp

end Sys2Proof.Laws
end

