-- ==== Sys2Proof/Laws/State.lean ====
section
/-!
SUPPORT. What the updates of State leave: one lemma per field and update, true by rfl, so that no proof unfolds a record
update.
-/

namespace Sys2Proof.Laws

open Sys2Proof Sys2Proof.Machine

@[simp] theorem updCore_running (s : State) (c : Nat) (f : CoreSt → CoreSt) : (s.updCore c f).running = s.running := rfl
@[simp] theorem updCore_g (s : State) (c : Nat) (f : CoreSt → CoreSt) : (s.updCore c f).g = s.g := rfl
@[simp] theorem updCore_sp (s : State) (c : Nat) (f : CoreSt → CoreSt) : (s.updCore c f).sp = s.sp := rfl
@[simp] theorem updCore_todo (s : State) (c : Nat) (f : CoreSt → CoreSt) : (s.updCore c f).todo = s.todo := rfl
@[simp] theorem updCore_groups (s : State) (c : Nat) (f : CoreSt → CoreSt) : (s.updCore c f).groups = s.groups := rfl
@[simp] theorem updCore_dies (s : State) (c : Nat) (f : CoreSt → CoreSt) : (s.updCore c f).dies = s.dies := rfl
@[simp] theorem updCore_tdies (s : State) (c : Nat) (f : CoreSt → CoreSt) : (s.updCore c f).tdies = s.tdies := rfl
@[simp] theorem updCore_slices (s : State) (c : Nat) (f : CoreSt → CoreSt) : (s.updCore c f).slices = s.slices := rfl
@[simp] theorem updCore_sreqs (s : State) (c : Nat) (f : CoreSt → CoreSt) : (s.updCore c f).sreqs = s.sreqs := rfl
@[simp] theorem updCore_posted (s : State) (c : Nat) (f : CoreSt → CoreSt) : (s.updCore c f).posted = s.posted := rfl
@[simp] theorem updCore_loads (s : State) (c : Nat) (f : CoreSt → CoreSt) : (s.updCore c f).loads = s.loads := rfl
@[simp] theorem updCore_dtlb (s : State) (c : Nat) (f : CoreSt → CoreSt) : (s.updCore c f).dtlb = s.dtlb := rfl
@[simp] theorem updCore_mem (s : State) (c : Nat) (f : CoreSt → CoreSt) : (s.updCore c f).mem = s.mem := rfl
@[simp] theorem updCore_poison (s : State) (c : Nat) (f : CoreSt → CoreSt) : (s.updCore c f).poison = s.poison := rfl
@[simp] theorem updCore_tags (s : State) (c : Nat) (f : CoreSt → CoreSt) : (s.updCore c f).tags = s.tags := rfl
@[simp] theorem updCore_l2d (s : State) (c : Nat) (f : CoreSt → CoreSt) : (s.updCore c f).l2d = s.l2d := rfl
@[simp] theorem updCore_tenants (s : State) (c : Nat) (f : CoreSt → CoreSt) : (s.updCore c f).tenants = s.tenants := rfl
@[simp] theorem updCore_queues (s : State) (c : Nat) (f : CoreSt → CoreSt) : (s.updCore c f).queues = s.queues := rfl
@[simp] theorem updCore_packets (s : State) (c : Nat) (f : CoreSt → CoreSt) : (s.updCore c f).packets = s.packets := rfl
@[simp] theorem updCore_keptPackets (s : State) (c : Nat) (f : CoreSt → CoreSt) : (s.updCore c f).keptPackets = s.keptPackets := rfl
@[simp] theorem updCore_saves (s : State) (c : Nat) (f : CoreSt → CoreSt) : (s.updCore c f).saves = s.saves := rfl
@[simp] theorem updCore_heldCrews (s : State) (c : Nat) (f : CoreSt → CoreSt) : (s.updCore c f).heldCrews = s.heldCrews := rfl
@[simp] theorem updCore_fused (s : State) (c : Nat) (f : CoreSt → CoreSt) : (s.updCore c f).fused = s.fused := rfl
@[simp] theorem updCore_irqs (s : State) (c : Nat) (f : CoreSt → CoreSt) : (s.updCore c f).irqs = s.irqs := rfl
@[simp] theorem updCore_poisonTlps (s : State) (c : Nat) (f : CoreSt → CoreSt) : (s.updCore c f).poisonTlps = s.poisonTlps := rfl
@[simp] theorem updCore_hostReads (s : State) (c : Nat) (f : CoreSt → CoreSt) : (s.updCore c f).hostReads = s.hostReads := rfl
@[simp] theorem updCore_dropped (s : State) (c : Nat) (f : CoreSt → CoreSt) : (s.updCore c f).dropped = s.dropped := rfl
@[simp] theorem updCore_aer (s : State) (c : Nat) (f : CoreSt → CoreSt) : (s.updCore c f).aer = s.aer := rfl
@[simp] theorem updCore_rslots (s : State) (c : Nat) (f : CoreSt → CoreSt) : (s.updCore c f).rslots = s.rslots := rfl
@[simp] theorem updCore_chans (s : State) (c : Nat) (f : CoreSt → CoreSt) : (s.updCore c f).chans = s.chans := rfl
@[simp] theorem updCore_portTimeout (s : State) (c : Nat) (f : CoreSt → CoreSt) : (s.updCore c f).portTimeout = s.portTimeout := rfl
@[simp] theorem updCore_time (s : State) (c : Nat) (f : CoreSt → CoreSt) : (s.updCore c f).time = s.time := rfl
@[simp] theorem updCore_timeRate (s : State) (c : Nat) (f : CoreSt → CoreSt) : (s.updCore c f).timeRate = s.timeRate := rfl
@[simp] theorem updCore_moduleNo (s : State) (c : Nat) (f : CoreSt → CoreSt) : (s.updCore c f).moduleNo = s.moduleNo := rfl
@[simp] theorem updCore_flitSeen (s : State) (c : Nat) (f : CoreSt → CoreSt) : (s.updCore c f).flitSeen = s.flitSeen := rfl
@[simp] theorem updCore_outFlits (s : State) (c : Nat) (f : CoreSt → CoreSt) : (s.updCore c f).outFlits = s.outFlits := rfl
@[simp] theorem updCore_routesDown (s : State) (c : Nat) (f : CoreSt → CoreSt) : (s.updCore c f).routesDown = s.routesDown := rfl
@[simp] theorem updCore_powerLimit (s : State) (c : Nat) (f : CoreSt → CoreSt) : (s.updCore c f).powerLimit = s.powerLimit := rfl
@[simp] theorem updCore_powerLow (s : State) (c : Nat) (f : CoreSt → CoreSt) : (s.updCore c f).powerLow = s.powerLow := rfl
@[simp] theorem updCore_boot (s : State) (c : Nat) (f : CoreSt → CoreSt) : (s.updCore c f).boot = s.boot := rfl
@[simp] theorem updCore_image (s : State) (c : Nat) (f : CoreSt → CoreSt) : (s.updCore c f).image = s.image := rfl
@[simp] theorem updCore_bootNo (s : State) (c : Nat) (f : CoreSt → CoreSt) : (s.updCore c f).bootNo = s.bootNo := rfl
@[simp] theorem updCore_queueBase (s : State) (c : Nat) (f : CoreSt → CoreSt) : (s.updCore c f).queueBase = s.queueBase := rfl
@[simp] theorem updCore_adminBusy (s : State) (c : Nat) (f : CoreSt → CoreSt) : (s.updCore c f).adminBusy = s.adminBusy := rfl
@[simp] theorem updCore_nextTid (s : State) (c : Nat) (f : CoreSt → CoreSt) : (s.updCore c f).nextTid = s.nextTid := rfl
@[simp] theorem updCore_nextId (s : State) (c : Nat) (f : CoreSt → CoreSt) : (s.updCore c f).nextId = s.nextId := rfl
@[simp] theorem updCore_tick (s : State) (c : Nat) (f : CoreSt → CoreSt) : (s.updCore c f).tick = s.tick := rfl
@[simp] theorem updCore_cycleAt (s : State) (c : Nat) (f : CoreSt → CoreSt) : (s.updCore c f).cycleAt = s.cycleAt := rfl
@[simp] theorem updCore_agenda (s : State) (c : Nat) (f : CoreSt → CoreSt) : (s.updCore c f).agenda = s.agenda := rfl

@[simp] theorem updDie_running (s : State) (d : Nat) (f : DieSt → DieSt) : (s.updDie d f).running = s.running := rfl
@[simp] theorem updDie_g (s : State) (d : Nat) (f : DieSt → DieSt) : (s.updDie d f).g = s.g := rfl
@[simp] theorem updDie_sp (s : State) (d : Nat) (f : DieSt → DieSt) : (s.updDie d f).sp = s.sp := rfl
@[simp] theorem updDie_todo (s : State) (d : Nat) (f : DieSt → DieSt) : (s.updDie d f).todo = s.todo := rfl
@[simp] theorem updDie_groups (s : State) (d : Nat) (f : DieSt → DieSt) : (s.updDie d f).groups = s.groups := rfl
@[simp] theorem updDie_cores (s : State) (d : Nat) (f : DieSt → DieSt) : (s.updDie d f).cores = s.cores := rfl
@[simp] theorem updDie_tdies (s : State) (d : Nat) (f : DieSt → DieSt) : (s.updDie d f).tdies = s.tdies := rfl
@[simp] theorem updDie_slices (s : State) (d : Nat) (f : DieSt → DieSt) : (s.updDie d f).slices = s.slices := rfl
@[simp] theorem updDie_sreqs (s : State) (d : Nat) (f : DieSt → DieSt) : (s.updDie d f).sreqs = s.sreqs := rfl
@[simp] theorem updDie_posted (s : State) (d : Nat) (f : DieSt → DieSt) : (s.updDie d f).posted = s.posted := rfl
@[simp] theorem updDie_loads (s : State) (d : Nat) (f : DieSt → DieSt) : (s.updDie d f).loads = s.loads := rfl
@[simp] theorem updDie_dtlb (s : State) (d : Nat) (f : DieSt → DieSt) : (s.updDie d f).dtlb = s.dtlb := rfl
@[simp] theorem updDie_mem (s : State) (d : Nat) (f : DieSt → DieSt) : (s.updDie d f).mem = s.mem := rfl
@[simp] theorem updDie_poison (s : State) (d : Nat) (f : DieSt → DieSt) : (s.updDie d f).poison = s.poison := rfl
@[simp] theorem updDie_tags (s : State) (d : Nat) (f : DieSt → DieSt) : (s.updDie d f).tags = s.tags := rfl
@[simp] theorem updDie_l2d (s : State) (d : Nat) (f : DieSt → DieSt) : (s.updDie d f).l2d = s.l2d := rfl
@[simp] theorem updDie_tenants (s : State) (d : Nat) (f : DieSt → DieSt) : (s.updDie d f).tenants = s.tenants := rfl
@[simp] theorem updDie_queues (s : State) (d : Nat) (f : DieSt → DieSt) : (s.updDie d f).queues = s.queues := rfl
@[simp] theorem updDie_packets (s : State) (d : Nat) (f : DieSt → DieSt) : (s.updDie d f).packets = s.packets := rfl
@[simp] theorem updDie_keptPackets (s : State) (d : Nat) (f : DieSt → DieSt) : (s.updDie d f).keptPackets = s.keptPackets := rfl
@[simp] theorem updDie_saves (s : State) (d : Nat) (f : DieSt → DieSt) : (s.updDie d f).saves = s.saves := rfl
@[simp] theorem updDie_heldCrews (s : State) (d : Nat) (f : DieSt → DieSt) : (s.updDie d f).heldCrews = s.heldCrews := rfl
@[simp] theorem updDie_fused (s : State) (d : Nat) (f : DieSt → DieSt) : (s.updDie d f).fused = s.fused := rfl
@[simp] theorem updDie_irqs (s : State) (d : Nat) (f : DieSt → DieSt) : (s.updDie d f).irqs = s.irqs := rfl
@[simp] theorem updDie_poisonTlps (s : State) (d : Nat) (f : DieSt → DieSt) : (s.updDie d f).poisonTlps = s.poisonTlps := rfl
@[simp] theorem updDie_hostReads (s : State) (d : Nat) (f : DieSt → DieSt) : (s.updDie d f).hostReads = s.hostReads := rfl
@[simp] theorem updDie_dropped (s : State) (d : Nat) (f : DieSt → DieSt) : (s.updDie d f).dropped = s.dropped := rfl
@[simp] theorem updDie_aer (s : State) (d : Nat) (f : DieSt → DieSt) : (s.updDie d f).aer = s.aer := rfl
@[simp] theorem updDie_rslots (s : State) (d : Nat) (f : DieSt → DieSt) : (s.updDie d f).rslots = s.rslots := rfl
@[simp] theorem updDie_chans (s : State) (d : Nat) (f : DieSt → DieSt) : (s.updDie d f).chans = s.chans := rfl
@[simp] theorem updDie_portTimeout (s : State) (d : Nat) (f : DieSt → DieSt) : (s.updDie d f).portTimeout = s.portTimeout := rfl
@[simp] theorem updDie_time (s : State) (d : Nat) (f : DieSt → DieSt) : (s.updDie d f).time = s.time := rfl
@[simp] theorem updDie_timeRate (s : State) (d : Nat) (f : DieSt → DieSt) : (s.updDie d f).timeRate = s.timeRate := rfl
@[simp] theorem updDie_moduleNo (s : State) (d : Nat) (f : DieSt → DieSt) : (s.updDie d f).moduleNo = s.moduleNo := rfl
@[simp] theorem updDie_flitSeen (s : State) (d : Nat) (f : DieSt → DieSt) : (s.updDie d f).flitSeen = s.flitSeen := rfl
@[simp] theorem updDie_outFlits (s : State) (d : Nat) (f : DieSt → DieSt) : (s.updDie d f).outFlits = s.outFlits := rfl
@[simp] theorem updDie_routesDown (s : State) (d : Nat) (f : DieSt → DieSt) : (s.updDie d f).routesDown = s.routesDown := rfl
@[simp] theorem updDie_powerLimit (s : State) (d : Nat) (f : DieSt → DieSt) : (s.updDie d f).powerLimit = s.powerLimit := rfl
@[simp] theorem updDie_powerLow (s : State) (d : Nat) (f : DieSt → DieSt) : (s.updDie d f).powerLow = s.powerLow := rfl
@[simp] theorem updDie_boot (s : State) (d : Nat) (f : DieSt → DieSt) : (s.updDie d f).boot = s.boot := rfl
@[simp] theorem updDie_image (s : State) (d : Nat) (f : DieSt → DieSt) : (s.updDie d f).image = s.image := rfl
@[simp] theorem updDie_bootNo (s : State) (d : Nat) (f : DieSt → DieSt) : (s.updDie d f).bootNo = s.bootNo := rfl
@[simp] theorem updDie_queueBase (s : State) (d : Nat) (f : DieSt → DieSt) : (s.updDie d f).queueBase = s.queueBase := rfl
@[simp] theorem updDie_adminBusy (s : State) (d : Nat) (f : DieSt → DieSt) : (s.updDie d f).adminBusy = s.adminBusy := rfl
@[simp] theorem updDie_nextTid (s : State) (d : Nat) (f : DieSt → DieSt) : (s.updDie d f).nextTid = s.nextTid := rfl
@[simp] theorem updDie_nextId (s : State) (d : Nat) (f : DieSt → DieSt) : (s.updDie d f).nextId = s.nextId := rfl
@[simp] theorem updDie_tick (s : State) (d : Nat) (f : DieSt → DieSt) : (s.updDie d f).tick = s.tick := rfl
@[simp] theorem updDie_cycleAt (s : State) (d : Nat) (f : DieSt → DieSt) : (s.updDie d f).cycleAt = s.cycleAt := rfl
@[simp] theorem updDie_agenda (s : State) (d : Nat) (f : DieSt → DieSt) : (s.updDie d f).agenda = s.agenda := rfl

@[simp] theorem updTenant_running (s : State) (t : Nat) (f : Tenant → Tenant) : (s.updTenant t f).running = s.running := rfl
@[simp] theorem updTenant_g (s : State) (t : Nat) (f : Tenant → Tenant) : (s.updTenant t f).g = s.g := rfl
@[simp] theorem updTenant_sp (s : State) (t : Nat) (f : Tenant → Tenant) : (s.updTenant t f).sp = s.sp := rfl
@[simp] theorem updTenant_todo (s : State) (t : Nat) (f : Tenant → Tenant) : (s.updTenant t f).todo = s.todo := rfl
@[simp] theorem updTenant_groups (s : State) (t : Nat) (f : Tenant → Tenant) : (s.updTenant t f).groups = s.groups := rfl
@[simp] theorem updTenant_cores (s : State) (t : Nat) (f : Tenant → Tenant) : (s.updTenant t f).cores = s.cores := rfl
@[simp] theorem updTenant_dies (s : State) (t : Nat) (f : Tenant → Tenant) : (s.updTenant t f).dies = s.dies := rfl
@[simp] theorem updTenant_tdies (s : State) (t : Nat) (f : Tenant → Tenant) : (s.updTenant t f).tdies = s.tdies := rfl
@[simp] theorem updTenant_slices (s : State) (t : Nat) (f : Tenant → Tenant) : (s.updTenant t f).slices = s.slices := rfl
@[simp] theorem updTenant_sreqs (s : State) (t : Nat) (f : Tenant → Tenant) : (s.updTenant t f).sreqs = s.sreqs := rfl
@[simp] theorem updTenant_posted (s : State) (t : Nat) (f : Tenant → Tenant) : (s.updTenant t f).posted = s.posted := rfl
@[simp] theorem updTenant_loads (s : State) (t : Nat) (f : Tenant → Tenant) : (s.updTenant t f).loads = s.loads := rfl
@[simp] theorem updTenant_dtlb (s : State) (t : Nat) (f : Tenant → Tenant) : (s.updTenant t f).dtlb = s.dtlb := rfl
@[simp] theorem updTenant_mem (s : State) (t : Nat) (f : Tenant → Tenant) : (s.updTenant t f).mem = s.mem := rfl
@[simp] theorem updTenant_poison (s : State) (t : Nat) (f : Tenant → Tenant) : (s.updTenant t f).poison = s.poison := rfl
@[simp] theorem updTenant_tags (s : State) (t : Nat) (f : Tenant → Tenant) : (s.updTenant t f).tags = s.tags := rfl
@[simp] theorem updTenant_l2d (s : State) (t : Nat) (f : Tenant → Tenant) : (s.updTenant t f).l2d = s.l2d := rfl
@[simp] theorem updTenant_queues (s : State) (t : Nat) (f : Tenant → Tenant) : (s.updTenant t f).queues = s.queues := rfl
@[simp] theorem updTenant_packets (s : State) (t : Nat) (f : Tenant → Tenant) : (s.updTenant t f).packets = s.packets := rfl
@[simp] theorem updTenant_keptPackets (s : State) (t : Nat) (f : Tenant → Tenant) : (s.updTenant t f).keptPackets = s.keptPackets := rfl
@[simp] theorem updTenant_saves (s : State) (t : Nat) (f : Tenant → Tenant) : (s.updTenant t f).saves = s.saves := rfl
@[simp] theorem updTenant_heldCrews (s : State) (t : Nat) (f : Tenant → Tenant) : (s.updTenant t f).heldCrews = s.heldCrews := rfl
@[simp] theorem updTenant_fused (s : State) (t : Nat) (f : Tenant → Tenant) : (s.updTenant t f).fused = s.fused := rfl
@[simp] theorem updTenant_irqs (s : State) (t : Nat) (f : Tenant → Tenant) : (s.updTenant t f).irqs = s.irqs := rfl
@[simp] theorem updTenant_poisonTlps (s : State) (t : Nat) (f : Tenant → Tenant) : (s.updTenant t f).poisonTlps = s.poisonTlps := rfl
@[simp] theorem updTenant_hostReads (s : State) (t : Nat) (f : Tenant → Tenant) : (s.updTenant t f).hostReads = s.hostReads := rfl
@[simp] theorem updTenant_dropped (s : State) (t : Nat) (f : Tenant → Tenant) : (s.updTenant t f).dropped = s.dropped := rfl
@[simp] theorem updTenant_aer (s : State) (t : Nat) (f : Tenant → Tenant) : (s.updTenant t f).aer = s.aer := rfl
@[simp] theorem updTenant_rslots (s : State) (t : Nat) (f : Tenant → Tenant) : (s.updTenant t f).rslots = s.rslots := rfl
@[simp] theorem updTenant_chans (s : State) (t : Nat) (f : Tenant → Tenant) : (s.updTenant t f).chans = s.chans := rfl
@[simp] theorem updTenant_portTimeout (s : State) (t : Nat) (f : Tenant → Tenant) : (s.updTenant t f).portTimeout = s.portTimeout := rfl
@[simp] theorem updTenant_time (s : State) (t : Nat) (f : Tenant → Tenant) : (s.updTenant t f).time = s.time := rfl
@[simp] theorem updTenant_timeRate (s : State) (t : Nat) (f : Tenant → Tenant) : (s.updTenant t f).timeRate = s.timeRate := rfl
@[simp] theorem updTenant_moduleNo (s : State) (t : Nat) (f : Tenant → Tenant) : (s.updTenant t f).moduleNo = s.moduleNo := rfl
@[simp] theorem updTenant_flitSeen (s : State) (t : Nat) (f : Tenant → Tenant) : (s.updTenant t f).flitSeen = s.flitSeen := rfl
@[simp] theorem updTenant_outFlits (s : State) (t : Nat) (f : Tenant → Tenant) : (s.updTenant t f).outFlits = s.outFlits := rfl
@[simp] theorem updTenant_routesDown (s : State) (t : Nat) (f : Tenant → Tenant) : (s.updTenant t f).routesDown = s.routesDown := rfl
@[simp] theorem updTenant_powerLimit (s : State) (t : Nat) (f : Tenant → Tenant) : (s.updTenant t f).powerLimit = s.powerLimit := rfl
@[simp] theorem updTenant_powerLow (s : State) (t : Nat) (f : Tenant → Tenant) : (s.updTenant t f).powerLow = s.powerLow := rfl
@[simp] theorem updTenant_boot (s : State) (t : Nat) (f : Tenant → Tenant) : (s.updTenant t f).boot = s.boot := rfl
@[simp] theorem updTenant_image (s : State) (t : Nat) (f : Tenant → Tenant) : (s.updTenant t f).image = s.image := rfl
@[simp] theorem updTenant_bootNo (s : State) (t : Nat) (f : Tenant → Tenant) : (s.updTenant t f).bootNo = s.bootNo := rfl
@[simp] theorem updTenant_queueBase (s : State) (t : Nat) (f : Tenant → Tenant) : (s.updTenant t f).queueBase = s.queueBase := rfl
@[simp] theorem updTenant_adminBusy (s : State) (t : Nat) (f : Tenant → Tenant) : (s.updTenant t f).adminBusy = s.adminBusy := rfl
@[simp] theorem updTenant_nextTid (s : State) (t : Nat) (f : Tenant → Tenant) : (s.updTenant t f).nextTid = s.nextTid := rfl
@[simp] theorem updTenant_nextId (s : State) (t : Nat) (f : Tenant → Tenant) : (s.updTenant t f).nextId = s.nextId := rfl
@[simp] theorem updTenant_tick (s : State) (t : Nat) (f : Tenant → Tenant) : (s.updTenant t f).tick = s.tick := rfl
@[simp] theorem updTenant_cycleAt (s : State) (t : Nat) (f : Tenant → Tenant) : (s.updTenant t f).cycleAt = s.cycleAt := rfl
@[simp] theorem updTenant_agenda (s : State) (t : Nat) (f : Tenant → Tenant) : (s.updTenant t f).agenda = s.agenda := rfl

@[simp] theorem updTdie_running (s : State) (t d : Nat) (f : TenantDie → TenantDie) : (s.updTdie t d f).running = s.running := rfl
@[simp] theorem updTdie_g (s : State) (t d : Nat) (f : TenantDie → TenantDie) : (s.updTdie t d f).g = s.g := rfl
@[simp] theorem updTdie_sp (s : State) (t d : Nat) (f : TenantDie → TenantDie) : (s.updTdie t d f).sp = s.sp := rfl
@[simp] theorem updTdie_todo (s : State) (t d : Nat) (f : TenantDie → TenantDie) : (s.updTdie t d f).todo = s.todo := rfl
@[simp] theorem updTdie_groups (s : State) (t d : Nat) (f : TenantDie → TenantDie) : (s.updTdie t d f).groups = s.groups := rfl
@[simp] theorem updTdie_cores (s : State) (t d : Nat) (f : TenantDie → TenantDie) : (s.updTdie t d f).cores = s.cores := rfl
@[simp] theorem updTdie_dies (s : State) (t d : Nat) (f : TenantDie → TenantDie) : (s.updTdie t d f).dies = s.dies := rfl
@[simp] theorem updTdie_slices (s : State) (t d : Nat) (f : TenantDie → TenantDie) : (s.updTdie t d f).slices = s.slices := rfl
@[simp] theorem updTdie_sreqs (s : State) (t d : Nat) (f : TenantDie → TenantDie) : (s.updTdie t d f).sreqs = s.sreqs := rfl
@[simp] theorem updTdie_posted (s : State) (t d : Nat) (f : TenantDie → TenantDie) : (s.updTdie t d f).posted = s.posted := rfl
@[simp] theorem updTdie_loads (s : State) (t d : Nat) (f : TenantDie → TenantDie) : (s.updTdie t d f).loads = s.loads := rfl
@[simp] theorem updTdie_dtlb (s : State) (t d : Nat) (f : TenantDie → TenantDie) : (s.updTdie t d f).dtlb = s.dtlb := rfl
@[simp] theorem updTdie_mem (s : State) (t d : Nat) (f : TenantDie → TenantDie) : (s.updTdie t d f).mem = s.mem := rfl
@[simp] theorem updTdie_poison (s : State) (t d : Nat) (f : TenantDie → TenantDie) : (s.updTdie t d f).poison = s.poison := rfl
@[simp] theorem updTdie_tags (s : State) (t d : Nat) (f : TenantDie → TenantDie) : (s.updTdie t d f).tags = s.tags := rfl
@[simp] theorem updTdie_l2d (s : State) (t d : Nat) (f : TenantDie → TenantDie) : (s.updTdie t d f).l2d = s.l2d := rfl
@[simp] theorem updTdie_tenants (s : State) (t d : Nat) (f : TenantDie → TenantDie) : (s.updTdie t d f).tenants = s.tenants := rfl
@[simp] theorem updTdie_queues (s : State) (t d : Nat) (f : TenantDie → TenantDie) : (s.updTdie t d f).queues = s.queues := rfl
@[simp] theorem updTdie_packets (s : State) (t d : Nat) (f : TenantDie → TenantDie) : (s.updTdie t d f).packets = s.packets := rfl
@[simp] theorem updTdie_keptPackets (s : State) (t d : Nat) (f : TenantDie → TenantDie) : (s.updTdie t d f).keptPackets = s.keptPackets := rfl
@[simp] theorem updTdie_saves (s : State) (t d : Nat) (f : TenantDie → TenantDie) : (s.updTdie t d f).saves = s.saves := rfl
@[simp] theorem updTdie_heldCrews (s : State) (t d : Nat) (f : TenantDie → TenantDie) : (s.updTdie t d f).heldCrews = s.heldCrews := rfl
@[simp] theorem updTdie_fused (s : State) (t d : Nat) (f : TenantDie → TenantDie) : (s.updTdie t d f).fused = s.fused := rfl
@[simp] theorem updTdie_irqs (s : State) (t d : Nat) (f : TenantDie → TenantDie) : (s.updTdie t d f).irqs = s.irqs := rfl
@[simp] theorem updTdie_poisonTlps (s : State) (t d : Nat) (f : TenantDie → TenantDie) : (s.updTdie t d f).poisonTlps = s.poisonTlps := rfl
@[simp] theorem updTdie_hostReads (s : State) (t d : Nat) (f : TenantDie → TenantDie) : (s.updTdie t d f).hostReads = s.hostReads := rfl
@[simp] theorem updTdie_dropped (s : State) (t d : Nat) (f : TenantDie → TenantDie) : (s.updTdie t d f).dropped = s.dropped := rfl
@[simp] theorem updTdie_aer (s : State) (t d : Nat) (f : TenantDie → TenantDie) : (s.updTdie t d f).aer = s.aer := rfl
@[simp] theorem updTdie_rslots (s : State) (t d : Nat) (f : TenantDie → TenantDie) : (s.updTdie t d f).rslots = s.rslots := rfl
@[simp] theorem updTdie_chans (s : State) (t d : Nat) (f : TenantDie → TenantDie) : (s.updTdie t d f).chans = s.chans := rfl
@[simp] theorem updTdie_portTimeout (s : State) (t d : Nat) (f : TenantDie → TenantDie) : (s.updTdie t d f).portTimeout = s.portTimeout := rfl
@[simp] theorem updTdie_time (s : State) (t d : Nat) (f : TenantDie → TenantDie) : (s.updTdie t d f).time = s.time := rfl
@[simp] theorem updTdie_timeRate (s : State) (t d : Nat) (f : TenantDie → TenantDie) : (s.updTdie t d f).timeRate = s.timeRate := rfl
@[simp] theorem updTdie_moduleNo (s : State) (t d : Nat) (f : TenantDie → TenantDie) : (s.updTdie t d f).moduleNo = s.moduleNo := rfl
@[simp] theorem updTdie_flitSeen (s : State) (t d : Nat) (f : TenantDie → TenantDie) : (s.updTdie t d f).flitSeen = s.flitSeen := rfl
@[simp] theorem updTdie_outFlits (s : State) (t d : Nat) (f : TenantDie → TenantDie) : (s.updTdie t d f).outFlits = s.outFlits := rfl
@[simp] theorem updTdie_routesDown (s : State) (t d : Nat) (f : TenantDie → TenantDie) : (s.updTdie t d f).routesDown = s.routesDown := rfl
@[simp] theorem updTdie_powerLimit (s : State) (t d : Nat) (f : TenantDie → TenantDie) : (s.updTdie t d f).powerLimit = s.powerLimit := rfl
@[simp] theorem updTdie_powerLow (s : State) (t d : Nat) (f : TenantDie → TenantDie) : (s.updTdie t d f).powerLow = s.powerLow := rfl
@[simp] theorem updTdie_boot (s : State) (t d : Nat) (f : TenantDie → TenantDie) : (s.updTdie t d f).boot = s.boot := rfl
@[simp] theorem updTdie_image (s : State) (t d : Nat) (f : TenantDie → TenantDie) : (s.updTdie t d f).image = s.image := rfl
@[simp] theorem updTdie_bootNo (s : State) (t d : Nat) (f : TenantDie → TenantDie) : (s.updTdie t d f).bootNo = s.bootNo := rfl
@[simp] theorem updTdie_queueBase (s : State) (t d : Nat) (f : TenantDie → TenantDie) : (s.updTdie t d f).queueBase = s.queueBase := rfl
@[simp] theorem updTdie_adminBusy (s : State) (t d : Nat) (f : TenantDie → TenantDie) : (s.updTdie t d f).adminBusy = s.adminBusy := rfl
@[simp] theorem updTdie_nextTid (s : State) (t d : Nat) (f : TenantDie → TenantDie) : (s.updTdie t d f).nextTid = s.nextTid := rfl
@[simp] theorem updTdie_nextId (s : State) (t d : Nat) (f : TenantDie → TenantDie) : (s.updTdie t d f).nextId = s.nextId := rfl
@[simp] theorem updTdie_tick (s : State) (t d : Nat) (f : TenantDie → TenantDie) : (s.updTdie t d f).tick = s.tick := rfl
@[simp] theorem updTdie_cycleAt (s : State) (t d : Nat) (f : TenantDie → TenantDie) : (s.updTdie t d f).cycleAt = s.cycleAt := rfl
@[simp] theorem updTdie_agenda (s : State) (t d : Nat) (f : TenantDie → TenantDie) : (s.updTdie t d f).agenda = s.agenda := rfl

@[simp] theorem updQueue_running (s : State) (q : Nat) (f : Queue → Queue) : (s.updQueue q f).running = s.running := rfl
@[simp] theorem updQueue_g (s : State) (q : Nat) (f : Queue → Queue) : (s.updQueue q f).g = s.g := rfl
@[simp] theorem updQueue_sp (s : State) (q : Nat) (f : Queue → Queue) : (s.updQueue q f).sp = s.sp := rfl
@[simp] theorem updQueue_todo (s : State) (q : Nat) (f : Queue → Queue) : (s.updQueue q f).todo = s.todo := rfl
@[simp] theorem updQueue_groups (s : State) (q : Nat) (f : Queue → Queue) : (s.updQueue q f).groups = s.groups := rfl
@[simp] theorem updQueue_cores (s : State) (q : Nat) (f : Queue → Queue) : (s.updQueue q f).cores = s.cores := rfl
@[simp] theorem updQueue_dies (s : State) (q : Nat) (f : Queue → Queue) : (s.updQueue q f).dies = s.dies := rfl
@[simp] theorem updQueue_tdies (s : State) (q : Nat) (f : Queue → Queue) : (s.updQueue q f).tdies = s.tdies := rfl
@[simp] theorem updQueue_slices (s : State) (q : Nat) (f : Queue → Queue) : (s.updQueue q f).slices = s.slices := rfl
@[simp] theorem updQueue_sreqs (s : State) (q : Nat) (f : Queue → Queue) : (s.updQueue q f).sreqs = s.sreqs := rfl
@[simp] theorem updQueue_posted (s : State) (q : Nat) (f : Queue → Queue) : (s.updQueue q f).posted = s.posted := rfl
@[simp] theorem updQueue_loads (s : State) (q : Nat) (f : Queue → Queue) : (s.updQueue q f).loads = s.loads := rfl
@[simp] theorem updQueue_dtlb (s : State) (q : Nat) (f : Queue → Queue) : (s.updQueue q f).dtlb = s.dtlb := rfl
@[simp] theorem updQueue_mem (s : State) (q : Nat) (f : Queue → Queue) : (s.updQueue q f).mem = s.mem := rfl
@[simp] theorem updQueue_poison (s : State) (q : Nat) (f : Queue → Queue) : (s.updQueue q f).poison = s.poison := rfl
@[simp] theorem updQueue_tags (s : State) (q : Nat) (f : Queue → Queue) : (s.updQueue q f).tags = s.tags := rfl
@[simp] theorem updQueue_l2d (s : State) (q : Nat) (f : Queue → Queue) : (s.updQueue q f).l2d = s.l2d := rfl
@[simp] theorem updQueue_tenants (s : State) (q : Nat) (f : Queue → Queue) : (s.updQueue q f).tenants = s.tenants := rfl
@[simp] theorem updQueue_packets (s : State) (q : Nat) (f : Queue → Queue) : (s.updQueue q f).packets = s.packets := rfl
@[simp] theorem updQueue_keptPackets (s : State) (q : Nat) (f : Queue → Queue) : (s.updQueue q f).keptPackets = s.keptPackets := rfl
@[simp] theorem updQueue_saves (s : State) (q : Nat) (f : Queue → Queue) : (s.updQueue q f).saves = s.saves := rfl
@[simp] theorem updQueue_heldCrews (s : State) (q : Nat) (f : Queue → Queue) : (s.updQueue q f).heldCrews = s.heldCrews := rfl
@[simp] theorem updQueue_fused (s : State) (q : Nat) (f : Queue → Queue) : (s.updQueue q f).fused = s.fused := rfl
@[simp] theorem updQueue_irqs (s : State) (q : Nat) (f : Queue → Queue) : (s.updQueue q f).irqs = s.irqs := rfl
@[simp] theorem updQueue_poisonTlps (s : State) (q : Nat) (f : Queue → Queue) : (s.updQueue q f).poisonTlps = s.poisonTlps := rfl
@[simp] theorem updQueue_hostReads (s : State) (q : Nat) (f : Queue → Queue) : (s.updQueue q f).hostReads = s.hostReads := rfl
@[simp] theorem updQueue_dropped (s : State) (q : Nat) (f : Queue → Queue) : (s.updQueue q f).dropped = s.dropped := rfl
@[simp] theorem updQueue_aer (s : State) (q : Nat) (f : Queue → Queue) : (s.updQueue q f).aer = s.aer := rfl
@[simp] theorem updQueue_rslots (s : State) (q : Nat) (f : Queue → Queue) : (s.updQueue q f).rslots = s.rslots := rfl
@[simp] theorem updQueue_chans (s : State) (q : Nat) (f : Queue → Queue) : (s.updQueue q f).chans = s.chans := rfl
@[simp] theorem updQueue_portTimeout (s : State) (q : Nat) (f : Queue → Queue) : (s.updQueue q f).portTimeout = s.portTimeout := rfl
@[simp] theorem updQueue_time (s : State) (q : Nat) (f : Queue → Queue) : (s.updQueue q f).time = s.time := rfl
@[simp] theorem updQueue_timeRate (s : State) (q : Nat) (f : Queue → Queue) : (s.updQueue q f).timeRate = s.timeRate := rfl
@[simp] theorem updQueue_moduleNo (s : State) (q : Nat) (f : Queue → Queue) : (s.updQueue q f).moduleNo = s.moduleNo := rfl
@[simp] theorem updQueue_flitSeen (s : State) (q : Nat) (f : Queue → Queue) : (s.updQueue q f).flitSeen = s.flitSeen := rfl
@[simp] theorem updQueue_outFlits (s : State) (q : Nat) (f : Queue → Queue) : (s.updQueue q f).outFlits = s.outFlits := rfl
@[simp] theorem updQueue_routesDown (s : State) (q : Nat) (f : Queue → Queue) : (s.updQueue q f).routesDown = s.routesDown := rfl
@[simp] theorem updQueue_powerLimit (s : State) (q : Nat) (f : Queue → Queue) : (s.updQueue q f).powerLimit = s.powerLimit := rfl
@[simp] theorem updQueue_powerLow (s : State) (q : Nat) (f : Queue → Queue) : (s.updQueue q f).powerLow = s.powerLow := rfl
@[simp] theorem updQueue_boot (s : State) (q : Nat) (f : Queue → Queue) : (s.updQueue q f).boot = s.boot := rfl
@[simp] theorem updQueue_image (s : State) (q : Nat) (f : Queue → Queue) : (s.updQueue q f).image = s.image := rfl
@[simp] theorem updQueue_bootNo (s : State) (q : Nat) (f : Queue → Queue) : (s.updQueue q f).bootNo = s.bootNo := rfl
@[simp] theorem updQueue_queueBase (s : State) (q : Nat) (f : Queue → Queue) : (s.updQueue q f).queueBase = s.queueBase := rfl
@[simp] theorem updQueue_adminBusy (s : State) (q : Nat) (f : Queue → Queue) : (s.updQueue q f).adminBusy = s.adminBusy := rfl
@[simp] theorem updQueue_nextTid (s : State) (q : Nat) (f : Queue → Queue) : (s.updQueue q f).nextTid = s.nextTid := rfl
@[simp] theorem updQueue_nextId (s : State) (q : Nat) (f : Queue → Queue) : (s.updQueue q f).nextId = s.nextId := rfl
@[simp] theorem updQueue_tick (s : State) (q : Nat) (f : Queue → Queue) : (s.updQueue q f).tick = s.tick := rfl
@[simp] theorem updQueue_cycleAt (s : State) (q : Nat) (f : Queue → Queue) : (s.updQueue q f).cycleAt = s.cycleAt := rfl
@[simp] theorem updQueue_agenda (s : State) (q : Nat) (f : Queue → Queue) : (s.updQueue q f).agenda = s.agenda := rfl

@[simp] theorem updGroup_running (s : State) (t : Nat) (f : Group → Group) : (s.updGroup t f).running = s.running := rfl
@[simp] theorem updGroup_g (s : State) (t : Nat) (f : Group → Group) : (s.updGroup t f).g = s.g := rfl
@[simp] theorem updGroup_sp (s : State) (t : Nat) (f : Group → Group) : (s.updGroup t f).sp = s.sp := rfl
@[simp] theorem updGroup_todo (s : State) (t : Nat) (f : Group → Group) : (s.updGroup t f).todo = s.todo := rfl
@[simp] theorem updGroup_cores (s : State) (t : Nat) (f : Group → Group) : (s.updGroup t f).cores = s.cores := rfl
@[simp] theorem updGroup_dies (s : State) (t : Nat) (f : Group → Group) : (s.updGroup t f).dies = s.dies := rfl
@[simp] theorem updGroup_tdies (s : State) (t : Nat) (f : Group → Group) : (s.updGroup t f).tdies = s.tdies := rfl
@[simp] theorem updGroup_slices (s : State) (t : Nat) (f : Group → Group) : (s.updGroup t f).slices = s.slices := rfl
@[simp] theorem updGroup_sreqs (s : State) (t : Nat) (f : Group → Group) : (s.updGroup t f).sreqs = s.sreqs := rfl
@[simp] theorem updGroup_posted (s : State) (t : Nat) (f : Group → Group) : (s.updGroup t f).posted = s.posted := rfl
@[simp] theorem updGroup_loads (s : State) (t : Nat) (f : Group → Group) : (s.updGroup t f).loads = s.loads := rfl
@[simp] theorem updGroup_dtlb (s : State) (t : Nat) (f : Group → Group) : (s.updGroup t f).dtlb = s.dtlb := rfl
@[simp] theorem updGroup_mem (s : State) (t : Nat) (f : Group → Group) : (s.updGroup t f).mem = s.mem := rfl
@[simp] theorem updGroup_poison (s : State) (t : Nat) (f : Group → Group) : (s.updGroup t f).poison = s.poison := rfl
@[simp] theorem updGroup_tags (s : State) (t : Nat) (f : Group → Group) : (s.updGroup t f).tags = s.tags := rfl
@[simp] theorem updGroup_l2d (s : State) (t : Nat) (f : Group → Group) : (s.updGroup t f).l2d = s.l2d := rfl
@[simp] theorem updGroup_tenants (s : State) (t : Nat) (f : Group → Group) : (s.updGroup t f).tenants = s.tenants := rfl
@[simp] theorem updGroup_queues (s : State) (t : Nat) (f : Group → Group) : (s.updGroup t f).queues = s.queues := rfl
@[simp] theorem updGroup_packets (s : State) (t : Nat) (f : Group → Group) : (s.updGroup t f).packets = s.packets := rfl
@[simp] theorem updGroup_keptPackets (s : State) (t : Nat) (f : Group → Group) : (s.updGroup t f).keptPackets = s.keptPackets := rfl
@[simp] theorem updGroup_saves (s : State) (t : Nat) (f : Group → Group) : (s.updGroup t f).saves = s.saves := rfl
@[simp] theorem updGroup_heldCrews (s : State) (t : Nat) (f : Group → Group) : (s.updGroup t f).heldCrews = s.heldCrews := rfl
@[simp] theorem updGroup_fused (s : State) (t : Nat) (f : Group → Group) : (s.updGroup t f).fused = s.fused := rfl
@[simp] theorem updGroup_irqs (s : State) (t : Nat) (f : Group → Group) : (s.updGroup t f).irqs = s.irqs := rfl
@[simp] theorem updGroup_poisonTlps (s : State) (t : Nat) (f : Group → Group) : (s.updGroup t f).poisonTlps = s.poisonTlps := rfl
@[simp] theorem updGroup_hostReads (s : State) (t : Nat) (f : Group → Group) : (s.updGroup t f).hostReads = s.hostReads := rfl
@[simp] theorem updGroup_dropped (s : State) (t : Nat) (f : Group → Group) : (s.updGroup t f).dropped = s.dropped := rfl
@[simp] theorem updGroup_aer (s : State) (t : Nat) (f : Group → Group) : (s.updGroup t f).aer = s.aer := rfl
@[simp] theorem updGroup_rslots (s : State) (t : Nat) (f : Group → Group) : (s.updGroup t f).rslots = s.rslots := rfl
@[simp] theorem updGroup_chans (s : State) (t : Nat) (f : Group → Group) : (s.updGroup t f).chans = s.chans := rfl
@[simp] theorem updGroup_portTimeout (s : State) (t : Nat) (f : Group → Group) : (s.updGroup t f).portTimeout = s.portTimeout := rfl
@[simp] theorem updGroup_time (s : State) (t : Nat) (f : Group → Group) : (s.updGroup t f).time = s.time := rfl
@[simp] theorem updGroup_timeRate (s : State) (t : Nat) (f : Group → Group) : (s.updGroup t f).timeRate = s.timeRate := rfl
@[simp] theorem updGroup_moduleNo (s : State) (t : Nat) (f : Group → Group) : (s.updGroup t f).moduleNo = s.moduleNo := rfl
@[simp] theorem updGroup_flitSeen (s : State) (t : Nat) (f : Group → Group) : (s.updGroup t f).flitSeen = s.flitSeen := rfl
@[simp] theorem updGroup_outFlits (s : State) (t : Nat) (f : Group → Group) : (s.updGroup t f).outFlits = s.outFlits := rfl
@[simp] theorem updGroup_routesDown (s : State) (t : Nat) (f : Group → Group) : (s.updGroup t f).routesDown = s.routesDown := rfl
@[simp] theorem updGroup_powerLimit (s : State) (t : Nat) (f : Group → Group) : (s.updGroup t f).powerLimit = s.powerLimit := rfl
@[simp] theorem updGroup_powerLow (s : State) (t : Nat) (f : Group → Group) : (s.updGroup t f).powerLow = s.powerLow := rfl
@[simp] theorem updGroup_boot (s : State) (t : Nat) (f : Group → Group) : (s.updGroup t f).boot = s.boot := rfl
@[simp] theorem updGroup_image (s : State) (t : Nat) (f : Group → Group) : (s.updGroup t f).image = s.image := rfl
@[simp] theorem updGroup_bootNo (s : State) (t : Nat) (f : Group → Group) : (s.updGroup t f).bootNo = s.bootNo := rfl
@[simp] theorem updGroup_queueBase (s : State) (t : Nat) (f : Group → Group) : (s.updGroup t f).queueBase = s.queueBase := rfl
@[simp] theorem updGroup_adminBusy (s : State) (t : Nat) (f : Group → Group) : (s.updGroup t f).adminBusy = s.adminBusy := rfl
@[simp] theorem updGroup_nextTid (s : State) (t : Nat) (f : Group → Group) : (s.updGroup t f).nextTid = s.nextTid := rfl
@[simp] theorem updGroup_nextId (s : State) (t : Nat) (f : Group → Group) : (s.updGroup t f).nextId = s.nextId := rfl
@[simp] theorem updGroup_tick (s : State) (t : Nat) (f : Group → Group) : (s.updGroup t f).tick = s.tick := rfl
@[simp] theorem updGroup_cycleAt (s : State) (t : Nat) (f : Group → Group) : (s.updGroup t f).cycleAt = s.cycleAt := rfl
@[simp] theorem updGroup_agenda (s : State) (t : Nat) (f : Group → Group) : (s.updGroup t f).agenda = s.agenda := rfl

@[simp] theorem clock_running (s : State) : (s.clock).running = s.running := rfl
@[simp] theorem clock_g (s : State) : (s.clock).g = s.g := rfl
@[simp] theorem clock_sp (s : State) : (s.clock).sp = s.sp := rfl
@[simp] theorem clock_todo (s : State) : (s.clock).todo = s.todo := rfl
@[simp] theorem clock_groups (s : State) : (s.clock).groups = s.groups := rfl
@[simp] theorem clock_cores (s : State) : (s.clock).cores = s.cores := rfl
@[simp] theorem clock_dies (s : State) : (s.clock).dies = s.dies := rfl
@[simp] theorem clock_tdies (s : State) : (s.clock).tdies = s.tdies := rfl
@[simp] theorem clock_slices (s : State) : (s.clock).slices = s.slices := rfl
@[simp] theorem clock_sreqs (s : State) : (s.clock).sreqs = s.sreqs := rfl
@[simp] theorem clock_posted (s : State) : (s.clock).posted = s.posted := rfl
@[simp] theorem clock_loads (s : State) : (s.clock).loads = s.loads := rfl
@[simp] theorem clock_dtlb (s : State) : (s.clock).dtlb = s.dtlb := rfl
@[simp] theorem clock_mem (s : State) : (s.clock).mem = s.mem := rfl
@[simp] theorem clock_poison (s : State) : (s.clock).poison = s.poison := rfl
@[simp] theorem clock_tags (s : State) : (s.clock).tags = s.tags := rfl
@[simp] theorem clock_l2d (s : State) : (s.clock).l2d = s.l2d := rfl
@[simp] theorem clock_tenants (s : State) : (s.clock).tenants = s.tenants := rfl
@[simp] theorem clock_queues (s : State) : (s.clock).queues = s.queues := rfl
@[simp] theorem clock_packets (s : State) : (s.clock).packets = s.packets := rfl
@[simp] theorem clock_keptPackets (s : State) : (s.clock).keptPackets = s.keptPackets := rfl
@[simp] theorem clock_saves (s : State) : (s.clock).saves = s.saves := rfl
@[simp] theorem clock_heldCrews (s : State) : (s.clock).heldCrews = s.heldCrews := rfl
@[simp] theorem clock_fused (s : State) : (s.clock).fused = s.fused := rfl
@[simp] theorem clock_irqs (s : State) : (s.clock).irqs = s.irqs := rfl
@[simp] theorem clock_poisonTlps (s : State) : (s.clock).poisonTlps = s.poisonTlps := rfl
@[simp] theorem clock_hostReads (s : State) : (s.clock).hostReads = s.hostReads := rfl
@[simp] theorem clock_dropped (s : State) : (s.clock).dropped = s.dropped := rfl
@[simp] theorem clock_aer (s : State) : (s.clock).aer = s.aer := rfl
@[simp] theorem clock_rslots (s : State) : (s.clock).rslots = s.rslots := rfl
@[simp] theorem clock_chans (s : State) : (s.clock).chans = s.chans := rfl
@[simp] theorem clock_portTimeout (s : State) : (s.clock).portTimeout = s.portTimeout := rfl
@[simp] theorem clock_timeRate (s : State) : (s.clock).timeRate = s.timeRate := rfl
@[simp] theorem clock_moduleNo (s : State) : (s.clock).moduleNo = s.moduleNo := rfl
@[simp] theorem clock_flitSeen (s : State) : (s.clock).flitSeen = s.flitSeen := rfl
@[simp] theorem clock_outFlits (s : State) : (s.clock).outFlits = s.outFlits := rfl
@[simp] theorem clock_routesDown (s : State) : (s.clock).routesDown = s.routesDown := rfl
@[simp] theorem clock_powerLimit (s : State) : (s.clock).powerLimit = s.powerLimit := rfl
@[simp] theorem clock_powerLow (s : State) : (s.clock).powerLow = s.powerLow := rfl
@[simp] theorem clock_boot (s : State) : (s.clock).boot = s.boot := rfl
@[simp] theorem clock_image (s : State) : (s.clock).image = s.image := rfl
@[simp] theorem clock_bootNo (s : State) : (s.clock).bootNo = s.bootNo := rfl
@[simp] theorem clock_queueBase (s : State) : (s.clock).queueBase = s.queueBase := rfl
@[simp] theorem clock_adminBusy (s : State) : (s.clock).adminBusy = s.adminBusy := rfl
@[simp] theorem clock_nextTid (s : State) : (s.clock).nextTid = s.nextTid := rfl
@[simp] theorem clock_nextId (s : State) : (s.clock).nextId = s.nextId := rfl
@[simp] theorem clock_tick (s : State) : (s.clock).tick = s.tick := rfl
@[simp] theorem clock_cycleAt (s : State) : (s.clock).cycleAt = s.cycleAt := rfl
@[simp] theorem clock_agenda (s : State) : (s.clock).agenda = s.agenda := rfl

@[simp] theorem cycle_running (s : State) (c : Nat) : (s.cycle c).running = s.running := rfl
@[simp] theorem cycle_g (s : State) (c : Nat) : (s.cycle c).g = s.g := rfl
@[simp] theorem cycle_sp (s : State) (c : Nat) : (s.cycle c).sp = s.sp := rfl
@[simp] theorem cycle_todo (s : State) (c : Nat) : (s.cycle c).todo = s.todo := rfl
@[simp] theorem cycle_groups (s : State) (c : Nat) : (s.cycle c).groups = s.groups := rfl
@[simp] theorem cycle_dies (s : State) (c : Nat) : (s.cycle c).dies = s.dies := rfl
@[simp] theorem cycle_tdies (s : State) (c : Nat) : (s.cycle c).tdies = s.tdies := rfl
@[simp] theorem cycle_slices (s : State) (c : Nat) : (s.cycle c).slices = s.slices := rfl
@[simp] theorem cycle_sreqs (s : State) (c : Nat) : (s.cycle c).sreqs = s.sreqs := rfl
@[simp] theorem cycle_posted (s : State) (c : Nat) : (s.cycle c).posted = s.posted := rfl
@[simp] theorem cycle_loads (s : State) (c : Nat) : (s.cycle c).loads = s.loads := rfl
@[simp] theorem cycle_dtlb (s : State) (c : Nat) : (s.cycle c).dtlb = s.dtlb := rfl
@[simp] theorem cycle_mem (s : State) (c : Nat) : (s.cycle c).mem = s.mem := rfl
@[simp] theorem cycle_poison (s : State) (c : Nat) : (s.cycle c).poison = s.poison := rfl
@[simp] theorem cycle_tags (s : State) (c : Nat) : (s.cycle c).tags = s.tags := rfl
@[simp] theorem cycle_l2d (s : State) (c : Nat) : (s.cycle c).l2d = s.l2d := rfl
@[simp] theorem cycle_tenants (s : State) (c : Nat) : (s.cycle c).tenants = s.tenants := rfl
@[simp] theorem cycle_queues (s : State) (c : Nat) : (s.cycle c).queues = s.queues := rfl
@[simp] theorem cycle_packets (s : State) (c : Nat) : (s.cycle c).packets = s.packets := rfl
@[simp] theorem cycle_keptPackets (s : State) (c : Nat) : (s.cycle c).keptPackets = s.keptPackets := rfl
@[simp] theorem cycle_saves (s : State) (c : Nat) : (s.cycle c).saves = s.saves := rfl
@[simp] theorem cycle_heldCrews (s : State) (c : Nat) : (s.cycle c).heldCrews = s.heldCrews := rfl
@[simp] theorem cycle_fused (s : State) (c : Nat) : (s.cycle c).fused = s.fused := rfl
@[simp] theorem cycle_irqs (s : State) (c : Nat) : (s.cycle c).irqs = s.irqs := rfl
@[simp] theorem cycle_poisonTlps (s : State) (c : Nat) : (s.cycle c).poisonTlps = s.poisonTlps := rfl
@[simp] theorem cycle_hostReads (s : State) (c : Nat) : (s.cycle c).hostReads = s.hostReads := rfl
@[simp] theorem cycle_dropped (s : State) (c : Nat) : (s.cycle c).dropped = s.dropped := rfl
@[simp] theorem cycle_aer (s : State) (c : Nat) : (s.cycle c).aer = s.aer := rfl
@[simp] theorem cycle_rslots (s : State) (c : Nat) : (s.cycle c).rslots = s.rslots := rfl
@[simp] theorem cycle_chans (s : State) (c : Nat) : (s.cycle c).chans = s.chans := rfl
@[simp] theorem cycle_portTimeout (s : State) (c : Nat) : (s.cycle c).portTimeout = s.portTimeout := rfl
@[simp] theorem cycle_time (s : State) (c : Nat) : (s.cycle c).time = s.time := rfl
@[simp] theorem cycle_timeRate (s : State) (c : Nat) : (s.cycle c).timeRate = s.timeRate := rfl
@[simp] theorem cycle_moduleNo (s : State) (c : Nat) : (s.cycle c).moduleNo = s.moduleNo := rfl
@[simp] theorem cycle_flitSeen (s : State) (c : Nat) : (s.cycle c).flitSeen = s.flitSeen := rfl
@[simp] theorem cycle_outFlits (s : State) (c : Nat) : (s.cycle c).outFlits = s.outFlits := rfl
@[simp] theorem cycle_routesDown (s : State) (c : Nat) : (s.cycle c).routesDown = s.routesDown := rfl
@[simp] theorem cycle_powerLimit (s : State) (c : Nat) : (s.cycle c).powerLimit = s.powerLimit := rfl
@[simp] theorem cycle_powerLow (s : State) (c : Nat) : (s.cycle c).powerLow = s.powerLow := rfl
@[simp] theorem cycle_boot (s : State) (c : Nat) : (s.cycle c).boot = s.boot := rfl
@[simp] theorem cycle_image (s : State) (c : Nat) : (s.cycle c).image = s.image := rfl
@[simp] theorem cycle_bootNo (s : State) (c : Nat) : (s.cycle c).bootNo = s.bootNo := rfl
@[simp] theorem cycle_queueBase (s : State) (c : Nat) : (s.cycle c).queueBase = s.queueBase := rfl
@[simp] theorem cycle_adminBusy (s : State) (c : Nat) : (s.cycle c).adminBusy = s.adminBusy := rfl
@[simp] theorem cycle_nextTid (s : State) (c : Nat) : (s.cycle c).nextTid = s.nextTid := rfl
@[simp] theorem cycle_nextId (s : State) (c : Nat) : (s.cycle c).nextId = s.nextId := rfl
@[simp] theorem cycle_tick (s : State) (c : Nat) : (s.cycle c).tick = s.tick := rfl
@[simp] theorem cycle_cycleAt (s : State) (c : Nat) : (s.cycle c).cycleAt = s.cycleAt := rfl
@[simp] theorem cycle_agenda (s : State) (c : Nat) : (s.cycle c).agenda = s.agenda := rfl

@[simp] theorem setStatus_running (s : State) (b : BitVec 4) : (s.setStatus b).running = s.running := rfl
@[simp] theorem setStatus_todo (s : State) (b : BitVec 4) : (s.setStatus b).todo = s.todo := rfl
@[simp] theorem setStatus_groups (s : State) (b : BitVec 4) : (s.setStatus b).groups = s.groups := rfl
@[simp] theorem setStatus_cores (s : State) (b : BitVec 4) : (s.setStatus b).cores = s.cores := rfl
@[simp] theorem setStatus_dies (s : State) (b : BitVec 4) : (s.setStatus b).dies = s.dies := rfl
@[simp] theorem setStatus_tdies (s : State) (b : BitVec 4) : (s.setStatus b).tdies = s.tdies := rfl
@[simp] theorem setStatus_slices (s : State) (b : BitVec 4) : (s.setStatus b).slices = s.slices := rfl
@[simp] theorem setStatus_sreqs (s : State) (b : BitVec 4) : (s.setStatus b).sreqs = s.sreqs := rfl
@[simp] theorem setStatus_posted (s : State) (b : BitVec 4) : (s.setStatus b).posted = s.posted := rfl
@[simp] theorem setStatus_loads (s : State) (b : BitVec 4) : (s.setStatus b).loads = s.loads := rfl
@[simp] theorem setStatus_dtlb (s : State) (b : BitVec 4) : (s.setStatus b).dtlb = s.dtlb := rfl
@[simp] theorem setStatus_mem (s : State) (b : BitVec 4) : (s.setStatus b).mem = s.mem := rfl
@[simp] theorem setStatus_poison (s : State) (b : BitVec 4) : (s.setStatus b).poison = s.poison := rfl
@[simp] theorem setStatus_tags (s : State) (b : BitVec 4) : (s.setStatus b).tags = s.tags := rfl
@[simp] theorem setStatus_l2d (s : State) (b : BitVec 4) : (s.setStatus b).l2d = s.l2d := rfl
@[simp] theorem setStatus_tenants (s : State) (b : BitVec 4) : (s.setStatus b).tenants = s.tenants := rfl
@[simp] theorem setStatus_queues (s : State) (b : BitVec 4) : (s.setStatus b).queues = s.queues := rfl
@[simp] theorem setStatus_packets (s : State) (b : BitVec 4) : (s.setStatus b).packets = s.packets := rfl
@[simp] theorem setStatus_keptPackets (s : State) (b : BitVec 4) : (s.setStatus b).keptPackets = s.keptPackets := rfl
@[simp] theorem setStatus_saves (s : State) (b : BitVec 4) : (s.setStatus b).saves = s.saves := rfl
@[simp] theorem setStatus_heldCrews (s : State) (b : BitVec 4) : (s.setStatus b).heldCrews = s.heldCrews := rfl
@[simp] theorem setStatus_fused (s : State) (b : BitVec 4) : (s.setStatus b).fused = s.fused := rfl
@[simp] theorem setStatus_irqs (s : State) (b : BitVec 4) : (s.setStatus b).irqs = s.irqs := rfl
@[simp] theorem setStatus_poisonTlps (s : State) (b : BitVec 4) : (s.setStatus b).poisonTlps = s.poisonTlps := rfl
@[simp] theorem setStatus_hostReads (s : State) (b : BitVec 4) : (s.setStatus b).hostReads = s.hostReads := rfl
@[simp] theorem setStatus_dropped (s : State) (b : BitVec 4) : (s.setStatus b).dropped = s.dropped := rfl
@[simp] theorem setStatus_aer (s : State) (b : BitVec 4) : (s.setStatus b).aer = s.aer := rfl
@[simp] theorem setStatus_rslots (s : State) (b : BitVec 4) : (s.setStatus b).rslots = s.rslots := rfl
@[simp] theorem setStatus_chans (s : State) (b : BitVec 4) : (s.setStatus b).chans = s.chans := rfl
@[simp] theorem setStatus_portTimeout (s : State) (b : BitVec 4) : (s.setStatus b).portTimeout = s.portTimeout := rfl
@[simp] theorem setStatus_time (s : State) (b : BitVec 4) : (s.setStatus b).time = s.time := rfl
@[simp] theorem setStatus_timeRate (s : State) (b : BitVec 4) : (s.setStatus b).timeRate = s.timeRate := rfl
@[simp] theorem setStatus_moduleNo (s : State) (b : BitVec 4) : (s.setStatus b).moduleNo = s.moduleNo := rfl
@[simp] theorem setStatus_flitSeen (s : State) (b : BitVec 4) : (s.setStatus b).flitSeen = s.flitSeen := rfl
@[simp] theorem setStatus_outFlits (s : State) (b : BitVec 4) : (s.setStatus b).outFlits = s.outFlits := rfl
@[simp] theorem setStatus_routesDown (s : State) (b : BitVec 4) : (s.setStatus b).routesDown = s.routesDown := rfl
@[simp] theorem setStatus_powerLimit (s : State) (b : BitVec 4) : (s.setStatus b).powerLimit = s.powerLimit := rfl
@[simp] theorem setStatus_powerLow (s : State) (b : BitVec 4) : (s.setStatus b).powerLow = s.powerLow := rfl
@[simp] theorem setStatus_boot (s : State) (b : BitVec 4) : (s.setStatus b).boot = s.boot := rfl
@[simp] theorem setStatus_image (s : State) (b : BitVec 4) : (s.setStatus b).image = s.image := rfl
@[simp] theorem setStatus_bootNo (s : State) (b : BitVec 4) : (s.setStatus b).bootNo = s.bootNo := rfl
@[simp] theorem setStatus_queueBase (s : State) (b : BitVec 4) : (s.setStatus b).queueBase = s.queueBase := rfl
@[simp] theorem setStatus_adminBusy (s : State) (b : BitVec 4) : (s.setStatus b).adminBusy = s.adminBusy := rfl
@[simp] theorem setStatus_nextTid (s : State) (b : BitVec 4) : (s.setStatus b).nextTid = s.nextTid := rfl
@[simp] theorem setStatus_nextId (s : State) (b : BitVec 4) : (s.setStatus b).nextId = s.nextId := rfl
@[simp] theorem setStatus_tick (s : State) (b : BitVec 4) : (s.setStatus b).tick = s.tick := rfl
@[simp] theorem setStatus_cycleAt (s : State) (b : BitVec 4) : (s.setStatus b).cycleAt = s.cycleAt := rfl
@[simp] theorem setStatus_agenda (s : State) (b : BitVec 4) : (s.setStatus b).agenda = s.agenda := rfl

@[simp] theorem setLfsr_running (s : State) (v : Vector Word 16) : (s.setLfsr v).running = s.running := rfl
@[simp] theorem setLfsr_sp (s : State) (v : Vector Word 16) : (s.setLfsr v).sp = s.sp := rfl
@[simp] theorem setLfsr_todo (s : State) (v : Vector Word 16) : (s.setLfsr v).todo = s.todo := rfl
@[simp] theorem setLfsr_groups (s : State) (v : Vector Word 16) : (s.setLfsr v).groups = s.groups := rfl
@[simp] theorem setLfsr_cores (s : State) (v : Vector Word 16) : (s.setLfsr v).cores = s.cores := rfl
@[simp] theorem setLfsr_dies (s : State) (v : Vector Word 16) : (s.setLfsr v).dies = s.dies := rfl
@[simp] theorem setLfsr_tdies (s : State) (v : Vector Word 16) : (s.setLfsr v).tdies = s.tdies := rfl
@[simp] theorem setLfsr_slices (s : State) (v : Vector Word 16) : (s.setLfsr v).slices = s.slices := rfl
@[simp] theorem setLfsr_sreqs (s : State) (v : Vector Word 16) : (s.setLfsr v).sreqs = s.sreqs := rfl
@[simp] theorem setLfsr_posted (s : State) (v : Vector Word 16) : (s.setLfsr v).posted = s.posted := rfl
@[simp] theorem setLfsr_loads (s : State) (v : Vector Word 16) : (s.setLfsr v).loads = s.loads := rfl
@[simp] theorem setLfsr_dtlb (s : State) (v : Vector Word 16) : (s.setLfsr v).dtlb = s.dtlb := rfl
@[simp] theorem setLfsr_mem (s : State) (v : Vector Word 16) : (s.setLfsr v).mem = s.mem := rfl
@[simp] theorem setLfsr_poison (s : State) (v : Vector Word 16) : (s.setLfsr v).poison = s.poison := rfl
@[simp] theorem setLfsr_tags (s : State) (v : Vector Word 16) : (s.setLfsr v).tags = s.tags := rfl
@[simp] theorem setLfsr_l2d (s : State) (v : Vector Word 16) : (s.setLfsr v).l2d = s.l2d := rfl
@[simp] theorem setLfsr_tenants (s : State) (v : Vector Word 16) : (s.setLfsr v).tenants = s.tenants := rfl
@[simp] theorem setLfsr_queues (s : State) (v : Vector Word 16) : (s.setLfsr v).queues = s.queues := rfl
@[simp] theorem setLfsr_packets (s : State) (v : Vector Word 16) : (s.setLfsr v).packets = s.packets := rfl
@[simp] theorem setLfsr_keptPackets (s : State) (v : Vector Word 16) : (s.setLfsr v).keptPackets = s.keptPackets := rfl
@[simp] theorem setLfsr_saves (s : State) (v : Vector Word 16) : (s.setLfsr v).saves = s.saves := rfl
@[simp] theorem setLfsr_heldCrews (s : State) (v : Vector Word 16) : (s.setLfsr v).heldCrews = s.heldCrews := rfl
@[simp] theorem setLfsr_fused (s : State) (v : Vector Word 16) : (s.setLfsr v).fused = s.fused := rfl
@[simp] theorem setLfsr_irqs (s : State) (v : Vector Word 16) : (s.setLfsr v).irqs = s.irqs := rfl
@[simp] theorem setLfsr_poisonTlps (s : State) (v : Vector Word 16) : (s.setLfsr v).poisonTlps = s.poisonTlps := rfl
@[simp] theorem setLfsr_hostReads (s : State) (v : Vector Word 16) : (s.setLfsr v).hostReads = s.hostReads := rfl
@[simp] theorem setLfsr_dropped (s : State) (v : Vector Word 16) : (s.setLfsr v).dropped = s.dropped := rfl
@[simp] theorem setLfsr_aer (s : State) (v : Vector Word 16) : (s.setLfsr v).aer = s.aer := rfl
@[simp] theorem setLfsr_rslots (s : State) (v : Vector Word 16) : (s.setLfsr v).rslots = s.rslots := rfl
@[simp] theorem setLfsr_chans (s : State) (v : Vector Word 16) : (s.setLfsr v).chans = s.chans := rfl
@[simp] theorem setLfsr_portTimeout (s : State) (v : Vector Word 16) : (s.setLfsr v).portTimeout = s.portTimeout := rfl
@[simp] theorem setLfsr_time (s : State) (v : Vector Word 16) : (s.setLfsr v).time = s.time := rfl
@[simp] theorem setLfsr_timeRate (s : State) (v : Vector Word 16) : (s.setLfsr v).timeRate = s.timeRate := rfl
@[simp] theorem setLfsr_moduleNo (s : State) (v : Vector Word 16) : (s.setLfsr v).moduleNo = s.moduleNo := rfl
@[simp] theorem setLfsr_flitSeen (s : State) (v : Vector Word 16) : (s.setLfsr v).flitSeen = s.flitSeen := rfl
@[simp] theorem setLfsr_outFlits (s : State) (v : Vector Word 16) : (s.setLfsr v).outFlits = s.outFlits := rfl
@[simp] theorem setLfsr_routesDown (s : State) (v : Vector Word 16) : (s.setLfsr v).routesDown = s.routesDown := rfl
@[simp] theorem setLfsr_powerLimit (s : State) (v : Vector Word 16) : (s.setLfsr v).powerLimit = s.powerLimit := rfl
@[simp] theorem setLfsr_powerLow (s : State) (v : Vector Word 16) : (s.setLfsr v).powerLow = s.powerLow := rfl
@[simp] theorem setLfsr_boot (s : State) (v : Vector Word 16) : (s.setLfsr v).boot = s.boot := rfl
@[simp] theorem setLfsr_image (s : State) (v : Vector Word 16) : (s.setLfsr v).image = s.image := rfl
@[simp] theorem setLfsr_bootNo (s : State) (v : Vector Word 16) : (s.setLfsr v).bootNo = s.bootNo := rfl
@[simp] theorem setLfsr_queueBase (s : State) (v : Vector Word 16) : (s.setLfsr v).queueBase = s.queueBase := rfl
@[simp] theorem setLfsr_adminBusy (s : State) (v : Vector Word 16) : (s.setLfsr v).adminBusy = s.adminBusy := rfl
@[simp] theorem setLfsr_nextTid (s : State) (v : Vector Word 16) : (s.setLfsr v).nextTid = s.nextTid := rfl
@[simp] theorem setLfsr_nextId (s : State) (v : Vector Word 16) : (s.setLfsr v).nextId = s.nextId := rfl
@[simp] theorem setLfsr_tick (s : State) (v : Vector Word 16) : (s.setLfsr v).tick = s.tick := rfl
@[simp] theorem setLfsr_cycleAt (s : State) (v : Vector Word 16) : (s.setLfsr v).cycleAt = s.cycleAt := rfl
@[simp] theorem setLfsr_agenda (s : State) (v : Vector Word 16) : (s.setLfsr v).agenda = s.agenda := rfl

@[simp] theorem retire_running (s : State) (i : Instr) (b : Bool) (a : Option DWord) : (s.retire i b a).running = s.running := rfl
@[simp] theorem retire_todo (s : State) (i : Instr) (b : Bool) (a : Option DWord) : (s.retire i b a).todo = s.todo := rfl
@[simp] theorem retire_groups (s : State) (i : Instr) (b : Bool) (a : Option DWord) : (s.retire i b a).groups = s.groups := rfl
@[simp] theorem retire_cores (s : State) (i : Instr) (b : Bool) (a : Option DWord) : (s.retire i b a).cores = s.cores := rfl
@[simp] theorem retire_dies (s : State) (i : Instr) (b : Bool) (a : Option DWord) : (s.retire i b a).dies = s.dies := rfl
@[simp] theorem retire_tdies (s : State) (i : Instr) (b : Bool) (a : Option DWord) : (s.retire i b a).tdies = s.tdies := rfl
@[simp] theorem retire_slices (s : State) (i : Instr) (b : Bool) (a : Option DWord) : (s.retire i b a).slices = s.slices := rfl
@[simp] theorem retire_sreqs (s : State) (i : Instr) (b : Bool) (a : Option DWord) : (s.retire i b a).sreqs = s.sreqs := rfl
@[simp] theorem retire_posted (s : State) (i : Instr) (b : Bool) (a : Option DWord) : (s.retire i b a).posted = s.posted := rfl
@[simp] theorem retire_loads (s : State) (i : Instr) (b : Bool) (a : Option DWord) : (s.retire i b a).loads = s.loads := rfl
@[simp] theorem retire_dtlb (s : State) (i : Instr) (b : Bool) (a : Option DWord) : (s.retire i b a).dtlb = s.dtlb := rfl
@[simp] theorem retire_mem (s : State) (i : Instr) (b : Bool) (a : Option DWord) : (s.retire i b a).mem = s.mem := rfl
@[simp] theorem retire_poison (s : State) (i : Instr) (b : Bool) (a : Option DWord) : (s.retire i b a).poison = s.poison := rfl
@[simp] theorem retire_tags (s : State) (i : Instr) (b : Bool) (a : Option DWord) : (s.retire i b a).tags = s.tags := rfl
@[simp] theorem retire_l2d (s : State) (i : Instr) (b : Bool) (a : Option DWord) : (s.retire i b a).l2d = s.l2d := rfl
@[simp] theorem retire_tenants (s : State) (i : Instr) (b : Bool) (a : Option DWord) : (s.retire i b a).tenants = s.tenants := rfl
@[simp] theorem retire_queues (s : State) (i : Instr) (b : Bool) (a : Option DWord) : (s.retire i b a).queues = s.queues := rfl
@[simp] theorem retire_packets (s : State) (i : Instr) (b : Bool) (a : Option DWord) : (s.retire i b a).packets = s.packets := rfl
@[simp] theorem retire_keptPackets (s : State) (i : Instr) (b : Bool) (a : Option DWord) : (s.retire i b a).keptPackets = s.keptPackets := rfl
@[simp] theorem retire_saves (s : State) (i : Instr) (b : Bool) (a : Option DWord) : (s.retire i b a).saves = s.saves := rfl
@[simp] theorem retire_heldCrews (s : State) (i : Instr) (b : Bool) (a : Option DWord) : (s.retire i b a).heldCrews = s.heldCrews := rfl
@[simp] theorem retire_fused (s : State) (i : Instr) (b : Bool) (a : Option DWord) : (s.retire i b a).fused = s.fused := rfl
@[simp] theorem retire_irqs (s : State) (i : Instr) (b : Bool) (a : Option DWord) : (s.retire i b a).irqs = s.irqs := rfl
@[simp] theorem retire_poisonTlps (s : State) (i : Instr) (b : Bool) (a : Option DWord) : (s.retire i b a).poisonTlps = s.poisonTlps := rfl
@[simp] theorem retire_hostReads (s : State) (i : Instr) (b : Bool) (a : Option DWord) : (s.retire i b a).hostReads = s.hostReads := rfl
@[simp] theorem retire_dropped (s : State) (i : Instr) (b : Bool) (a : Option DWord) : (s.retire i b a).dropped = s.dropped := rfl
@[simp] theorem retire_aer (s : State) (i : Instr) (b : Bool) (a : Option DWord) : (s.retire i b a).aer = s.aer := rfl
@[simp] theorem retire_rslots (s : State) (i : Instr) (b : Bool) (a : Option DWord) : (s.retire i b a).rslots = s.rslots := rfl
@[simp] theorem retire_chans (s : State) (i : Instr) (b : Bool) (a : Option DWord) : (s.retire i b a).chans = s.chans := rfl
@[simp] theorem retire_portTimeout (s : State) (i : Instr) (b : Bool) (a : Option DWord) : (s.retire i b a).portTimeout = s.portTimeout := rfl
@[simp] theorem retire_time (s : State) (i : Instr) (b : Bool) (a : Option DWord) : (s.retire i b a).time = s.time := rfl
@[simp] theorem retire_timeRate (s : State) (i : Instr) (b : Bool) (a : Option DWord) : (s.retire i b a).timeRate = s.timeRate := rfl
@[simp] theorem retire_moduleNo (s : State) (i : Instr) (b : Bool) (a : Option DWord) : (s.retire i b a).moduleNo = s.moduleNo := rfl
@[simp] theorem retire_flitSeen (s : State) (i : Instr) (b : Bool) (a : Option DWord) : (s.retire i b a).flitSeen = s.flitSeen := rfl
@[simp] theorem retire_outFlits (s : State) (i : Instr) (b : Bool) (a : Option DWord) : (s.retire i b a).outFlits = s.outFlits := rfl
@[simp] theorem retire_routesDown (s : State) (i : Instr) (b : Bool) (a : Option DWord) : (s.retire i b a).routesDown = s.routesDown := rfl
@[simp] theorem retire_powerLimit (s : State) (i : Instr) (b : Bool) (a : Option DWord) : (s.retire i b a).powerLimit = s.powerLimit := rfl
@[simp] theorem retire_powerLow (s : State) (i : Instr) (b : Bool) (a : Option DWord) : (s.retire i b a).powerLow = s.powerLow := rfl
@[simp] theorem retire_boot (s : State) (i : Instr) (b : Bool) (a : Option DWord) : (s.retire i b a).boot = s.boot := rfl
@[simp] theorem retire_image (s : State) (i : Instr) (b : Bool) (a : Option DWord) : (s.retire i b a).image = s.image := rfl
@[simp] theorem retire_bootNo (s : State) (i : Instr) (b : Bool) (a : Option DWord) : (s.retire i b a).bootNo = s.bootNo := rfl
@[simp] theorem retire_queueBase (s : State) (i : Instr) (b : Bool) (a : Option DWord) : (s.retire i b a).queueBase = s.queueBase := rfl
@[simp] theorem retire_adminBusy (s : State) (i : Instr) (b : Bool) (a : Option DWord) : (s.retire i b a).adminBusy = s.adminBusy := rfl
@[simp] theorem retire_nextTid (s : State) (i : Instr) (b : Bool) (a : Option DWord) : (s.retire i b a).nextTid = s.nextTid := rfl
@[simp] theorem retire_nextId (s : State) (i : Instr) (b : Bool) (a : Option DWord) : (s.retire i b a).nextId = s.nextId := rfl
@[simp] theorem retire_tick (s : State) (i : Instr) (b : Bool) (a : Option DWord) : (s.retire i b a).tick = s.tick := rfl
@[simp] theorem retire_cycleAt (s : State) (i : Instr) (b : Bool) (a : Option DWord) : (s.retire i b a).cycleAt = s.cycleAt := rfl
@[simp] theorem retire_agenda (s : State) (i : Instr) (b : Bool) (a : Option DWord) : (s.retire i b a).agenda = s.agenda := rfl

@[simp] theorem tagWords_running (s : State) (k n : Nat) (t : RTag) : (s.tagWords k n t).running = s.running := rfl
@[simp] theorem tagWords_g (s : State) (k n : Nat) (t : RTag) : (s.tagWords k n t).g = s.g := rfl
@[simp] theorem tagWords_sp (s : State) (k n : Nat) (t : RTag) : (s.tagWords k n t).sp = s.sp := rfl
@[simp] theorem tagWords_todo (s : State) (k n : Nat) (t : RTag) : (s.tagWords k n t).todo = s.todo := rfl
@[simp] theorem tagWords_groups (s : State) (k n : Nat) (t : RTag) : (s.tagWords k n t).groups = s.groups := rfl
@[simp] theorem tagWords_cores (s : State) (k n : Nat) (t : RTag) : (s.tagWords k n t).cores = s.cores := rfl
@[simp] theorem tagWords_dies (s : State) (k n : Nat) (t : RTag) : (s.tagWords k n t).dies = s.dies := rfl
@[simp] theorem tagWords_tdies (s : State) (k n : Nat) (t : RTag) : (s.tagWords k n t).tdies = s.tdies := rfl
@[simp] theorem tagWords_slices (s : State) (k n : Nat) (t : RTag) : (s.tagWords k n t).slices = s.slices := rfl
@[simp] theorem tagWords_sreqs (s : State) (k n : Nat) (t : RTag) : (s.tagWords k n t).sreqs = s.sreqs := rfl
@[simp] theorem tagWords_posted (s : State) (k n : Nat) (t : RTag) : (s.tagWords k n t).posted = s.posted := rfl
@[simp] theorem tagWords_loads (s : State) (k n : Nat) (t : RTag) : (s.tagWords k n t).loads = s.loads := rfl
@[simp] theorem tagWords_dtlb (s : State) (k n : Nat) (t : RTag) : (s.tagWords k n t).dtlb = s.dtlb := rfl
@[simp] theorem tagWords_mem (s : State) (k n : Nat) (t : RTag) : (s.tagWords k n t).mem = s.mem := rfl
@[simp] theorem tagWords_poison (s : State) (k n : Nat) (t : RTag) : (s.tagWords k n t).poison = s.poison := rfl
@[simp] theorem tagWords_l2d (s : State) (k n : Nat) (t : RTag) : (s.tagWords k n t).l2d = s.l2d := rfl
@[simp] theorem tagWords_tenants (s : State) (k n : Nat) (t : RTag) : (s.tagWords k n t).tenants = s.tenants := rfl
@[simp] theorem tagWords_queues (s : State) (k n : Nat) (t : RTag) : (s.tagWords k n t).queues = s.queues := rfl
@[simp] theorem tagWords_packets (s : State) (k n : Nat) (t : RTag) : (s.tagWords k n t).packets = s.packets := rfl
@[simp] theorem tagWords_keptPackets (s : State) (k n : Nat) (t : RTag) : (s.tagWords k n t).keptPackets = s.keptPackets := rfl
@[simp] theorem tagWords_saves (s : State) (k n : Nat) (t : RTag) : (s.tagWords k n t).saves = s.saves := rfl
@[simp] theorem tagWords_heldCrews (s : State) (k n : Nat) (t : RTag) : (s.tagWords k n t).heldCrews = s.heldCrews := rfl
@[simp] theorem tagWords_fused (s : State) (k n : Nat) (t : RTag) : (s.tagWords k n t).fused = s.fused := rfl
@[simp] theorem tagWords_irqs (s : State) (k n : Nat) (t : RTag) : (s.tagWords k n t).irqs = s.irqs := rfl
@[simp] theorem tagWords_poisonTlps (s : State) (k n : Nat) (t : RTag) : (s.tagWords k n t).poisonTlps = s.poisonTlps := rfl
@[simp] theorem tagWords_hostReads (s : State) (k n : Nat) (t : RTag) : (s.tagWords k n t).hostReads = s.hostReads := rfl
@[simp] theorem tagWords_dropped (s : State) (k n : Nat) (t : RTag) : (s.tagWords k n t).dropped = s.dropped := rfl
@[simp] theorem tagWords_aer (s : State) (k n : Nat) (t : RTag) : (s.tagWords k n t).aer = s.aer := rfl
@[simp] theorem tagWords_rslots (s : State) (k n : Nat) (t : RTag) : (s.tagWords k n t).rslots = s.rslots := rfl
@[simp] theorem tagWords_chans (s : State) (k n : Nat) (t : RTag) : (s.tagWords k n t).chans = s.chans := rfl
@[simp] theorem tagWords_portTimeout (s : State) (k n : Nat) (t : RTag) : (s.tagWords k n t).portTimeout = s.portTimeout := rfl
@[simp] theorem tagWords_time (s : State) (k n : Nat) (t : RTag) : (s.tagWords k n t).time = s.time := rfl
@[simp] theorem tagWords_timeRate (s : State) (k n : Nat) (t : RTag) : (s.tagWords k n t).timeRate = s.timeRate := rfl
@[simp] theorem tagWords_moduleNo (s : State) (k n : Nat) (t : RTag) : (s.tagWords k n t).moduleNo = s.moduleNo := rfl
@[simp] theorem tagWords_flitSeen (s : State) (k n : Nat) (t : RTag) : (s.tagWords k n t).flitSeen = s.flitSeen := rfl
@[simp] theorem tagWords_outFlits (s : State) (k n : Nat) (t : RTag) : (s.tagWords k n t).outFlits = s.outFlits := rfl
@[simp] theorem tagWords_routesDown (s : State) (k n : Nat) (t : RTag) : (s.tagWords k n t).routesDown = s.routesDown := rfl
@[simp] theorem tagWords_powerLimit (s : State) (k n : Nat) (t : RTag) : (s.tagWords k n t).powerLimit = s.powerLimit := rfl
@[simp] theorem tagWords_powerLow (s : State) (k n : Nat) (t : RTag) : (s.tagWords k n t).powerLow = s.powerLow := rfl
@[simp] theorem tagWords_boot (s : State) (k n : Nat) (t : RTag) : (s.tagWords k n t).boot = s.boot := rfl
@[simp] theorem tagWords_image (s : State) (k n : Nat) (t : RTag) : (s.tagWords k n t).image = s.image := rfl
@[simp] theorem tagWords_bootNo (s : State) (k n : Nat) (t : RTag) : (s.tagWords k n t).bootNo = s.bootNo := rfl
@[simp] theorem tagWords_queueBase (s : State) (k n : Nat) (t : RTag) : (s.tagWords k n t).queueBase = s.queueBase := rfl
@[simp] theorem tagWords_adminBusy (s : State) (k n : Nat) (t : RTag) : (s.tagWords k n t).adminBusy = s.adminBusy := rfl
@[simp] theorem tagWords_nextTid (s : State) (k n : Nat) (t : RTag) : (s.tagWords k n t).nextTid = s.nextTid := rfl
@[simp] theorem tagWords_nextId (s : State) (k n : Nat) (t : RTag) : (s.tagWords k n t).nextId = s.nextId := rfl
@[simp] theorem tagWords_tick (s : State) (k n : Nat) (t : RTag) : (s.tagWords k n t).tick = s.tick := rfl
@[simp] theorem tagWords_cycleAt (s : State) (k n : Nat) (t : RTag) : (s.tagWords k n t).cycleAt = s.cycleAt := rfl
@[simp] theorem tagWords_agenda (s : State) (k n : Nat) (t : RTag) : (s.tagWords k n t).agenda = s.agenda := rfl

/-! ## Registers -/

theorem store_running (s : State) (r : RegName) (x : RegVal) : (s.store r x).running = s.running := by
  unfold State.store; split <;> first | rfl | (split <;> rfl)
theorem store_todo (s : State) (r : RegName) (x : RegVal) : (s.store r x).todo = s.todo := by
  unfold State.store; split <;> first | rfl | (split <;> rfl)
theorem store_groups (s : State) (r : RegName) (x : RegVal) : (s.store r x).groups = s.groups := by
  unfold State.store; split <;> first | rfl | (split <;> rfl)
theorem store_cores (s : State) (r : RegName) (x : RegVal) : (s.store r x).cores = s.cores := by
  unfold State.store; split <;> first | rfl | (split <;> rfl)
theorem store_dies (s : State) (r : RegName) (x : RegVal) : (s.store r x).dies = s.dies := by
  unfold State.store; split <;> first | rfl | (split <;> rfl)
theorem store_tdies (s : State) (r : RegName) (x : RegVal) : (s.store r x).tdies = s.tdies := by
  unfold State.store; split <;> first | rfl | (split <;> rfl)
theorem store_slices (s : State) (r : RegName) (x : RegVal) : (s.store r x).slices = s.slices := by
  unfold State.store; split <;> first | rfl | (split <;> rfl)
theorem store_sreqs (s : State) (r : RegName) (x : RegVal) : (s.store r x).sreqs = s.sreqs := by
  unfold State.store; split <;> first | rfl | (split <;> rfl)
theorem store_posted (s : State) (r : RegName) (x : RegVal) : (s.store r x).posted = s.posted := by
  unfold State.store; split <;> first | rfl | (split <;> rfl)
theorem store_loads (s : State) (r : RegName) (x : RegVal) : (s.store r x).loads = s.loads := by
  unfold State.store; split <;> first | rfl | (split <;> rfl)
theorem store_dtlb (s : State) (r : RegName) (x : RegVal) : (s.store r x).dtlb = s.dtlb := by
  unfold State.store; split <;> first | rfl | (split <;> rfl)
theorem store_mem (s : State) (r : RegName) (x : RegVal) : (s.store r x).mem = s.mem := by
  unfold State.store; split <;> first | rfl | (split <;> rfl)
theorem store_poison (s : State) (r : RegName) (x : RegVal) : (s.store r x).poison = s.poison := by
  unfold State.store; split <;> first | rfl | (split <;> rfl)
theorem store_tags (s : State) (r : RegName) (x : RegVal) : (s.store r x).tags = s.tags := by
  unfold State.store; split <;> first | rfl | (split <;> rfl)
theorem store_l2d (s : State) (r : RegName) (x : RegVal) : (s.store r x).l2d = s.l2d := by
  unfold State.store; split <;> first | rfl | (split <;> rfl)
theorem store_tenants (s : State) (r : RegName) (x : RegVal) : (s.store r x).tenants = s.tenants := by
  unfold State.store; split <;> first | rfl | (split <;> rfl)
theorem store_queues (s : State) (r : RegName) (x : RegVal) : (s.store r x).queues = s.queues := by
  unfold State.store; split <;> first | rfl | (split <;> rfl)
theorem store_packets (s : State) (r : RegName) (x : RegVal) : (s.store r x).packets = s.packets := by
  unfold State.store; split <;> first | rfl | (split <;> rfl)
theorem store_keptPackets (s : State) (r : RegName) (x : RegVal) : (s.store r x).keptPackets = s.keptPackets := by
  unfold State.store; split <;> first | rfl | (split <;> rfl)
theorem store_saves (s : State) (r : RegName) (x : RegVal) : (s.store r x).saves = s.saves := by
  unfold State.store; split <;> first | rfl | (split <;> rfl)
theorem store_heldCrews (s : State) (r : RegName) (x : RegVal) : (s.store r x).heldCrews = s.heldCrews := by
  unfold State.store; split <;> first | rfl | (split <;> rfl)
theorem store_fused (s : State) (r : RegName) (x : RegVal) : (s.store r x).fused = s.fused := by
  unfold State.store; split <;> first | rfl | (split <;> rfl)
theorem store_irqs (s : State) (r : RegName) (x : RegVal) : (s.store r x).irqs = s.irqs := by
  unfold State.store; split <;> first | rfl | (split <;> rfl)
theorem store_poisonTlps (s : State) (r : RegName) (x : RegVal) : (s.store r x).poisonTlps = s.poisonTlps := by
  unfold State.store; split <;> first | rfl | (split <;> rfl)
theorem store_hostReads (s : State) (r : RegName) (x : RegVal) : (s.store r x).hostReads = s.hostReads := by
  unfold State.store; split <;> first | rfl | (split <;> rfl)
theorem store_dropped (s : State) (r : RegName) (x : RegVal) : (s.store r x).dropped = s.dropped := by
  unfold State.store; split <;> first | rfl | (split <;> rfl)
theorem store_aer (s : State) (r : RegName) (x : RegVal) : (s.store r x).aer = s.aer := by
  unfold State.store; split <;> first | rfl | (split <;> rfl)
theorem store_rslots (s : State) (r : RegName) (x : RegVal) : (s.store r x).rslots = s.rslots := by
  unfold State.store; split <;> first | rfl | (split <;> rfl)
theorem store_chans (s : State) (r : RegName) (x : RegVal) : (s.store r x).chans = s.chans := by
  unfold State.store; split <;> first | rfl | (split <;> rfl)
theorem store_portTimeout (s : State) (r : RegName) (x : RegVal) : (s.store r x).portTimeout = s.portTimeout := by
  unfold State.store; split <;> first | rfl | (split <;> rfl)
theorem store_time (s : State) (r : RegName) (x : RegVal) : (s.store r x).time = s.time := by
  unfold State.store; split <;> first | rfl | (split <;> rfl)
theorem store_timeRate (s : State) (r : RegName) (x : RegVal) : (s.store r x).timeRate = s.timeRate := by
  unfold State.store; split <;> first | rfl | (split <;> rfl)
theorem store_moduleNo (s : State) (r : RegName) (x : RegVal) : (s.store r x).moduleNo = s.moduleNo := by
  unfold State.store; split <;> first | rfl | (split <;> rfl)
theorem store_flitSeen (s : State) (r : RegName) (x : RegVal) : (s.store r x).flitSeen = s.flitSeen := by
  unfold State.store; split <;> first | rfl | (split <;> rfl)
theorem store_outFlits (s : State) (r : RegName) (x : RegVal) : (s.store r x).outFlits = s.outFlits := by
  unfold State.store; split <;> first | rfl | (split <;> rfl)
theorem store_routesDown (s : State) (r : RegName) (x : RegVal) : (s.store r x).routesDown = s.routesDown := by
  unfold State.store; split <;> first | rfl | (split <;> rfl)
theorem store_powerLimit (s : State) (r : RegName) (x : RegVal) : (s.store r x).powerLimit = s.powerLimit := by
  unfold State.store; split <;> first | rfl | (split <;> rfl)
theorem store_powerLow (s : State) (r : RegName) (x : RegVal) : (s.store r x).powerLow = s.powerLow := by
  unfold State.store; split <;> first | rfl | (split <;> rfl)
theorem store_boot (s : State) (r : RegName) (x : RegVal) : (s.store r x).boot = s.boot := by
  unfold State.store; split <;> first | rfl | (split <;> rfl)
theorem store_image (s : State) (r : RegName) (x : RegVal) : (s.store r x).image = s.image := by
  unfold State.store; split <;> first | rfl | (split <;> rfl)
theorem store_bootNo (s : State) (r : RegName) (x : RegVal) : (s.store r x).bootNo = s.bootNo := by
  unfold State.store; split <;> first | rfl | (split <;> rfl)
theorem store_queueBase (s : State) (r : RegName) (x : RegVal) : (s.store r x).queueBase = s.queueBase := by
  unfold State.store; split <;> first | rfl | (split <;> rfl)
theorem store_adminBusy (s : State) (r : RegName) (x : RegVal) : (s.store r x).adminBusy = s.adminBusy := by
  unfold State.store; split <;> first | rfl | (split <;> rfl)
theorem store_nextTid (s : State) (r : RegName) (x : RegVal) : (s.store r x).nextTid = s.nextTid := by
  unfold State.store; split <;> first | rfl | (split <;> rfl)
theorem store_nextId (s : State) (r : RegName) (x : RegVal) : (s.store r x).nextId = s.nextId := by
  unfold State.store; split <;> first | rfl | (split <;> rfl)
theorem store_tick (s : State) (r : RegName) (x : RegVal) : (s.store r x).tick = s.tick := by
  unfold State.store; split <;> first | rfl | (split <;> rfl)
theorem store_cycleAt (s : State) (r : RegName) (x : RegVal) : (s.store r x).cycleAt = s.cycleAt := by
  unfold State.store; split <;> first | rfl | (split <;> rfl)
theorem store_agenda (s : State) (r : RegName) (x : RegVal) : (s.store r x).agenda = s.agenda := by
  unfold State.store; split <;> first | rfl | (split <;> rfl)

@[simp] theorem write_running (s : State) (r : RegName) (m : BitVec 16) (x : RegVal) (w : Bool) : (s.write r m x w).running = s.running :=
  store_running s r _
@[simp] theorem write_todo (s : State) (r : RegName) (m : BitVec 16) (x : RegVal) (w : Bool) : (s.write r m x w).todo = s.todo :=
  store_todo s r _
@[simp] theorem write_groups (s : State) (r : RegName) (m : BitVec 16) (x : RegVal) (w : Bool) : (s.write r m x w).groups = s.groups :=
  store_groups s r _
@[simp] theorem write_cores (s : State) (r : RegName) (m : BitVec 16) (x : RegVal) (w : Bool) : (s.write r m x w).cores = s.cores :=
  store_cores s r _
@[simp] theorem write_dies (s : State) (r : RegName) (m : BitVec 16) (x : RegVal) (w : Bool) : (s.write r m x w).dies = s.dies :=
  store_dies s r _
@[simp] theorem write_tdies (s : State) (r : RegName) (m : BitVec 16) (x : RegVal) (w : Bool) : (s.write r m x w).tdies = s.tdies :=
  store_tdies s r _
@[simp] theorem write_slices (s : State) (r : RegName) (m : BitVec 16) (x : RegVal) (w : Bool) : (s.write r m x w).slices = s.slices :=
  store_slices s r _
@[simp] theorem write_sreqs (s : State) (r : RegName) (m : BitVec 16) (x : RegVal) (w : Bool) : (s.write r m x w).sreqs = s.sreqs :=
  store_sreqs s r _
@[simp] theorem write_posted (s : State) (r : RegName) (m : BitVec 16) (x : RegVal) (w : Bool) : (s.write r m x w).posted = s.posted :=
  store_posted s r _
@[simp] theorem write_loads (s : State) (r : RegName) (m : BitVec 16) (x : RegVal) (w : Bool) : (s.write r m x w).loads = s.loads :=
  store_loads s r _
@[simp] theorem write_dtlb (s : State) (r : RegName) (m : BitVec 16) (x : RegVal) (w : Bool) : (s.write r m x w).dtlb = s.dtlb :=
  store_dtlb s r _
@[simp] theorem write_mem (s : State) (r : RegName) (m : BitVec 16) (x : RegVal) (w : Bool) : (s.write r m x w).mem = s.mem :=
  store_mem s r _
@[simp] theorem write_poison (s : State) (r : RegName) (m : BitVec 16) (x : RegVal) (w : Bool) : (s.write r m x w).poison = s.poison :=
  store_poison s r _
@[simp] theorem write_tags (s : State) (r : RegName) (m : BitVec 16) (x : RegVal) (w : Bool) : (s.write r m x w).tags = s.tags :=
  store_tags s r _
@[simp] theorem write_l2d (s : State) (r : RegName) (m : BitVec 16) (x : RegVal) (w : Bool) : (s.write r m x w).l2d = s.l2d :=
  store_l2d s r _
@[simp] theorem write_tenants (s : State) (r : RegName) (m : BitVec 16) (x : RegVal) (w : Bool) : (s.write r m x w).tenants = s.tenants :=
  store_tenants s r _
@[simp] theorem write_queues (s : State) (r : RegName) (m : BitVec 16) (x : RegVal) (w : Bool) : (s.write r m x w).queues = s.queues :=
  store_queues s r _
@[simp] theorem write_packets (s : State) (r : RegName) (m : BitVec 16) (x : RegVal) (w : Bool) : (s.write r m x w).packets = s.packets :=
  store_packets s r _
@[simp] theorem write_keptPackets (s : State) (r : RegName) (m : BitVec 16) (x : RegVal) (w : Bool) : (s.write r m x w).keptPackets = s.keptPackets :=
  store_keptPackets s r _
@[simp] theorem write_saves (s : State) (r : RegName) (m : BitVec 16) (x : RegVal) (w : Bool) : (s.write r m x w).saves = s.saves :=
  store_saves s r _
@[simp] theorem write_heldCrews (s : State) (r : RegName) (m : BitVec 16) (x : RegVal) (w : Bool) : (s.write r m x w).heldCrews = s.heldCrews :=
  store_heldCrews s r _
@[simp] theorem write_fused (s : State) (r : RegName) (m : BitVec 16) (x : RegVal) (w : Bool) : (s.write r m x w).fused = s.fused :=
  store_fused s r _
@[simp] theorem write_irqs (s : State) (r : RegName) (m : BitVec 16) (x : RegVal) (w : Bool) : (s.write r m x w).irqs = s.irqs :=
  store_irqs s r _
@[simp] theorem write_poisonTlps (s : State) (r : RegName) (m : BitVec 16) (x : RegVal) (w : Bool) : (s.write r m x w).poisonTlps = s.poisonTlps :=
  store_poisonTlps s r _
@[simp] theorem write_hostReads (s : State) (r : RegName) (m : BitVec 16) (x : RegVal) (w : Bool) : (s.write r m x w).hostReads = s.hostReads :=
  store_hostReads s r _
@[simp] theorem write_dropped (s : State) (r : RegName) (m : BitVec 16) (x : RegVal) (w : Bool) : (s.write r m x w).dropped = s.dropped :=
  store_dropped s r _
@[simp] theorem write_aer (s : State) (r : RegName) (m : BitVec 16) (x : RegVal) (w : Bool) : (s.write r m x w).aer = s.aer :=
  store_aer s r _
@[simp] theorem write_rslots (s : State) (r : RegName) (m : BitVec 16) (x : RegVal) (w : Bool) : (s.write r m x w).rslots = s.rslots :=
  store_rslots s r _
@[simp] theorem write_chans (s : State) (r : RegName) (m : BitVec 16) (x : RegVal) (w : Bool) : (s.write r m x w).chans = s.chans :=
  store_chans s r _
@[simp] theorem write_portTimeout (s : State) (r : RegName) (m : BitVec 16) (x : RegVal) (w : Bool) : (s.write r m x w).portTimeout = s.portTimeout :=
  store_portTimeout s r _
@[simp] theorem write_time (s : State) (r : RegName) (m : BitVec 16) (x : RegVal) (w : Bool) : (s.write r m x w).time = s.time :=
  store_time s r _
@[simp] theorem write_timeRate (s : State) (r : RegName) (m : BitVec 16) (x : RegVal) (w : Bool) : (s.write r m x w).timeRate = s.timeRate :=
  store_timeRate s r _
@[simp] theorem write_moduleNo (s : State) (r : RegName) (m : BitVec 16) (x : RegVal) (w : Bool) : (s.write r m x w).moduleNo = s.moduleNo :=
  store_moduleNo s r _
@[simp] theorem write_flitSeen (s : State) (r : RegName) (m : BitVec 16) (x : RegVal) (w : Bool) : (s.write r m x w).flitSeen = s.flitSeen :=
  store_flitSeen s r _
@[simp] theorem write_outFlits (s : State) (r : RegName) (m : BitVec 16) (x : RegVal) (w : Bool) : (s.write r m x w).outFlits = s.outFlits :=
  store_outFlits s r _
@[simp] theorem write_routesDown (s : State) (r : RegName) (m : BitVec 16) (x : RegVal) (w : Bool) : (s.write r m x w).routesDown = s.routesDown :=
  store_routesDown s r _
@[simp] theorem write_powerLimit (s : State) (r : RegName) (m : BitVec 16) (x : RegVal) (w : Bool) : (s.write r m x w).powerLimit = s.powerLimit :=
  store_powerLimit s r _
@[simp] theorem write_powerLow (s : State) (r : RegName) (m : BitVec 16) (x : RegVal) (w : Bool) : (s.write r m x w).powerLow = s.powerLow :=
  store_powerLow s r _
@[simp] theorem write_boot (s : State) (r : RegName) (m : BitVec 16) (x : RegVal) (w : Bool) : (s.write r m x w).boot = s.boot :=
  store_boot s r _
@[simp] theorem write_image (s : State) (r : RegName) (m : BitVec 16) (x : RegVal) (w : Bool) : (s.write r m x w).image = s.image :=
  store_image s r _
@[simp] theorem write_bootNo (s : State) (r : RegName) (m : BitVec 16) (x : RegVal) (w : Bool) : (s.write r m x w).bootNo = s.bootNo :=
  store_bootNo s r _
@[simp] theorem write_queueBase (s : State) (r : RegName) (m : BitVec 16) (x : RegVal) (w : Bool) : (s.write r m x w).queueBase = s.queueBase :=
  store_queueBase s r _
@[simp] theorem write_adminBusy (s : State) (r : RegName) (m : BitVec 16) (x : RegVal) (w : Bool) : (s.write r m x w).adminBusy = s.adminBusy :=
  store_adminBusy s r _
@[simp] theorem write_nextTid (s : State) (r : RegName) (m : BitVec 16) (x : RegVal) (w : Bool) : (s.write r m x w).nextTid = s.nextTid :=
  store_nextTid s r _
@[simp] theorem write_nextId (s : State) (r : RegName) (m : BitVec 16) (x : RegVal) (w : Bool) : (s.write r m x w).nextId = s.nextId :=
  store_nextId s r _
@[simp] theorem write_tick (s : State) (r : RegName) (m : BitVec 16) (x : RegVal) (w : Bool) : (s.write r m x w).tick = s.tick :=
  store_tick s r _
@[simp] theorem write_cycleAt (s : State) (r : RegName) (m : BitVec 16) (x : RegVal) (w : Bool) : (s.write r m x w).cycleAt = s.cycleAt :=
  store_cycleAt s r _
@[simp] theorem write_agenda (s : State) (r : RegName) (m : BitVec 16) (x : RegVal) (w : Bool) : (s.write r m x w).agenda = s.agenda :=
  store_agenda s r _

@[simp] theorem setS_running (s : State) (n : Nat) (x : Word) : (s.setS n x).running = s.running := write_running _ _ _ _ _
@[simp] theorem setA_running (s : State) (n : Nat) (x : Affine) : (s.setA n x).running = s.running := write_running _ _ _ _ _
@[simp] theorem setQ_running (s : State) (n : Nat) (x : Rec) : (s.setQ n x).running = s.running := write_running _ _ _ _ _
@[simp] theorem setMode_running (s : State) (x : Word) : (s.setMode x).running = s.running := write_running _ _ _ _ _
@[simp] theorem setD_running (s : State) (n : Nat) (x : DWord) : (s.setD n x).running = s.running := by
  unfold State.setD; simp
@[simp] theorem pwrite_running (s : State) (n : Nat) (x : BitVec 16) : (s.pwrite n x).running = s.running := by
  unfold State.pwrite; split <;> simp
@[simp] theorem setS_todo (s : State) (n : Nat) (x : Word) : (s.setS n x).todo = s.todo := write_todo _ _ _ _ _
@[simp] theorem setA_todo (s : State) (n : Nat) (x : Affine) : (s.setA n x).todo = s.todo := write_todo _ _ _ _ _
@[simp] theorem setQ_todo (s : State) (n : Nat) (x : Rec) : (s.setQ n x).todo = s.todo := write_todo _ _ _ _ _
@[simp] theorem setMode_todo (s : State) (x : Word) : (s.setMode x).todo = s.todo := write_todo _ _ _ _ _
@[simp] theorem setD_todo (s : State) (n : Nat) (x : DWord) : (s.setD n x).todo = s.todo := by
  unfold State.setD; simp
@[simp] theorem pwrite_todo (s : State) (n : Nat) (x : BitVec 16) : (s.pwrite n x).todo = s.todo := by
  unfold State.pwrite; split <;> simp
@[simp] theorem setS_groups (s : State) (n : Nat) (x : Word) : (s.setS n x).groups = s.groups := write_groups _ _ _ _ _
@[simp] theorem setA_groups (s : State) (n : Nat) (x : Affine) : (s.setA n x).groups = s.groups := write_groups _ _ _ _ _
@[simp] theorem setQ_groups (s : State) (n : Nat) (x : Rec) : (s.setQ n x).groups = s.groups := write_groups _ _ _ _ _
@[simp] theorem setMode_groups (s : State) (x : Word) : (s.setMode x).groups = s.groups := write_groups _ _ _ _ _
@[simp] theorem setD_groups (s : State) (n : Nat) (x : DWord) : (s.setD n x).groups = s.groups := by
  unfold State.setD; simp
@[simp] theorem pwrite_groups (s : State) (n : Nat) (x : BitVec 16) : (s.pwrite n x).groups = s.groups := by
  unfold State.pwrite; split <;> simp
@[simp] theorem setS_cores (s : State) (n : Nat) (x : Word) : (s.setS n x).cores = s.cores := write_cores _ _ _ _ _
@[simp] theorem setA_cores (s : State) (n : Nat) (x : Affine) : (s.setA n x).cores = s.cores := write_cores _ _ _ _ _
@[simp] theorem setQ_cores (s : State) (n : Nat) (x : Rec) : (s.setQ n x).cores = s.cores := write_cores _ _ _ _ _
@[simp] theorem setMode_cores (s : State) (x : Word) : (s.setMode x).cores = s.cores := write_cores _ _ _ _ _
@[simp] theorem setD_cores (s : State) (n : Nat) (x : DWord) : (s.setD n x).cores = s.cores := by
  unfold State.setD; simp
@[simp] theorem pwrite_cores (s : State) (n : Nat) (x : BitVec 16) : (s.pwrite n x).cores = s.cores := by
  unfold State.pwrite; split <;> simp
@[simp] theorem setS_dies (s : State) (n : Nat) (x : Word) : (s.setS n x).dies = s.dies := write_dies _ _ _ _ _
@[simp] theorem setA_dies (s : State) (n : Nat) (x : Affine) : (s.setA n x).dies = s.dies := write_dies _ _ _ _ _
@[simp] theorem setQ_dies (s : State) (n : Nat) (x : Rec) : (s.setQ n x).dies = s.dies := write_dies _ _ _ _ _
@[simp] theorem setMode_dies (s : State) (x : Word) : (s.setMode x).dies = s.dies := write_dies _ _ _ _ _
@[simp] theorem setD_dies (s : State) (n : Nat) (x : DWord) : (s.setD n x).dies = s.dies := by
  unfold State.setD; simp
@[simp] theorem pwrite_dies (s : State) (n : Nat) (x : BitVec 16) : (s.pwrite n x).dies = s.dies := by
  unfold State.pwrite; split <;> simp
@[simp] theorem setS_tdies (s : State) (n : Nat) (x : Word) : (s.setS n x).tdies = s.tdies := write_tdies _ _ _ _ _
@[simp] theorem setA_tdies (s : State) (n : Nat) (x : Affine) : (s.setA n x).tdies = s.tdies := write_tdies _ _ _ _ _
@[simp] theorem setQ_tdies (s : State) (n : Nat) (x : Rec) : (s.setQ n x).tdies = s.tdies := write_tdies _ _ _ _ _
@[simp] theorem setMode_tdies (s : State) (x : Word) : (s.setMode x).tdies = s.tdies := write_tdies _ _ _ _ _
@[simp] theorem setD_tdies (s : State) (n : Nat) (x : DWord) : (s.setD n x).tdies = s.tdies := by
  unfold State.setD; simp
@[simp] theorem pwrite_tdies (s : State) (n : Nat) (x : BitVec 16) : (s.pwrite n x).tdies = s.tdies := by
  unfold State.pwrite; split <;> simp
@[simp] theorem setS_slices (s : State) (n : Nat) (x : Word) : (s.setS n x).slices = s.slices := write_slices _ _ _ _ _
@[simp] theorem setA_slices (s : State) (n : Nat) (x : Affine) : (s.setA n x).slices = s.slices := write_slices _ _ _ _ _
@[simp] theorem setQ_slices (s : State) (n : Nat) (x : Rec) : (s.setQ n x).slices = s.slices := write_slices _ _ _ _ _
@[simp] theorem setMode_slices (s : State) (x : Word) : (s.setMode x).slices = s.slices := write_slices _ _ _ _ _
@[simp] theorem setD_slices (s : State) (n : Nat) (x : DWord) : (s.setD n x).slices = s.slices := by
  unfold State.setD; simp
@[simp] theorem pwrite_slices (s : State) (n : Nat) (x : BitVec 16) : (s.pwrite n x).slices = s.slices := by
  unfold State.pwrite; split <;> simp
@[simp] theorem setS_sreqs (s : State) (n : Nat) (x : Word) : (s.setS n x).sreqs = s.sreqs := write_sreqs _ _ _ _ _
@[simp] theorem setA_sreqs (s : State) (n : Nat) (x : Affine) : (s.setA n x).sreqs = s.sreqs := write_sreqs _ _ _ _ _
@[simp] theorem setQ_sreqs (s : State) (n : Nat) (x : Rec) : (s.setQ n x).sreqs = s.sreqs := write_sreqs _ _ _ _ _
@[simp] theorem setMode_sreqs (s : State) (x : Word) : (s.setMode x).sreqs = s.sreqs := write_sreqs _ _ _ _ _
@[simp] theorem setD_sreqs (s : State) (n : Nat) (x : DWord) : (s.setD n x).sreqs = s.sreqs := by
  unfold State.setD; simp
@[simp] theorem pwrite_sreqs (s : State) (n : Nat) (x : BitVec 16) : (s.pwrite n x).sreqs = s.sreqs := by
  unfold State.pwrite; split <;> simp
@[simp] theorem setS_posted (s : State) (n : Nat) (x : Word) : (s.setS n x).posted = s.posted := write_posted _ _ _ _ _
@[simp] theorem setA_posted (s : State) (n : Nat) (x : Affine) : (s.setA n x).posted = s.posted := write_posted _ _ _ _ _
@[simp] theorem setQ_posted (s : State) (n : Nat) (x : Rec) : (s.setQ n x).posted = s.posted := write_posted _ _ _ _ _
@[simp] theorem setMode_posted (s : State) (x : Word) : (s.setMode x).posted = s.posted := write_posted _ _ _ _ _
@[simp] theorem setD_posted (s : State) (n : Nat) (x : DWord) : (s.setD n x).posted = s.posted := by
  unfold State.setD; simp
@[simp] theorem pwrite_posted (s : State) (n : Nat) (x : BitVec 16) : (s.pwrite n x).posted = s.posted := by
  unfold State.pwrite; split <;> simp
@[simp] theorem setS_loads (s : State) (n : Nat) (x : Word) : (s.setS n x).loads = s.loads := write_loads _ _ _ _ _
@[simp] theorem setA_loads (s : State) (n : Nat) (x : Affine) : (s.setA n x).loads = s.loads := write_loads _ _ _ _ _
@[simp] theorem setQ_loads (s : State) (n : Nat) (x : Rec) : (s.setQ n x).loads = s.loads := write_loads _ _ _ _ _
@[simp] theorem setMode_loads (s : State) (x : Word) : (s.setMode x).loads = s.loads := write_loads _ _ _ _ _
@[simp] theorem setD_loads (s : State) (n : Nat) (x : DWord) : (s.setD n x).loads = s.loads := by
  unfold State.setD; simp
@[simp] theorem pwrite_loads (s : State) (n : Nat) (x : BitVec 16) : (s.pwrite n x).loads = s.loads := by
  unfold State.pwrite; split <;> simp
@[simp] theorem setS_dtlb (s : State) (n : Nat) (x : Word) : (s.setS n x).dtlb = s.dtlb := write_dtlb _ _ _ _ _
@[simp] theorem setA_dtlb (s : State) (n : Nat) (x : Affine) : (s.setA n x).dtlb = s.dtlb := write_dtlb _ _ _ _ _
@[simp] theorem setQ_dtlb (s : State) (n : Nat) (x : Rec) : (s.setQ n x).dtlb = s.dtlb := write_dtlb _ _ _ _ _
@[simp] theorem setMode_dtlb (s : State) (x : Word) : (s.setMode x).dtlb = s.dtlb := write_dtlb _ _ _ _ _
@[simp] theorem setD_dtlb (s : State) (n : Nat) (x : DWord) : (s.setD n x).dtlb = s.dtlb := by
  unfold State.setD; simp
@[simp] theorem pwrite_dtlb (s : State) (n : Nat) (x : BitVec 16) : (s.pwrite n x).dtlb = s.dtlb := by
  unfold State.pwrite; split <;> simp
@[simp] theorem setS_mem (s : State) (n : Nat) (x : Word) : (s.setS n x).mem = s.mem := write_mem _ _ _ _ _
@[simp] theorem setA_mem (s : State) (n : Nat) (x : Affine) : (s.setA n x).mem = s.mem := write_mem _ _ _ _ _
@[simp] theorem setQ_mem (s : State) (n : Nat) (x : Rec) : (s.setQ n x).mem = s.mem := write_mem _ _ _ _ _
@[simp] theorem setMode_mem (s : State) (x : Word) : (s.setMode x).mem = s.mem := write_mem _ _ _ _ _
@[simp] theorem setD_mem (s : State) (n : Nat) (x : DWord) : (s.setD n x).mem = s.mem := by
  unfold State.setD; simp
@[simp] theorem pwrite_mem (s : State) (n : Nat) (x : BitVec 16) : (s.pwrite n x).mem = s.mem := by
  unfold State.pwrite; split <;> simp
@[simp] theorem setS_poison (s : State) (n : Nat) (x : Word) : (s.setS n x).poison = s.poison := write_poison _ _ _ _ _
@[simp] theorem setA_poison (s : State) (n : Nat) (x : Affine) : (s.setA n x).poison = s.poison := write_poison _ _ _ _ _
@[simp] theorem setQ_poison (s : State) (n : Nat) (x : Rec) : (s.setQ n x).poison = s.poison := write_poison _ _ _ _ _
@[simp] theorem setMode_poison (s : State) (x : Word) : (s.setMode x).poison = s.poison := write_poison _ _ _ _ _
@[simp] theorem setD_poison (s : State) (n : Nat) (x : DWord) : (s.setD n x).poison = s.poison := by
  unfold State.setD; simp
@[simp] theorem pwrite_poison (s : State) (n : Nat) (x : BitVec 16) : (s.pwrite n x).poison = s.poison := by
  unfold State.pwrite; split <;> simp
@[simp] theorem setS_tags (s : State) (n : Nat) (x : Word) : (s.setS n x).tags = s.tags := write_tags _ _ _ _ _
@[simp] theorem setA_tags (s : State) (n : Nat) (x : Affine) : (s.setA n x).tags = s.tags := write_tags _ _ _ _ _
@[simp] theorem setQ_tags (s : State) (n : Nat) (x : Rec) : (s.setQ n x).tags = s.tags := write_tags _ _ _ _ _
@[simp] theorem setMode_tags (s : State) (x : Word) : (s.setMode x).tags = s.tags := write_tags _ _ _ _ _
@[simp] theorem setD_tags (s : State) (n : Nat) (x : DWord) : (s.setD n x).tags = s.tags := by
  unfold State.setD; simp
@[simp] theorem pwrite_tags (s : State) (n : Nat) (x : BitVec 16) : (s.pwrite n x).tags = s.tags := by
  unfold State.pwrite; split <;> simp
@[simp] theorem setS_l2d (s : State) (n : Nat) (x : Word) : (s.setS n x).l2d = s.l2d := write_l2d _ _ _ _ _
@[simp] theorem setA_l2d (s : State) (n : Nat) (x : Affine) : (s.setA n x).l2d = s.l2d := write_l2d _ _ _ _ _
@[simp] theorem setQ_l2d (s : State) (n : Nat) (x : Rec) : (s.setQ n x).l2d = s.l2d := write_l2d _ _ _ _ _
@[simp] theorem setMode_l2d (s : State) (x : Word) : (s.setMode x).l2d = s.l2d := write_l2d _ _ _ _ _
@[simp] theorem setD_l2d (s : State) (n : Nat) (x : DWord) : (s.setD n x).l2d = s.l2d := by
  unfold State.setD; simp
@[simp] theorem pwrite_l2d (s : State) (n : Nat) (x : BitVec 16) : (s.pwrite n x).l2d = s.l2d := by
  unfold State.pwrite; split <;> simp
@[simp] theorem setS_tenants (s : State) (n : Nat) (x : Word) : (s.setS n x).tenants = s.tenants := write_tenants _ _ _ _ _
@[simp] theorem setA_tenants (s : State) (n : Nat) (x : Affine) : (s.setA n x).tenants = s.tenants := write_tenants _ _ _ _ _
@[simp] theorem setQ_tenants (s : State) (n : Nat) (x : Rec) : (s.setQ n x).tenants = s.tenants := write_tenants _ _ _ _ _
@[simp] theorem setMode_tenants (s : State) (x : Word) : (s.setMode x).tenants = s.tenants := write_tenants _ _ _ _ _
@[simp] theorem setD_tenants (s : State) (n : Nat) (x : DWord) : (s.setD n x).tenants = s.tenants := by
  unfold State.setD; simp
@[simp] theorem pwrite_tenants (s : State) (n : Nat) (x : BitVec 16) : (s.pwrite n x).tenants = s.tenants := by
  unfold State.pwrite; split <;> simp
@[simp] theorem setS_queues (s : State) (n : Nat) (x : Word) : (s.setS n x).queues = s.queues := write_queues _ _ _ _ _
@[simp] theorem setA_queues (s : State) (n : Nat) (x : Affine) : (s.setA n x).queues = s.queues := write_queues _ _ _ _ _
@[simp] theorem setQ_queues (s : State) (n : Nat) (x : Rec) : (s.setQ n x).queues = s.queues := write_queues _ _ _ _ _
@[simp] theorem setMode_queues (s : State) (x : Word) : (s.setMode x).queues = s.queues := write_queues _ _ _ _ _
@[simp] theorem setD_queues (s : State) (n : Nat) (x : DWord) : (s.setD n x).queues = s.queues := by
  unfold State.setD; simp
@[simp] theorem pwrite_queues (s : State) (n : Nat) (x : BitVec 16) : (s.pwrite n x).queues = s.queues := by
  unfold State.pwrite; split <;> simp
@[simp] theorem setS_packets (s : State) (n : Nat) (x : Word) : (s.setS n x).packets = s.packets := write_packets _ _ _ _ _
@[simp] theorem setA_packets (s : State) (n : Nat) (x : Affine) : (s.setA n x).packets = s.packets := write_packets _ _ _ _ _
@[simp] theorem setQ_packets (s : State) (n : Nat) (x : Rec) : (s.setQ n x).packets = s.packets := write_packets _ _ _ _ _
@[simp] theorem setMode_packets (s : State) (x : Word) : (s.setMode x).packets = s.packets := write_packets _ _ _ _ _
@[simp] theorem setD_packets (s : State) (n : Nat) (x : DWord) : (s.setD n x).packets = s.packets := by
  unfold State.setD; simp
@[simp] theorem pwrite_packets (s : State) (n : Nat) (x : BitVec 16) : (s.pwrite n x).packets = s.packets := by
  unfold State.pwrite; split <;> simp
@[simp] theorem setS_keptPackets (s : State) (n : Nat) (x : Word) : (s.setS n x).keptPackets = s.keptPackets := write_keptPackets _ _ _ _ _
@[simp] theorem setA_keptPackets (s : State) (n : Nat) (x : Affine) : (s.setA n x).keptPackets = s.keptPackets := write_keptPackets _ _ _ _ _
@[simp] theorem setQ_keptPackets (s : State) (n : Nat) (x : Rec) : (s.setQ n x).keptPackets = s.keptPackets := write_keptPackets _ _ _ _ _
@[simp] theorem setMode_keptPackets (s : State) (x : Word) : (s.setMode x).keptPackets = s.keptPackets := write_keptPackets _ _ _ _ _
@[simp] theorem setD_keptPackets (s : State) (n : Nat) (x : DWord) : (s.setD n x).keptPackets = s.keptPackets := by
  unfold State.setD; simp
@[simp] theorem pwrite_keptPackets (s : State) (n : Nat) (x : BitVec 16) : (s.pwrite n x).keptPackets = s.keptPackets := by
  unfold State.pwrite; split <;> simp
@[simp] theorem setS_saves (s : State) (n : Nat) (x : Word) : (s.setS n x).saves = s.saves := write_saves _ _ _ _ _
@[simp] theorem setA_saves (s : State) (n : Nat) (x : Affine) : (s.setA n x).saves = s.saves := write_saves _ _ _ _ _
@[simp] theorem setQ_saves (s : State) (n : Nat) (x : Rec) : (s.setQ n x).saves = s.saves := write_saves _ _ _ _ _
@[simp] theorem setMode_saves (s : State) (x : Word) : (s.setMode x).saves = s.saves := write_saves _ _ _ _ _
@[simp] theorem setD_saves (s : State) (n : Nat) (x : DWord) : (s.setD n x).saves = s.saves := by
  unfold State.setD; simp
@[simp] theorem pwrite_saves (s : State) (n : Nat) (x : BitVec 16) : (s.pwrite n x).saves = s.saves := by
  unfold State.pwrite; split <;> simp
@[simp] theorem setS_heldCrews (s : State) (n : Nat) (x : Word) : (s.setS n x).heldCrews = s.heldCrews := write_heldCrews _ _ _ _ _
@[simp] theorem setA_heldCrews (s : State) (n : Nat) (x : Affine) : (s.setA n x).heldCrews = s.heldCrews := write_heldCrews _ _ _ _ _
@[simp] theorem setQ_heldCrews (s : State) (n : Nat) (x : Rec) : (s.setQ n x).heldCrews = s.heldCrews := write_heldCrews _ _ _ _ _
@[simp] theorem setMode_heldCrews (s : State) (x : Word) : (s.setMode x).heldCrews = s.heldCrews := write_heldCrews _ _ _ _ _
@[simp] theorem setD_heldCrews (s : State) (n : Nat) (x : DWord) : (s.setD n x).heldCrews = s.heldCrews := by
  unfold State.setD; simp
@[simp] theorem pwrite_heldCrews (s : State) (n : Nat) (x : BitVec 16) : (s.pwrite n x).heldCrews = s.heldCrews := by
  unfold State.pwrite; split <;> simp
@[simp] theorem setS_fused (s : State) (n : Nat) (x : Word) : (s.setS n x).fused = s.fused := write_fused _ _ _ _ _
@[simp] theorem setA_fused (s : State) (n : Nat) (x : Affine) : (s.setA n x).fused = s.fused := write_fused _ _ _ _ _
@[simp] theorem setQ_fused (s : State) (n : Nat) (x : Rec) : (s.setQ n x).fused = s.fused := write_fused _ _ _ _ _
@[simp] theorem setMode_fused (s : State) (x : Word) : (s.setMode x).fused = s.fused := write_fused _ _ _ _ _
@[simp] theorem setD_fused (s : State) (n : Nat) (x : DWord) : (s.setD n x).fused = s.fused := by
  unfold State.setD; simp
@[simp] theorem pwrite_fused (s : State) (n : Nat) (x : BitVec 16) : (s.pwrite n x).fused = s.fused := by
  unfold State.pwrite; split <;> simp
@[simp] theorem setS_irqs (s : State) (n : Nat) (x : Word) : (s.setS n x).irqs = s.irqs := write_irqs _ _ _ _ _
@[simp] theorem setA_irqs (s : State) (n : Nat) (x : Affine) : (s.setA n x).irqs = s.irqs := write_irqs _ _ _ _ _
@[simp] theorem setQ_irqs (s : State) (n : Nat) (x : Rec) : (s.setQ n x).irqs = s.irqs := write_irqs _ _ _ _ _
@[simp] theorem setMode_irqs (s : State) (x : Word) : (s.setMode x).irqs = s.irqs := write_irqs _ _ _ _ _
@[simp] theorem setD_irqs (s : State) (n : Nat) (x : DWord) : (s.setD n x).irqs = s.irqs := by
  unfold State.setD; simp
@[simp] theorem pwrite_irqs (s : State) (n : Nat) (x : BitVec 16) : (s.pwrite n x).irqs = s.irqs := by
  unfold State.pwrite; split <;> simp
@[simp] theorem setS_poisonTlps (s : State) (n : Nat) (x : Word) : (s.setS n x).poisonTlps = s.poisonTlps := write_poisonTlps _ _ _ _ _
@[simp] theorem setA_poisonTlps (s : State) (n : Nat) (x : Affine) : (s.setA n x).poisonTlps = s.poisonTlps := write_poisonTlps _ _ _ _ _
@[simp] theorem setQ_poisonTlps (s : State) (n : Nat) (x : Rec) : (s.setQ n x).poisonTlps = s.poisonTlps := write_poisonTlps _ _ _ _ _
@[simp] theorem setMode_poisonTlps (s : State) (x : Word) : (s.setMode x).poisonTlps = s.poisonTlps := write_poisonTlps _ _ _ _ _
@[simp] theorem setD_poisonTlps (s : State) (n : Nat) (x : DWord) : (s.setD n x).poisonTlps = s.poisonTlps := by
  unfold State.setD; simp
@[simp] theorem pwrite_poisonTlps (s : State) (n : Nat) (x : BitVec 16) : (s.pwrite n x).poisonTlps = s.poisonTlps := by
  unfold State.pwrite; split <;> simp
@[simp] theorem setS_hostReads (s : State) (n : Nat) (x : Word) : (s.setS n x).hostReads = s.hostReads := write_hostReads _ _ _ _ _
@[simp] theorem setA_hostReads (s : State) (n : Nat) (x : Affine) : (s.setA n x).hostReads = s.hostReads := write_hostReads _ _ _ _ _
@[simp] theorem setQ_hostReads (s : State) (n : Nat) (x : Rec) : (s.setQ n x).hostReads = s.hostReads := write_hostReads _ _ _ _ _
@[simp] theorem setMode_hostReads (s : State) (x : Word) : (s.setMode x).hostReads = s.hostReads := write_hostReads _ _ _ _ _
@[simp] theorem setD_hostReads (s : State) (n : Nat) (x : DWord) : (s.setD n x).hostReads = s.hostReads := by
  unfold State.setD; simp
@[simp] theorem pwrite_hostReads (s : State) (n : Nat) (x : BitVec 16) : (s.pwrite n x).hostReads = s.hostReads := by
  unfold State.pwrite; split <;> simp
@[simp] theorem setS_dropped (s : State) (n : Nat) (x : Word) : (s.setS n x).dropped = s.dropped := write_dropped _ _ _ _ _
@[simp] theorem setA_dropped (s : State) (n : Nat) (x : Affine) : (s.setA n x).dropped = s.dropped := write_dropped _ _ _ _ _
@[simp] theorem setQ_dropped (s : State) (n : Nat) (x : Rec) : (s.setQ n x).dropped = s.dropped := write_dropped _ _ _ _ _
@[simp] theorem setMode_dropped (s : State) (x : Word) : (s.setMode x).dropped = s.dropped := write_dropped _ _ _ _ _
@[simp] theorem setD_dropped (s : State) (n : Nat) (x : DWord) : (s.setD n x).dropped = s.dropped := by
  unfold State.setD; simp
@[simp] theorem pwrite_dropped (s : State) (n : Nat) (x : BitVec 16) : (s.pwrite n x).dropped = s.dropped := by
  unfold State.pwrite; split <;> simp
@[simp] theorem setS_aer (s : State) (n : Nat) (x : Word) : (s.setS n x).aer = s.aer := write_aer _ _ _ _ _
@[simp] theorem setA_aer (s : State) (n : Nat) (x : Affine) : (s.setA n x).aer = s.aer := write_aer _ _ _ _ _
@[simp] theorem setQ_aer (s : State) (n : Nat) (x : Rec) : (s.setQ n x).aer = s.aer := write_aer _ _ _ _ _
@[simp] theorem setMode_aer (s : State) (x : Word) : (s.setMode x).aer = s.aer := write_aer _ _ _ _ _
@[simp] theorem setD_aer (s : State) (n : Nat) (x : DWord) : (s.setD n x).aer = s.aer := by
  unfold State.setD; simp
@[simp] theorem pwrite_aer (s : State) (n : Nat) (x : BitVec 16) : (s.pwrite n x).aer = s.aer := by
  unfold State.pwrite; split <;> simp
@[simp] theorem setS_rslots (s : State) (n : Nat) (x : Word) : (s.setS n x).rslots = s.rslots := write_rslots _ _ _ _ _
@[simp] theorem setA_rslots (s : State) (n : Nat) (x : Affine) : (s.setA n x).rslots = s.rslots := write_rslots _ _ _ _ _
@[simp] theorem setQ_rslots (s : State) (n : Nat) (x : Rec) : (s.setQ n x).rslots = s.rslots := write_rslots _ _ _ _ _
@[simp] theorem setMode_rslots (s : State) (x : Word) : (s.setMode x).rslots = s.rslots := write_rslots _ _ _ _ _
@[simp] theorem setD_rslots (s : State) (n : Nat) (x : DWord) : (s.setD n x).rslots = s.rslots := by
  unfold State.setD; simp
@[simp] theorem pwrite_rslots (s : State) (n : Nat) (x : BitVec 16) : (s.pwrite n x).rslots = s.rslots := by
  unfold State.pwrite; split <;> simp
@[simp] theorem setS_chans (s : State) (n : Nat) (x : Word) : (s.setS n x).chans = s.chans := write_chans _ _ _ _ _
@[simp] theorem setA_chans (s : State) (n : Nat) (x : Affine) : (s.setA n x).chans = s.chans := write_chans _ _ _ _ _
@[simp] theorem setQ_chans (s : State) (n : Nat) (x : Rec) : (s.setQ n x).chans = s.chans := write_chans _ _ _ _ _
@[simp] theorem setMode_chans (s : State) (x : Word) : (s.setMode x).chans = s.chans := write_chans _ _ _ _ _
@[simp] theorem setD_chans (s : State) (n : Nat) (x : DWord) : (s.setD n x).chans = s.chans := by
  unfold State.setD; simp
@[simp] theorem pwrite_chans (s : State) (n : Nat) (x : BitVec 16) : (s.pwrite n x).chans = s.chans := by
  unfold State.pwrite; split <;> simp
@[simp] theorem setS_portTimeout (s : State) (n : Nat) (x : Word) : (s.setS n x).portTimeout = s.portTimeout := write_portTimeout _ _ _ _ _
@[simp] theorem setA_portTimeout (s : State) (n : Nat) (x : Affine) : (s.setA n x).portTimeout = s.portTimeout := write_portTimeout _ _ _ _ _
@[simp] theorem setQ_portTimeout (s : State) (n : Nat) (x : Rec) : (s.setQ n x).portTimeout = s.portTimeout := write_portTimeout _ _ _ _ _
@[simp] theorem setMode_portTimeout (s : State) (x : Word) : (s.setMode x).portTimeout = s.portTimeout := write_portTimeout _ _ _ _ _
@[simp] theorem setD_portTimeout (s : State) (n : Nat) (x : DWord) : (s.setD n x).portTimeout = s.portTimeout := by
  unfold State.setD; simp
@[simp] theorem pwrite_portTimeout (s : State) (n : Nat) (x : BitVec 16) : (s.pwrite n x).portTimeout = s.portTimeout := by
  unfold State.pwrite; split <;> simp
@[simp] theorem setS_time (s : State) (n : Nat) (x : Word) : (s.setS n x).time = s.time := write_time _ _ _ _ _
@[simp] theorem setA_time (s : State) (n : Nat) (x : Affine) : (s.setA n x).time = s.time := write_time _ _ _ _ _
@[simp] theorem setQ_time (s : State) (n : Nat) (x : Rec) : (s.setQ n x).time = s.time := write_time _ _ _ _ _
@[simp] theorem setMode_time (s : State) (x : Word) : (s.setMode x).time = s.time := write_time _ _ _ _ _
@[simp] theorem setD_time (s : State) (n : Nat) (x : DWord) : (s.setD n x).time = s.time := by
  unfold State.setD; simp
@[simp] theorem pwrite_time (s : State) (n : Nat) (x : BitVec 16) : (s.pwrite n x).time = s.time := by
  unfold State.pwrite; split <;> simp
@[simp] theorem setS_timeRate (s : State) (n : Nat) (x : Word) : (s.setS n x).timeRate = s.timeRate := write_timeRate _ _ _ _ _
@[simp] theorem setA_timeRate (s : State) (n : Nat) (x : Affine) : (s.setA n x).timeRate = s.timeRate := write_timeRate _ _ _ _ _
@[simp] theorem setQ_timeRate (s : State) (n : Nat) (x : Rec) : (s.setQ n x).timeRate = s.timeRate := write_timeRate _ _ _ _ _
@[simp] theorem setMode_timeRate (s : State) (x : Word) : (s.setMode x).timeRate = s.timeRate := write_timeRate _ _ _ _ _
@[simp] theorem setD_timeRate (s : State) (n : Nat) (x : DWord) : (s.setD n x).timeRate = s.timeRate := by
  unfold State.setD; simp
@[simp] theorem pwrite_timeRate (s : State) (n : Nat) (x : BitVec 16) : (s.pwrite n x).timeRate = s.timeRate := by
  unfold State.pwrite; split <;> simp
@[simp] theorem setS_moduleNo (s : State) (n : Nat) (x : Word) : (s.setS n x).moduleNo = s.moduleNo := write_moduleNo _ _ _ _ _
@[simp] theorem setA_moduleNo (s : State) (n : Nat) (x : Affine) : (s.setA n x).moduleNo = s.moduleNo := write_moduleNo _ _ _ _ _
@[simp] theorem setQ_moduleNo (s : State) (n : Nat) (x : Rec) : (s.setQ n x).moduleNo = s.moduleNo := write_moduleNo _ _ _ _ _
@[simp] theorem setMode_moduleNo (s : State) (x : Word) : (s.setMode x).moduleNo = s.moduleNo := write_moduleNo _ _ _ _ _
@[simp] theorem setD_moduleNo (s : State) (n : Nat) (x : DWord) : (s.setD n x).moduleNo = s.moduleNo := by
  unfold State.setD; simp
@[simp] theorem pwrite_moduleNo (s : State) (n : Nat) (x : BitVec 16) : (s.pwrite n x).moduleNo = s.moduleNo := by
  unfold State.pwrite; split <;> simp
@[simp] theorem setS_flitSeen (s : State) (n : Nat) (x : Word) : (s.setS n x).flitSeen = s.flitSeen := write_flitSeen _ _ _ _ _
@[simp] theorem setA_flitSeen (s : State) (n : Nat) (x : Affine) : (s.setA n x).flitSeen = s.flitSeen := write_flitSeen _ _ _ _ _
@[simp] theorem setQ_flitSeen (s : State) (n : Nat) (x : Rec) : (s.setQ n x).flitSeen = s.flitSeen := write_flitSeen _ _ _ _ _
@[simp] theorem setMode_flitSeen (s : State) (x : Word) : (s.setMode x).flitSeen = s.flitSeen := write_flitSeen _ _ _ _ _
@[simp] theorem setD_flitSeen (s : State) (n : Nat) (x : DWord) : (s.setD n x).flitSeen = s.flitSeen := by
  unfold State.setD; simp
@[simp] theorem pwrite_flitSeen (s : State) (n : Nat) (x : BitVec 16) : (s.pwrite n x).flitSeen = s.flitSeen := by
  unfold State.pwrite; split <;> simp
@[simp] theorem setS_outFlits (s : State) (n : Nat) (x : Word) : (s.setS n x).outFlits = s.outFlits := write_outFlits _ _ _ _ _
@[simp] theorem setA_outFlits (s : State) (n : Nat) (x : Affine) : (s.setA n x).outFlits = s.outFlits := write_outFlits _ _ _ _ _
@[simp] theorem setQ_outFlits (s : State) (n : Nat) (x : Rec) : (s.setQ n x).outFlits = s.outFlits := write_outFlits _ _ _ _ _
@[simp] theorem setMode_outFlits (s : State) (x : Word) : (s.setMode x).outFlits = s.outFlits := write_outFlits _ _ _ _ _
@[simp] theorem setD_outFlits (s : State) (n : Nat) (x : DWord) : (s.setD n x).outFlits = s.outFlits := by
  unfold State.setD; simp
@[simp] theorem pwrite_outFlits (s : State) (n : Nat) (x : BitVec 16) : (s.pwrite n x).outFlits = s.outFlits := by
  unfold State.pwrite; split <;> simp
@[simp] theorem setS_routesDown (s : State) (n : Nat) (x : Word) : (s.setS n x).routesDown = s.routesDown := write_routesDown _ _ _ _ _
@[simp] theorem setA_routesDown (s : State) (n : Nat) (x : Affine) : (s.setA n x).routesDown = s.routesDown := write_routesDown _ _ _ _ _
@[simp] theorem setQ_routesDown (s : State) (n : Nat) (x : Rec) : (s.setQ n x).routesDown = s.routesDown := write_routesDown _ _ _ _ _
@[simp] theorem setMode_routesDown (s : State) (x : Word) : (s.setMode x).routesDown = s.routesDown := write_routesDown _ _ _ _ _
@[simp] theorem setD_routesDown (s : State) (n : Nat) (x : DWord) : (s.setD n x).routesDown = s.routesDown := by
  unfold State.setD; simp
@[simp] theorem pwrite_routesDown (s : State) (n : Nat) (x : BitVec 16) : (s.pwrite n x).routesDown = s.routesDown := by
  unfold State.pwrite; split <;> simp
@[simp] theorem setS_powerLimit (s : State) (n : Nat) (x : Word) : (s.setS n x).powerLimit = s.powerLimit := write_powerLimit _ _ _ _ _
@[simp] theorem setA_powerLimit (s : State) (n : Nat) (x : Affine) : (s.setA n x).powerLimit = s.powerLimit := write_powerLimit _ _ _ _ _
@[simp] theorem setQ_powerLimit (s : State) (n : Nat) (x : Rec) : (s.setQ n x).powerLimit = s.powerLimit := write_powerLimit _ _ _ _ _
@[simp] theorem setMode_powerLimit (s : State) (x : Word) : (s.setMode x).powerLimit = s.powerLimit := write_powerLimit _ _ _ _ _
@[simp] theorem setD_powerLimit (s : State) (n : Nat) (x : DWord) : (s.setD n x).powerLimit = s.powerLimit := by
  unfold State.setD; simp
@[simp] theorem pwrite_powerLimit (s : State) (n : Nat) (x : BitVec 16) : (s.pwrite n x).powerLimit = s.powerLimit := by
  unfold State.pwrite; split <;> simp
@[simp] theorem setS_powerLow (s : State) (n : Nat) (x : Word) : (s.setS n x).powerLow = s.powerLow := write_powerLow _ _ _ _ _
@[simp] theorem setA_powerLow (s : State) (n : Nat) (x : Affine) : (s.setA n x).powerLow = s.powerLow := write_powerLow _ _ _ _ _
@[simp] theorem setQ_powerLow (s : State) (n : Nat) (x : Rec) : (s.setQ n x).powerLow = s.powerLow := write_powerLow _ _ _ _ _
@[simp] theorem setMode_powerLow (s : State) (x : Word) : (s.setMode x).powerLow = s.powerLow := write_powerLow _ _ _ _ _
@[simp] theorem setD_powerLow (s : State) (n : Nat) (x : DWord) : (s.setD n x).powerLow = s.powerLow := by
  unfold State.setD; simp
@[simp] theorem pwrite_powerLow (s : State) (n : Nat) (x : BitVec 16) : (s.pwrite n x).powerLow = s.powerLow := by
  unfold State.pwrite; split <;> simp
@[simp] theorem setS_boot (s : State) (n : Nat) (x : Word) : (s.setS n x).boot = s.boot := write_boot _ _ _ _ _
@[simp] theorem setA_boot (s : State) (n : Nat) (x : Affine) : (s.setA n x).boot = s.boot := write_boot _ _ _ _ _
@[simp] theorem setQ_boot (s : State) (n : Nat) (x : Rec) : (s.setQ n x).boot = s.boot := write_boot _ _ _ _ _
@[simp] theorem setMode_boot (s : State) (x : Word) : (s.setMode x).boot = s.boot := write_boot _ _ _ _ _
@[simp] theorem setD_boot (s : State) (n : Nat) (x : DWord) : (s.setD n x).boot = s.boot := by
  unfold State.setD; simp
@[simp] theorem pwrite_boot (s : State) (n : Nat) (x : BitVec 16) : (s.pwrite n x).boot = s.boot := by
  unfold State.pwrite; split <;> simp
@[simp] theorem setS_image (s : State) (n : Nat) (x : Word) : (s.setS n x).image = s.image := write_image _ _ _ _ _
@[simp] theorem setA_image (s : State) (n : Nat) (x : Affine) : (s.setA n x).image = s.image := write_image _ _ _ _ _
@[simp] theorem setQ_image (s : State) (n : Nat) (x : Rec) : (s.setQ n x).image = s.image := write_image _ _ _ _ _
@[simp] theorem setMode_image (s : State) (x : Word) : (s.setMode x).image = s.image := write_image _ _ _ _ _
@[simp] theorem setD_image (s : State) (n : Nat) (x : DWord) : (s.setD n x).image = s.image := by
  unfold State.setD; simp
@[simp] theorem pwrite_image (s : State) (n : Nat) (x : BitVec 16) : (s.pwrite n x).image = s.image := by
  unfold State.pwrite; split <;> simp
@[simp] theorem setS_bootNo (s : State) (n : Nat) (x : Word) : (s.setS n x).bootNo = s.bootNo := write_bootNo _ _ _ _ _
@[simp] theorem setA_bootNo (s : State) (n : Nat) (x : Affine) : (s.setA n x).bootNo = s.bootNo := write_bootNo _ _ _ _ _
@[simp] theorem setQ_bootNo (s : State) (n : Nat) (x : Rec) : (s.setQ n x).bootNo = s.bootNo := write_bootNo _ _ _ _ _
@[simp] theorem setMode_bootNo (s : State) (x : Word) : (s.setMode x).bootNo = s.bootNo := write_bootNo _ _ _ _ _
@[simp] theorem setD_bootNo (s : State) (n : Nat) (x : DWord) : (s.setD n x).bootNo = s.bootNo := by
  unfold State.setD; simp
@[simp] theorem pwrite_bootNo (s : State) (n : Nat) (x : BitVec 16) : (s.pwrite n x).bootNo = s.bootNo := by
  unfold State.pwrite; split <;> simp
@[simp] theorem setS_queueBase (s : State) (n : Nat) (x : Word) : (s.setS n x).queueBase = s.queueBase := write_queueBase _ _ _ _ _
@[simp] theorem setA_queueBase (s : State) (n : Nat) (x : Affine) : (s.setA n x).queueBase = s.queueBase := write_queueBase _ _ _ _ _
@[simp] theorem setQ_queueBase (s : State) (n : Nat) (x : Rec) : (s.setQ n x).queueBase = s.queueBase := write_queueBase _ _ _ _ _
@[simp] theorem setMode_queueBase (s : State) (x : Word) : (s.setMode x).queueBase = s.queueBase := write_queueBase _ _ _ _ _
@[simp] theorem setD_queueBase (s : State) (n : Nat) (x : DWord) : (s.setD n x).queueBase = s.queueBase := by
  unfold State.setD; simp
@[simp] theorem pwrite_queueBase (s : State) (n : Nat) (x : BitVec 16) : (s.pwrite n x).queueBase = s.queueBase := by
  unfold State.pwrite; split <;> simp
@[simp] theorem setS_adminBusy (s : State) (n : Nat) (x : Word) : (s.setS n x).adminBusy = s.adminBusy := write_adminBusy _ _ _ _ _
@[simp] theorem setA_adminBusy (s : State) (n : Nat) (x : Affine) : (s.setA n x).adminBusy = s.adminBusy := write_adminBusy _ _ _ _ _
@[simp] theorem setQ_adminBusy (s : State) (n : Nat) (x : Rec) : (s.setQ n x).adminBusy = s.adminBusy := write_adminBusy _ _ _ _ _
@[simp] theorem setMode_adminBusy (s : State) (x : Word) : (s.setMode x).adminBusy = s.adminBusy := write_adminBusy _ _ _ _ _
@[simp] theorem setD_adminBusy (s : State) (n : Nat) (x : DWord) : (s.setD n x).adminBusy = s.adminBusy := by
  unfold State.setD; simp
@[simp] theorem pwrite_adminBusy (s : State) (n : Nat) (x : BitVec 16) : (s.pwrite n x).adminBusy = s.adminBusy := by
  unfold State.pwrite; split <;> simp
@[simp] theorem setS_nextTid (s : State) (n : Nat) (x : Word) : (s.setS n x).nextTid = s.nextTid := write_nextTid _ _ _ _ _
@[simp] theorem setA_nextTid (s : State) (n : Nat) (x : Affine) : (s.setA n x).nextTid = s.nextTid := write_nextTid _ _ _ _ _
@[simp] theorem setQ_nextTid (s : State) (n : Nat) (x : Rec) : (s.setQ n x).nextTid = s.nextTid := write_nextTid _ _ _ _ _
@[simp] theorem setMode_nextTid (s : State) (x : Word) : (s.setMode x).nextTid = s.nextTid := write_nextTid _ _ _ _ _
@[simp] theorem setD_nextTid (s : State) (n : Nat) (x : DWord) : (s.setD n x).nextTid = s.nextTid := by
  unfold State.setD; simp
@[simp] theorem pwrite_nextTid (s : State) (n : Nat) (x : BitVec 16) : (s.pwrite n x).nextTid = s.nextTid := by
  unfold State.pwrite; split <;> simp
@[simp] theorem setS_nextId (s : State) (n : Nat) (x : Word) : (s.setS n x).nextId = s.nextId := write_nextId _ _ _ _ _
@[simp] theorem setA_nextId (s : State) (n : Nat) (x : Affine) : (s.setA n x).nextId = s.nextId := write_nextId _ _ _ _ _
@[simp] theorem setQ_nextId (s : State) (n : Nat) (x : Rec) : (s.setQ n x).nextId = s.nextId := write_nextId _ _ _ _ _
@[simp] theorem setMode_nextId (s : State) (x : Word) : (s.setMode x).nextId = s.nextId := write_nextId _ _ _ _ _
@[simp] theorem setD_nextId (s : State) (n : Nat) (x : DWord) : (s.setD n x).nextId = s.nextId := by
  unfold State.setD; simp
@[simp] theorem pwrite_nextId (s : State) (n : Nat) (x : BitVec 16) : (s.pwrite n x).nextId = s.nextId := by
  unfold State.pwrite; split <;> simp
@[simp] theorem setS_tick (s : State) (n : Nat) (x : Word) : (s.setS n x).tick = s.tick := write_tick _ _ _ _ _
@[simp] theorem setA_tick (s : State) (n : Nat) (x : Affine) : (s.setA n x).tick = s.tick := write_tick _ _ _ _ _
@[simp] theorem setQ_tick (s : State) (n : Nat) (x : Rec) : (s.setQ n x).tick = s.tick := write_tick _ _ _ _ _
@[simp] theorem setMode_tick (s : State) (x : Word) : (s.setMode x).tick = s.tick := write_tick _ _ _ _ _
@[simp] theorem setD_tick (s : State) (n : Nat) (x : DWord) : (s.setD n x).tick = s.tick := by
  unfold State.setD; simp
@[simp] theorem pwrite_tick (s : State) (n : Nat) (x : BitVec 16) : (s.pwrite n x).tick = s.tick := by
  unfold State.pwrite; split <;> simp
@[simp] theorem setS_cycleAt (s : State) (n : Nat) (x : Word) : (s.setS n x).cycleAt = s.cycleAt := write_cycleAt _ _ _ _ _
@[simp] theorem setA_cycleAt (s : State) (n : Nat) (x : Affine) : (s.setA n x).cycleAt = s.cycleAt := write_cycleAt _ _ _ _ _
@[simp] theorem setQ_cycleAt (s : State) (n : Nat) (x : Rec) : (s.setQ n x).cycleAt = s.cycleAt := write_cycleAt _ _ _ _ _
@[simp] theorem setMode_cycleAt (s : State) (x : Word) : (s.setMode x).cycleAt = s.cycleAt := write_cycleAt _ _ _ _ _
@[simp] theorem setD_cycleAt (s : State) (n : Nat) (x : DWord) : (s.setD n x).cycleAt = s.cycleAt := by
  unfold State.setD; simp
@[simp] theorem pwrite_cycleAt (s : State) (n : Nat) (x : BitVec 16) : (s.pwrite n x).cycleAt = s.cycleAt := by
  unfold State.pwrite; split <;> simp
@[simp] theorem setS_agenda (s : State) (n : Nat) (x : Word) : (s.setS n x).agenda = s.agenda := write_agenda _ _ _ _ _
@[simp] theorem setA_agenda (s : State) (n : Nat) (x : Affine) : (s.setA n x).agenda = s.agenda := write_agenda _ _ _ _ _
@[simp] theorem setQ_agenda (s : State) (n : Nat) (x : Rec) : (s.setQ n x).agenda = s.agenda := write_agenda _ _ _ _ _
@[simp] theorem setMode_agenda (s : State) (x : Word) : (s.setMode x).agenda = s.agenda := write_agenda _ _ _ _ _
@[simp] theorem setD_agenda (s : State) (n : Nat) (x : DWord) : (s.setD n x).agenda = s.agenda := by
  unfold State.setD; simp
@[simp] theorem pwrite_agenda (s : State) (n : Nat) (x : BitVec 16) : (s.pwrite n x).agenda = s.agenda := by
  unfold State.pwrite; split <;> simp

end Sys2Proof.Laws
end

