-- ==== Sys2Proof/Machine/Source.lean ====
section
/-!
DEFINITION. The text of a Kilec source file: lines into statements (R32), numbers, registers and names (R33, R80), and the
mnemonics with the operands each is written with (R29, R31, R33). Nothing of the machine rests on this file: an object is
what a loader places.
-/

namespace Sys2Proof.Machine

open Sys2Proof

/-- A piece of a source line. -/
abbrev Text := List Char

/-- Why a source is rejected (R32 to R36, R80); the assembler then emits no object. -/
inductive AsmError where
  /-- a line that has not the form of R32 -/
  | badLine
  /-- an unknown mnemonic, suffix or directive -/
  | unknownName
  /-- an operand that its position does not accept, or a count of operands other than the form's -/
  | operand
  /-- two literals in one instruction -/
  | twoLiterals
  /-- a value outside its range -/
  | range
  /-- a keyword of SETM that is unknown or stands twice -/
  | keyword
  /-- a vector register at or beyond `.vregs` -/
  | regrange
  /-- a wide operand at a misaligned register -/
  | regalign
  /-- a directive where it is not allowed -/
  | directive
  /-- a BRT or CALLT without `.targets` -/
  | targets
  /-- an undefined label -/
  | undefinedLabel
  /-- a label defined twice, or a local one that repeats a global name -/
  | duplicate
  /-- a function without `.vregs` -/
  | noVregs
  /-- a window hazard under `.hazard check` -/
  | hazard
  deriving DecidableEq, Repr

/-- What assembling answers. -/
abbrev Asm (α : Type) := Except AsmError α

/-- The value, or the error. -/
def orElse {α : Type} (o : Option α) (e : AsmError) : Asm α :=
  match o with
  | some a => .ok a
  | none => .error e

/-- Lower case, for the names that are case-insensitive (R32). -/
def lower (t : Text) : Text := t.map Char.toLower

/-- Without the blanks at either end. -/
def trimText (t : Text) : Text := ((t.dropWhile Char.isWhitespace).reverse.dropWhile Char.isWhitespace).reverse

/-- R32: a letter or underscore, then letters, digits and underscores. -/
def isName (t : Text) : Bool :=
  match t with
  | c :: cs => (c.isAlpha || c == '_') && cs.all (fun d => d.isAlphanum || d == '_')
  | [] => false

/-- The entry of a name in a table of lower-case names. -/
def nameIn {α : Type} (tab : List (String × α)) (t : Text) : Option α :=
  (tab.find? (fun e => e.1.toList == lower t)).map (·.2)

/-! ## Numbers -/

/-- The number that digits of a base write. -/
def digitsOf (base : Nat) (t : Text) : Option Nat :=
  if t.isEmpty then none
  else t.foldl (fun acc c => acc.bind fun n =>
    let d := if c.isDigit then c.toNat - 48 else c.toLower.toNat - 87
    if (c.isDigit || ('a' ≤ c.toLower && c.toLower ≤ 'f')) && d < base then some (n * base + d) else none) (some 0)

/-- R33: the FP32 value nearest to `a / b`, ties to even. One above the largest lies outside every range (DESIGN CHOICE). -/
def fp32Near (a b : Nat) : Nat :=
  if a = 0 then 0
  else
    let e0 : Int := (a.log2 : Int) - b.log2
    let below : Bool := if 0 ≤ e0 then a < b * 2 ^ e0.toNat else a * 2 ^ (-e0).toNat < b
    let e := max (if below then e0 - 1 else e0) (-126)
    let n := if e ≤ 23 then a * 2 ^ (23 - e).toNat else a
    let d := if e ≤ 23 then b else b * 2 ^ (e - 23).toNat
    let m := n / d + (if 2 * (n % d) > d ∨ (2 * (n % d) = d ∧ n / d % 2 = 1) then 1 else 0)
    let bits := (e + 126).toNat * 2 ^ 23 + m
    if bits < 0x7F800000 then bits else 2 ^ 65

/-- R33: a decimal with a point or an exponent, without its sign. -/
def floatOf (t : Text) : Option Nat := do
  let isE := fun c : Char => c == 'e' || c == 'E'
  let mant := t.takeWhile (fun c => !isE c)
  let ex := t.dropWhile (fun c => !isE c)
  let int := mant.takeWhile (· != '.')
  let frac := (mant.dropWhile (· != '.')).drop 1
  let m ← digitsOf 10 (int ++ frac)
  let (neg, n) ← match ex with
    | [] => if mant.contains '.' then some (false, 0) else none
    | _ :: '-' :: ds => (digitsOf 10 ds).map (fun n => (true, n))
    | _ :: '+' :: ds => (digitsOf 10 ds).map (fun n => (false, n))
    | _ :: ds => (digitsOf 10 ds).map (fun n => (false, n))
  some (if neg then fp32Near m (10 ^ (frac.length + n)) else fp32Near (m * 10 ^ n) (10 ^ frac.length))

/-- R33: a value as it is written: decimal, hexadecimal, binary, or an FP32 value. -/
def numberOf (t : Text) : Option Int :=
  match t with
  | '0' :: 'x' :: ds | '0' :: 'X' :: ds => (digitsOf 16 (ds.filter (· != '_'))).map Int.ofNat
  | '0' :: 'b' :: ds | '0' :: 'B' :: ds => (digitsOf 2 (ds.filter (· != '_'))).map Int.ofNat
  | '-' :: ds =>
    match digitsOf 10 ds with
    | some n => some (-(n : Int))
    | none => (floatOf ds).map (fun b => ((b + 0x80000000 : Nat) : Int))
  | ds =>
    match digitsOf 10 ds with
    | some n => some n
    | none => (floatOf ds).map Int.ofNat

/-- The constants of `.equ` (R34). -/
abbrev Equs := List (Text × Int)

/-- R33, R34: what stands behind `#`: a value or a constant. -/
def hashOf (eq : Equs) (t : Text) : Asm Int :=
  match numberOf t with
  | some v => .ok v
  | none => orElse ((eq.find? (fun e => e.1 == t)).map (·.2)) .operand

/-- A value of `n` bits, a negative one in two's complement. -/
def inBits (n : Nat) (v : Int) : Asm (BitVec n) :=
  if -(2 ^ (n - 1)) ≤ v ∧ v < 2 ^ n then .ok (BitVec.ofInt n v) else .error .range

/-- A number written plainly or behind `#`. -/
def plainOf (eq : Equs) (t : Text) : Asm Int :=
  match t with
  | '#' :: r => hashOf eq r
  | t => orElse (numberOf t) .operand

/-- A number in a range, as the directives take it. -/
def countOf (eq : Equs) (lo hi : Nat) (t : Text) : Asm Nat := do
  let v ← plainOf eq t
  if (lo : Int) ≤ v ∧ v ≤ (hi : Int) then .ok v.toNat else .error .range

/-! ## Operands -/

/-- R33: a register by its letter and number. -/
def registerOf (t : Text) : Option Opnd :=
  match lower t with
  | c :: ds =>
    match digitsOf 10 ds with
    | none => none
    | some n =>
      if (ds.length = 1 || ds.head? != some '0') then
        match c with
        | 'v' => if h : n < 128 then some (.v ⟨n, h⟩) else none
        | 's' => if h : n < 64 then some (.s ⟨n, h⟩) else none
        | 'a' => if h : n < 32 then some (.a ⟨n, h⟩) else none
        | 'p' => if h : n < 8 then some (.p ⟨n, h⟩) else none
        | 'q' => if h : n < 16 then some (.q ⟨n, h⟩) else none
        | _ => none
      else none
  | [] => none

/-- R18, R33: the special operands. -/
def specialNames : List (String × Opnd) :=
  [("zero", .zero), ("lane", .lane), ("ones", .ones), ("one", .one), ("quad", .quad), ("fone", .fone)]

/-- R33: an operand as it is written. -/
def operandOf (eq : Equs) (t : Text) : Asm Opnd :=
  match t with
  | '#' :: r => do
    let v ← hashOf eq r
    let w ← inBits 32 v
    .ok (.lit w)
  | t =>
    match registerOf t with
    | some o => .ok o
    | none => orElse (nameIn specialNames t) .operand

/-- Names numbered from 0. -/
def numbered (ns : List String) : List (String × Nat) := ns.zipIdx

/-- R38: the formats. -/
def fmtNames : List (String × Nat) :=
  numbered ["raw32", "int32", "uint32", "fp32", "bf16", "fp16", "e4m3", "e5m2", "int8q", "int4q"]
/-- R78, R231: the scopes. -/
def scopeNames : List (String × Nat) := numbered ["task", "core", "cluster", "die", "module", "system"]
/-- R281: the accumulator handles. -/
def handleNames : List (String × Nat) := numbered ["c0", "c1", "c2", "c3", "c4", "c5", "c6", "c7"]
/-- R21: the conditions. -/
def condNames : List (String × Nat) :=
  numbered ["eq", "ne", "lt", "le", "gt", "ge", "ltu", "leu", "gtu", "geu", "ord", "uno", "any", "none"]

/-- R33: the named CSRs, each with the number its own rule gives. -/
def csrNames : List (String × Nat) :=
  [("core.id", 0x0001), ("task.lo", 0x0002), ("task.hi", 0x0003), ("loc.depth", 0x0010), ("loc.bytes", 0x0011),
   ("loc.idle", 0x0012), ("cellar.carve", 0x0020), ("cellar.status", 0x0021), ("status", 0x0030), ("lat.last", 0x0040),
   ("lat.stall", 0x0041), ("sr.seed", 0x0400), ("slice.clr", 0x0401), ("slice.snap", 0x0402), ("vrf.miss", 0x0403),
   ("cellar.done", 0x0404), ("rack.depth", 0x0405), ("cox.win", 0x0406), ("mx.kblk", 0x0407), ("crew.watch", 0x0408),
   ("pwr.status", 0x0409), ("trap.act", 0x0420), ("wdog.limit", 0x0421)]

/-- R79, R80: the keywords of SETM: the place of the field in MODE, its bit of the mask, and the values. -/
def setmNames : List (String × Nat × Nat × List (String × Nat)) :=
  [("gp", 0, 0, numbered ["p0", "p1", "p2", "p3", "p4", "p5", "p6", "p7"]), ("fmt", 3, 1, fmtNames),
   ("rm", 7, 2, numbered ["rne", "rtz", "rdn", "rup"]), ("sr", 9, 3, numbered ["0", "1"]), ("sat", 10, 4, numbered ["0", "1"]),
   ("tp", 11, 5, numbered ["0", "1"]), ("ftz", 12, 6, numbered ["0", "1"]),
   ("aord", 13, 7, numbered ["relaxed", "acquire", "release", "acq_rel"]), ("ascope", 15, 8, scopeNames),
   ("qg", 18, 9, numbered ["32", "64", "128"])]

/-! ## Mnemonics -/

/-- How one operand of a statement goes into the words: at bit `sh` of the first word, or as an extension word. -/
inductive Place where
  /-- an operand of R15 -/
  | op (sh : Nat)
  /-- a predicate in a 3-bit field (R21, R247) -/
  | pred (sh : Nat)
  /-- a number, or one of the names -/
  | num (sh bits : Nat) (names : List (String × Nat))
  /-- one of the names -/
  | name (sh : Nat) (names : List (String × Nat))
  /-- a CSR (R24) -/
  | csr
  /-- a branch target (R26) -/
  | label
  /-- the body length of LOOPS (R26) -/
  | length
  deriving DecidableEq, Repr

/-- A mnemonic with its suffix: the fixed bits of the first word, and its operands in the order they are written. -/
structure Form where
  name : String
  base : Nat
  ops : List Place
  deriving DecidableEq, Repr

/-- Majors in sequence, all with the same operands. -/
def majors (first : Nat) (ops : List Place) (names : List String) : List Form :=
  names.zipIdx.map (fun n => ⟨n.1, (first + n.2) * 2 ^ 24, ops⟩)

/-- R22, R21, R85: a major with a suffix whose code stands at bit `sh`. -/
def suffixes (major sh : Nat) (ops : List Place) (name : String) (tab : List (String × Nat)) : List Form :=
  tab.map (fun n => ⟨name ++ "." ++ n.1, major * 2 ^ 24 + n.2 * 2 ^ sh, ops⟩)

/-- Operand in X. -/
def pX : Place := .op 16
/-- Operand in Y. -/
def pY : Place := .op 8
/-- Operand in Z. -/
def pZ : Place := .op 0

/-- R29, R31, R33: the mnemonics of the scalar and control majors. -/
def formsBase : List Form :=
  majors 0x00 [] ["nop"] ++ majors 0x01 [pX, pY] ["mov"] ++
  majors 0x02 [pX, pY, pZ] ["sadd", "ssub", "smul", "smulh", "smulhu", "sand", "sor", "sxor", "sshl", "sshr", "ssar", "smin",
    "smax", "sminu", "smaxu"] ++
  suffixes 0x11 0 [pX, pY] "sun" (numbered ["not", "neg", "abs", "clz", "ctz", "popc", "brev", "bswap", "sext8", "sext16",
    "zext8", "zext16"]) ++
  majors 0x12 [pX, pY, pZ] ["sbfx", "sbfi"] ++ suffixes 0x14 19 [.pred 16, pY, pZ] "scmp" condNames ++
  majors 0x15 [pX, pY, pZ] ["ssel", "dadd", "dsub", "dshl", "dshr"] ++ majors 0x1A [pX, pY] ["amov"] ++
  majors 0x1B [pX, pY, pZ] ["aadd", "ascl", "ashl", "aexp"] ++
  majors 0x1F [pX, pY, .num 0 8 (numbered ["base", "stride"])] ["aget"] ++
  majors 0x20 [pX, pY, pZ] ["pand", "por", "pxor"] ++
  suffixes 0x23 0 [pX, pY] "pun" (numbered ["not", "first", "last", "set", "get", "cnt"]) ++
  majors 0x24 [pX, pY] ["pmov"] ++ majors 0x25 [pX, .num 0 16 []] ["setm"] ++ majors 0x26 [pX] ["getm"] ++
  majors 0x28 [.label] ["br"] ++ suffixes 0x29 0 [pX, .label] "brc" (numbered ["any", "all", "none", "nall"]) ++
  majors 0x2A [pX, .label, .label] ["bsplit"] ++ majors 0x2B [] ["sjoin"] ++ majors 0x2C [pX] ["brt"] ++
  majors 0x2D [.label] ["call"] ++ majors 0x2E [pX] ["callt"] ++ majors 0x2F [] ["ret"] ++
  majors 0x30 [pX, .length] ["loops"] ++ majors 0x31 [] ["exit", "yield"] ++
  suffixes 0x33 0 [pX] "sinfo" (numbered ["lanes", "exec", "count", "id", "depth", "ovf"]) ++
  suffixes 0x34 0 [pX, .num 8 8 []] "live" (numbered ["dead", "fetch"]) ++ majors 0x35 [pX, .num 0 8 []] ["trap"] ++
  majors 0x36 [pX] ["sysc"] ++ majors 0x37 [] ["rft"] ++ majors 0x38 [pX, .csr] ["csrr"] ++ majors 0x39 [.csr, pX] ["csrw"] ++
  majors 0x3A [.num 0 8 []] ["bkpt"] ++ majors 0x3B [pX, .name 8 [("zero", 0xF8), ("one", 0xFB)]] ["time"]

/-- R29, R31, R33: the mnemonics of the vector, lane and memory majors. -/
def formsVector : List Form :=
  majors 0x40 [pX, pY, pZ] ["vadd", "vsub", "vmul", "vmulh", "vfma", "vfms", "vmin", "vmax", "vand", "vor", "vxor", "vshl",
    "vshr"] ++
  suffixes 0x4D 19 [.pred 16, pY, pZ] "vcmp" condNames ++ majors 0x4E [pX, pY, pZ] ["vsel"] ++
  suffixes 0x4F 0 [pX, pY] "vun" (numbered ["neg", "abs", "not", "rcp", "rsqrt", "sqrt", "exp2", "log2", "floor", "ceil",
    "trunc", "rint", "clz", "popc"]) ++
  majors 0x50 [pX, pY, pZ] ["vbfx", "vbfi", "vdot2", "vscl"] ++ majors 0x54 [pX, pY, .num 0 8 fmtNames] ["cvt"] ++
  majors 0x55 [pX, pY, pZ] ["qnt", "dqnt", "pack"] ++ majors 0x58 [pX, pY, .num 0 8 []] ["unpk"] ++
  majors 0x59 [pX, pY, .num 0 8 fmtNames] ["tag"] ++ majors 0x5A [pX, pY] ["ballot"] ++
  majors 0x5B [pX, pY, pZ] ["xchg", "shuf", "bcast"] ++
  majors 0x5E [pX, pY, .num 0 8 (numbered ["add", "min", "max", "and", "or", "xor"])] ["scan", "vred"] ++
  majors 0x60 [pX, pY, pZ] ["ld", "st", "lds", "sts", "rld", "rst"] ++ majors 0x66 [pX, pY, .num 0 8 []] ["rset"] ++
  majors 0x67 [.num 16 8 (numbered ["l1", "l2", "cellar"]), pY, pZ] ["pref"] ++
  suffixes 0x68 0 [pX, pY] "cache" (numbered ["icinv", "wb", "inv", "wbinv", "zero"])

/-- R29, R31, R33: the mnemonics of the atomic, ordering, team, task, crew, matrix and copy majors. -/
def formsSync : List Form :=
  majors 0x69 [pX, pY, pZ] ["atadd", "atmin", "atmax", "atand", "ator", "atxor", "atxch", "atcas", "atbinc"] ++
  suffixes 0x72 16 [.num 8 8 scopeNames] "fence" [("acq", 1), ("rel", 2), ("ar", 3)] ++ majors 0x73 [pX, pY, pZ] ["waitc"] ++
  majors 0x74 [.num 16 8 []] ["bar"] ++ majors 0x75 [pX, pY, pZ] ["spawn", "spawnl"] ++
  majors 0x77 [.pred 16, pY, pZ] ["join"] ++ suffixes 0x77 16 [.pred 16, pY, pZ] "join" [("t", 8)] ++
  suffixes 0x78 0 [pY] "fut" [("init", 0), ("cancel", 5)] ++
  suffixes 0x78 0 [pX, pY] "fut" [("pub", 1), ("sig", 2), ("set", 3), ("fail", 4), ("peek", 6)] ++
  suffixes 0x79 0 [pX, pY] "team" [("fork", 0), ("enter", 1), ("rank", 3), ("size", 4)] ++
  suffixes 0x79 0 [pY] "team" [("leave", 2)] ++ suffixes 0x7A 0 [pX, pY] "rsv" (numbered ["take", "commit"]) ++
  suffixes 0x7B 0 [pX, pY] "crew" [("fork", 0), ("cancel", 3), ("init", 4), ("peek", 5)] ++
  suffixes 0x7B 0 [pX] "crew" [("report", 1), ("await", 2)] ++ majors 0x7C [.name 16 handleNames, pY] ["mcfg", "mloop"] ++
  suffixes 0x7E 0 [.name 16 handleNames, pY] "mop" (numbered ["drain", "drainn", "fdrain"]) ++
  suffixes 0x7E 0 [.name 16 handleNames] "mop" [("zero", 3)] ++ suffixes 0x7E 0 [pX, pY] "mop" [("rdrow", 4), ("wrrow", 5)] ++
  suffixes 0x7E 0 [pX, .num 8 8 (handleNames ++ [("all", 8)])] "mop" [("wait", 6)] ++
  suffixes 0x7E 0 [pX, .name 8 handleNames] "mop" [("check", 7)] ++ majors 0x7F [pX, pY, pZ] ["copy"]

/-- The form a mnemonic names. -/
def formOf (t : Text) : Option Form :=
  (formsBase ++ formsVector ++ formsSync).find? (fun f => f.name.toList == lower t)

/-! ## Lines -/

/-- R32: one statement: a label, a mnemonic or directive, its operands, and the stroke mark. -/
structure Stmt where
  label : Option Text
  op : Text
  args : List Text
  bang : Bool
  deriving DecidableEq, Repr

/-- R32: a comment runs from `//` or `;` to the end of the line. -/
def uncomment : Text → Text
  | '/' :: '/' :: _ => []
  | ';' :: _ => []
  | c :: cs => c :: uncomment cs
  | [] => []

/-- A list of texts, cut at the commas. -/
def commas (t : Text) : List Text :=
  (t.foldr (fun c acc =>
    match acc with
    | a :: as => if c == ',' then [] :: a :: as else (c :: a) :: as
    | [] => []) [[]]).map trimText

/-- R32: what stands behind the label. -/
def bodyOf (label : Option Text) (t : Text) : Asm Stmt :=
  let bang := t.getLast? == some '!'
  let t := if bang then trimText t.dropLast else t
  let op := t.takeWhile (fun c => !c.isWhitespace)
  let rest := trimText (t.dropWhile (fun c => !c.isWhitespace))
  let args := if rest.isEmpty then [] else commas rest
  if t.contains ':' || args.any List.isEmpty || (bang && (op.isEmpty || op.head? == some '.')) then .error .badLine
  else .ok ⟨label, op, args, bang⟩

/-- R32: the statement of a line. -/
def lineOf (line : String) : Asm Stmt :=
  let t := trimText (uncomment line.toList)
  let (l, r) := (t.takeWhile (· != ':'), t.dropWhile (· != ':'))
  match r with
  | _ :: body => if isName (trimText l) then bodyOf (some (trimText l)) (trimText body) else .error .badLine
  | [] => bodyOf none t

end Sys2Proof.Machine
end

