-- ==== Sys2Proof/Machine/Assembler.lean ====
section
/-!
DEFINITION. The assembler (R32 to R37): statements into the words of the code section and the bytes of the data section, the
directives, the function descriptors, the errors of R36 and the window check of R35. It runs before a loader places an
object; no step of the machine uses it.
-/

namespace Sys2Proof.Machine

open Sys2Proof

/-! ## The registers an instruction reads and writes, as the window check counts them -/

/-- R35: the values of the state that sizes an operand (MODE.FMT and a record's LW) under which the instruction traps neither
REGALIGN nor REGRANGE. -/
def Instr.sizings (i : Instr) (vregs : Nat) : List (Fmt × Nat) :=
  (((List.range 10).filterMap Fmt.ofCode).flatMap (fun f => [0, 1, 2].map (fun lw => (f, lw)))).filter (fun p =>
    i.slots.all (fun sl => let k := widthCount sl.width p.1 p.2; slotAligned sl k && slotInRange sl k vregs))

/-- R35: the largest group the operand can begin. R35 does not name LDS and STS, whose X is counted as one register (DEDUCED:
the programs of spec 11 and 14 load neighbouring scalars in one window). -/
def Instr.largest (i : Instr) (vregs : Nat) (sl : OSlot) : Nat :=
  if sl.width == .lwS then 1
  else ((Instr.sizings i vregs).map (fun p => widthCount sl.width p.1 p.2)).foldl max 1

/-- R15: the codes of the registers an operand of `k` registers covers; MODE is code 256. p0 reads as a constant and a write
to it is discarded, so the check does not count it. -/
def Opnd.covers (o : Opnd) (k : Nat) : List Nat :=
  match o with
  | .v _ | .s _ | .a _ => (List.range k).map (fun j => o.code.toNat + j)
  | .p n => if n = 0 then [] else [o.code.toNat]
  | .q _ => [o.code.toNat]
  | _ => []

/-- MODE, in the window check. -/
def modeCode : Nat := 256
/-- R66: what a use of the execute mask reads. -/
def maskCodes : List Nat := modeCode :: (List.range 7).map (fun j => 0xE1 + j)

/-- Positions that read what they name. -/
def clsReads : Cls → Bool
  | .vd | .vsd | .sd | .d64 | .d4 | .ad | .pd | .qd => false
  | _ => true

/-- Positions that write what they name. QNT writes back a scalar Z, never a vector one (R117). -/
def slotWrites (sl : OSlot) : Bool :=
  match sl.cls, sl.o with
  | .pd, _ | .qd, _ => true
  | .vzw, .v _ => false
  | c, _ => clsWrites c

/-- Is the operand a vector register? -/
def isVector : Opnd → Bool
  | .v _ => true
  | _ => false

/-- R103, R138, R139: is the offset a vector or affine one? -/
def perLane : Opnd → Bool
  | .v _ | .a _ => true
  | _ => false

/-- R67: is the source of a MOV one that only a vector position takes? -/
def onlyVector : Opnd → Bool
  | .v _ | .a _ | .lane | .quad | .fone => true
  | _ => false

/-- R55, R62, R103, R214, R215: the instructions that use the execute mask. -/
def Instr.usesMask (i : Instr) : Bool :=
  match i with
  | .mov _ (.s _) _ => false
  | .mov _ .zero y => onlyVector y
  | .csrr _ _ n => n == 0x0400
  | .mov .. | .bsplit .. | .exit | .sinfoExec .. | .srSeedWrite .. | .ld .. | .st .. | .spawnl .. | .crewFork .. | .mloop ..
  | .mopRdrow .. | .mopWrrow .. => true
  | .brt x _ | .callt x _ => isVector x
  | .pref _ _ _ z => perLane z
  | .cacheIcinv _ x _ | .cacheWb _ x _ | .cacheInv _ x _ | .cacheWbinv _ x _ | .cacheZero _ x _ => perLane x
  | i => (i.head.map (fun w =>
      let m := w.toNat / 2 ^ 24 % 128
      (0x40 ≤ m && m ≤ 0x5F) || (0x69 ≤ m && m ≤ 0x71))).getD false

/-- R66, R79, R81, R223, R224, R295: the instructions that use MODE and not the execute mask. -/
def Instr.usesMode : Instr → Bool
  | .setm .. | .getm .. | .spawn .. | .waitc .. | .mopDrainn .. | .copy .. => true
  | _ => false

/-- R35, R66, R224: every register an instruction reads. -/
def Instr.readCodes (i : Instr) (vregs : Nat) : List Nat :=
  i.slots.flatMap (fun sl => if clsReads sl.cls then Opnd.covers sl.o (Instr.largest i vregs sl) else []) ++
  (if Instr.usesMask i then maskCodes else if Instr.usesMode i then [modeCode] else []) ++
  (match i with
   | .sysc _ => (List.range 8).map (fun j => 0x80 + j)
   | .atbinc .. => [0xE7]
   | .crewAwait (.s n) => [0x80 + n.val + 1]
   | _ => [])

/-- R35, R66, R224: every register an instruction writes. ATCAS writes the old value over the half of its group that held the
value to compare. -/
def Instr.writeCodes (i : Instr) (vregs : Nat) : List Nat :=
  i.slots.flatMap (fun sl =>
    if slotWrites sl then
      let k := Instr.largest i vregs sl
      Opnd.covers sl.o (if sl.width == .lwC then k / 2 else k)
    else []) ++
  (match i with
   | .setm .. => [modeCode]
   | .scmp _ _ pd _ _ | .vcmp _ _ pd _ _ | .join pd _ _ | .joinT pd _ _ => Opnd.covers (.p pd) 1
   | .sysc _ => [0x80, 0x81]
   | .atbinc .. => [0xE7]
   | .liveDead _ b n | .liveFetch _ b n => Opnd.covers (.v b) n.toNat
   | _ => [])

/-! ## One instruction -/

/-- A word of the code: known; the offset of a label from a first word (R26), the label read in function `fn`; or word `k` of
the descriptor of function `fn` (R37). -/
inductive Cell where
  | word (w : Word)
  | target (fn : Nat) (label : Text) (from_ : Nat)
  | desc (fn k : Nat)
  deriving DecidableEq, Repr

/-- The words of one instruction while its operands are read: the first word, the literal, the other extension words. -/
structure Draft where
  first : Nat
  lit : List Word
  ext : List Cell
  deriving DecidableEq, Repr

/-- R33: one operand into its place. -/
def placeOf (eq : Equs) (fn at_ : Nat) (p : Place) (t : Text) (d : Draft) : Asm Draft :=
  let put := fun (v sh : Nat) => { d with first := d.first + v * 2 ^ sh }
  match p with
  | .op sh => do
    let o ← operandOf eq t
    match o with
    | .lit w => if d.lit.isEmpty then .ok { put 0xFF sh with lit := [w] } else .error .twoLiterals
    | o => .ok (put o.code.toNat sh)
  | .pred sh =>
    match registerOf t with
    | some (.p n) => .ok (put n.val sh)
    | _ => .error .operand
  | .num sh bits names =>
    match nameIn names t with
    | some v => .ok (put v sh)
    | none => do
      let v ← countOf eq 0 (2 ^ bits - 1) t
      .ok (put v sh)
  | .name sh names => do
    let v ← orElse (nameIn names t) .operand
    .ok (put v sh)
  | .csr =>
    match nameIn csrNames t, t with
    | some v, _ => .ok (put v 0)
    | none, '#' :: _ => do
      let v ← countOf eq 0 0xFFFF t
      .ok (put v 0)
    | none, _ => .error .operand
  | .label => if isName t then .ok { d with ext := d.ext ++ [.target fn t at_] } else .error .operand
  | .length => do
    let n ← countOf eq 1 64 t
    .ok { d with ext := d.ext ++ [.word (BitVec.ofNat 32 n)] }

/-- The operands of a statement into their places, as many as the form takes (R32). -/
def placesOf (eq : Equs) (fn at_ : Nat) : List Place → List Text → Draft → Asm Draft
  | [], [], d => .ok d
  | p :: ps, t :: ts, d => do
    let d ← placeOf eq fn at_ p t d
    placesOf eq fn at_ ps ts d
  | _, _, _ => .error .operand

/-- R80: the value and the mask of SETM from its keywords. -/
def keywordsOf : List Text → List Text → Nat → Nat → Asm (Nat × Nat)
  | [], _, v, m => .ok (v, m)
  | t :: ts, seen, v, m => do
    let k := trimText (t.takeWhile (· != '='))
    let e ← orElse (nameIn setmNames k) .keyword
    if seen.contains (lower k) then .error .keyword
    else do
      let x ← orElse (nameIn e.2.2 (trimText ((t.dropWhile (· != '=')).drop 1))) .keyword
      keywordsOf ts (lower k :: seen) (v + x * 2 ^ e.1) (m + 2 ^ e.2.1)

/-- The draft of a statement that is an instruction. -/
def draftOf (eq : Equs) (fn at_ : Nat) (s : Stmt) : Asm Draft := do
  let f ← orElse (formOf s.op) .unknownName
  if f.name == "setm" && s.args.any (·.contains '=') then do
    let (v, m) ← keywordsOf s.args [] 0 0
    .ok ⟨f.base + 0xFF * 2 ^ 16 + m, [BitVec.ofNat 32 v], []⟩
  else placesOf eq fn at_ f.ops s.args ⟨f.base, [], []⟩

/-- What a decode check that fails says of the source (R30, R36). -/
def rejectError : Reject → AsmError
  | .twoLiterals => .twoLiterals
  | _ => .operand

/-- R30, R36: the checks of a word that its function decides. -/
def wordError (vregs : Nat) (ws : List Word) : Option AsmError :=
  match decode ws with
  | .error r => some (rejectError r)
  | .ok (i, _) =>
    if !i.accepted then some .operand
    else if (Instr.sizings i 128).isEmpty then some .regalign
    else if (Instr.sizings i vregs).isEmpty || vregs < liveRange i then some .regrange
    else none

/-- R32, R14: the cells of an instruction at offset `at_` of the code, its stroke bit set where it is written or required. The
table of a BRT or CALLT follows later, so its place is taken by a table of one target. -/
def cellsOf (eq : Equs) (fn vregs at_ : Nat) (s : Stmt) : Asm (List Cell) := do
  let d ← draftOf eq fn at_ s
  let ext := d.lit ++ d.ext.map (fun c => match c with | .word w => w | _ => 0)
  let table : List Word := if lower s.op == "brt".toList || lower s.op == "callt".toList then [1, 0] else []
  let words := fun (sb : Nat) => BitVec.ofNat 32 (d.first + sb * 2 ^ 31) :: (ext ++ table)
  let sb := if s.bang || (match decode (words 0) with | .error .strokeClear => true | _ => false) then 1 else 0
  match wordError vregs (words sb) with
  | some e => .error e
  | none => .ok (.word (BitVec.ofNat 32 (d.first + sb * 2 ^ 31)) :: (d.lit.map Cell.word ++ d.ext))

/-! ## Statements -/

/-- A place a label names: an offset in the data section or in the code. -/
structure Spot where
  inData : Bool
  at_ : Nat
  deriving DecidableEq, Repr

/-- A function while it is read: the entry and the end of its code, what its directives declare, the places where `.hazard`
turns the check off (true) or on, its labels, and the labels that a transfer or `.targets` names. -/
structure AsmFunc where
  name : Text
  entry : Nat
  stop : Nat
  vregs : Option Nat
  team : Option Nat
  tiles : List (Nat × Nat)
  marks : List (Nat × Bool)
  labels : List (Text × Spot)
  named : List Text
  started : Bool
  deriving DecidableEq, Repr

/-- The assembler between two lines. `pending` is the offset of a BRT or CALLT whose `.targets` has not come. -/
structure AsmState where
  code : List Cell
  data : List Byte
  inData : Bool
  cur : Option AsmFunc
  funcs : List AsmFunc
  globals : List (Text × Spot)
  equs : Equs
  pending : Option Nat
  deriving DecidableEq, Repr

/-- Before the first line. -/
def AsmState.start : AsmState := ⟨[], [], false, none, [], [], [], none⟩

/-- The location in the current section. -/
def AsmState.loc (a : AsmState) : Nat := if a.inData then a.data.length else 4 * a.code.length

/-- Words into the code. -/
def AsmState.emit (a : AsmState) (cs : List Cell) : AsmState := { a with code := a.code ++ cs }

/-- R34: pads the current section to a multiple of `n` bytes. -/
def AsmState.pad (a : AsmState) (n : Nat) : AsmState :=
  let k := (n - a.loc % n) % n
  if a.inData then { a with data := a.data ++ List.replicate k 0 } else a.emit (List.replicate (k / 4) (.word 0))

/-- R32: a label names the current location, in its function or in the source file. Before `.align` or `.func` that is the location
before the padding or the descriptor, which is the model's choice (notes/assumptions/47.md). -/
def AsmState.define (a : AsmState) (l : Text) : Asm AsmState :=
  let spot : Spot := ⟨a.inData, a.loc⟩
  match a.cur with
  | some f =>
    if f.labels.any (fun e => e.1 == l) then .error .duplicate
    else .ok { a with cur := some { f with labels := f.labels ++ [(l, spot)] } }
  | none => if a.globals.any (fun e => e.1 == l) then .error .duplicate else .ok { a with globals := a.globals ++ [(l, spot)] }

/-- A directive that belongs in a function. -/
def AsmState.inFunc (a : AsmState) (k : AsmFunc → Asm AsmFunc) : Asm AsmState :=
  match a.cur with
  | none => .error .directive
  | some f => do
    let f ← k f
    .ok { a with cur := some f }

/-- One argument. -/
def oneArg (ts : List Text) : Asm Text :=
  match ts with
  | [t] => .ok t
  | _ => .error .operand

/-- The labels a list of cells names. -/
def namedIn (cs : List Cell) : List Text := cs.filterMap (fun c => match c with | .target _ l _ => some l | _ => none)

/-- R34: values of `n` bits, low byte first, into the current section. -/
def AsmState.values (a : AsmState) (n : Nat) (ts : List Text) : Asm AsmState := do
  if ts.isEmpty then .error .operand
  else do
    let vs ← ts.mapM (fun t => do
      let v ← plainOf a.equs t
      inBits n v)
    if a.inData then .ok { a with data := a.data ++ vs.flatMap (fun v => (List.range (n / 8)).map (fun j => v.extractLsb' (8 * j) 8)) }
    else .ok (a.emit (vs.flatMap (fun v => (List.range (n / 32)).map (fun j => .word (v.extractLsb' (32 * j) 32)))))

/-- R34: one directive. -/
def AsmState.directive (a : AsmState) (op : Text) (ts : List Text) : Asm AsmState :=
  let is := fun (s : String) => op == s.toList
  if is ".func" then do
    let n ← oneArg ts
    if a.cur.isSome || a.inData then .error .directive
    else if !isName n then .error .operand
    else do
      let a := a.pad 64
      let k := a.funcs.length
      let a := a.emit ((List.range 16).map (fun j => .desc k j))
      let a ← a.define n
      .ok { a with cur := some ⟨n, a.loc, 0, none, none, [], [], [], [], false⟩ }
  else if is ".vregs" then a.inFunc fun f => do
    let t ← oneArg ts
    let n ← countOf a.equs 8 128 t
    if n % 8 != 0 then .error .range
    else if f.vregs.isSome || f.started then .error .directive
    else .ok { f with vregs := some n }
  else if is ".team" then a.inFunc fun f => do
    let t ← oneArg ts
    let n ← countOf a.equs 1 16 t
    if f.team.isSome then .error .directive else .ok { f with team := some n }
  else if is ".tile" then a.inFunc fun f =>
    match ts with
    | [k, q] => do
      let k ← countOf a.equs 0 3 k
      match registerOf q with
      | some (.q n) => if f.tiles.any (fun e => e.1 == k) then .error .directive else .ok { f with tiles := f.tiles ++ [(k, n.val)] }
      | _ => .error .operand
    | _ => .error .operand
  else if is ".hazard" then a.inFunc fun f => do
    let t ← oneArg ts
    let m ← orElse (nameIn [("allow", true), ("check", false)] t) .operand
    .ok { f with marks := f.marks ++ [(4 * a.code.length, m)] }
  else if is ".targets" then
    match a.pending, a.cur with
    | some at_, some f =>
      if ts.isEmpty || 256 < ts.length || !ts.all isName then .error .operand
      else
        let cells := ts.map (fun t => Cell.target a.funcs.length t at_)
        .ok { a.emit (.word (BitVec.ofNat 32 ts.length) :: cells) with
                pending := none, cur := some { f with named := f.named ++ ts } }
    | _, _ => .error .directive
  else if is ".data" then if ts.isEmpty then .ok { a with inData := true } else .error .operand
  else if is ".text" then if ts.isEmpty then .ok { a with inData := false } else .error .operand
  else if is ".align" then do
    let t ← oneArg ts
    let n ← countOf a.equs 4 4096 t
    if (List.range 11).any (fun k => n == 4 * 2 ^ k) then .ok (a.pad n) else .error .range
  else if is ".word" then a.values 32 ts
  else if is ".dword" then a.values 64 ts
  else if is ".byte" then if a.inData then a.values 8 ts else .error .directive
  else if is ".space" then do
    let t ← oneArg ts
    let n ← countOf a.equs 0 (2 ^ 32) t
    if a.inData then .ok { a with data := a.data ++ List.replicate n 0 } else .error .directive
  else if is ".equ" then
    match ts with
    | [n, v] => do
      let v ← plainOf a.equs v
      if !isName n then .error .operand
      else if a.equs.any (fun e => e.1 == n) then .error .duplicate
      else .ok { a with equs := a.equs ++ [(n, v)] }
    | _ => .error .operand
  else if is ".endfunc" then
    match a.cur with
    | none => .error .directive
    | some f =>
      if f.vregs.isNone then .error .noVregs
      else if !ts.isEmpty then .error .operand
      else .ok { a with cur := none, funcs := a.funcs ++ [{ f with stop := 4 * a.code.length }] }
  else .error .unknownName

/-- R32: one instruction, in the code of a function. -/
def AsmState.instruction (a : AsmState) (s : Stmt) : Asm AsmState :=
  match a.cur with
  | none => .error .noVregs
  | some f =>
    if a.inData then .error .directive
    else
      match f.vregs with
      | none => .error .noVregs
      | some n => do
        let cells ← cellsOf a.equs a.funcs.length n a.loc s
        let table := lower s.op == "brt".toList || lower s.op == "callt".toList
        .ok { a.emit cells with
                pending := if table then some a.loc else none
                cur := some { f with started := true, named := f.named ++ namedIn cells } }

/-- One line. A BRT or CALLT is followed by its `.targets` at once (R33, R34). That blank and comment lines may stand between the two,
and no label on the line of the `.targets`, is the model's choice (notes/assumptions/47.md). -/
def AsmState.statement (a : AsmState) (s : Stmt) : Asm AsmState :=
  let op := lower s.op
  if s.label.isNone && op.isEmpty then .ok a
  else if a.pending.isSome && (op != ".targets".toList || s.label.isSome) then .error .targets
  else do
    let a ← match s.label with
      | some l => a.define l
      | none => .ok a
    match op with
    | [] => .ok a
    | '.' :: _ => a.directive op s.args
    | _ => a.instruction s

/-! ## Labels, descriptors and windows -/

/-- R32: the place a label names within a function. -/
def AsmState.spot (a : AsmState) (fn : Nat) (l : Text) : Option Spot :=
  let local_ := (a.funcs[fn]?).bind (fun f => (f.labels.find? (fun e => e.1 == l)).map (·.2))
  match local_ with
  | some s => some s
  | none => (a.globals.find? (fun e => e.1 == l)).map (·.2)

/-- Does the window that begins at `at_` run under `.hazard allow`? -/
def AsmFunc.allows (f : AsmFunc) (at_ : Nat) : Bool :=
  ((f.marks.filter (fun m => m.1 ≤ at_)).getLast?.map (·.2)).getD false

/-- R35: the instruction at the head of the words, as the hardware runs it: its length, whether it ends the window, the
registers it reads and writes. A word that traps INVOP takes one position, accesses nothing and ends nothing. -/
def windowWord (vregs : Nat) (ws : List Word) : Nat × Bool × List Nat × List Nat :=
  match decode ws with
  | .ok (i, _) =>
    if i.accepted && !alwaysInvop i then (i.len, i.strokeBit, Instr.readCodes i vregs, Instr.writeCodes i vregs) else (1, false, [], [])
  | .error _ => (1, false, [], [])

/-- R35: from offset `at_`, `n` positions at most: whether the window holds a hazard, and where the next one begins. -/
def window (vregs stop : Nat) : Nat → Nat → List Word → List Nat → Bool × Option Nat
  | 0, at_, _, _ => (false, if stop ≤ at_ then none else some at_)
  | n + 1, at_, ws, written =>
    if stop ≤ at_ then (false, none)
    else
      let (len, last, rs, wr) := windowWord vregs ws
      let bad := (rs ++ wr).any written.contains
      let next := at_ + 4 * len
      if last then (bad, if stop ≤ next then none else some next)
      else
        let r := window vregs stop n next (ws.drop len) (wr ++ written)
        (bad || r.1, r.2)

/-- R35: every window start, with whether its window holds a hazard. -/
def windows (vregs stop : Nat) (code : List Word) : Nat → List Nat → List (Nat × Bool) → List (Nat × Bool)
  | 0, _, done => done
  | _ + 1, [], done => done
  | n + 1, at_ :: todo, done =>
    if done.any (fun d => d.1 == at_) then windows vregs stop code n todo done
    else
      let (bad, next) := window vregs stop 64 at_ (code.drop (at_ / 4)) []
      windows vregs stop code n (next.toList ++ todo) (done ++ [(at_, bad)])

/-- The windows of a function: from its entry and from the labels named in it or from elsewhere that lie in it. -/
def AsmState.windowsOf (a : AsmState) (code : List Word) (fn : Nat) (f : AsmFunc) : List (Nat × Bool) :=
  let starts := f.entry :: (a.funcs.zipIdx.flatMap (fun g => g.1.named.filterMap (fun l => a.spot g.2 l))).filterMap (fun s =>
    if !s.inData && f.entry ≤ s.at_ && s.at_ < f.stop then some s.at_ else none)
  windows (((a.funcs[fn]?).bind (·.vregs)).getD 8) f.stop code (2 * (code.length + starts.length) + 2) starts []

/-- R37: word `k` of the descriptor of a function. -/
def descWord (f : AsmFunc) (allowed : Bool) (k : Nat) : Word :=
  if k = 0 then 0x4B4C4631
  else if k = 1 then BitVec.ofNat 32 (f.vregs.getD 0 + f.team.getD 0 * 2 ^ 8 + (if allowed then 2 ^ 16 else 0))
  else if k = 2 then BitVec.ofNat 32 ((List.range 4).map (fun j =>
    (((f.tiles.find? (fun e => e.1 == j)).map (·.2)).getD 0xFF) * 2 ^ (8 * j))).sum
  else if k = 3 then BitVec.ofNat 32 (f.stop - f.entry)
  else if k < 6 then 0
  else BitVec.ofNat 32 ((List.range 4).map (fun j => ((f.name[4 * (k - 6) + j]?).map Char.toNat).getD 0 * 2 ^ (8 * j))).sum

/-- The word of a cell; the words of the descriptors come last, so `allowed` says of each function whether it holds a window
under `.hazard allow`. -/
def AsmState.resolve (a : AsmState) (allowed : List Bool) (c : Cell) : Asm Word :=
  match c with
  | .word w => .ok w
  | .desc fn k =>
    match a.funcs[fn]? with
    | some f => .ok (descWord f (allowed[fn]?.getD false) k)
    | none => .error .directive
  | .target fn l at_ =>
    match a.spot fn l with
    | some s => if s.inData then .error .undefinedLabel else inBits 32 ((s.at_ : Int) - at_)
    | none => .error .undefinedLabel

/-- What the assembler emits: the code and the data section, and the entry of every function by name. -/
structure Object where
  code : List Word
  data : List Byte
  entries : List (Text × Nat)
  deriving DecidableEq, Repr

/-- R32, R35, R37: the object, once every line has been read. -/
def AsmState.finish (a : AsmState) : Asm Object :=
  if a.pending.isSome then .error .targets
  else if a.cur.isSome then .error .directive
  else if a.funcs.any (fun f => f.labels.any (fun l => a.globals.any (fun g => g.1 == l.1))) then .error .duplicate
  else do
    let plain ← a.code.mapM (a.resolve [])
    let runs := a.funcs.zipIdx.map (fun f => (f.1, a.windowsOf plain f.2 f.1))
    if runs.any (fun r => r.2.any (fun w => w.2 && !r.1.allows w.1)) then .error .hazard
    else do
      let code ← a.code.mapM (a.resolve (runs.map (fun r => r.2.any (fun w => r.1.allows w.1))))
      .ok ⟨code, a.data, a.funcs.map (fun f => (f.name, f.entry))⟩

/-- R32 to R37: the object of a source file, given as its lines. -/
def assemble (lines : List String) : Asm Object := do
  let a ← lines.foldlM (fun a l => do
    let s ← lineOf l
    AsmState.statement a s) AsmState.start
  a.finish

end Sys2Proof.Machine
end

