-- ==== Sys2Proof/Tests/Slice0.lean ====
section
/-!
SUPPORT. Tests. Words written out from the encodings of spec 01 to 13 decode to the instructions they stand for; ill-formed
terms are refused; for every obligation with hypotheses a state and operands meet them; single steps of the spec's worked
examples.
-/

namespace Sys2Proof.Tests

open Sys2Proof Sys2Proof.Machine

set_option Elab.async false

theorem test_decode_scalar : ([(32, 0x80000000, .nop true),
    (32, 0x8109F900, .mov true (.v 9) .lane),
    (32, 0x82BF81FA, .sadd true (.s 63) (.s 1) .ones),
    (32, 0x83BF81FA, .ssub true (.s 63) (.s 1) .ones),
    (32, 0x84BF81FA, .smul true (.s 63) (.s 1) .ones),
    (32, 0x85BF81FA, .smulh true (.s 63) (.s 1) .ones),
    (32, 0x86BF81FA, .smulhu true (.s 63) (.s 1) .ones),
    (32, 0x87BF81FA, .sand true (.s 63) (.s 1) .ones),
    (32, 0x88BF81FA, .sor true (.s 63) (.s 1) .ones),
    (32, 0x89BF81FA, .sxor true (.s 63) (.s 1) .ones),
    (32, 0x8ABF81FA, .sshl true (.s 63) (.s 1) .ones),
    (32, 0x8BBF81FA, .sshr true (.s 63) (.s 1) .ones),
    (32, 0x8CBF81FA, .ssar true (.s 63) (.s 1) .ones),
    (32, 0x8DBF81FA, .smin true (.s 63) (.s 1) .ones),
    (32, 0x8EBF81FA, .smax true (.s 63) (.s 1) .ones),
    (32, 0x8FBF81FA, .sminu true (.s 63) (.s 1) .ones)] : List (Nat × Nat × Instr)).all
    (fun e => decodeTableWord e.1 e.2.1 == some e.2.2 && e.2.2.accepted) = true := by decide +kernel

theorem test_decode_scalarUnary : ([(32, 0x90BF81FA, .smaxu true (.s 63) (.s 1) .ones),
    (32, 0x91BF8100, .sunNot true (.s 63) (.s 1)),
    (32, 0x91BF8101, .sunNeg true (.s 63) (.s 1)),
    (32, 0x91BF8102, .sunAbs true (.s 63) (.s 1)),
    (32, 0x91BF8103, .sunClz true (.s 63) (.s 1)),
    (32, 0x91BF8104, .sunCtz true (.s 63) (.s 1)),
    (32, 0x91BF8105, .sunPopc true (.s 63) (.s 1)),
    (32, 0x91BF8106, .sunBrev true (.s 63) (.s 1)),
    (32, 0x91BF8107, .sunBswap true (.s 63) (.s 1)),
    (32, 0x91BF8108, .sunSext8 true (.s 63) (.s 1)),
    (32, 0x91BF8109, .sunSext16 true (.s 63) (.s 1)),
    (32, 0x91BF810A, .sunZext8 true (.s 63) (.s 1)),
    (32, 0x91BF810B, .sunZext16 true (.s 63) (.s 1)),
    (32, 0x92BF81FA, .sbfx true (.s 63) (.s 1) .ones),
    (32, 0x93BF81FA, .sbfi true (.s 63) (.s 1) .ones),
    (32, 0x944D81FA, .scmp true .geu 5 (.s 1) .ones)] : List (Nat × Nat × Instr)).all
    (fun e => decodeTableWord e.1 e.2.1 == some e.2.2 && e.2.2.accepted) = true := by decide +kernel

theorem test_decode_pairAffinePredicate : ([(32, 0x95BFE781, .ssel true (.s 63) (.p 7) (.s 1)),
    (32, 0x96BE82FB, .dadd true (.s 62) (.s 2) .one),
    (32, 0x97BE82FB, .dsub true (.s 62) (.s 2) .one),
    (32, 0x98BE8283, .dshl true (.s 62) (.s 2) (.s 3)),
    (32, 0x99BE8283, .dshr true (.s 62) (.s 2) (.s 3)),
    (32, 0x9ADFC100, .amov true (.a 31) (.a 1)),
    (32, 0x9BDFC1C2, .aadd true (.a 31) (.a 1) (.a 2)),
    (32, 0x9CDFC182, .ascl true (.a 31) (.a 1) (.s 2)),
    (32, 0x9DDFC182, .ashl true (.a 31) (.a 1) (.s 2)),
    (32, 0x9EDF8285, .aexp true (.a 31) (.s 2) (.s 5)),
    (32, 0x9FBEDF01, .aget true (.s 62) (.a 31) .stride),
    (32, 0xA0E7E1FA, .pand true (.p 7) (.p 1) .ones),
    (32, 0xA1E7E1FA, .por true (.p 7) (.p 1) .ones),
    (32, 0xA2E7E1FA, .pxor true (.p 7) (.p 1) .ones),
    (32, 0xA3E7E100, .punNot true (.p 7) (.p 1)),
    (32, 0xA3E7E101, .punFirst true (.p 7) (.p 1))] : List (Nat × Nat × Instr)).all
    (fun e => decodeTableWord e.1 e.2.1 == some e.2.2 && e.2.2.accepted) = true := by decide +kernel

theorem test_decode_system : ([(32, 0xA3E7E102, .punLast true (.p 7) (.p 1)),
    (32, 0xA3E78103, .punSet true (.p 7) (.s 1)),
    (32, 0xA3BFE104, .punGet true (.s 63) (.p 1)),
    (32, 0xA3BFE105, .punCnt true (.s 63) (.p 1)),
    (32, 0xA4E7E100, .pmov true (.p 7) (.p 1)),
    (32, 0xA5BF02FF, .setm true (.s 63) 0x2FF),
    (32, 0xA6BF0000, .getm true (.s 63)),
    (32, 0xAB000000, .sjoin),
    (32, 0xAF000000, .ret),
    (32, 0xB1000000, .exit),
    (32, 0xB2000000, .yield),
    (32, 0xB3BF0000, .sinfoLanes true (.s 63)),
    (32, 0xB3BF0001, .sinfoExec true (.s 63)),
    (32, 0xB3BF0002, .sinfoCount true (.s 63)),
    (32, 0xB3BF0003, .sinfoId true (.s 63)),
    (32, 0xB3BF0004, .sinfoDepth true (.s 63))] : List (Nat × Nat × Instr)).all
    (fun e => decodeTableWord e.1 e.2.1 == some e.2.2 && e.2.2.accepted) = true := by decide +kernel

theorem test_decode_vector : ([(32, 0xB3BF0005, .sinfoOvf true (.s 63)),
    (32, 0xB4780800, .liveDead true 120 8),
    (32, 0xB4780801, .liveFetch true 120 8),
    (32, 0xB5BF00FF, .trap (.s 63) 0xFF),
    (32, 0xB6BF0000, .sysc (.s 63)),
    (32, 0xB7000000, .rft),
    (32, 0xB8BF0201, .csrr true (.s 63) 0x0201),
    (32, 0xB9BF0201, .csrw true (.s 63) 0x0201),
    (32, 0xB9BF0400, .srSeedWrite true (.s 63)),
    (32, 0xB9BF0401, .sliceClr true (.s 63)),
    (32, 0xB9BF0402, .sliceSnap true (.s 63)),
    (32, 0xB9BF0020, .cellarCarveWrite true (.s 63)),
    (32, 0xBA0000FF, .bkpt 0xFF),
    (32, 0xBBBEFB00, .time true (.s 62) 0xFB),
    (32, 0xC07F0185, .vadd true (.v 127) (.v 1) (.s 5)),
    (32, 0xC17F0185, .vsub true (.v 127) (.v 1) (.s 5))] : List (Nat × Nat × Instr)).all
    (fun e => decodeTableWord e.1 e.2.1 == some e.2.2 && e.2.2.accepted) = true := by decide +kernel

theorem test_decode_vectorUnary : ([(32, 0xC27F0185, .vmul true (.v 127) (.v 1) (.s 5)),
    (32, 0xC37F0185, .vmulh true (.v 127) (.v 1) (.s 5)),
    (32, 0xC47F0185, .vfma true (.v 127) (.v 1) (.s 5)),
    (32, 0xC57F0185, .vfms true (.v 127) (.v 1) (.s 5)),
    (32, 0xC67F0185, .vmin true (.v 127) (.v 1) (.s 5)),
    (32, 0xC77F0185, .vmax true (.v 127) (.v 1) (.s 5)),
    (32, 0xC87F0185, .vand true (.v 127) (.v 1) (.s 5)),
    (32, 0xC97F0185, .vor true (.v 127) (.v 1) (.s 5)),
    (32, 0xCA7F0185, .vxor true (.v 127) (.v 1) (.s 5)),
    (32, 0xCB7F0185, .vshl true (.v 127) (.v 1) (.s 5)),
    (32, 0xCC7F0185, .vshr true (.v 127) (.v 1) (.s 5)),
    (32, 0xCD4D0185, .vcmp true .geu 5 (.v 1) (.s 5)),
    (32, 0xCE7F01E7, .vsel true (.v 127) (.v 1) (.p 7)),
    (32, 0xCF7F0100, .vunNeg true (.v 127) (.v 1)),
    (32, 0xCF7F0101, .vunAbs true (.v 127) (.v 1)),
    (32, 0xCF7F0102, .vunNot true (.v 127) (.v 1))] : List (Nat × Nat × Instr)).all
    (fun e => decodeTableWord e.1 e.2.1 == some e.2.2 && e.2.2.accepted) = true := by decide +kernel

theorem test_decode_lanes : ([(32, 0xCF7F0103, .vunRcp true (.v 127) (.v 1)),
    (32, 0xCF7F0104, .vunRsqrt true (.v 127) (.v 1)),
    (32, 0xCF7F0105, .vunSqrt true (.v 127) (.v 1)),
    (32, 0xCF7F0106, .vunExp2 true (.v 127) (.v 1)),
    (32, 0xCF7F0107, .vunLog2 true (.v 127) (.v 1)),
    (32, 0xCF7F0108, .vunFloor true (.v 127) (.v 1)),
    (32, 0xCF7F0109, .vunCeil true (.v 127) (.v 1)),
    (32, 0xCF7F010A, .vunTrunc true (.v 127) (.v 1)),
    (32, 0xCF7F010B, .vunRint true (.v 127) (.v 1)),
    (32, 0xCF7F010C, .vunClz true (.v 127) (.v 1)),
    (32, 0xCF7F010D, .vunPopc true (.v 127) (.v 1)),
    (32, 0xD07F0185, .vbfx true (.v 127) (.v 1) (.s 5)),
    (32, 0xD17F0185, .vbfi true (.v 127) (.v 1) (.s 5)),
    (32, 0xD27F0185, .vdot2 true (.v 127) (.v 1) (.s 5)),
    (32, 0xD37F0185, .vscl true (.v 127) (.v 1) (.s 5)),
    (32, 0xD47F0106, .cvt true (.v 127) (.v 1) 6)] : List (Nat × Nat × Instr)).all
    (fun e => decodeTableWord e.1 e.2.1 == some e.2.2 && e.2.2.accepted) = true := by decide +kernel

theorem test_decode_memory : ([(32, 0xD57F0185, .qnt true (.v 127) (.v 1) (.s 5)),
    (32, 0xD67F0185, .dqnt true (.v 127) (.v 1) (.s 5)),
    (32, 0xD77F0185, .pack true (.v 127) (.v 1) (.s 5)),
    (32, 0xD87F0101, .unpk true (.v 127) (.v 1) true),
    (32, 0xD97F0109, .tag true (.v 127) (.v 1) .int4q),
    (32, 0xDABFE100, .ballot true (.s 63) (.p 1)),
    (32, 0xDB7F0185, .xchg true (.v 127) (.v 1) (.s 5)),
    (32, 0xDC7F0185, .shuf true (.v 127) (.v 1) (.s 5)),
    (32, 0xDD7F0185, .bcast true (.v 127) (.v 1) (.s 5)),
    (32, 0xDE7F0105, .scan true (.v 127) (.v 1) .xor),
    (32, 0xDFBF0105, .vred true (.s 63) (.v 1) .xor),
    (32, 0xE07FF7C5, .ld true (.v 127) (.q 15) (.a 5)),
    (32, 0xE17FF7C5, .st true (.v 127) (.q 15) (.a 5)),
    (32, 0xE2BFF7C5, .lds true (.s 63) (.q 15) (.a 5)),
    (32, 0xE3BFF7C5, .sts true (.s 63) (.q 15) (.a 5)),
    (32, 0xE4F6F785, .rld true (.q 14) (.q 15) (.s 5))] : List (Nat × Nat × Instr)).all
    (fun e => decodeTableWord e.1 e.2.1 == some e.2.2 && e.2.2.accepted) = true := by decide +kernel

theorem test_decode_atomics : ([(32, 0xE5F6F785, .rst true (.q 14) (.q 15) (.s 5)),
    (32, 0xE6F68207, .rset true (.q 14) (.s 2) .advance),
    (32, 0xE702F705, .pref true .cellar (.q 15) (.v 5)),
    (32, 0xE805F700, .cacheIcinv true (.v 5) (.q 15)),
    (32, 0xE805F701, .cacheWb true (.v 5) (.q 15)),
    (32, 0xE805F702, .cacheInv true (.v 5) (.q 15)),
    (32, 0xE805F703, .cacheWbinv true (.v 5) (.q 15)),
    (32, 0xE805F704, .cacheZero true (.v 5) (.q 15)),
    (32, 0xE97EF705, .atadd true (.v 126) (.q 15) (.v 5)),
    (32, 0xEA7EF705, .atmin true (.v 126) (.q 15) (.v 5)),
    (32, 0xEB7EF705, .atmax true (.v 126) (.q 15) (.v 5)),
    (32, 0xEC7EF705, .atand true (.v 126) (.q 15) (.v 5)),
    (32, 0xED7EF705, .ator true (.v 126) (.q 15) (.v 5)),
    (32, 0xEE7EF705, .atxor true (.v 126) (.q 15) (.v 5)),
    (32, 0xEF7EF705, .atxch true (.v 126) (.q 15) (.v 5)),
    (32, 0xF07EF705, .atcas true (.v 126) (.q 15) (.v 5))] : List (Nat × Nat × Instr)).all
    (fun e => decodeTableWord e.1 e.2.1 == some e.2.2 && e.2.2.accepted) = true := by decide +kernel

theorem test_decode_tasks : ([(32, 0xF17EF705, .atbinc true (.v 126) (.q 15) (.v 5)),
    (32, 0xF2010500, .fenceAcq true .system),
    (32, 0xF2020500, .fenceRel true .system),
    (32, 0xF2030500, .fenceAr true .system),
    (32, 0xF3BEF785, .waitc (.s 62) (.q 15) (.s 5)),
    (32, 0xF4030000, .bar 3),
    (32, 0xF5E7F785, .spawn true (.p 7) (.q 15) (.s 5)),
    (32, 0xF6E7F705, .spawnl true (.p 7) (.q 15) (.v 5)),
    (32, 0xF705BC82, .join 5 (.s 60) (.s 2)),
    (32, 0xF70DBC82, .joinT 5 (.s 60) (.s 2)),
    (32, 0xF8008200, .futInit true (.s 2)),
    (32, 0xF8BF8201, .futPub true (.s 63) (.s 2)),
    (32, 0xF8BE8202, .futSig true (.s 62) (.s 2)),
    (32, 0xF8BE8203, .futSet true (.s 62) (.s 2)),
    (32, 0xF8BC8204, .futFail true (.s 60) (.s 2)),
    (32, 0xF8008205, .futCancel true (.s 2))] : List (Nat × Nat × Instr)).all
    (fun e => decodeTableWord e.1 e.2.1 == some e.2.2 && e.2.2.accepted) = true := by decide +kernel

theorem test_decode_crewsMatrix : ([(32, 0xF8BC8206, .futPeek true (.s 60) (.s 2)),
    (32, 0xF9BFF700, .teamFork true (.s 63) (.q 15)),
    (32, 0xF9BF8101, .teamEnter true (.s 63) (.s 1)),
    (32, 0xF9008102, .teamLeave true (.s 1)),
    (32, 0xF9BF8103, .teamRank true (.s 63) (.s 1)),
    (32, 0xF9BF8104, .teamSize true (.s 63) (.s 1)),
    (32, 0xFABF8100, .rsvTake true (.s 63) (.s 1)),
    (32, 0xFABF8101, .rsvCommit true (.s 63) (.s 1)),
    (32, 0xFBBE8200, .crewFork true (.s 62) (.s 2)),
    (32, 0xFBBF0001, .crewReport true (.s 63)),
    (32, 0xFBBE0002, .crewAwait (.s 62)),
    (32, 0xFBBF8203, .crewCancel true (.s 63) (.s 2)),
    (32, 0xFBBC8204, .crewInit true (.s 60) (.s 2)),
    (32, 0xFBBC8205, .crewPeek true (.s 60) (.s 2)),
    (32, 0xFC078500, .mcfg true 7 (.s 5)),
    (32, 0xFD078500, .mloop true 7 (.s 5))] : List (Nat × Nat × Instr)).all
    (fun e => decodeTableWord e.1 e.2.1 == some e.2.2 && e.2.2.accepted) = true := by decide +kernel

theorem test_decode_rest : ([(32, 0xFE07F700, .mopDrain true 7 (.q 15)),
    (32, 0xFE07F701, .mopDrainn true 7 (.q 15)),
    (32, 0xFE07BC02, .mopFdrain true 7 (.s 60)),
    (32, 0xFE070003, .mopZero true 7),
    (32, 0xFE7C8504, .mopRdrow true (.v 124) (.s 5)),
    (32, 0xFE7C8505, .mopWrrow true (.v 124) (.s 5)),
    (32, 0xFEBF0806, .mopWait (.s 63) none),
    (32, 0xFEBC0707, .mopCheck true (.s 60) 7),
    (32, 0xFFBCF7F6, .copy true (.s 60) (.q 15) (.q 14)),
    (64, 0xFFFFFFF0A8000000, .br 0xFFFFFFF0),
    (64, 0x8AD000000, .call 8),
    (64, 0x24A9E70003, .brc (.p 7) .nall 0x24),
    (96, 0x240000001CAAE10000, .bsplit (.p 1) 0x1C 0x24),
    (128, 0xC0000000800000002AC050000, .brt (.v 5) [8, 0xC]),
    (96, 0x1000000001AEF80000, .callt .zero [0x10]),
    (64, 0x40B0850000, .loops (.s 5) 64)] : List (Nat × Nat × Instr)).all
    (fun e => decodeTableWord e.1 e.2.1 == some e.2.2 && e.2.2.accepted) = true := by decide +kernel

/-- A word list for each reason of rejection: an extension word that is missing, an unassigned major, a stroke-required word with
S = 0, an unassigned minor, a reserved field that is not zero, operand code 0xFE, two LIT operands, LIT in a branch form, and
a count out of range. -/
theorem test_decode_rejects :
    (([(.truncated, [0x028081FF]), (.truncated, []), (.unassignedMajor, [0x27000000]), (.strokeClear, [0x28000000, 8]), (.unassignedMinor, [0x1180810C]),
      (.reservedField, [0x01800101]), (.reservedCode, [0x028081FE]), (.twoLiterals, [0x0280FFFF, 0, 0]), (.branchLiteral, [0xB0FF0000, 8, 8]),
      (.badCount, [0xAC800000, 0])] : List (Reject × List Word)).all (fun p => match decode p.2 with
        | .error e => e == p.1
        | .ok _ => false)) = true := by decide +kernel

/-- An ill-formed term for each operand position of R16 (`Cls`), in the order of its constructors. -/
theorem test_illFormed_positions : ([.vadd true (.v 1) (.p 1) (.v 2), .vdot2 true (.v 1) (.q 0) (.v 2), .xchg true (.v 1) (.s 1) (.s 2),
    .vadd true (.s 1) (.v 1) (.v 2), .vfma true .ones (.v 1) (.v 2), .ballot true (.a 1) (.p 1), .vscl true (.v 1) (.v 2) (.a 1),
    .qnt true (.v 1) (.v 2) .lane, .sadd true (.s 1) (.v 1) (.s 2), .sadd true .one (.s 1) (.s 2), .sbfi true .ones (.s 1) (.s 2),
    .dadd true (.s 2) .lane (.s 4), .dadd true (.a 2) (.s 2) (.s 4), .futInit true .zero, .teamFork true .zero (.q 1),
    .crewFork true .zero (.s 2), .copy true .ones (.q 1) (.q 2), .crewPeek true .one (.s 2), .amov true (.a 1) (.s 1),
    .amov true .zero (.a 1), .aadd true (.a 1) (.a 2) (.p 1), .pand true (.p 1) .one (.p 2), .vsel true (.v 1) (.v 2) (.lit 1),
    .brc .zero .any 8, .pmov true .zero (.p 1), .ballot true (.s 1) .one, .rld true (.q 1) (.s 1) .zero, .rld true (.s 1) (.q 1) .zero,
    .shuf true (.v 1) (.v 2) (.a 1), .brt .ones [8], .loops .ones 8, .ld true (.v 1) (.q 1) .lane, .lds true (.s 1) (.q 1) (.v 1),
    .waitc .ones (.q 1) .zero, .mcfg true 0 .one, .atadd true .ones (.q 1) .zero, .rset true (.q 1) .one .clear] : List Instr).all
      (fun i => !i.wellFormed) = true := by decide +kernel

/-- An ill-formed term for each other check: two LITs (R20), each field with a meaning of its own (R26, R79, R96, R102, R116,
R227), and the CSRW words that are other rows' words. -/
theorem test_illFormed_fields : ([.sadd true (.s 1) (.lit 1) (.lit 2), .liveDead true 0 0, .liveFetch true 0 129, .liveDead true 127 2,
    .br 2, .call 1, .brc (.p 1) .all 3, .bsplit (.p 1) 2 8, .bsplit (.p 1) 8 2, .brt .zero [], .callt .zero (List.replicate 257 8),
    .brt .zero [8, 6], .loops .one 0, .loops .one 65, .time true (.s 2) 0xF9, .cvt true (.v 1) (.v 2) 0, .cvt true (.v 1) (.v 2) 8,
    .atadd true (.s 1) (.q 1) (.v 1), .csrw true (.s 1) 0x0400, .csrw true (.s 1) 0x0401, .csrw true (.s 1) 0x0402,
    .csrw true (.s 1) 0x0020] : List Instr).all (fun i => !i.wellFormed) = true := by decide +kernel

/-- At the edges the same fields are well-formed. -/
theorem test_wellFormed_edges : ([.sadd true (.s 1) (.lit 1) (.s 2), .liveDead true 0 128, .liveFetch true 127 1, .br 4,
    .brt .zero [8], .callt (.v 1) (List.replicate 256 8), .loops .zero 1, .loops .one 64, .time true .zero 0xFB,
    .cvt true (.v 1) (.v 2) 7, .atadd true .zero (.q 1) (.v 1), .csrw true (.s 1) 0x0403] : List Instr).all Instr.wellFormed = true := by
  decide +kernel

/-! ## Small states -/

/-- One undivided task of tenant 0 on core 0: lanes 0xFFFF, 128 vector registers, MODE 0x18 (FP32), one page of GLOBAL. -/
def s0 : State := State.reset.fetchBase
/-- The same under another MODE. -/
def inMode (m : Word) : State := { s0 with sp := { s0.sp with mode := m } }
/-- The same with another split. -/
def withSp (f : Split → Split) (s : State) : State := { s with sp := f s.sp }
/-- The same with another group. -/
def withG (f : Group → Group) (s : State) : State := { s with g := f s.g }
/-- A scalar register set from outside. -/
def putS (n : Nat) (x : Word) (s : State) : State :=
  if n < 16 then withSp (fun p => { p with slo := vset p.slo n x }) s else withG (fun g => { g with shi := vset g.shi (n - 16) x }) s
/-- A vector register set from outside. -/
def putV (n : Nat) (t : Tag) (f : Fin 16 → Word) (s : State) : State :=
  withG (fun g => { g with vregs := vset g.vregs n ⟨Vector.ofFn f, t, 0, 0⟩ }) s
/-- A predicate set from outside. -/
def putP (n : Nat) (x : BitVec 16) (s : State) : State := withG (fun g => { g with preds := vset g.preds n x }) s
/-- A record set from outside. -/
def putQ (n : Nat) (x : Rec) (s : State) : State := withG (fun g => { g with qregs := vset g.qregs n x }) s
/-- A second live split of the group, in entry 1, with its own lanes; the issuing split keeps the rest. -/
def divided (m : BitVec 16) (s : State) : State :=
  { s with sp := { s.sp with lanes := s.sp.lanes &&& ~~~m },
           g := { s.g with splits := [{ Split.init with sid := 1, entry := some 1, lanes := m }], nextSid := 2 } }
/-- The issuing split inside a LOOPS body. -/
def looping (s : State) : State := withSp (fun p => { p with loop := some ⟨2, p.pc, p.pc + 16, [0, 0, 0, 0]⟩ }) s
/-- The handler split of a group whose other split has trapped. -/
def handling (s : State) : State :=
  { s with sp := { s.sp with handler := true, entry := none, sid := 1 },
           g := { s.g with handler := some ⟨⟨.user, 0, 0x100000, 0, 0, 0, .none, 0xFFFF, false, 0⟩, 0, 1, []⟩,
                           splits := [{ Split.init with sid := 0, entry := some 0, lanes := 0xFFFF, stopped := true }], nextSid := 2 } }
/-- A guard predicate of zeros: a zero execute mask. -/
def masked : State := putP 1 0 (inMode 0x19)

/-! ## Hypotheses that a state meets: spec 03 -/

theorem test_meets_NopMovResults :
    (s0.ready (.nop false) && s0.ready (.mov true (.s 63) (.lit 5)) && (masked.ready (.mov true (.v 127) (.s 1)) && masked.exec == 0) &&
    (s0.ready (.mov true (.v 0) .quad) && s0.exec != 0 && !foneBad (modeFmt s0.mode) .quad) &&
    ((inMode 0x40).ready (.mov true (.v 1) .fone) && (inMode 0x40).ready (.mov true .zero .fone) && foneBad (modeFmt (inMode 0x40).mode) .fone) &&
    ((putV 127 (.fmt .int8q) (fun _ => 1) s0).ready (.mov true (.v 1) (.v 127)) && ((putV 127 (.fmt .int8q) (fun _ => 1) s0).getV 127).tag == .fmt .int8q) &&
    ((s0.getV 3).tag == .dead && s0.ready (.mov true (.v 1) (.v 3)) && s0.ready (.mov true .zero (.v 3))) &&
    (((putV 2 .poison (fun _ => 0) s0).getV 2).tag == .poison && (putV 2 .poison (fun _ => 0) s0).ready (.mov true .zero (.v 2))) &&
    (((putV 2 .invalid (fun _ => 0) s0).getV 2).tag == .invalid && (putV 2 .invalid (fun _ => 0) s0).ready (.mov true (.v 2) (.v 2)))) = true := by decide +kernel

theorem test_meets_ScalarArithmeticResults :
    (([.sadd true .zero (.s 63) .ones, .ssub true (.s 63) .one (.lit 7), .smul true (.s 0) (.s 0) (.s 0),
    .smulh true (.s 1) .ones .ones, .smulhu true (.s 1) .ones .ones, .sand true (.s 1) .zero .ones, .sor true (.s 1) .zero .ones,
    .sxor true (.s 1) .zero .ones, .sshl true (.s 1) .one (.lit 32), .sshr true (.s 1) .ones (.lit 63), .ssar true (.s 1) .ones (.lit 31),
    .smin true (.s 1) .ones .one, .smax true (.s 1) .ones .one, .sminu true (.s 1) .ones .one, .smaxu true (.s 16) .ones .one] :
      List Instr).all (fun i => s0.ready i)) = true := by decide +kernel

theorem test_meets_ScalarUnaryAndFields :
    (([.sunNot true (.s 1) .zero, .sunNeg true (.s 1) (.lit 0x80000000), .sunAbs true (.s 1) (.lit 0x80000000),
    .sunClz true (.s 1) .zero, .sunCtz true (.s 1) .zero, .sunPopc true (.s 1) .ones, .sunBrev true (.s 1) .one, .sunBswap true (.s 1) .one,
    .sunSext8 true (.s 1) (.lit 0x80), .sunSext16 true (.s 1) (.lit 0x8000), .sunZext8 true (.s 1) .ones, .sunZext16 true .zero .ones,
    .sbfx true (.s 1) (.lit 0xA50) (.s 2), .sbfi true (.s 1) (.s 2) (.lit 0x1F1F)] : List Instr).all (fun i => s0.ready i)) = true := by decide +kernel

theorem test_meets_CompareSelectResults :
    (s0.ready (.scmp true .ge 0 .ones (.lit 0x80000000)) && s0.ready (.scmp true .ltu 7 .ones .one) &&
    s0.ready (.scmp true .uno 1 .zero .zero) && (s0.ready (.ssel true (.s 63) .ones .one) && (s0.pval .ones &&& s0.sp.lanes) != 0) &&
    (s0.ready (.ssel true (.s 63) (.p 1) .one) && (s0.pval (.p 1) &&& s0.sp.lanes) == 0)) = true := by decide +kernel

theorem test_meets_PairAndAffineResults :
    (([.dadd true (.s 62) .ones .one, .dsub true .zero .zero .one, .dshl true (.s 2) .one (.lit 64),
    .dshr true (.s 2) .ones (.lit 127), .amov true (.a 31) .zero, .aadd true (.a 0) (.a 1) (.a 31), .aadd true (.a 0) (.a 1) .ones,
    .ascl true (.a 0) (.a 1) .ones, .ashl true (.a 8) (.a 1) (.lit 32), .aexp true (.a 1) .ones (.s 3), .aget true (.s 62) .zero .base,
    .aget true (.s 63) (.a 31) .stride] : List Instr).all (fun i => s0.ready i) && s0.running && Instr.accepted (.dadd true (.s 63) .zero .one) &&
    Instr.accepted (.dshr true .zero (.s 1) .one) && Instr.accepted (.dsub true .zero .zero (.s 63))) = true := by decide +kernel

theorem test_meets_PredicateResults :
    (([.pand true (.p 0) .ones (.p 7), .por true (.p 7) (.lit 5) .zero, .pxor true (.p 1) (.p 1) (.p 1),
    .pmov true (.p 1) .ones, .punNot true (.p 1) .zero, .punFirst true (.p 1) .zero, .punLast true (.p 1) .ones, .punSet true (.p 1) .ones,
    .punGet true (.s 63) (.p 0), .punCnt true .zero .ones] : List Instr).all (fun i => s0.ready i) &&
    ((divided 0x8000 s0).predMask == 0x7FFF && s0.predMask == 0xFFFF && !s0.sp.handler && s0.sp.unwritten (.p 7))) = true := by decide +kernel

theorem test_meets_ModeResults :
    (s0.ready (.setm true (.lit 0x9FF) 0x3FF) && s0.ready (.setm true (.lit 0x100000) 0) &&
    s0.ready (.setm true (.lit 0x50) 2) && s0.ready (.getm true .zero) &&
    decide ((s0.sval (.lit 0x100000)).toNat / 2 ^ 20 ≠ 0) && decide (10 ≤ (s0.sval (.lit 0x50)).toNat / 2 ^ 3 % 16)) = true := by decide +kernel

theorem test_meets_PositionEnd :
    (((looping s0).sp.loop.map (fun l => (l.left, l.stop))) == some (2, 0x100010) && s0.sp.loop.isNone &&
    ((withSp (fun p => { p with pc := 0x10000C }) (looping s0)).sp.pc + 4 == 0x100010) &&
    (Instr.len (.nop true) == 1)) = true := by decide +kernel

theorem test_meets_TransferResults :
    (([.br 0x80000000, .brc (.p 0) .all 8, .brc (.p 1) .any 8, .brc (.p 1) .none 8, .brc (.p 1) .nall 8, .call 8, .ret] :
      List Instr).all (fun i => s0.ready i && (looping s0).ready i && (withSp (fun p => { p with rets := List.replicate 64 8 }) s0).ready i) &&
    !s0.sp.inLoop && (looping s0).sp.inLoop && (s0.pval (.p 0) &&& s0.sp.lanes) == s0.sp.lanes && (s0.pval (.p 1) &&& s0.sp.lanes) == 0) = true := by decide +kernel

theorem test_meets_BranchTableResults :
    (s0.ready (.brt .zero [8]) && s0.ready (.brt .one [8]) && s0.ready (.callt .zero [8]) && s0.ready (.callt .one [8]) &&
    (withSp (fun p => { p with rets := List.replicate 64 8 }) s0).ready (.callt .zero [8]) && (looping s0).ready (.callt .zero [8]) &&
    (s0.sval .zero == 0 && s0.sval .one == 1)) = true := by decide +kernel

theorem test_meets_CountedLoops :
    ((looping s0).ready (.loops .zero 1) && s0.ready (.loops .zero 64) && s0.ready (.loops .one 1) &&
    ((s0.measure (s0.sp.pc + 8) 1).toOption.map (fun r => (r.2, r.1.sval .zero, r.1.sval .one))) == some ([0], 0, 1)) = true := by decide +kernel

/-- A split table and an overflow stack without room. -/
def full (s : State) : State :=
  let ps : List Split := (List.range 7).map (fun k => { Split.init with sid := k + 1, entry := some (k + 1), lanes := 1 })
  withG (fun g => { g with ovf := List.range 64, splits := ps }) s

theorem test_meets_DivisionResults :
    ((handling s0).ready (.bsplit (.p 1) 8 16) && (looping s0).ready (.bsplit (.p 1) 8 16) &&
    (withSp (fun p => { p with joins := List.replicate 16 (0, 0) }) s0).ready (.bsplit (.p 1) 8 16) &&
    (putP 1 1 s0).ready (.bsplit (.p 1) 8 16) && ((putP 1 1 s0).exec &&& (putP 1 1 s0).pval (.p 1)) == 1 && (putP 1 1 s0).room == 71 &&
    s0.ready (.bsplit (.p 0) 8 16) && (s0.exec &&& s0.pval (.p 0)) == s0.sp.lanes && (s0.exec &&& s0.pval (.p 1)) == 0 &&
    !s0.inFlight s0.g s0.sp.sid &&
    ((full (putP 1 1 s0)).room == 0 && (full (putP 1 1 s0)).ready (.bsplit (.p 1) 8 16))) = true := by decide +kernel

/-- The issuing split at the join entry on top of its stack. -/
def atJoin (s : State) : State := withSp (fun p => { p with joins := [(p.pc, 5)] }) s

/-- Two splits wait at (8, 1), the second with another s0. -/
def waiting : Group :=
  let a : Split := { Split.init with sid := 1, lanes := 0xFF00, st := .joinWait 8 1, joins := [(8, 1)] }
  let b : Split := { a with sid := 2, lanes := 0x00FF, slo := vset Split.init.slo 0 1 }
  { s0.g with splits := [a, b] }

theorem test_meets_PlacingAndMerging :
    ((waiting.freeEntry none == some 0) && waiting.splits.all (fun p => p.st == .joinWait 8 1 && !p.stopped) &&
    (divided 0xFF (atJoin s0)).g.splits.all (fun p => !p.handler && p.lanes != 0 && p.st != .joinWait 8 1) &&
    ((full s0).g.freeEntry (some 0) == none)) = true := by decide +kernel

theorem test_meets_JoinResults :
    ((looping s0).ready .sjoin && (handling s0).ready .sjoin && s0.ready .sjoin && s0.sp.joins == [] &&
    (atJoin (divided 0xFF s0)).ready .sjoin && !(atJoin s0).inFlight s0.g 0 && (atJoin s0).sp.wtrap.isNone &&
    (withG (fun g => { g with splits := g.splits.map (fun p => { p with joins := [(0x100000, 5)] }) }) (atJoin (divided 0xFF s0))).g.splits.all
      (fun p => !p.handler && p.lanes != 0 && p.joins.contains (0x100000, 5) && p.st == .run) &&
    (s0.g.traps == [] && !s0.g.cancel && s0.g.deferred == [] && !s0.g.wdog && s0.g.handler.isNone && !s0.g.hold && s0.g.ovf == []) &&
    (atJoin s0).ready .sjoin && (atJoin s0).g.splits == []) = true := by decide +kernel

theorem test_meets_ExitYieldInspectLive :
    (s0.ready .exit && !s0.sp.tripped && ((s0.sp.lanes &&& ~~~s0.exec) == 0) &&
    ((putP 1 1 (inMode 0x19)).ready .exit && ((putP 1 1 (inMode 0x19)).sp.lanes &&& ~~~(putP 1 1 (inMode 0x19)).exec) == 0xFFFE) &&
    ((divided 0xFF s0).ready .exit && ((divided 0xFF s0).sp.lanes &&& ~~~(divided 0xFF s0).exec) == 0) && (handling s0).ready .exit &&
    ([.yield, .sinfoLanes true (.s 1), .sinfoExec true (.s 63), .sinfoCount true .zero, .sinfoId true (.s 1), .sinfoDepth true (.s 1),
      .sinfoOvf true (.s 1), .liveDead true 0 128, .liveFetch true 127 1] : List Instr).all (fun i => s0.ready i) &&
    (s0.sp.entry == some 0 && (handling s0).ready (.sinfoId true (.s 1)) && (handling s0).g.handler.isSome) &&
    (let t := withG (fun g => { g with record := BitVec.ofNat 2048 (0x100000 + 127 * 2 ^ 128) }) s0
     tVregs t.g.record == 127 && t.running && Instr.accepted (.liveDead true 0 128) && !t.ready (.liveDead true 0 128)) &&
    tVregs s0.g.record == 128 && (List.range 128).all (fun k => s0.unwritten (.v k)) && s0.g.splits == [] && s0.groups == [] &&
    (s0.g.teams == Vector.replicate 4 none) && s0.g.absent == [] && decide ((s0.unfocus.heldRows s0.here).length ≤ 8192)) = true := by decide +kernel
/-! ## Spec 19, 10, 03: traps, the task's end, CSRs -/

/-- The group of a running task with a handler address, in slot 0. -/
def armed (s : State) : State := withG (fun g => { g with slot := some 0, launch := { g.launch with tvec := 0x100200 } }) s
/-- `quiet`, computed. -/
def calm (g : Group) : Bool := g.traps == [] && !g.cancel && g.deferred == [] && !g.wdog && g.handler.isNone && !g.hold
/-- The state with another tenant 0. -/
def withT (f : Tenant → Tenant) (s : State) : State := s.updTenant 0 f

theorem test_meets_HandlerEntry :
    ((armed s0).running && (armed s0).todo == [] && !(armed s0).sp.handler && calm (armed s0).g && (armed s0).g.splits == [] &&
    (armed s0).sp.wtrap == none && !(armed s0).inFlight (armed s0).g (armed s0).sp.sid && decide ((armed s0).sp.sid ≠ (armed s0).g.nextSid) &&
    (armed s0).g.slot.isSome && decide ((armed s0).g.launch.tvec ≠ 0) &&
    [TrapCode.tagmismatch, .bounds, .bkpt, .user].all (fun c => !(trapCode c).fatal)) = true := by decide +kernel

/-- The window of R164's example: position 0 has trapped and positions 1 and 2 have completed, s5 from 0x1000 to 0x1100. -/
def replaying (s : State) : State :=
  let e : LogEntry := ⟨1, 1, .s 5, 0xFFFF, .w 0x1000, .w 0x1100, true, false⟩
  { s with sp := { s.sp with wpc := 0x100000, pc := 0x100010, pos := 3, wcm := 6, wlog := [e], tripped := true,
                             slo := vset s.sp.slo 5 0x1100 } }

-- spec/06 R164, the example: the replay reads s5 as it stood when the window began, once it has begun again
theorem test_replay_start_value :
    ((withSp Split.replay (replaying s0)).getS 5 == 0x1000 &&
     (withSp Split.replay (replaying s0)).sp.pc == 0x100000 &&
     (withSp Split.replay (replaying s0)).curS 5 == 0x1100) = true := by decide +kernel

-- spec/06 R164, the last row of its table: a handler's value replaces the value at the window's start
theorem test_replay_handler_value :
    ((withSp (fun p => (p.handled [.s 5]).replay) (replaying s0)).getS 5 == 0x1100) = true := by decide +kernel

theorem test_meets_HandlerReturn :
    (let ok := fun (s : State) => s.ready .rft && s.sp.handler && s.todo == [] && s.g.splits.all (fun p => p.stopped && p.st == .run &&
        decide (p.sid ≠ s.sp.sid) && s.g.handler.map (·.trap.sid) == some p.sid) && decide (s.g.splits.length = 1) &&
        !s.inFlight s.g s.sp.sid && s.sp.wtrap == none && decide (s.g.handler.map (·.act) ≠ some 2)
     ok (handling s0) && ok (withG (fun g => { g with handler := g.handler.map (fun h => { h with act := 1 }) }) (handling s0))) = true := by
  decide +kernel

theorem test_meets_TaskEnd :
    (!State.reset.running && s0.running && s0.todo == [] && !s0.sp.handler && calm s0.g && s0.g.splits == [] &&
    s0.sp.wtrap == none && !s0.inFlight s0.g s0.sp.sid && s0.g.launch.tvec == 0) = true := by decide +kernel

theorem test_meets_CsrReads (n : BitVec 16) : s0.ready (.csrr true (.s 63) n) = true ∧ s0.ready (.csrr false .zero n) = true :=
  ⟨(show s0.ready (.csrr true (.s 63) n) = s0.ready (.csrr true (.s 63) 0) from rfl).trans (by decide +kernel),
   (show s0.ready (.csrr false .zero n) = s0.ready (.csrr false .zero 0) from rfl).trans (by decide +kernel)⟩

theorem test_meets_CsrReads_sources :
    ((s0.tenant? s0.g.tenant).isSome && s0.allSplits.all (fun p => p.wfresh == 0) && (masked.exec == 0) && s0.exec.getLsbD 0) = true := by decide +kernel

/-- Tenant 0 with the two grants and all ways of die 0. -/
def granted (s : State) : State := withT (fun t => { t with grants := 3, allot := t.allot.set 0 0xFFFF }) s

theorem test_meets_CsrWrites :
    (([0x0410, 0x0420, 0x0010, 0x0001, 0x0421, 0xFFFF] : List (BitVec 16)).all (fun n =>
      s0.ready (.csrr true (.s 1) n) && s0.ready (.csrw true (.s 1) n) && (handling s0).ready (.csrr true (.s 1) n) &&
      (handling s0).ready (.csrw true (.lit 3) n) && (handling s0).ready (.csrw true (.lit 2) n) && (granted s0).ready (.csrw true .ones n)) &&
    (!s0.granted 0 && !s0.granted 1 && (granted s0).granted 0 && (granted s0).granted 1) &&
    ([.cellarCarveWrite true (.lit 0x00010001), .cellarCarveWrite true (.lit 0x0001FFFE), .srSeedWrite true .zero, .sliceClr true .one,
      .sliceSnap true .zero, .sliceSnap true (.lit 0x1FFC00), .csrw true .zero 0x0021, .csrw true (.lit 4) 0x0021, .csrw true .ones 0x0030,
      .csrw true (.lit 5) 0x0041, .csrw true (.lit 4) 0x0409] : List Instr).all (fun i => (granted s0).ready i && s0.ready i) &&
    ((granted s0).tenant? 0).any (fun t => vget t.allot 0 0 == 0xFFFF) && ((granted s0).tdie? 0 0).change.isNone &&
    (((granted s0).updTdie 0 0 (fun t => { t with change := some (0, 0) })).tdie? 0 0).change.isSome &&
    s0.allSplits.all (fun p => p.wstatus == [] && p.wfresh == 0) && s0.g.smixAt.isNone && s0.groups == [] && s0.g.splits == [] &&
    decide ((withG (fun g => { g with smixAt := some 0 }) { s0 with cycleAt := 1 }).g.smixAt.getD 9 < 1) && decide (1024 * 0 + 1024 ≤ nearSize - s0.stageBytes 0) &&
    decide (nearSize - (withT (fun t => { t with stage := 64 }) s0).stageBytes 0 < 1024 * 0x7FF + 1024)) = true := by decide +kernel

theorem test_meets_SystemResults :
    (([.trap .ones 255, .bkpt 0, .sysc (.lit 4), .rft, .time true (.s 0) 0xF8, .time true .zero 0xFB] : List Instr).all (fun i => s0.ready i)
    && s0.running && !s0.sp.handler) = true := by decide +kernel

/-! ## Spec 02, 04: vectors -/

/-- v1 to v5 hold values of a format. -/
def filled (m : Word) (f : Fmt) (x : Word) : State :=
  ([1, 2, 3, 4, 5] : List Nat).foldl (fun s n => putV n (.fmt f) (fun l => x + BitVec.ofNat 32 l.val) s) (inMode m)
/-- The same instruction meets a full mask, a zero mask and a format it may not accept. -/
def meetsForm (i : Instr) (m : Word) (f : Fmt) : Bool :=
  (filled m f 0).ready i && (filled m f 0).exec != 0 && modeFmt (filled m f 0).mode == f && masked.ready i && masked.exec == 0

/-- v1 holds lanes of zeros with a tag. -/
def tagged (t : Tag) (m : Word) : State := putV 1 t (fun _ => 0) (inMode m)
/-- The error of a source's tag check is this trap. -/
def stopsOn {α : Type} (r : Res α) (c : TrapCode) : Bool :=
  match r with
  | .error (.trap e) => e.code == c
  | _ => false

theorem test_meets_readsAs (s : State) (f : Fmt) (h : modeTP s.mode = false) (d : (s.getV 1).tag = .dead) (q : f ≠ .int8q ∧ f ≠ .int4q) :
    readsAs s f (.v 1) ∧ readsAs s f .fone ∧ readsAs s f (.s 3) ∧ modeTP s.mode = false :=
  ⟨Or.inl d, fun h => h.elim q.1 q.2, trivial, h⟩

theorem test_meets_readsAs_tags :
    readsAs (tagged (.fmt .raw32) 0x18) .fp32 (.v 1) ∧ readsAs (tagged (.fmt .fp32) 0x18) .fp32 (.v 1) ∧
    readsAs (tagged (.fmt .int32) 0x18) .fp32 (.v 1) :=
  ⟨Or.inr ⟨.raw32, by decide +kernel, Or.inl rfl⟩, Or.inr ⟨.fp32, by decide +kernel, Or.inr (Or.inl rfl)⟩,
   Or.inr ⟨.int32, by decide +kernel, Or.inr (Or.inr ⟨by decide +kernel, rfl, by decide, by decide⟩)⟩⟩

theorem test_meets_readsRaw :
    readsRaw (tagged .invalid 0x18) true (.v 1) ∧ readsRaw (tagged (.fmt .int8q) 0x18) false (.v 1) ∧ readsRaw s0 false .fone ∧
    readsRaw s0 true (.lit 5) :=
  ⟨⟨by decide +kernel, by intro h; cases h⟩, ⟨by decide +kernel, fun _ => by decide +kernel⟩, ⟨by decide +kernel, by decide +kernel⟩, trivial⟩

-- R48, R103, R121: a source that may not be read stops the instruction
theorem test_meets_vectorForm_traps :
    (stopsOn ((tagged .poison 0x18).tagcheck .fp32 (.v 1)) .poison && stopsOn ((tagged .invalid 0x18).tagcheck .fp32 (.v 1)) .tagmismatch &&
    stopsOn ((tagged (.fmt .int8q) 0x18).tagcheck .fp32 (.v 1)) .tagmismatch &&
    stopsOn ((tagged (.fmt .int32) 0x98).tagcheck .fp32 (.v 1)) .tagmismatch == modeTP (0x98 : Word) &&
    stopsOn ((inMode 0x40).tagcheck .int8q .fone) .invop && stopsOn ((tagged .poison 0x18).rawRead true (.v 1)) .poison &&
    stopsOn ((tagged .invalid 0x18).rawRead false (.v 1)) .tagmismatch &&
    (tagged .poison 0x18).ready (.vadd true (.v 2) .one (.v 1)) && ((tagged .poison 0x18).tagcheck .fp32 .one).toOption.isSome &&
    (tagged .poison 8).ready (.vshl true (.v 2) .one (.v 1)) && (tagged .poison 8).exec != 0 &&
    (tagged .invalid 8).ready (.shuf true (.v 2) (.v 1) (.v 1)) && (tagged .invalid 8).ready (.xchg true (.v 2) (.v 1) .one)) = true := by decide +kernel

-- R121: a shift count is read raw, whatever its tag
theorem test_shift_count_raw :
    (match exec (.vshl false (.v 2) .one (.v 1)) (putV 1 (.fmt .int8q) (fun _ => 4) (inMode 8)) with
     | .next t => (t.groupSeen s0.g.tid).any (fun g => (vget g.vregs 2 VRow.init).lanes[5] == 16)
     | _ => false) = true := by decide +kernel

theorem test_meets_VectorArithmetic :
    (([.vadd true (.v 127) (.v 1) (.v 2), .vsub true (.v 0) (.v 1) .fone, .vmul true .zero (.v 1) .quad, .vmin true (.v 0) (.v 1) (.s 63),
      .vmax true (.v 0) (.v 1) (.lit 1), .vfma true (.v 3) (.v 1) (.v 2), .vfms true (.v 3) (.v 1) (.v 2)] : List Instr).all
      (fun i => meetsForm i 0x18 .fp32 && meetsForm i 0x08 .int32 && meetsForm i 0x00 .raw32) &&
    ((filled 8 .int32 0).tagcheck .int32 (.v 1)).toOption.isSome && ((filled 8 .int32 0).tagcheck .int32 (.v 3)).toOption.isSome &&
    ((filled 0x18 .fp32 0).tagcheck .fp32 (.v 1)).toOption.isSome && ((filled 0x18 .int8q 0).tagcheck .fp32 (.v 1)).toOption.isNone &&
    ((inMode 0x18).tagcheck .fp32 .ones).toOption.isSome) = true := by decide +kernel

theorem test_meets_LaneWrites :
    (s0.sp.unwritten (.v 127) && s0.exec != 0 && (s0.curV 127).tag == .dead &&
    (let t := withG (fun g => { g with vregs := vset g.vregs 5 ⟨VRow.init.lanes, .poison, 0x8000, 0x40⟩ }) s0
     (t.curV 5).tag == .poison && ((t.curV 5).pmask &&& ~~~t.exec) == 0 &&
     (let u := withSp (fun p => { p with lanes := 0x7FFF }) t
      u.exec != 0 && ((u.curV 5).pmask &&& ~~~u.exec) == 0x8000))) = true := by decide +kernel

theorem test_meets_IntegerAndBitLanes :
    (([0x08, 0x10] : List Word).all (fun m => let f := modeFmt m
      !(modeR (filled m f 0).mode).sat && (filled m f 0).exec != 0 && (filled m f 0).sp.unwritten (.v 0) &&
      ((filled m f 0xFFFFFFF8).tagcheck f (.v 1)).toOption.isSome && (filled m f 0).ready (.vadd true (.v 0) (.v 1) (.v 1))) &&
    ([.vmulh true (.v 0) (.v 1) (.v 2), .vand true (.v 0) (.v 1) (.v 2), .vor true (.v 0) (.v 1) .ones, .vxor true .zero (.v 1) (.v 2),
      .vshl true (.v 0) (.v 1) (.lit 63), .vshr true (.v 0) (.v 1) (.s 1), .vunNot true (.v 0) (.v 1), .vunClz true (.v 0) (.v 1),
      .vunPopc true (.v 0) (.v 1), .tag true (.v 127) (.v 1) .fp32] : List Instr).all (fun i => meetsForm i 0x08 .int32 && meetsForm i 0x10 .uint32) &&
    ([.pack true (.v 0) (.v 1) (.v 2), .unpk true (.v 0) (.v 1) false, .unpk true (.v 0) (.v 1) true] : List Instr).all
      (fun i => meetsForm i 0x40 .int8q && meetsForm i 0x20 .bf16) &&
    ((filled 8 .int32 0).rawRead true (.v 1)).toOption.isSome &&
    ((putV 1 .poison (fun _ => 0) s0).rawRead true (.v 1)).toOption.isNone) = true := by decide +kernel

theorem test_meets_VectorSelectAndUnary :
    (([.vcmp true .lt 0 (.v 1) (.v 2), .vsel true (.v 3) (.v 1) (.p 1), .vsel true (.v 3) (.v 1) .ones, .vunNeg true (.v 0) (.v 1),
      .vunAbs true .zero (.v 1)] : List Instr).all (fun i => meetsForm i 0x18 .fp32 && meetsForm i 0x08 .int32) &&
    ([.vunRcp true (.v 0) (.v 1), .vunRsqrt true (.v 0) (.v 1), .vunSqrt true (.v 0) (.v 1), .vunExp2 true (.v 0) (.v 1),
      .vunLog2 true (.v 0) (.v 1), .vunFloor true (.v 0) (.v 1), .vunCeil true (.v 0) (.v 1), .vunTrunc true (.v 0) (.v 1),
      .vunRint true (.v 127) (.v 1)] : List Instr).all (fun i => meetsForm i 0x18 .fp32 && meetsForm i 0x38 .e5m2) &&
    ([.vbfx true (.v 0) (.v 1) (.lit 0xA50), .vbfi true (.v 3) (.v 1) (.v 2)] : List Instr).all (fun i => meetsForm i 0x08 .int32) &&
    (laneCond .int32 (modeR 8) .uno 0 0).isNone && (laneCond .fp32 (modeR 0x18) .ltu 0 0).isNone &&
    (laneCond .int32 (modeR 8) .lt 0 0).isSome) = true := by decide +kernel

theorem test_meets_VectorConversions :
    (([.vdot2 true (.v 0) (.v 2) (.v 4), .vscl true (.v 0) (.v 1) (.s 2)] : List Instr).all (fun i => meetsForm i 0x20 .bf16 && meetsForm i 0x18 .fp32) &&
    (Fmt.elems .bf16 == 2 && Fmt.elems .fp32 == 1) && ((filled 0x18 .fp32 0).tagcheck .fp32 (nextOpnd (.v 2))).toOption.isSome &&
    ([.cvt true (.v 0) (.v 4) 4] : List Instr).all (fun i => meetsForm i 0x18 .fp32 && meetsForm i 0x08 .int32) &&
    ((filled 0x18 .fp32 0).groupCheck .fp32 (.v 4) 2).toOption.isSome &&
    (let q : State → Instr := fun _ => .qnt true (.v 5) (.v 0) (.s 2)
     let t := ([0, 1, 2, 3] : List Nat).foldl (fun s n => putV n (.fmt .fp32) (fun _ => 0) s) (inMode 0x40)
     t.ready (q t) && t.exec != 0 && (t.groupCheck .fp32 (.v 0) 4).toOption.isSome && (t.rawRead true (.s 2)).toOption.isSome &&
     (inMode 0x18).ready (q t) && (putP 1 0 (inMode 0x41)).ready (q t) && (putP 1 0 (inMode 0x41)).exec == 0) &&
    meetsForm (.dqnt true (.v 8) (.v 1) (.s 2)) 0x40 .int8q && meetsForm (.dqnt true (.v 8) (.v 1) (.s 2)) 0x48 .int4q) = true := by decide +kernel

theorem test_meets_PermutesAndReductions :
    (([.xchg true (.v 0) (.v 1) (.lit 15), .bcast true .zero (.v 1) .ones, .shuf true (.v 0) (.v 1) (.v 2), .ballot true (.s 63) (.v 1),
      .ballot true (.v 0) (.v 1), .ballot true (.s 0) (.p 7), .vred true (.s 3) (.v 1) .add, .vred true (.v 3) (.v 1) .xor,
      .scan true (.v 127) (.v 1) .max] : List Instr).all (fun i => meetsForm i 0x08 .int32) &&
    ((filled 8 .int32 0).rawRead false (.v 1)).toOption.isSome && ((filled 8 .int32 0).rawRead false (.v 2)).toOption.isSome &&
    ((putV 1 .poison (fun _ => 0) s0).rawRead false (.v 1)).toOption.isNone && !(modeR (0 : Word)).sat &&
    redOk .min .int32 && redOk .add .fp32 && !redOk .add .int8q && masked.ready (.vred true (.s 3) (.v 1) .min)) = true := by decide +kernel

theorem test_meets_IssueChecks :
    (s0.running && (Instr.sadd true (.s 0) (.v 1) .one).head.isSome && !Instr.accepted (.sadd true (.s 0) (.v 1) .one) &&
    Instr.accepted (.dadd true (.s 1) .zero .one) && !s0.ready (.dadd true (.s 1) .zero .one) &&
    (let wide := putQ 0 (BitVec.ofNat 256 (2 ^ 172))
     Instr.accepted (.ld true (.v 1) (.q 0) .zero) && !(wide s0).ready (.ld true (.v 1) (.q 0) .zero) &&
     !(wide masked).ready (.ld true (.v 1) (.q 0) .zero) && (wide masked).ready (.ld true (.v 2) (.q 0) .zero)) &&
    (let t := withG (fun g => { g with record := BitVec.ofNat 2048 (0x100000 + 100 * 2 ^ 128) }) s0
     Instr.accepted (.liveFetch true 100 1) && !t.ready (.liveFetch true 100 1) && t.ready (.liveFetch true 99 1)) &&
    (let t := withG (fun g => { g with record := BitVec.ofNat 2048 (0x100000 + 64 * 2 ^ 128) }) s0
     tVregs t.g.record == 64 && Instr.accepted (.mov true (.v 64) .zero) && !t.ready (.mov true (.v 64) .zero) && t.ready (.mov true (.v 63) .zero)) &&
    (divided 0xFF s0).divided && Instr.accepted (.sadd true (.s 16) .one .one) && !(divided 0xFF s0).ready (.sadd true (.s 16) .one .one) &&
    (divided 0xFF s0).ready (.sadd true (.s 15) .one .one) && s0.ready (.sadd true (.s 16) .one .one) &&
    (s0.missing (.nop true)).isNone) = true := by decide +kernel

/-! ## Spec 05, 07, 08, 17: memory, atomics, ordering -/

/-- A record with a right check byte. -/
def buf (base extent stride0 fmt lw bounds space : Nat) : Rec :=
  Rec.seal (BitVec.ofNat 256 (base + extent * 2 ^ 64 + stride0 * 2 ^ 104 + fmt * 2 ^ 168 + lw * 2 ^ 172 + bounds * 2 ^ 174 + space * 2 ^ 176))
/-- q1 in the scratch, q2 GLOBAL, q3 in the attic, q0 with a wrong check byte, under a MODE; v1 to v3 hold words of a format. -/
def bufs (m : Word) (f : Fmt) : State :=
  ([1, 2, 3] : List Nat).foldl (fun s n => putV n (.fmt f) (fun l => BitVec.ofNat 32 l.val) s) (putQ 1 (buf 0x100 0x1000 4 3 0 0 1) (putQ 2 (buf 0x102000 0x1000 4 3 0 0 0)
    (putQ 3 (buf 0 0x1000 4 3 0 0 4) (putQ 0 1 (inMode m)))))
/-- An access resolves. -/
def resolves (s : State) (r : Rec) (h : How) (w al : Nat) (offs : List (Nat × Int)) : Bool := (s.resolve s.me r h w al offs).isOk
/-- The same under a zero mask. -/
def idle (s : State) : State := withSp (fun p => { p with mode := p.mode ||| 1 }) (putP 1 0 s)

theorem test_meets_OffsetsAndBounds :
    (let r : Nat → Rec := fun b => buf 0 64 4 3 0 b 1
     ([0, 1, 2, 3] : List Nat).all (fun b => (r b).bounds == b && (r b).extent == 64) &&
     decide (0 ≤ (60 : Int) ∧ (60 : Int) + 4 ≤ (r 0).extent) && !decide ((61 : Int) + 4 ≤ (r 0).extent) && decide ((buf 0 3 4 3 0 2 1).extent < 4)) = true := by
  decide +kernel

theorem test_meets_VectorAccess :
    (let s := bufs 0x18 .fp32
     let offs : List (Nat × Int) := (List.range 16).map (fun l => (l, (4 * l : Int)))
     ([1, 2, 3] : List (Fin 16)).all (fun k => s.ready (.ld true (.v 5) (.q k) .zero) && s.ready (.st true (.v 1) (.q k) .zero) &&
       (idle s).ready (.ld true .zero (.q k) .zero) && (idle s).exec == 0 && (s.getQ k).ok &&
       decide ((s.laneOffs (s.getQ k) .zero).toOption = some offs) && resolves s (s.getQ k) hRead 4 4 offs && resolves s (s.getQ k) hWrite 4 4 offs) &&
     (s.storeRows .fp32 (.v 1) 1).isOk && s.ready (.ld true (.v 5) (.q 0) .zero) && !(s.getQ 0).ok && (s.getQ 2).space == 0 && s.sp.wstores == [] &&
     ((s.resolve s.me (s.getQ 1) hWrite 4 4 offs).toOption.map (fun ls => ls.all (fun p => p.2.any (fun l => l.path == .near)))) == some true &&
     !resolves s (s.getQ 1) hRead 4 4 [(0, 0xFFD)] && Memory.wf s.mem &&
     -- an access that traps, and one whose page no TLB holds and that waits for its walk
     stopsOn (s.resolve s.me (s.getQ 1) hRead 4 4 [(0, 0xFFD)]) .bounds && !resolves s (buf 0x900000 0x1000 4 3 0 0 0) hWrite 4 4 offs &&
     !([.bounds, .misalign, .perm, .xlate, .invop] : List TrapCode).any (stopsOn (s.resolve s.me (buf 0x900000 0x1000 4 3 0 0 0) hWrite 4 4 offs)) &&
     s.cores.all (fun c => decide ((c.l1.map (fun x => x.key / 4)).dedup.length + 32 ≤ 2048)) && ((bufs 0x18 .bf16).getV 1).tag == .fmt .bf16 &&
     ((putV 1 .poison (fun _ => 0) s).getV 1).tag == .poison && ((putV 1 .invalid (fun _ => 0) s).getV 1).tag == .invalid) = true := by decide +kernel

theorem test_meets_ScalarAccess :
    (let s := bufs 0x18 .fp32
     let lim := nearSize - s.stageBytes s.g.tenant
     let at_ : Nat → Nat → Nat → State := fun base bounds lw => putQ 1 (buf base 0x10 4 0 lw bounds 1) s
     ([.lds true (.s 1) (.q 1) .zero, .sts true (.s 1) (.q 1) .zero, .lds true (.s 1) (.q 1) (.lit 16), .sts true (.s 1) (.q 1) .ones] : List Instr).all
       (fun i => s.ready i && (at_ (lim - 4) 0 0).ready i && (at_ (lim - 2) 1 0).ready i && (at_ 2 0 0).ready i && (at_ 0 0 2).ready i) &&
     ([.lds true (.s 62) (.q 1) .zero, .sts true .zero (.q 1) (.lit 8)] : List Instr).all (fun i => (at_ 0x1000 0 1).ready i) &&
     ((at_ (lim - 4) 0 0).qval (.q 1)).base + 4 == lim && ((at_ 0 0 2).qval (.q 1)).lw == 2 && ((at_ 2 0 0).qval (.q 1)).base % 4 == 2 &&
     resolves s (s.getQ 2) hWrite 4 4 [(0, 0)] && resolves s (s.getQ 2) hRead 4 4 [(0, 0xFFC)] && Memory.wf s.mem && s.sp.wstores == []) = true := by decide +kernel

theorem test_meets_RecordAccess :
    (let s := bufs 0x18 .fp32
     s.ready (.rld true (.q 15) (.q 1) .zero) && s.ready (.rst true (.q 0) (.q 1) .zero) && s.ready (.rld true (.q 15) (.q 0) .zero) &&
     resolves (putQ 1 (buf 0x100 0x1000 4 3 0 0 1) s) (s.getQ 1) hWrite 32 32 [(0, 0)] && resolves s (s.getQ 2) hRead 32 32 [(0, 0xFE0)] && Memory.wf s.mem && s.sp.wstores == [] &&
     ([(.ones, .base), (.lit 0xFF, .extent), (.s 0, .stride0), (.ones, .stride1), (.lit 0xFFFF, .attr), (.lit 0x10000, .attr), (.zero, .sboff),
       (.zero, .clear), (.ones, .advance)] : List (Opnd × RSel)).all (fun p => s.ready (.rset true (.q 15) p.1 p.2)) &&
     decide ((putS 1 0x100 s).dval (.s 0) = 2 ^ 40) && decide ((s.dval (.lit 0x80)).toNat < 2 ^ 40) &&
     (putS 1 0x100 s).ready (.rset true (.q 1) (.s 0) .extent) && decide (2 ^ 39 ≤ ((putS 1 0x80 s).dval (.s 0)).toInt)) = true := by decide +kernel

/-- A load of one near access in flight, of a split that waits at the end of its window. -/
def loading (kind : LoadKind) (key : Nat) : State :=
  let p : Split := { s0.sp with st := .win }
  let g : Group := { (bufs 0x18 .fp32).g with splits := [p] }
  { s0 with running := false, groups := [g], nextId := 9,
            loads := [⟨7, 1, 0, 0, 0, 3, 0x100000, 1, kind, [⟨0, some key, 0x100, .near⟩], [], [], false, []⟩] }

theorem test_meets_LoadReturns :
    (let k := keyNear 0 0x100
     let ok := fun (s : State) => !s.running && s.loads.all (fun l => s.loadReady l && (l.accs.map (fun a => (a.lane, a.path)) == [(0, Path.near)]) &&
       l.poisoned == [] && l.held == [] && (s.group? l.tid).any (fun g => calm g && (g.split? l.sid).any (fun p => p.wstores == [] && p.wdone == [] && p.wtrap.isNone) && g.splits.all (fun p => p.wlog == [])))
     ([.scal (.s 0) 4, .scal (.s 14) 8, .recd 15, .vec (some 1) 4 .fp32] : List LoadKind).all (fun kind => ok (loading kind k)) &&
     (sectorsAt k 32).all (fun q => !(loading (.recd 0) k).poison.contains q) && sectorsAt k 8 == [k / 64] &&
     (let t := { loading (.scal (.s 0) 4) k with poison := [k / 64] }
      ok t && t.poison.contains (k / 64)) &&
     (let t := { loading (.recd 0) k with sreqs := [⟨1, 0, 0, 0, k / 64, false, 7, none, false, false, none⟩] }
      t.loads.all (fun l => !t.loadReady l))) = true := by decide +kernel

theorem test_meets_PrefetchAndCache :
    (let s := bufs 0x18 .fp32
     ([.pref true .l1 (.q 2) .zero, .cacheIcinv true .zero (.q 2), .cacheWb true .zero (.q 2), .cacheInv true (.v 1) (.q 2),
       .cacheWbinv true .zero (.q 2), .cacheZero true .zero (.q 2), .cacheZero true .zero (.q 1), .cacheWb true .zero (.q 1),
       .pref true .cellar (.q 0) .ones, .cacheInv true .zero (.q 0)] : List Instr).all (fun i => s.ready i && (idle s).ready i) &&
     !s.noLine .zero && (idle s).noLine (.v 1) && (s.getQ 2).space == 0 && (s.getQ 1).space == 1 && !(s.getQ 0).ok &&
     (let vas := s.cacheLines (s.getQ 2) .zero
      vas.toOption.any (fun v => (s.translateAll s.me hRead true v).isOk && resolves s (s.getQ 2) hWrite 256 256 (zeroOffs (s.getQ 2) v))) &&
     Memory.wf s.mem && s.sp.wstores == [] && (s.cacheLines (s.getQ 1) .zero).toOption.any (fun v => resolves s (s.getQ 1) hWrite 256 256 (zeroOffs (s.getQ 1) v))) = true := by decide +kernel

theorem test_meets_AtomicResults :
    ((atomRows.all (fun e =>
      let s := bufs 0x08 .int32
      let i := e.instr true (.s 0) (.q 1) .zero
      s.ready i && (idle s).ready i && s.poison == [] && (s.getQ 1).ok && e.ok .int32 && decide (lowLane s.exec = some 0) &&
      s.ready (e.instr true .zero (.q 1) (.v 1)) && s.ready (e.instr true (.s 0) (.q 3) .zero) && s.ready (e.instr true (.s 0) (.q 0) .zero) &&
      (putQ 1 (buf 0x100 0x10 4 3 1 1 1) s).ready (e.instr true (.s 4) (.q 1) (.lit 16)) && s.ready (e.instr true (.v 2) (.q 1) .zero) &&
      (s.getV 2).tag == .fmt .int32 && (s.getV 3).tag == .fmt .int32 && (s.curV 2).tag != .poison && s.unwritten (.v 2) && Memory.wf s.mem)) &&
    (let s := bufs 0x08 .int32
     resolves s (s.getQ 1) hAtomic 4 4 [(0, 0)] && resolves s (s.getQ 2) hAtomic 4 4 [(0, 0)] &&
     resolves s (s.getQ 1) hAtomic 4 4 ((List.range 16).map (fun l => (l, (4 * l : Int)))) && resolves s (s.getQ 1) hAtomic 4 4 [(0, 8), (15, 8)] &&
     (s.core? 0).l1 == [] && s.cores.all (fun c => c.l1 == []) && (s.portOf (keyNear 0 0x100)).isNone && (s.portOf 0x102000).isNone &&
     resolves s (buf 0x100 0x10 4 3 1 1 1) hAtomic 8 8 [(0, 16)] && (withSp (fun p => { p with lanes := 0x8001 }) s).exec == 0x8001)) = true := by
  decide +kernel

/-- A member of a team of one. -/
def alone (s : State) : State :=
  withG (fun g => { g with teams := g.teams.set 0 (some ⟨5, 0⟩) })
    (s.updCore 0 (fun c => { c with teams := [⟨5, 1, none, [(1, 0)], [], 0, [], [], []⟩] }))

theorem test_meets_OrderingResults :
    (let s := bufs 0x18 .fp32
     s.ready (.fenceRel true .cluster) && s.ready (.fenceAcq true .task) && s.ready (.fenceAr true .module) && s.sp.relaxed == [] &&
     (withSp (fun p => { p with relaxed := [⟨.task, ⟨1, some 0, none⟩⟩] }) s).ready (.fenceAcq true .task) &&
     !RTag.meets ⟨.task, ⟨9, some 1, none⟩⟩ .task s.me.party && s.actors 0 .cluster == [0] && !s.isFused 0 && Memory.wf s.mem && !s.sp.stopped && s.g.slot.isSome && s.sp.lanes != 0 && s.poison == [] &&
     s.ready (.waitc .zero (.q 1) .zero) && s.ready (.waitc .one (.q 1) .zero) && s.ready (.waitc .one (.q 0) .zero) && s.ready (.waitc .one (.q 3) .zero) &&
     resolves s (s.getQ 1) hWait 8 8 [(0, 0)] && resolves s (buf 0x100 0x10 4 3 0 1 1) hWait 8 8 [(0, 16)] && (s.getQ 1).space == 1 && (s.getQ 3).space == 4 &&
     s.ready (.bar 0) && (s.g.teams[(0 : Fin 4)]).isNone && (alone s).ready (.bar 0) && ((alone s).g.teams[(0 : Fin 4)]) == some ⟨5, 0⟩ &&
     ((alone s).team? 0 5).any (fun t => t.n == 1) && (alone s).g.splits == [] && (alone s).todo == [] && (alone s).g.ovf == []) = true := by
  decide +kernel

/-! ## Spec 12, 18: tasks, futures, teams, crews -/

/-- Bytes of memory set from outside. -/
def withMem (k : Nat) (bs : List Byte) (s : State) : State := { s with mem := memPutN s.mem k bs }
/-- A task record at the start of q1's buffer in the scratch. -/
def taskReady : State := withMem (keyNear 0 0x100) (toBytes 256 (BitVec.ofNat 2048 (0x100000 + 8 * 2 ^ 128))) (bufs 0x18 .fp32)
/-- Every slot of the core's rack is reserved but `n`. -/
def rackLeft (n : Nat) (s : State) : State := s.updCore 0 (fun c => { c with resv := List.replicate (1024 - n) (0, false) })

/-- What `test_meets_recsRead` asks: records at some offsets of a buffer can be read. -/
def canRead (s : State) (r : Rec) (offs : List (Nat × Int)) (n : Nat) : Bool :=
  match s.resolve s.me r hRead 256 256 offs with
  | .ok ls =>
    let qs := ls.filterMap (fun p => p.2.map (fun l => (p.1, l)))
    let t := (s.requestRead (qs.map (·.2)) 256).readRecs none qs
    r.space != 4 && (qs.filter (fun p => farKey p.2.key)).isEmpty && (lowAddr t.2.2).isNone && t.2.1.length == n
  | .error _ => false

/-- Where that holds, the records are read. -/
theorem test_meets_recsRead (s : State) (r : Rec) (offs : List (Nat × Int)) (n : Nat) (h : canRead s r offs n = true) :
    ∃ u recs, recsRead s r offs u recs ∧ recs.length = n := by
  unfold canRead at h
  split at h
  · next ls hl =>
    simp only [Bool.and_eq_true, bne_iff_ne, ne_eq, List.isEmpty_iff, beq_iff_eq, Option.isNone_iff_eq_none] at h
    obtain ⟨⟨⟨h1, h2⟩, h3⟩, h4⟩ := h
    let qs := ls.filterMap (fun p => p.2.map (fun l => (p.1, l)))
    let t := (s.requestRead (qs.map (·.2)) 256).readRecs none qs
    refine ⟨t.1, t.2.1, fun go => ?_, h4⟩
    simp [State.takeRecs, State.withRecs, State.gotRecs, need, hl, h1, h2, h3, bind, Except.bind, t, qs]
  · cases h

theorem test_meets_TaskCreation :
    (let s := taskReady
     let one : Opnd → List (Nat × Int) := fun z => s.oneOff z
     let all16 : List (Nat × Int) := (List.range 16).map (fun k => (k, ((256 * k : Nat) : Int)))
     s.ready (.spawn true (.p 7) (.q 1) .zero) && (idle s).ready (.spawnl true (.p 1) (.q 1) .zero) && s.ready (.spawnl true (.p 1) (.q 1) .zero) &&
     s.ready (.teamFork true (.s 1) (.q 1)) && s.ready (.teamFork true (.s 63) (.q 1)) && (putS 1 16 s).ready (.teamFork true (.s 1) (.q 1)) &&
     (canRead s (s.getQ 1) (one .zero) 1) &&
     (canRead (putQ 1 (buf 0x100 0x1000 4 3 0 1 1) s) (buf 0x100 0x1000 4 3 0 1 1) [(0, 0x1000)] 0) &&
     (canRead s (s.getQ 1) all16 16) && 256 * 16 == (s.getQ 1).extent &&
     (s.core? 0).rackFree == 1024 && ((rackLeft 0 s).core? 0).rackFree == 0 && ((rackLeft 1 s).core? 0).rackFree == 1 &&
     (buf 0x120 0x1000 4 3 0 0 1).base % 256 != 0 && (buf 0x100 0xFFF 4 3 0 0 1).extent == 0xFFF && (s.getQ 1).ok && (s.getQ 1).space == 1 && (s.getQ 3).space == 4 &&
     (putS 1 16 (putQ 1 (buf 0x120 0x1000 4 3 0 0 1) s)).ready (.teamFork true (.s 1) (.q 1)) && (putS 1 16 (putQ 1 (buf 0x100 0xFFF 4 3 0 0 1) s)).ready (.teamFork true (.s 1) (.q 1)) && s.poison == [] && s.sp.wstores == [] &&
     (putV 2 (.fmt .raw32) (fun l => BitVec.ofNat 32 (256 * l.val)) s).ready (.spawnl true (.p 1) (.q 1) (.v 2)) &&
     ((putV 2 (.fmt .raw32) (fun l => BitVec.ofNat 32 (256 * l.val)) s).laneOffs (s.getQ 1) (.v 2)).toOption == some all16) = true := by decide +kernel

/-- s0:s1 hold the address of a future cell, s2 a code, s4:s5 a misaligned address; the cell is set from outside. -/
def cellAt (c : Nat) (s : State) : State :=
  withMem 0x104000 (toBytes 16 (BitVec.ofNat 128 c)) (putS 0 0x104000 (putS 2 1 (putS 4 0x104008 (putS 6 0x100 s))))

theorem test_meets_FutureResults :
    (([0, 1, 2, 3, 4, 5].all (fun st => field (BitVec.ofNat 128 (st * 2 ^ 124)) 127 124 == st && field (BitVec.ofNat 128 (st * 2 ^ 124)) 123 104 == 0)) &&
    field (BitVec.ofNat 128 (6 * 2 ^ 124)) 127 124 == 6 && field (BitVec.ofNat 128 (2 ^ 104)) 123 104 == 1 &&
    field (BitVec.ofNat 128 (2 ^ 124 + 2 ^ 64)) 95 64 == 1 && field (BitVec.ofNat 128 (2 ^ 124 + 2 * 2 ^ 64)) 95 64 == 2 &&
    (let s := cellAt 0 s0
     ([.futInit true (.s 0), .futPub true .one (.s 0), .futSig true (.s 8) (.s 0), .futSet true .zero (.s 0), .futCancel true (.s 0),
       .futFail true (.s 0) (.s 0), .futFail true (.s 4) (.s 0), .futFail true (.s 8) (.s 0), .futPeek true (.s 60) (.s 0), .join 7 (.s 8) (.s 0), .joinT 7 (.s 8) (.s 0),
       .futInit true (.s 4), .join 0 .zero (.s 4)] : List Instr).all (fun i => s.ready i) &&
     (s.dval (.s 0)).toNat % 16 == 0 && (s.dval (.s 4)).toNat % 16 == 8 && (s.translateAll s.me hAtomic true [s.dval (.s 0)]).toOption.any (fun l => l.length == 1) &&
     (s.translateAll s.me hWait true [s.dval (.s 0)]).isOk && s.poison == [] && Memory.wf s.mem && s.cores.all (fun c => c.l1 == []) &&
     s.quad (.s 0) 2 == 1 && s.quad (.s 4) 2 == 0x100 && s.quad (.s 8) 2 == 0 && s.sp.wtrap.isNone &&
     ([0, 2, 3, 4, 5] : List Nat).all (fun st => (cellAt (st * 2 ^ 124) s0).rdV 0x104000 16 == st * 2 ^ 124 && Memory.wf (cellAt (st * 2 ^ 124) s0).mem))) = true := by decide +kernel

/-- A member of rank 1 of a team of three in slot 0, and a derived team of its mask 7 and key 0x21. -/
def teamed (s : State) : State :=
  withG (fun g => { g with teams := g.teams.set 0 (some ⟨5, 1⟩) })
    (s.updCore 0 (fun c => { c with teams := [⟨5, 3, none, [], [], 0, [], [], []⟩, ⟨6, 3, some (5, 7, 0x21), [], [], 0, [], [], []⟩] }))
/-- A shared queue and one that is not. -/
def queued (s : State) : State :=
  { s with queues := [⟨2, 0x100000, 0, 0, 0, 0, 4, 3, 3, 0, 0, 0, [], true⟩, ⟨3, 0x100000, 0, 0, 0, 0, 4, 1, 3, 0, 0, 0, [], true⟩,
                      ⟨4, 0x100000, 0, 0, 0, 0, 4, 3, 3, 1, 0, 0, [], true⟩, ⟨5, 0x100000, 0, 0, 0, 16, 4, 3, 3, 0, 0, 0, [], true⟩] }

theorem test_meets_TeamAndTicketResults :
    (let s := teamed s0
     ([.teamRank true (.s 1) .zero, .teamRank true (.s 1) (.lit 3), .teamSize true (.s 1) .zero, .teamLeave true .zero, .teamLeave true (.lit 3),
       .teamLeave true (.lit 4), .teamEnter true (.s 1) (.lit 0x21010007), .teamEnter true (.s 1) (.lit 0x21010005), .teamEnter true (.s 1) (.lit 0x2101000F),
       .teamEnter true (.s 1) (.lit 0x22030006), .teamEnter true (.s 1) (.lit 0x00040007)] : List Instr).all (fun i => s.ready i && s0.ready i) &&
     s.g.teams[(0 : Fin 4)] == some ⟨5, 1⟩ && (s.team? 0 5).any (fun t => t.n == 3 && t.id == 5) && decide ((s.core? 0).teams.length < 256) &&
     (s.core? 0).teams.find? (fun e => e.parent == some (5, 7, 0x21)) == (s.team? 0 6) && (s.team? 0 6).isSome &&
     (s.core? 0).teams.all (fun e => e.parent != some (5, 6, 0x22)) &&
     (withG (fun g => { g with teams := (g.teams.set 1 (some ⟨6, 1⟩)).set 2 (some ⟨5, 1⟩) }) s).ready (.teamLeave true (.lit 2)) &&
     ((s.updCore 0 (fun c => { c with teams := c.teams ++ List.replicate 254 ⟨7, 1, none, [], [], 0, [], [], []⟩ })).core? 0).teams.length == 256 &&
     ([2, 3, 4, 5, 2 ^ 20] : List Nat).all (fun n => (queued s0).ready (.rsvTake true (.s 1) (.lit (BitVec.ofNat 32 n))) &&
       (queued s0).ready (.rsvCommit true (.s 1) (.lit (BitVec.ofNat 32 n)))) &&
     ((queued s0).queue? 2).any (fun q => q.shared && q.enabled && q.tenant == 0 && decide ((q.resv - q.cons).toNat < 2 ^ q.k)) &&
     ((queued s0).queue? 3).any (fun q => !q.shared) && ((queued s0).queue? 4).any (fun q => q.tenant != 0) &&
     ((queued s0).queue? 5).any (fun q => decide (2 ^ q.k ≤ (q.resv - q.cons).toNat) && decide (((0 : Word) - q.prod).toNat < (q.resv - q.prod).toNat) && q.bits == []) &&
     ((queued s0).queue? 6).isNone) = true := by decide +kernel

theorem test_meets_CrewNormalize :
    (let n (x : Nat) : CrewRec := cset 0 8 4 x
     crewN (n 64) == 64 && crewN (n 1) == 1 && (List.range 64).all (fun k => !(cget (n 64) 32 8).testBit k) &&
     crewN (cset (n 0x104) 32 8 3) == 4 && (cget (cset (n 0x104) 32 8 3) 32 8).testBit 1) = true := by decide +kernel

/-- The place of a crew record in the page that is held. -/
def crewPlace : CrewRef := ⟨0x105000, 0x105000, 0x105100, 0x105200⟩
/-- The issuing task is seat 1 of that crew, whose control word and report mask are set; s0:s1 hold its address. -/
def seated (ctrl reported : Nat) (s : State) : State :=
  withG (fun g => { g with record := BitVec.ofNat 2048 (0x100000 + 128 * 2 ^ 128 + (0x105000 + 2 ^ 48) * 2 ^ 192) })
    (withMem 0x105000 (toBytes 768 (cset (cset (0 : CrewRec) 8 4 ctrl) 32 8 reported)) (putS 0 0x105000 (putS 2 0x104 (putS 4 0x105010 s))))
/-- `crewHere`, computed. -/
def hereCrew (s : State) (h : How) : Bool :=
  crewPlace.va.toNat % 256 == 0 && s.poison == [] && Memory.wf s.mem && s.cores.all (fun c => c.l1 == []) &&
  (s.translateAll s.me h true [crewPlace.va, crewPlace.va + 256, crewPlace.va + 512]).toOption.map (fun ls => ls.map (·.key)) ==
    some [crewPlace.k0, crewPlace.k1, crewPlace.k2]

theorem test_meets_CrewResults :
    (let states := [(0x004, 0), (0x104, 0), (0x104, 2), (0x204, 0), (0x304, 2), (0x1034, 0)]
     states.all (fun p =>
       let s := seated p.1 p.2 s0
       ([.crewReport true .one, .crewAwait (.s 8), .crewPeek true (.s 8) (.s 0), .crewInit true (.s 8) (.s 0), .crewInit true (.s 12) (.s 0), .crewCancel true (.s 2) (.s 4),
         .crewPeek true (.s 12) (.s 4)] : List Instr).all (fun i => s.ready i) && tCrew s.g.record == crewPlace.va && tSeat s.g.record == 1 && tCrew s0.g.record == 0 &&
       hereCrew s hAtomic && hereCrew s hWait && crewState (s.crewRead crewPlace) == p.1 / 256 % 4 && !s.watched 0 crewPlace) &&
     !crewBad ((seated 0x104 0 s0).crewRead crewPlace) && crewBad ((seated 0x1104 0 s0).crewRead crewPlace) &&
     (putS 8 4 (seated 0x104 0 s0)).quad (.s 8) 0 == 4 && ((seated 0x104 0 s0).dval (.s 4)).toNat % 256 == 16 &&
     ((seated 0x104 0 s0).tenant? 0).all (fun e => ((seated 0x104 0 s0).queue? e.errq).isNone)) = true := by decide +kernel

theorem test_meets_CrewForkCancel :
    (let s := withMem 0x106000 (toBytes 256 (BitVec.ofNat 2048 (0x100000 + 8 * 2 ^ 128))) (putS 8 0x106000 (seated 0x104 0 s0))
     s.ready (.crewFork true (.s 8) (.s 0)) && (idle s).ready (.crewFork true (.s 8) (.s 0)) && s.ready (.crewFork true (.s 4) (.s 0)) &&
     (s.dval (.s 8)).toNat % 256 == 0 && (s.dval (.s 4)).toNat % 256 != 0 &&
     (s.translateAll s.me hRead false [s.dval (.s 8)]).toOption.any (fun l => l.all (fun x => x.key == 0x106000)) && s.sp.wstores == [] &&
     hereCrew s hAtomic && !crewBad (s.crewRead crewPlace) && cget (s.crewRead crewPlace) 40 8 == 0 && s.ready (.crewCancel true (.lit 3) (.s 0)) &&
     s.ready (.crewCancel true (.lit 4) (.s 0)) && crewN (s.crewRead crewPlace) == 4 && (s.core? 0).rackFree == 1024 && ((rackLeft 2 s).core? 0).rackFree == 2 &&
     crewState ((seated 0x204 0 s0).crewRead crewPlace) == 2 && s.saves == [] && s.g.splits == [] && s.cores.all (fun k => rackTasksOf k == [])) = true := by
  decide +kernel

/-! ## Spec 13, 16: the matrix and copy queues, the engines -/

/-- Tile `h` of core 0 set from outside. -/
def putTile (h : Nat) (t : Tile) (s : State) : State := s.updCore 0 (fun c => { c with tiles := vset c.tiles h t })
/-- Tile 2 is the issuing task's, named by an MCFG; tile 3 another team's. -/
def tiled (s : State) : State := putTile 2 { Tile.init with owner := some (.task 1), named := true } (putTile 3 { Tile.init with owner := some (.team 9) } s)
/-- A command of the issuing task on tile 2. -/
def cmd (id : Nat) (op : MOp) (st : MState) : MCmd := ⟨id, 1, 0, 0, 0x100000, 0, 2, op, 0x18, st, [], none, 0, 0⟩
/-- The matrix queue set from outside. -/
def mqueue (ms : List MCmd) (s : State) : State := s.updCore 0 (fun c => { c with mq := ms })

theorem test_meets_MatrixIssue :
    (let s := tiled (putS 5 4096 (putS 6 4097 (putS 7 (BitVec.ofNat 32 (nearSize - 32)) (bufs 0x18 .fp32))))
     let full8 := mqueue ((List.range 8).map (fun k => cmd k .zero .queued)) s
     ([.mcfg true 2 .zero, .mcfg true 2 (.s 5), .mcfg true 2 (.s 6), .mcfg true 2 (.s 7), .mloop true 2 (.s 5), .mloop true 2 (.s 6), .mloop true 4 .zero,
       .mopDrain true 2 (.q 1), .mopDrain true 2 (.q 0), .mopDrainn true 2 (.q 1), .mopFdrain true 2 (.s 8), .mopFdrain true 2 (.s 4), .mopZero true 2,
       .mopWait (.s 8) (some 2), .mopWait (.s 8) none, .mopCheck true (.s 8) 2, .mopCheck true (.s 8) 4] : List Instr).all (fun i => s.ready i && full8.ready i) &&
     ([.mcfg true 3 .zero, .mloop true 3 .zero, .mopZero true 3, .mopCheck true (.s 8) 3] : List Instr).all (fun i => s.ready i) &&
     (s.tile 0 3).owner == some (.team 9) && s.owner == .task 1 && (s.tile 0 2).owner == some s.owner && (s.tile 0 4).owner.isNone &&
     (((s.core? 0).mq.filter (fun m => !m.final)).length == 0) && (((full8.core? 0).mq.filter (fun m => !m.final)).length == 8) &&
     (s.sval (.s 5)).toNat % 64 == 0 && (s.sval (.s 6)).toNat % 64 == 1 && decide (nearSize < (s.sval (.s 7)).toNat + 64) && (s.qval (.q 1)).fmt == .fp32 &&
     s.exec == 0xFFFF && s.sp.lanes == 0xFFFF && s.poison == [] && s.sp.wstores == [] && (full8.core? 0).mq.all (fun m => decide (m.handle < 8)) &&
     decide (((full8.core? 0).mq.map (·.id)).Nodup) && field (s.quadBits (.s 8)) 127 0 == 0 &&
     (buf 0 64 0 4 0 0 1).fmt == .bf16 && (putQ 1 (buf 0 64 0 4 0 0 1) s).ready (.mopDrainn true 2 (.q 1)) && field (s.quadBits (.s 4)) 127 80 != 0 &&
     ((withSp (fun p => { p with lanes := 1 }) s).ready (.mloop true 2 .zero)) &&
     ([.done, .failed .mxcmd 0, .queued] : List MState).all (fun st => (mqueue [cmd 0 .zero .done, cmd 1 .zero st] s).ready (.mopWait (.s 8) none)) &&
     (cmd 1 .zero (.failed .mxcmd 0)).final && !(cmd 1 .zero .queued).final &&
     (putTile 2 { (s.tile 0 2) with err := some (9, 1, 1, 64) } s).ready (.mopCheck true (.s 8) 2)) = true := by decide +kernel

theorem test_meets_RowAndCopyIssue :
    (let s := tiled (putS 8 64 (putS 9 2 (putS 10 0x300 (putS 11 0x23F (bufs 0x18 .fp32)))))
     let cp : Instr := .copy true (.s 8) (.q 1) (.q 2)
     let full16 := s.updCore 0 (fun c => { c with copyq := (List.range 16).map (fun k => ⟨k, 1, 0, 5, 0, 0, 0, 64, 1, 0, 0x18, false, none, [], none⟩) })
     let w4 := ([0, 1, 2, 3] : List Nat).foldl (fun s n => putV n (.fmt .fp32) (fun _ => 0) s) s
     ([.mopRdrow true (.v 0) (.s 11), .mopRdrow true (.v 0) (.s 10), .mopWrrow true (.v 0) (.s 11), .mopWrrow true (.v 4) (.s 10)] : List Instr).all
       (fun i => s.ready i && (idle s).ready i && w4.ready i && (putV 2 .poison (fun _ => 0) w4).ready i && (putV 3 .invalid (fun _ => 0) w4).ready i) &&
     (s.sval (.s 11)).toNat % 64 == 63 && (s.sval (.s 11)).toNat / 256 % 8 == 2 && (s.sval (.s 10)).toNat / 256 % 8 == 3 && s.exec != 0 &&
     ([0, 1, 2, 3] : List Nat).all (fun n => (w4.getV n).tag == .fmt .fp32 && (s.getV (n + 4)).tag == .dead) &&
     s.ready cp && (alone s).ready cp && (alone full16).ready cp && (withSp (fun p => { p with lanes := 1 }) s).ready cp &&
     (s.g.teams[(0 : Fin 4)]).isNone && (alone s).g.teams[(0 : Fin 4)] == some ⟨5, 0⟩ && (s.qval (.q 1)).ok && (s.quad (.s 8) 0).toNat == 64 &&
     (s.quad (.s 8) 1).toNat == 2 && ((s.quad (.s 8) 2).toNat == 0x300) && (0x300 % 8 == 0) && (putS 8 66 s).ready cp &&
     ((full16.core? 0).copyq.filter (fun c => c.result.isNone)).length == 16) = true := by decide +kernel

/-- A core's queue with one command, first on its tile, of a task whose split waits in its window. -/
def working (op : MOp) (st : MState) (t : Tile) : State :=
  let g : Group := { (bufs 0x18 .fp32).g with splits := [{ s0.sp with st := .win }] }
  putTile 2 { t with owner := some (.task 1) } (mqueue [cmd 3 op st] { s0 with running := false, groups := [g], nextId := 9 })
/-- A command block of 2 by 2 by 1 of BF16, and another with a completion counter. -/
def block (cc : Nat) : BitVec 512 := BitVec.ofNat 512 (2 + 2 * 2 ^ 8 + 2 ^ 16 + 0x44 * 2 ^ 32 + cc * 2 ^ 384)
/-- A tile that the block binds. -/
def bound (cc : Nat) (st : TileState) : Tile := { Tile.init with state := st, binding := some ⟨block cc, 0, 0, 0⟩, elems := [(65, 0x40000000)] }

theorem test_meets_MatrixCommandSteps :
    (let good := fun (s : State) (m : MCmd) => !s.running && s.cmd? 0 m.id == some m && decide (m.handle < 8) && m.kept.isNone && (s.group? m.tid).isSome
     let idleQ := fun (s : State) => (s.core? 0).mqHalt.isNone && !(s.core? 0).preempting && !(s.die? 0).shut && decide ((s.core? 0).mq.length = 1)
     let ops : List MOp := [.mcfg (block 0), .mcfg 0, .mloop 0, .mloop 1, .mloop 4096, .zero, .wrrow 63 (List.replicate 64 1) 1, .rdrow 0 (some 124) 0xFFFF,
       .drain (buf 0x400 0x1000 0 3 0 0 1)]
     ops.all (fun op => ([.queued, .active] : List MState).all (fun st =>
       good (working op st (bound 0 .valid)) (cmd 3 op st) && idleQ (working op st (bound 0 .valid)))) &&
     !blockBad (block 0) && blockBad 0 && !(working (.mloop 0) .queued (bound 0 .valid)).loopBad 0 1 ⟨block 0, 0, 0, 0⟩ &&
     (working (.mloop 0) .queued (bound 0 .valid)).loopBad 0 4096 ⟨block 0, 0, 0, 0⟩ && cb (block 0) 48 8 == 0 && !codeQ (cbA (block 0)) &&
     cb (block 0x107000) 48 8 == 0x107000 && good (working (.mloop 1) .active (bound 0x107000 .valid)) (cmd 3 (.mloop 1) .active) &&
     ((s0.translate (agentEngine 0 0) hAtomic true 0x107000).toOption.any (fun l => l.key == 0x107000)) &&
     (let s := working (.mloop 1) .active (bound 0 .valid)
      s.poison == [] && s.cores.all (fun c => c.l1 == []) && Memory.wf s.mem && ((bound 0 .valid).elems.length == 1) && ((cmd 3 .zero .queued).snap == []) &&
      (s.group? 1).any (fun g => g.traps == [] && !g.wdog && g.splits.all (fun p =>
        [124, 125, 126, 127].all (fun k => p.unwritten (.v k))) && (g.vregs[(124 : Fin 128)]).tag != .poison) && !(s.tile 0 2).dual) &&
     (let r : Rec := Rec.seal (BitVec.ofNat 256 (0x400 + 0x100 * 2 ^ 64 + 16 * 2 ^ 136 + 3 * 2 ^ 168 + 2 ^ 176))
      r.ok && r.fmt == .fp32 && r.space == 1 && r.bounds == 0 && r.stride1 == 16 && good (working (.drain r) .active (bound 0 .valid)) (cmd 3 (.drain r) .active) &&
      (bound 0 .valid).counter == 0 && decide ((2 - 1) * 16 + 8 ≤ r.extent))) = true := by decide +kernel

/-- A reduction slot of rows of 64 words at a GLOBAL address, for `n + 1` ranks, that holds some contributions of its round. -/
def rslot (n : Nat) (parts : List (Nat × Bool × Contribution)) : RSlot :=
  ⟨4, BitVec.ofNat 512 (0x108000 + 2 ^ 96 + 64 * 2 ^ 112 + n * 2 ^ 120 + 2 ^ 200), 0, 65535, 0, parts, []⟩
/-- A contribution of one row by a rank. -/
def contrib (rank count : Nat) : Contribution := ⟨rank, count, 0, 1, 64, 7, 0, .task, [List.replicate 64 0x3F800000], none⟩

theorem test_meets_EngineFailuresAndTransfers :
    (let r := buf 0x400 0x1000 0 3 0 0 1
     let good := fun (s : State) (m : MCmd) => !s.running && s.cmd? 0 m.id == some m && (s.group? m.tid).isSome && (s.tile 0 2).err.isNone
     ([.invalid, .poison, .valid] : List TileState).all (fun st => good (working (.drain r) .active (bound 0 st)) (cmd 3 (.drain r) .active) &&
       good (working (.drainn r) .active (bound 0 st)) (cmd 3 (.drainn r) .active)) &&
     (let t : Tile := { bound 0 .valid with binding := some ⟨block 0 ||| BitVec.ofNat 512 (2 ^ 61), 0, 0, 0⟩ }
      t.dual && t.elem 1 1 != t.elem 33 1 && t.span == (2, 2)) &&
     good (working (.mloop 1) .active (bound 0x80000000 .valid)) (cmd 3 (.mloop 1) .active) &&
     ((match s0.translate (agentEngine 0 0) hAtomic true 0x80000000 with
       | .error (.xlate d) => d != 4
       | _ => false)) &&
     good (working (.fdrain 0x10700) .sent { Tile.init with state := .valid }) (cmd 3 (.fdrain 0x10700) .sent) &&
     good ({ working (.fdrain 0x10700) .queued { Tile.init with state := .valid } with moduleNo := some 7 }) (cmd 3 (.fdrain 0x10700) .queued) &&
     ((0x10700 : BitVec 128).extractLsb' 8 16 == 0x107) && s0.routesDown == [] && ((working (.fdrain 0x10700) .queued Tile.init).core? 0).mqHalt.isNone &&
     (let g : Group := { s0.g with deferred := [{ code := .mxcmd }], splits := [s0.sp] }
      let s : State := { s0 with running := false, groups := [g] }
      (s.group? 1).any (fun g => g.traps == [] && g.handler.isNone && g.splits.all (fun p => p.atBoundary && !p.stopped))) &&
     (([(0, [], contrib 0 1), (1, [], contrib 0 2), (1, [(0, false, contrib 0 2)], contrib 1 2), (1, [(0, false, contrib 0 2)], contrib 0 2)] :
       List (Nat × List (Nat × Bool × Contribution) × Contribution)).all (fun p =>
      let s : State := { s0 with running := false, rslots := [rslot p.1 p.2.1] }
      (s.rslot? 4).any (fun q => p.2.2.count == q.get 15 1 + 1 && p.2.2.n == q.get 14 1 && decide (p.2.2.row0 + p.2.2.m ≤ q.get 12 2) &&
        p.2.2.tenant == q.get 24 1 && q.get 16 8 / 2 ^ 0 % 2 ^ 48 == 0 && decide (p.2.2.rank < p.2.2.count)) &&
      (s.translate (agentFront 0) hWrite true 0x108000).toOption.isSome)) &&
     (let q : Rec := Rec.seal (BitVec.ofNat 256 (0x400 + 0x100 * 2 ^ 64 + 16 * 2 ^ 136 + 2 ^ 176))
      let x : Slice := ⟨3, 1, 0, 5, 0, q, q, 16, 2, 0, 0x18, true, none, [], none⟩
      let s : State := { s0 with running := false }.updCore 0 (fun c => { c with copyq := [x] })
      q.ok && q.stride1 == 16 && decide (16 + 16 ≤ q.extent) && (s.core? 0).copyq == [x] && Memory.wf s.mem && s.cores.all (fun c => c.l1 == []))) = true := by decide +kernel

/-! ## Spec 08 to 10, 14 to 16, 19, 20: cores, racks, the device, the front end -/

/-- No split issues: the group of s0 in the list, its split in a state. -/
def resting (st : SState) (f : Group → Group) (s : State) : State :=
  { s with running := false, groups := [f { s.g with splits := [{ s.sp with st := st }] }], nextId := 9 }

theorem test_meets_CoreSteps :
    (let run := resting .run (fun g => { g with wasReady := true }) s0
     let win := resting .win id s0
     let sysc := fun (n : Word) => withG id { resting (.park (.sysc n [0, 0, 0, 0, 0, 0, 0, 0])) (fun g => { g with splits := g.splits.map (fun p => { p with entry := none }) }) s0 with time := 0 }
     !run.running && !(run.die? 0).shut && decide ((run.groups.map (·.tid)).Nodup) && run.groups.all (fun g => g.slot == some 0 && calm g && g.wasReady && !g.giveWay &&
       decide (g.age < 960) && g.splits.all (fun p => p.st == .run && !p.stopped && !p.handler && p.entry.isSome && p.lanes != 0)) && (run.core? 0).teams == [] &&
     (win.group? 1).any (fun g => calm g && !win.inFlight g 0 && g.splits.all (fun p => p.st == .win && p.wtrap.isNone && p.entry.isSome && !p.stopped && p.wsnaps == [])) &&
     (resting (.res 5) (fun g => { g with absent := [5] }) s0).groups.all (fun g => g.splits.all (fun p => p.st == .res 5)) &&
     ([31, 32] : List Nat).all (fun n => 
       let others : List SliceReq := (List.range n).map (fun k => ⟨k, 0, 3, 0, 4, true, 7, none, false, false, some 0⟩)
       let s : State := { win with sreqs := ⟨50, 0, 3, 0, 4, false, 7, none, false, false, none⟩ :: others }
       (s.sreqs.find? (fun q => q.id == 50 && !q.counted)).isSome && (s.sreqs.filter (fun q => q.counted && q.die == 0 && q.slice == 3)).length == n) &&
     ([0, 1, 2, 3, 4, 5] : List Word).all (fun n => ((sysc n).group? 1).any (fun g => (g.freeEntry none).isSome && g.ovf == [] &&
       g.splits.all (fun p => p.entry.isNone && !p.stopped && p.unwritten (.s 0) && p.unwritten (.s 1)))) &&
     ([0, 0x100200] : List DWord).all (fun v =>
       let i : TrapInfo := ⟨.user, 0, 0x100000, 0, 0, 0, .none, 0xFFFF, false, 0⟩
       let s := resting .run (fun g => { g with launch := { g.launch with tvec := v }, traps := [i], splits := g.splits.map (fun p => { p with stopped := true }) }) s0
       (s.group? 1).any (fun g => g.splits.all (fun p => g.isFatal p i == (v == 0) && p.stopped && !s.inFlight g p.sid))) &&
     (let s : State := { withT (fun t => { t with wdog := 1 }) (resting .run id s0) with time := 1000 }
      (s.group? 1).any (fun g => g.wdogOff.isNone && calm g && decide (g.wdogMark.2 + 1000 ≤ s.time) && g.splits.all (fun p => p.atBoundary && !p.stopped))) &&
     (let s : State := { withT (fun t => { t with watch := [crewPlace] }) (withMem 0x105000 (toBytes 768 (cset (cset (0 : CrewRec) 8 4 0x104) 0 8 5)) win) with time := 5 }
      decide (s.tenants.length = 1) && cget (s.crewRead crewPlace) 0 8 == 5 && crewState (s.crewRead crewPlace) == 1 && !crewBad (s.crewRead crewPlace) &&
      s.cores.all (fun c => c.l1 == []) && Memory.wf s.mem)) = true := by decide +kernel

/-- An unstarted task of tenant 0 and a rack entry of it. -/
def unstarted (r : BitVec 2048) : TaskRec := ⟨7, r, ⟨0, false, 0, none⟩, .single⟩
def entryOf (st : EState) (r : BitVec 2048) (tiles : List TileIn) : Entry := ⟨4, [unstarted r], st, tiles, 0, false, none⟩
/-- A record with entry 0x100000 and eight vector registers. -/
def goodRec : BitVec 2048 := BitVec.ofNat 2048 (0x100000 + 8 * 2 ^ 128)

theorem test_meets_RackSteps :
    (let base : State := { s0 with running := false }
     let able := fun (s : State) (c : Nat) => !s.running && s.coreTenant c == some 0 && !(s.core? c).preempting && !(s.core? c).saved && !(s.die? (c / 128)).shut
     let rackOf := fun (e : Entry) => base.updCore 0 (fun c => { c with rack := [e] })
     let two := withT (fun t => { t with cores := 3 }) base
     able (rackOf (entryOf .runnable goodRec [])) 0 && (((rackOf (entryOf .runnable goodRec [])).core? 0).pops + 1).toNat % 4096 != 0 &&
     able (rackOf (entryOf .waitStage goodRec [])) 0 && memberOk (unstarted goodRec) 0 && presentTiles goodRec == [] && !memberOk (unstarted 0) 0 &&
     base.groups == [] && base.saves == [] && base.poison == [] && Memory.wf base.mem && base.cores.all (fun c => c.l1 == []) &&
     (let d : BitVec 2048 := goodRec ||| BitVec.ofNat 2048 ((0x109000 + 2 ^ 128 + 4 * 2 ^ 144 + 2 ^ 168) * 2 ^ 256)
      let src : Rec := buf 0x10A000 0x100 4 3 0 0 0
      let td := tileDesc (tTile d 0)
      td.rows == 1 && td.cols == 4 && src.fmt == .fp32 && src.space == 0 && src.bounds == 0 && decide (16 ≤ src.extent) &&
      able (rackOf (entryOf .staging d [⟨0, 0, src, .stage 0 256, 1, 0⟩])) 0 &&
      (base.translate (agentEngine 0 0) hRead src.bypass (recAddr src 0)).toOption.isSome && src.ok) &&
     able two 0 && able two 1 && (two.core? 0).rack == [] && (two.core? 0).inbound == [] && (two.core? 0).probes == [] &&
     (let s := (two.updCore 0 (fun c => { c with probes := [1] })).updCore 1 (fun c => { c with rack := [entryOf .waitStage goodRec []] })
      able s 0 && able s 1 && (s.core? 0).probes.head? == some 1 && (s.core? 1).rack == [entryOf .waitStage goodRec []]) &&
     ([0, 1024] : List Nat).all (fun n =>
       let s := two.updCore 0 (fun c => { c with inbound := [⟨1, entryOf .waitStage goodRec []⟩], resv := List.replicate n (0, false) })
       s.fused == [] && (s.core? 0).rackFree == 1024 - n && (entryOf .waitStage goodRec []).slots == 1)) = true := by decide +kernel

theorem test_meets_DeviceSteps :
    (let base : State := { s0 with running := false }
     let chan := fun (c : Chan) => { base with chans := [c] }
     -- a load of two sectors behind port 0: one is outstanding there, the other has come
     let l : Load := ⟨7, 1, 0, 0, 0, 3, 0x100000, 3, .vec (some 1) 4 .fp32, [⟨0, some (2 ^ 40), 0, .l1⟩, ⟨1, some (2 ^ 40 + 64), 64, .l1⟩], [], [], true, []⟩
     let far := withT (fun t => { t with windows := [⟨2 ^ 40, 2 ^ 30, 0, 0, 0, 1, false⟩] }) base
     let cxl : State := { far with loads := [l], sreqs := [⟨1, 0, 0, 0, 2 ^ 34, true, 7, none, false, false, some 0⟩] }
     let hosted : Load := { l with accs := [⟨0, some (keyHost 64), 64, .uncached⟩] }
     let f : Flit := ⟨.read, 1, 2, 0, 3, 0x40, 64, [], none, true, 0, none, []⟩
     ((base.updTdie 0 0 (fun t => { t with change := some (1, 2) })).tdie? 0 0).change == some (1, 2) && base.loads == [] && !base.running &&
     ((chan ⟨5, [0, 0, 0, 0, 0, 0, 0, 0], [0], false, none, 4⟩).chan? 5).owed.length == 8 && ((chan ⟨5, [], [0], false, none, 4⟩).chan? 5).demand == [0] &&
     ((chan ⟨5, [], [], true, none, 4⟩).chan? 5).forced && !(base.chan? 5).forced && (base.tenant? 0).isSome &&
     cxl.portOf (64 * 2 ^ 34) == some 0 && cxl.portOf (64 * (2 ^ 34 + 1)) == some 0 && sectorsAt (2 ^ 40) l.width == [2 ^ 34] &&
     sectorsAt (2 ^ 40 + 64) l.width == [2 ^ 34 + 1] && cxl.sreqs.all (fun x => x.counted && x.port == some 0) && !l.poisoned.contains (2 ^ 34 + 1) &&
     (sectorsAt (keyHost 64) hosted.width).all (fun q => (sectorsAt (keyHost 64) 64).contains q) && Memory.wf base.mem &&
     ((working (.mloop 1) .active (bound 0 .valid)).core? 0).mq.any (fun m => m.handle == 2 && m.st == .active && m.op == .mloop 1) &&
     (base.core? 0).mq == [] &&
     f.crcOk && f.kind == .read && f.length == 64 && decide (f.addr.toNat < 2 ^ 52) && (List.replicate 64 (0 : Byte)).length == 64 &&
     base.poison == [] && (State.reset.tenants == []) && (resting .win id s0).groups.all (fun g => g.tid == 1) && base.cores.all (fun c => c.l1 == []) &&
     decide (keyHost 0 ≤ keyHost 5 ∧ keyHost 5 < keyNear 0 0) && State.reset.boot == .off && !State.reset.running &&
     ({ State.reset with boot := .recovery } : State).boot == .recovery) = true := by decide +kernel

/-- A queue with a ring in host memory. -/
def ringQueue (num kind flags prod cons resv : Nat) : Queue :=
  ⟨num, 0x200000, 0, BitVec.ofNat 32 prod, BitVec.ofNat 32 cons, BitVec.ofNat 32 resv, 4, BitVec.ofNat 8 flags, kind, 0, 0, 0, [], true⟩

theorem test_meets_FrontEndSteps :
    (let base : State := { s0 with running := false }
     let q := fun (k : Queue) => { base with queues := [k] }
     let pk : Nat := 0x201 * 2 ^ 256 + 0x100000 * 2 ^ 320 + 8 * 2 ^ 448
     let launch := fun (p : Nat) => withMem (keyHost 0x200000) (toBytes 256 (BitVec.ofNat 2048 p)) (q (ringQueue 2 0 5 1 0 1))
     ((q (ringQueue 2 0 5 0 0 0)).queue? 2).any (fun k => k.enabled && !k.shared && k.slotSize == 256 && !k.virt) &&
     ((q (ringQueue 2 1 1 3 0 0)).queue? 2).any (fun k => k.enabled && k.kind == 1 && decide ((k.prod - k.cons).toNat = 3)) &&
     ((q (ringQueue 2 3 3 0 0 1)).queue? 2).any (fun k => k.shared && decide (0 < (k.resv - k.prod).toNat) && decide ((k.resv - k.cons).toNat < 2 ^ k.k) && k.bits == []) &&
     (base.tenant? 0).all (fun e => e.errq != 2) && (base.queue? 2).isNone &&
     ([pk, 0x201 * 2 ^ 256, 0x200 * 2 ^ 256 + 0x100000 * 2 ^ 320 + 8 * 2 ^ 448] : List Nat).all (fun p => !(launch p).running && (launch p).keptPackets == [] && (launch p).poison == [] && (launch p).cores.all (fun c => c.l1 == [])) &&
     (match (launch pk).queue? 2 with
      | some k => decide (some 9 ≠ some k.tenant)
      | none => false) &&
     tEntry (rootRecord (BitVec.ofNat 2048 pk)) == 0x100000 && (launch pk).packetOk 0 (BitVec.ofNat 2048 pk) && field (BitVec.ofNat 2048 pk) 63 0 == 0 &&
     ofBytes 2048 ((launch pk).rdN (keyHost 0x200000) 256) == BitVec.ofNat 2048 pk && (launch pk).placeCores 0 (BitVec.ofNat 2048 pk) == [0] &&
     (launch pk).working 0 && ((launch pk).core? 0).rackFree == 1024 && ((rackLeft 0 (launch pk)).core? 0).rackFree == 0 &&
     (let p : Packet := ⟨2, 0, 0, goodRec, ⟨0, false, 0, none⟩, 5, [0]⟩
      let s := { base with keptPackets := [p], packets := [p], time := 5 }
      s.working 0 && s.keptPackets.find? (fun x => x.queue == p.queue) == some p && decide (p.start ≤ s.time)) &&
     (let s := (resting .run (fun g => { g with hold := true }) s0).updCore 0 (fun c => { c with preempting := true })
      s.maySave 0 && s.coreTenant 0 == some 0 && !s.adminBusy && (s.core? 0).saveAt == 0 && decide (3 * 2 ^ 20 ≤ keyNear 0 0) && Memory.wf s.mem &&
      s.cores.all (fun c => c.l1 == []) && (s.core? 0).rack == [] && s.groups.all (fun g => tCrew g.record == 0))) = true := by decide +kernel

/-- The admin ring holds one command; 64 bytes at bus address 0x300000 are set from outside. -/
def adminAt (op tenant : Nat) (args : List Nat) (buf64 : Nat) (s : State) : State :=
  let slot := op + tenant * 2 ^ 32 + (args.zipIdx.map (fun p => p.1 * 2 ^ (64 + 64 * p.2))).sum
  withMem (keyHost 0x300000) (toBytes 64 (BitVec.ofNat 512 buf64)) (withMem (keyHost 0x200000) (toBytes 64 (BitVec.ofNat 512 slot))
    { s with running := false, queues := [ringQueue 0 4 1 1 0 1] })

theorem test_meets_AdminCommands :
    (let head := fun (s : State) (op : Nat) => !s.running && s.boot == .running && !s.adminBusy && s.adminHead.any (fun a => a.op == op)
     let t1 : Nat := 2 + 9 * 2 ^ 1952 + 2 ^ 2080 + 0x310000 * 2 ^ 2112
     let w1 : Nat := 0x10000 * 2 ^ 64
     let put := withMem (keyHost 0x310000) (toBytes 32 (BitVec.ofNat 256 w1)) (withMem (keyHost 0x308000) (toBytes 512 (BitVec.ofNat 4096 t1)) (adminAt 1 5 [0x308000] 0 s0))
     let made : State := { put with queues := put.queues ++ [{ ringQueue 9 1 1 0 0 0 with tenant := 5 }] }
     ([0, 0x12, 2, 6, 7, 8, 9, 10] : List Nat).all (fun op => head (adminAt op 0 [0, 1, 1] 0 s0) op && head (adminAt op 9 [0, 1, 1] 0 s0) op) &&
     head made 1 && !made.descBad 5 (ofBytes 4096 (made.rdN (keyHost 0x308000) 512)) && !windowBad (ofBytes 256 (made.rdN (keyHost 0x310000) 32)) && (made.tenant? 5).isNone &&
     (let e : Nat := 0x400000 + 4 * 2 ^ 224 + 5 * 2 ^ 232
      let s := adminAt 3 0 [6, 0x300000] e s0
      head s 3 && !entryBad 6 (ofBytes 512 (s.rdN (keyHost 0x300000) 64)) && entryBad 1 (ofBytes 512 (s.rdN (keyHost 0x300000) 64))) &&
     ([4, 5] : List Nat).all (fun op => head (adminAt op 0 [0, 0x400000] 0 s0) op && ((adminAt op 0 [0, 0] 0 s0).queue? 0).isSome && ((adminAt op 0 [7, 0] 0 s0).queue? 7).isNone) &&
     ((adminAt 6 0 [0, 1, 1] 0 s0).tenant? 0).any (fun t => t.cores.getLsbD 0) && !((adminAt 6 0 [0, 1, 1] 0 s0).core? 0).saved &&
     ({ adminAt 6 0 [0, 1, 1] 0 s0 with adminBusy := true } : State).preemptDone &&
     (let b : SaveBlock := ⟨0, 0, 0x1000000, [], [], { CoreSt.init 0 with resv := [(1, false)] }, [{ s0.g with splits := [s0.sp] }], []⟩
      let s := { adminAt 7 0 [0, 0, 0, 0] 0 s0 with saves := [b], groups := [] }
      head s 7 && Memory.wf s.mem && s.cores.all (fun c => c.rack == [] && c.resv == [] && c.inbound == [] && c.l1 == []) && s.heldCrews == [] && decide (0x1000000 + 3 * 2 ^ 20 ≤ keyNear 0 0)) &&
     ([0, 1, 2] : List Nat).all (fun x =>
       let i : TrapInfo := ⟨.xlate, 0, 0x100000, 0, 0x80000000, 1, .read, 0xFFFF, false, 0⟩
       let r := resting (.park (.service 0x8000 i)) (fun g => { g with splits := g.splits.map (fun p => { p with entry := none }) }) s0
       let s := adminAt 9 0 [0x80000000, x] 0 (withT (fun t => { t with faults := [⟨0x8000, 1⟩] }) r)
       head s 9 && s.saves == [] && s.groups.all (fun g => calm g && g.ovf == [] && decide (g.splits.length = 1))) &&
     ((adminAt 10 0 [0] 0 s0).tenant? 0).any (fun t => decide (t.windows.length = 1)) &&
     (let s := adminAt 11 0 [4, 0x300000, 0, 7] (0x108000 + 2 ^ 96 + 64 * 2 ^ 112 + 2 ^ 200) s0
      head s 11 && !slotDescBad (ofBytes 512 (s.rdN (keyHost 0x300000) 64)) && s.rslots == [] &&
      ({ s with rslots := [rslot 1 [(0, false, contrib 0 2)]] } : State).rslots.any (fun q => q.num == 4 && q.parts != [])) &&
     ([(12, 10 ^ 9), (13, 200), (13, 201), (14, 1500), (14, 7001), (15, 65535), (15, 65536), (16, 0x300000)] : List (Nat × Nat)).all (fun p => head (adminAt p.1 0 [p.2, 0x300000] 0 s0) p.1) &&
     ([(0, 1000), (1, 1000000), (2, 1000), (1, 999)] : List (Nat × Nat)).all (fun p => head (adminAt 17 0 [p.1, p.2] 0 s0) 17) &&
     ({ s0 with flitSeen := true } : State).flitSeen && !s0.flitSeen && s0.outFlits == []) = true := by decide +kernel

/-! ## Frames, the step, encodings, invariants -/

theorem test_meets_RegisterFrames :
    (let ok : State → Instr → Bool := fun s i => match exec i s with
       | .next u => (u.splitSeen 1 0).any (fun p => p.pos == s.sp.pos + 1) && (u.groupSeen 1).isSome
       | _ => false
     ok s0 (.sadd true (.s 1) .one .ones) && ok s0 (.call 16) && ok s0 (.liveDead true 3 2) && ok (filled 0x18 .fp32 0) (.vadd true (.v 0) (.v 1) (.v 2)) &&
     ok s0 (.mov true .zero .ones) && ok (filled 0x1018 .fp32 0) (.vmul true (.v 0) (.v 1) (.v 2)) && scalarForm (.call 16) && laneForm (.mov true .zero .ones)) = true := by
  decide +kernel

theorem test_meets_StepRunsDecoded :
    (let s := s0.withFetchWord 32 0x028081FA
     s.running && (match ({ s with tick := s.tick + 1 } : State).fetch with
       | .ok (t, some i) => i == .sadd false (.s 0) (.s 1) .ones && !t.skips
       | _ => false) &&
     Instr.wellFormed (.sadd false (.s 0) (.s 1) .ones) && encode (.sadd false (.s 0) (.s 1) .ones) == some [0x028081FA] && s.sp.loopWords.isNone && !s.sp.tripped &&
     (s.core? s.here).icopy == [] && s.sp.pc.toNat % 4 == 0 && !s.skips && s.cores.all (fun c => c.l1 == []) &&
     (s.translate s.me hFetch true s.sp.pc).toOption.any (fun l => l.key % 4 == 0 && !farKey l.key && !s.poison.contains (l.key / 64) && s.rdN l.key 4 == toBytes 4 (0x028081FA : Word))) = true := by
  decide +kernel

-- instructions of several words, and one whose first word traps before its second is fetched: SCMP.ord with a literal (R71)
theorem test_meets_StepRunsDecoded_words :
    (([(.sadd false (.s 0) (.s 1) (.lit 7), true), (.scmp false .ord 1 (.s 1) (.lit 7), false), (.br 0x10, true), (.call 0x10, true),
      (.brc (.p 1) .any 0x10, true), (.bsplit (.p 1) 0x10 0x20, true), (.brt (.s 0) [0x10, 0x20], true), (.callt (.s 0) [0x10], true),
      (.loops (.s 0) 3, true)] : List (Instr × Bool)).all (fun p =>
      match encode p.1 with
      | some ws => p.1.wellFormed && decide (1 < ws.length) && (headProbe (ws.headD 0)).isSome == p.2 &&
          (let s : State := { s0 with mem := memPutN s0.mem 0x100000 (ws.flatMap (fun x => toBytes 4 x)) }
           Memory.wf s.mem && (List.range ws.length).all (fun k => (s.translate s.me hFetch true (s.sp.pc + BitVec.ofNat 64 (4 * k))).toOption.any (fun l =>
             s.rdN l.key 4 == toBytes 4 (ws.getD k 0))))
      | none => false)) = true := by decide +kernel

-- a branch word placed where the next step fetches is the instruction that the step runs (R26, R27)
theorem test_fetch_branch_forms :
    ([.br 0x10, .call 0x10, .brc (.p 1) .any 0x10, .bsplit (.p 1) 0x10 0x20, .brt (.s 0) [0x10, 0x20], .callt (.s 0) [0x10],
      .loops (.s 0) 3] : List Instr).all (fun i =>
      match encode i with
      | some ws =>
        let s := s0.withFetchWord (32 * ws.length) (natOfBytes (ws.flatMap (fun x => toBytes 4 x)))
        s.running && (match ({ s with tick := s.tick + 1 } : State).fetch with
          | .ok (_, some j) => j == i
          | _ => false)
      | none => false) = true := by decide +kernel

theorem test_meets_RoundTrip :
    (Instr.wellFormed (.vfma true (.v 127) (.lit 0xFFFFFFFF) .quad) && (encode (.vfma true (.v 127) (.lit 0xFFFFFFFF) .quad)).isSome &&
    Instr.wellFormed (.brt .zero (List.replicate 255 0)) && (encode (.brt .zero (List.replicate 255 0))).isSome) = true := by decide +kernel

theorem test_meets_MemoryInvariant : MemoryKept State.reset ∧ ∃ u, step State.reset = .next u :=
  ⟨Sys2Proof.Laws.reset_kept, _, rfl⟩

/-! ## One step each: the worked examples of the spec -/

/-- What a step of the issuing split leaves, of the machine, the group and the split. -/
def after {α : Type} (i : Instr) (s : State) (f : State → Group → Split → α) : Option α :=
  match exec i s with
  | .next u => (u.groupSeen 1).bind (fun g => (u.splitSeen 1 0).map (fun p => f u g p))
  | _ => none

/-- The examples of R70. -/
theorem test_sbfx : after (.sbfx false (.s 1) (.lit 0x0A50) (.s 2)) (putS 2 0x00010704 s0) (fun _ _ p => vget p.slo 1 0) = some 0xFFFFFFA5 := by decide +kernel
theorem test_sbfi : after (.sbfi false (.s 1) (.lit 0xC3) (.s 2)) (putS 1 0x12345678 (putS 2 0x00010704 s0)) (fun _ _ p => vget p.slo 1 0) = some 0x12345C38 := by
  decide +kernel
/-- R77: the example of SETM. -/
theorem test_setm : after (.setm false (.lit 0x2A0) 0x00E) s0 (fun _ _ p => p.mode) = some 0x2A0 := by decide +kernel
/-- R53: the example of stochastic rounding: 1 + 2^-9 under BF16. -/
theorem test_stochastic : after (.vadd false (.v 0) (.v 1) (.v 2))
    (putV 1 (.fmt .bf16) (fun _ => 0x3F80) (putV 2 (.fmt .bf16) (fun _ => 0x3B00)
      (withG (fun g => { g with lfsr := vset g.lfsr 0 0x2468ACF1 }) (inMode 0x220)))) (fun _ g _ => g.vregs[(0 : Fin 128)].lanes[(0 : Fin 16)].toNat % 65536) =
    some 0x3F81 := by decide +kernel
/-- R58: the example of VDOT2: 2^24 + 3 on register pairs gives 2^24 + 4. -/
theorem test_vdot2 : after (.vdot2 false (.v 0) (.v 2) (.v 4))
    (putV 2 (.fmt .fp32) (fun _ => 0x4B800000) (putV 3 (.fmt .fp32) (fun _ => 0x40400000) (putV 4 (.fmt .fp32) (fun _ => 0x3F800000)
      (putV 5 (.fmt .fp32) (fun _ => 0x3F800000) s0)))) (fun _ g _ => g.vregs[(0 : Fin 128)].lanes[(15 : Fin 16)]) = some 0x4B800002 := by decide +kernel
/-- R59: the example of the tree: 2^24 and fifteen 1.0s give 2^24 + 14. -/
theorem test_vred : after (.vred false (.s 3) (.v 1) .add)
    (putV 1 (.fmt .fp32) (fun l => if l.val = 0 then 0x4B800000 else 0x3F800000) s0) (fun _ _ p => vget p.slo 3 0) = some 0x4B800007 := by decide +kernel
/-- R116: the example of CVT. -/
theorem test_cvt : after (.cvt false (.v 8) (.v 2) 4)
    (putV 2 (.fmt .fp32) (fun _ => 0x3EAAAAAB) (putV 3 (.fmt .fp32) (fun _ => 0x3F800000) s0))
    (fun _ g _ => (g.vregs[(8 : Fin 128)].lanes[(0 : Fin 16)], g.vregs[(8 : Fin 128)].tag)) = some (0x3F803EAB, .fmt .bf16) := by decide +kernel
/-- R133: one word stored by every lane keeps the highest lane's value. -/
theorem test_st_overlap : after (.st false (.v 1) (.q 1) (.v 4)) (putV 4 (.fmt .raw32) (fun _ => 0) (bufs 0x08 .fp32))
    (fun u _ _ => u.rdV (keyNear 0 0x100) 4) = some 15 := by decide +kernel
/-- R228: the example of ATBINC, its counters in the scratch. -/
theorem test_atbinc : after (.atbinc false (.v 6) (.q 1) (.v 5))
    (putV 6 (.fmt .raw32) (fun _ => 6) (putV 5 (.fmt .raw32) (fun l => if l = 1 ∨ l = 3 then 4 else 0) (putP 7 0xFFFF (withSp (fun p => { p with lanes := 0x00AF })
      (withMem (keyNear 0 0x100) [4, 0, 0, 0, 6] (bufs 0x08 .fp32))))))
    (fun u g _ => (g.vregs[(6 : Fin 128)].lanes.toList, g.preds[(7 : Fin 8)], u.rdV (keyNear 0 0x100) 4, u.rdV (keyNear 0 0x104) 4)) =
    some ([4, 6, 5, 6, 6, 6, 6, 6, 6, 6, 6, 6, 6, 6, 6, 6], 0xFF55, 6, 6) := by decide +kernel
/-- R240: the example of SPAWNL: three free slots go to lanes 0, 1 and 2 of a mask of 0x0F0F. -/
theorem test_spawnl : after (.spawnl false (.p 3) (.q 1) .zero) (rackLeft 3 (withMem (keyNear 0 0x100) (toBytes 256 goodRec)
      (putQ 1 (buf 0x100 0x1000 0 3 0 0 1) (withSp (fun p => { p with lanes := 0x0F0F }) (bufs 0x18 .fp32)))))
    (fun u g _ => (g.preds[(3 : Fin 8)], ((u.core? 0).rack.map (fun e => e.members.map (fun m => tArg m.record 31))))) = some (0x0007, [[0], [1], [2]]) := by decide +kernel
/-- R60: the example of a block's sum, through a matrix command: 2^30, fourteen 1.0s and -2^30. -/
theorem test_mloop_sum : after (.matrixCommandComplete 0 3)
    (withMem (keyNear 0 0) (toBytes 32 (BitVec.ofNat 256 (0x4E80 + 0xCE80 * 2 ^ 240 + ((List.range 14).map (fun k => 0x3F80 * 2 ^ (16 + 16 * k))).sum)))
      (withMem (keyAttic 0 0) (toBytes 32 (BitVec.ofNat 256 ((List.range 16).map (fun k => 0x3F80 * 2 ^ (16 * k))).sum))
        (working (.mloop 1) .active { bound 0 .valid with elems := [] })))
    (fun u _ _ => (u.tile 0 2).elem 0 0) = some 0x41600000 := by decide +kernel

/-! ## The clauses of the statements at the values where they meet -/

/-- v1 holds 0 or 1 by the lane's parity, as a vector index. -/
def indexed (s : State) : State := putV 1 (.fmt .raw32) (fun l => BitVec.ofNat 32 (l.val % 2)) s

-- R90: BRT and CALLT with a vector index
theorem test_meets_BranchTableResults_lanes :
    (let two : List Word := [8, 16]
     let i : Instr := .brt (.v 1) two
     let c : Instr := .callt (.v 1) two
     let part := withSp (fun p => { p with mode := 0x19 }) (putP 1 0x00FF (indexed s0))
     let lanes := fun (s : State) (k : Nat) => (List.finRange 16).all (fun l => !s.exec.getLsbD l || decide ((s.getV 1).lanes[l].toNat < k))
     ([handling s0, looping s0, masked, indexed s0, part, full (indexed s0), tagged .poison 0x18, tagged .invalid 0x18,
       withSp (fun p => { p with rets := List.replicate 64 8 }) (indexed s0)] : List State).all (fun s => s.ready i && s.ready c) &&
     !masked.sp.handler && !masked.sp.inLoop && masked.exec == 0 && ((tagged .poison 0x18).getV 1).tag == .poison &&
     ((tagged .invalid 0x18).getV 1).tag == .invalid && ((indexed s0).getV 1).tag == .fmt .raw32 && lanes (indexed s0) 2 && !lanes (indexed s0) 1 &&
     (indexed s0).ready (.brt (.v 1) [8]) && (indexed s0).sp.lanes &&& ~~~(indexed s0).exec == 0 && part.sp.lanes &&& ~~~part.exec == 0xFF00 && lanes part 2 &&
     (indexed s0).room == 71 && (full (indexed s0)).room == 0 && !(indexed s0).inFlight (indexed s0).g 0 && !part.inFlight part.g 0 && !part.sp.tripped) = true := by
  decide +kernel

-- R91: the measure of a body, over words and where a word cannot be fetched
theorem test_meets_CountedLoops_measure :
    ((match s0.fetchWords (s0.sp.pc + 8) with
      | .ok (u, ws) => ws == [0] && (u.measure (s0.sp.pc + 12) 3).toOption.isSome
      | .error _ => false) &&
     (match ({ s0 with mem := memPutN s0.mem 0x100008 (toBytes 4 (0xB5000000 : Word)) } : State).fetchWords (s0.sp.pc + 8) with
      | .ok (_, ws) => decide (1 ≤ ws.length)
      | .error _ => false) && (s0.fetchWords 0x80000000).toOption.isNone) = true := by decide +kernel

/-- `splitsApart`, computed. -/
def apart (ps : List Split) : Bool :=
  let live := ps.filter (fun p => !p.handler)
  live.zipIdx.all (fun p => live.zipIdx.all (fun q => p.2 == q.2 || p.1.lanes &&& q.1.lanes == 0)) &&
    ps.all (fun p => p.handler || p.lanes != 0)

-- R203: splits that lie apart, the issuing one with lanes on both sides of a division
theorem test_meets_PlacingAndMerging_apart :
    (apart waiting.splits && apart ({ Split.init with sid := 3, lanes := 0 , handler := true } :: waiting.splits) &&
     apart ((divided 0xFF s0).sp :: (divided 0xFF s0).g.splits) && !(divided 0xFF s0).sp.handler && (divided 0xFF s0).sp.lanes &&& 0xF000 == 0xF000 &&
     (divided 0xFF s0).sp.lanes &&& ~~~0xF000 == 0x0F00) = true := by decide +kernel

/-- The task of s0 with its future cell at 0x104000 (R148), at rest. -/
def celled (va : Nat) : State :=
  let s := withG (fun g => { g with record := setField g.record (192 + 63) 192 0 ||| BitVec.ofNat 2048 (va * 2 ^ 64) }) s0
  { s with running := false, groups := [{ s.g with splits := [{ s.sp with st := .win }] }] }

theorem test_meets_TaskEnd_cell :
    (([0, 0x104000] : List Nat).all (fun va =>
      let s := celled va
      !s.running && (s.group? 1).any (fun g => g.launch.root.isNone && tFuture g.record == BitVec.ofNat 64 va) && s.loads == [] && s.poison == [] &&
        s.cores.all (fun c => c.l1 == []) && Memory.wf s.mem) &&
     (0x104000 : DWord).toNat % 16 == 0 &&
     ((celled 0x104000).translate (agentEngine 0 0) hAtomic true 0x104000).toOption.any (fun l => !farKey l.key)) = true := by decide +kernel

theorem test_meets_TaskEnd_record :
    (s0.running && s0.todo == [] && !s0.sp.handler && calm s0.g && s0.g.splits == [] && s0.sp.wtrap.isNone && !s0.inFlight s0.g 0 &&
     s0.g.launch.tvec == 0 &&
     (let s := withG (fun g => { g with handler := g.handler.map (fun h => { h with act := 2 }) }) (handling s0)
      s.ready .rft && s.sp.handler && (s.g.handler.map (·.act)) == some 2 && s.todo == [] && !s.inFlight s.g s.sp.sid && s.sp.wtrap.isNone) &&
     (let q : Queue := ⟨2, 0x200000, 0, 3, 1, 0, 4, 1, 1, 0, 0, 0, [], true⟩
      let s : State := { s0 with queues := [q] }
      let f : State := { s0 with queues := [{ q with prod := 17 }] }
      let a : DWord := q.ring + BitVec.ofNat 64 (q.prod.toNat % 2 ^ q.k * q.slotSize)
      s.queue? 2 == some q && q.enabled && decide ((q.prod - q.cons).toNat < 2 ^ q.k) && q.shadow == 0 &&
        (s.queueLoc q hWrite a).toOption.any (fun l => !farKey l.key) && s.cores.all (fun c => c.l1 == []) && Memory.wf s.mem &&
        (f.queue? 2).any (fun k => decide (2 ^ k.k ≤ (k.prod - k.cons).toNat)))) = true := by decide +kernel

-- R39, R49, R51, R113: operands at the ends of their ranges, and each kind of register
theorem test_meets_ExactArithmetic :
    (([Fmt.fp32, .bf16, .fp16, .e4m3, .e5m2].all (fun f => f.isFloat && decide (0 < 2 ^ f.layout.eb) && decide (2 ^ f.layout.mb - 1 < 2 ^ f.layout.mb))) &&
     Fmt.int32.isInt && Fmt.uint32.isInt && decide ((-4096 : Int) ≤ -4096 ∧ (4095 : Int) < 4096) &&
     (tagged .poison 0x18).getV 1 != VRow.init && ((tagged .poison 0x18).getV 1).tag == .poison && ((tagged .invalid 0x18).getV 1).tag == .invalid &&
     ((s0.getV 1).tag == .dead) && ((tagged (.fmt .raw32) 0x18).getV 1).tag == .fmt .raw32 && ((tagged (.fmt .fp32) 0x18).getV 1).tag == .fmt .fp32 &&
     ((tagged (.fmt .int32) 0x18).getV 1).tag == .fmt .int32 && ((tagged (.fmt .bf16) 0x18).getV 1).tag == .fmt .bf16 && s0.exec.getLsbD 0 &&
     ([(.fp32, .int32), (.bf16, .fp16), (.e4m3, .e5m2), (.raw32, .uint32)] : List (Fmt × Fmt)).all (fun p => p.1.elems == p.2.elems && decide (p.1.elems ≤ 4))) = true := by
  decide +kernel

-- R56, R116 to R118: conversions of each kind, and scales and values of each kind
theorem test_meets_VectorConversions_elements :
    ((fdecode .fp32 0x7FC00000 == .nan) && (flushIn .fp32 false (fdecode .fp32 0x7F800000) == .inf false) && Fmt.isFloat .bf16 && !Fmt.isFloat .int32 &&
     (match fdecode .fp16 0x0000, fdecode .fp16 0x3C00, fdecode .fp16 0x7C00, fdecode .fp16 0x7E00 with
      | .fin _ 0 _, .fin _ (_ + 1) _, .inf false, .nan => true
      | _, _, _, _ => false) && decide ((255 : Nat) < 2 ^ Fmt.width .int8q) && decide ((15 : Nat) < 2 ^ Fmt.width .int4q) && modeR 0x200 != modeR 0) = true := by
  decide +kernel

theorem test_meets_PermutesAndReductions_values :
    (let s := filled 8 .int32 0
     ([.ballot true (.v 0) (.v 1), .ballot true (.s 3) (.p 7), .ballot true (.v 0) (.p 7), .ballot true .zero (.p 7), .ballot true .zero (.v 1),
       .vred true .zero (.v 1) .max, .scan true .zero (.v 1) .and] : List Instr).all (fun i => s.ready i && masked.ready i) &&
     decide (lowLane s.exec = some 0) && (s.rawRead false (.v 1)).toOption.isSome && (s.tagcheck .int32 (.v 1)).toOption.isSome &&
     ([.and, .or, .xor, .add, .min, .max] : List RedOp).all (fun op => redOk op .int32 && redOk op .fp32 && redOk op .e4m3 &&
       (filled 0x18 .fp32 0).ready (.vred true (.v 0) (.v 1) op) && (filled 0x18 .fp32 0).ready (.vred true (.s 0) (.v 1) op)) &&
     redOk .and .raw32 && redOk .xor .int4q &&
     stopsOn ((tagged .poison 0x18).tagcheck .fp32 (.v 1)) .poison && (tagged .poison 0x18).ready (.vred true (.v 0) (.v 1) .add) && (tagged .poison 0x18).exec != 0 &&
     stopsOn ((tagged .poison 8).rawRead false (.v 1)) .poison && (tagged .poison 8).ready (.ballot true (.s 0) (.v 1))) = true := by decide +kernel

/-! ## Translation (R379 to R383, R399) -/

/-- The tables of tenant 0 with these entries on the way to page 0, the root at 2^30. -/
def walked (es : List Nat) (s : State) : State :=
  (es.zipIdx.foldl (fun s e => withMem (2 ^ 30 + 4096 * e.2) (toBytes 8 (BitVec.ofNat 64 e.1)) s) s)
/-- A table entry of the level that has an index 0 to 3 is valid, in order and no leaf. -/
def goesOn (k : Nat) (e : Nat) : Bool :=
  let b := BitVec.ofNat 64 e
  b.getLsbD 0 && !b.getLsbD 1 && field b 63 56 == 0 && field b 54 52 == 0 && field b 5 4 != 3 && field b 7 6 != 3 && k != 3 &&
    field b 51 8 * 256 % (if k = 2 then 256 else 4096) == 0

theorem test_meets_OffsetsAndBounds_walk :
    (let n (k : Nat) : Nat := 2 ^ 30 + 4096 * (k + 1) + 1
     -- a tree of four levels, and at each level an entry that is not valid, one malformed and one leaf
     [n 0, n 1, n 2].zipIdx.all (fun e => goesOn e.2 e.1) &&
     ([0, 1, 2, 3] : List Nat).all (fun k => ([0, 2 ^ 56 + 1, 0x20000 * 0 + 7] : List Nat).all (fun x =>
       let s := walked ((List.range k).map n ++ [x]) s0
       (List.range k).all (fun j => s.rdV (2 ^ 30 + 4096 * j) 8 == n j) && s.rdV (2 ^ 30 + 4096 * k) 8 == x && Memory.wf s.mem)) &&
     (s0.tenant? 0).any (fun t => t.ptroot == 2 ^ 30) && goesOn 0 (s0.rdV (2 ^ 30) 8) && s0.rdV (2 ^ 30 + 4096) 8 == 7 && decide ((0xFFFFFFFF : Nat) < 2 ^ 32)) = true := by
  decide +kernel

/-- The TLB of core 0 holds one entry for page 16, in a window of a kind. -/
def holding (e : TlbEntry) (w : Window) (s : State) : State :=
  withT (fun t => { t with windows := [w] }) (s.updCore 0 (fun c => { c with tlb := [e] }))

theorem test_meets_OffsetsAndBounds_translate :
    (let e : TlbEntry := ⟨0, 16, 0x100000, 2 ^ 16, 7, false, 0⟩
     let w : Window := ⟨0, 2 ^ 51, 0, 0, 0, 0, false⟩
     let fits : List (TlbEntry × Window) := [(e, w), (e, { w with kind := 2, module := 3 }), ({ e with flags := 0x17 }, { w with medium := 1 }),
       ({ e with flags := 0x27 }, { w with kind := 3 }), ({ e with flags := 0x87 }, w), (e, { w with kind := 1, die := 3 })]
     (fits.all (fun p => let s := holding p.1 p.2 s0
       (s.tenant? 0).isSome && (s.core? 0).tlb == [p.1] && p.1.fault == 0 && field p.1.flags 5 4 != 3 && decide (0 < p.1.size) && p.1.flags.getLsbD 2)) &&
     -- a fault that is held, a window off line, a page partly outside, a write refused, a fetch refused
     ([({ e with fault := 2 }, w), (e, { w with offline := true }), ({ e with size := 2 ^ 30 }, { w with size := 2 ^ 20 }), ({ e with flags := 3 }, w),
       ({ e with nx := true }, w)] : List (TlbEntry × Window)).all (fun p => (holding p.1 p.2 s0).running) &&
     hWrite.wr && hFetch.fetch && hAtomic.sync && s0.me.waits && !(agentEngine 0 0).waits && s0.cores.any (fun c => c.tlb.any (fun e => e.page == 16)) &&
     s0.cores.all (fun c => c.tlb.all (fun e => e.page != 0x9000)) && decide ((2 ^ 48 : Nat) ≤ (0x1000000000000 : DWord).toNat)) = true := by decide +kernel

/-! ## Accesses (R130, R133, R134, R140) -/

theorem test_meets_VectorAccess_lanes :
    (let s := bufs 0x18 .fp32
     let offs : List (Nat × Int) := (List.range 16).map (fun l => (l, (4 * l : Int)))
     let at_ (r : Rec) : List (Nat × Option Loc) := (s.resolve s.me r hWrite 4 4 offs).toOption.getD []
     let past := buf 0x102000 0x1000 4 3 0 0 0 ||| BitVec.ofNat 256 (2 ^ 178)
     Memory.wf s.mem && s.sp.wstores == [] && (at_ (s.getQ 1)).length == 16 && (at_ (s.getQ 1)).all (fun p => p.2.any (fun l => l.path == .near)) &&
     (at_ (s.getQ 2)).length == 16 && (at_ (s.getQ 2)).all (fun p => p.2.any (fun l => l.path == .l1 && !farKey l.key)) &&
     (at_ (s.getQ 2)).all (fun p => (at_ (s.getQ 2)).all (fun q => p.1 == q.1 ||
       (p.2.any (fun a => q.2.any (fun b => decide (a.key + 4 ≤ b.key ∨ b.key + 4 ≤ a.key)))))) &&
     s.cores.all (fun c => decide ((c.l1.map (fun x => x.key / 4)).dedup.length + 16 ≤ 2048)) && past != 0) = true := by decide +kernel

theorem test_meets_ScalarAccess_bounds :
    (let s := bufs 0x18 .fp32
     let at_ : Nat → Nat → State := fun bounds extent => putQ 1 (buf 0x100 extent 4 3 0 bounds 1) s
     let lds : Opnd → Instr := fun z => .lds true (.s 1) (.q 1) z
     let sts : Opnd → Instr := fun z => .sts true (.s 1) (.q 1) z
     -- TRAP and ZERO at the last word and past it, CLAMP past it, before it and with no room, NONE past it and outside the scratch
     ([(0, .lit 12), (0, .lit 16), (1, .lit 12), (1, .lit 16), (2, .lit 16), (2, .ones), (3, .lit 16), (3, .ones), (3, .lit 0x7FFFFFFC), (3, .lit 2)] :
       List (Nat × Opnd)).all (fun p => let t := at_ p.1 16
         t.ready (lds p.2) && t.ready (sts p.2) && (t.qval (.q 1)).ok && (t.qval (.q 1)).space == 1 && (t.qval (.q 1)).bounds == p.1 && (t.qval (.q 1)).extent == 16) &&
     ((at_ 2 3).qval (.q 1)).extent == 3 && (at_ 2 3).ready (lds .zero) && ((at_ 2 4).qval (.q 1)).extent == 4 &&
     s.scalOff (.lit 12) == 12 && s.scalOff .ones == -1 && decide (0x100 + (0x7FFFFFFC : Int) + 4 > nearSize - s.stageBytes 0) && s.sp.wstores == [] && Memory.wf s.mem) = true := by
  decide +kernel

/-- A load in flight of a split that waits at the end of its window. -/
def loadingOf (kind : LoadKind) (exec : BitVec 16) (accs : List LoadAcc) : State :=
  let s := loading kind 0
  { s with loads := [⟨7, 1, 0, 0, 0, 3, 0x100000, exec, kind, accs, [], [], false, []⟩] }

theorem test_meets_LoadReturns_lanes :
    (let k := keyNear 0 0x100
     let near : List LoadAcc := [⟨0, some k, 0x100, .near⟩, ⟨1, none, 0x2000, .near⟩, ⟨15, some (k + 64), 0x140, .near⟩]
     let far (p : Path) : List LoadAcc := [⟨0, some 0x102000, 0x102000, p⟩, ⟨1, none, 0x2000, p⟩, ⟨15, some 0x102040, 0x102040, p⟩]
     let one (p : Path) : List LoadAcc := [⟨0, some (if p = .near then k else 0x102000), 0x102000, p⟩]
     let good := fun (s : State) (w : Nat) => !s.running && s.poison.length ≤ 1 && s.loads.all (fun l => s.loadReady l && l.width == w && l.poisoned == [] && l.held == [] &&
       (l.allNear || (s.cores.all (fun c => c.l1 == []) && s.sreqs.all (fun r => r.load == l.id) && l.accs.all (fun a => a.key.all (fun q => !farKey q)))) &&
       l.accs.all (fun a => a.key.all (fun q => q % 64 + w ≤ 64)) &&
       (s.group? l.tid).any (fun g => calm g && (g.split? l.sid).any (fun p => p.wstores == [] && p.wdone == [] && p.wtrap.isNone) && g.splits.all (fun p => p.wlog == []) &&
         [1, 2, 3, 4, 124, 125, 126, 127].all (fun m => (vget g.vregs m VRow.init).tag != .poison)))
     ([near, far .l1, far .bypass] : List (List LoadAcc)).all (fun accs => accs.map (·.lane) == (lanesOf (0x8003 : BitVec 16)).map (·.val) &&
       ([(1, 4), (1, 8), (124, 16)] : List (Fin 128 × Nat)).all (fun x => good (loadingOf (.vec (some x.1) x.2 .fp32) 0x8003 accs) x.2 && decide (x.1.val + x.2 / 4 ≤ 128)) &&
       good { loadingOf (.vec (some 1) 8 .fp32) 0x8003 accs with poison := [0x102040 / 64] } 8 && good (loadingOf (.vec none 4 .fp32) 0x8003 accs) 4) &&
     good { loadingOf (.vec (some 1) 8 .fp32) 0x8003 near with poison := [(k + 64) / 64] } 8 &&
     ([.near, .l1, .bypass] : List Path).all (fun p => ([(.s 15, 4), (.s 62, 8), (.s 63, 4), (.zero, 4), (.zero, 8)] : List (Opnd × Nat)).all (fun x =>
       good (loadingOf (.scal x.1 x.2) 1 (one p)) x.2) && good (loadingOf (.recd 15) 1 (one p)) 32) &&
     -- a request of the load that is counted and outstanding nowhere
     good { loadingOf (.scal (.s 15) 4) 1 (one .bypass) with sreqs := [⟨1, 0, 0, 0, 0x102000 / 64, true, 7, none, false, false, none⟩] } 4) = true := by decide +kernel

/-! ## Crews, engines, racks -/

theorem test_meets_CrewForkCancel_cells :
    (let rec256 := BitVec.ofNat 2048 (0x100000 + 0x107000 * 2 ^ 64 + 8 * 2 ^ 128)
     let base := withMem 0x106000 (toBytes 256 rec256) (putS 8 0x106000 (putS 9 0 (seated 0x004 0 s0)))
     let r := (base.crewRead crewPlace)
     let s := withMem 0x105000 (toBytes 768 (cset r 40 8 2)) base
     s.ready (.crewFork true (.s 8) (.s 0)) && s.exec != 0 && (s.dval (.s 8)).toNat % 256 == 0 &&
     (s.translateAll s.me hRead false [s.dval (.s 8)]).toOption.any (fun l => l.length == 1 && l.all (fun x => x.key == 0x106000 && !farKey x.key)) && s.sp.wstores == [] &&
     hereCrew s hAtomic && !crewBad (s.crewRead crewPlace) && cget (s.crewRead crewPlace) 0 8 == 0 && decide (crewState (s.crewRead crewPlace) < 2) &&
     cget (s.crewRead crewPlace) 19 1 == 0 && decide (1 < crewN (s.crewRead crewPlace)) && cget (s.crewRead crewPlace) 40 8 == 2 ^ 1 &&
     decide (64 ≤ (s.core? 0).rackFree) && tFuture (ofBytes 2048 (s.rdN 0x106000 256)) == 0x107000 &&
     (s.translate (agentEngine 0 0) hAtomic true 0x107010).toOption.any (fun l => l.key == 0x107010) && (0x107010 : DWord).toNat % 16 == 0 &&
     -- a crew in INIT with a DEADLINE, under a watch with and without room
     (let q := withMem 0x105000 (toBytes 768 (cset (cset (0 : CrewRec) 8 4 0x004) 0 8 (2 ^ 63))) base
      crewState (q.crewRead crewPlace) == 0 && cget (q.crewRead crewPlace) 0 8 == 2 ^ 63 && q.ready (.crewFork true (.s 8) (.s 0)) && !crewBad (q.crewRead crewPlace) &&
      (q.tenant? 0).any (fun t => t.watch.length == 0) &&
      ((withT (fun t => { t with watch := List.replicate 1024 crewPlace }) q).tenant? 0).any (fun t => t.watch.length == 1024))) = true := by decide +kernel

/-- A command block of 2 by 2 by 2 K-blocks of INT8Q (or INT4Q) in groups of 32. -/
def quantBlock (code : Nat) : BitVec 512 :=
  BitVec.ofNat 512 (2 + 2 * 2 ^ 8 + 2 * 2 ^ 16 + (code * 17) * 2 ^ 32 + 32 * 2 ^ 96 + 512 * 2 ^ 128 + 0x800 * 2 ^ 256 + 4 * 2 ^ 288 + 0x900 * 2 ^ 320 + 4 * 2 ^ 352)

theorem test_meets_MatrixCommandSteps_quantised :
    (([8, 9] : List Nat).all (fun code =>
      let t : Tile := { Tile.init with state := .valid, binding := some ⟨quantBlock code, 0, 0, 0⟩ }
      let s := working (.mloop 2) .active t
      !blockBad (quantBlock code) && codeQ (cbA (quantBlock code)) && cb (quantBlock code) 48 8 == 0 && cb (quantBlock code) 5 1 == 0 &&
      !s.running && s.cmd? 0 3 == some (cmd 3 (.mloop 2) .active) && s.poison == [] && s.cores.all (fun c => c.l1 == []) &&
      !s.loopBad 0 2 ⟨quantBlock code, 0, 0, 0⟩ && s.loopBad 0 1 ⟨quantBlock code, 0, 0, 0⟩ && 16 * 2 % 32 == 0)) = true := by decide +kernel

/-- A record of two rows of eight bytes, 16 apart, in a space. -/
def rowsRec (fmt base space : Nat) : Rec :=
  Rec.seal (BitVec.ofNat 256 (base + 0x100 * 2 ^ 64 + 16 * 2 ^ 136 + fmt * 2 ^ 168 + space * 2 ^ 176))

theorem test_meets_MatrixCommandSteps_drains :
    (([(.drain (rowsRec 3 0x400 1), 4), (.drain (rowsRec 0 0x400 1), 4), (.drain (rowsRec 3 0x102000 0), 4), (.drainn (rowsRec 4 0x400 1), 2),
       (.drainn (rowsRec 7 0x402 1), 1), (.drainn (rowsRec 4 0x102000 0), 2)] : List (MOp × Nat)).all (fun p =>
      let r : Rec := match p.1 with
        | .drain r | .drainn r => r
        | _ => 0
      let s := working p.1 .active (bound 0 .valid)
      !s.running && s.cmd? 0 3 == some (cmd 3 p.1 .active) && r.ok && r.bounds == 0 && (s.tile 0 2).state == .valid && !(s.tile 0 2).dual && (s.tile 0 2).counter == 0 &&
      s.cores.all (fun c => c.l1 == []) && Memory.wf s.mem && decide ((p.2 * 2 : Int) ≤ r.stride1) && r.stride1 % p.2 == 0 && r.base % p.2 == 0 &&
      decide ((2 - 1) * r.stride1.toNat + p.2 * 2 ≤ r.extent) && (r.space == 1 || ([0, 1] : List Nat).all (fun i =>
        (s.translate (agentEngine 0 0) hWrite r.bypass (BitVec.ofNat 64 (r.base + i * 16))).toOption.any (fun l => l.key == r.base + i * 16 && !farKey l.key)))) &&
     ([0, 3, 4, 5, 6, 7] : List Nat).all (fun f => (rowsRec f 0x400 1).ok) && (rowsRec 3 0 1).fmt == .fp32 && (rowsRec 0 0 1).fmt == .raw32 && (rowsRec 7 0 1).fmt == .e5m2) = true := by
  decide +kernel

/-- A team unit of two tasks on core 0's rack, with entries below and above it. -/
def unitRack (st : EState) (skips : Nat) (below above : List Entry) (s : State) : State :=
  let m (k : Nat) : TaskRec := ⟨20 + k, goodRec, ⟨0, false, 0, none⟩, .team 2⟩
  { s with running := false }.updCore 0 (fun c => { c with rack := below ++ [(⟨9, [m 0, m 1], st, [], skips, false, none⟩ : Entry)] ++ above })

theorem test_meets_RackSteps_units :
    (let y := entryOf .runnable goodRec []
     let w : Entry := { entryOf .waitStage goodRec [] with eid := 5 }
     let fullTeams := fun (s : State) => s.updCore 0 (fun c => { c with teams := List.replicate 256 ⟨7, 1, none, [], [], 0, [], [], []⟩ })
     let busy := fun (n : Nat) (s : State) => { s with groups := (List.range n).map (fun k => { s0.g with tid := 100 + k, slot := some k }) }
     let able := fun (s : State) => !s.running && s.coreTenant 0 == some 0 && (s.tenant? 0).any (fun t => t.cores.getLsbD 0) && !(s.core? 0).preempting && !(s.core? 0).saved &&
       !(s.die? 0).shut && s.saves == [] && ((s.core? 0).pops + 1).toNat % 4096 != 0 && decide (s.groups.length + 2 < 16000)
     let e := fun (s : State) => (s.core? 0).rack.find? (fun e => e.eid == 9)
     able (unitRack .runnable 0 [] [] s0) && able (unitRack .runnable 0 [y] [w] s0) && able (fullTeams (unitRack .runnable 0 [] [] s0)) && able (busy 255 (unitRack .runnable 0 [y] [w] s0)) &&
     able (fullTeams (unitRack .runnable 64 [] [] s0)) && (fullTeams (unitRack .runnable 0 [] [] s0)).cores.any (fun c => c.teams.length == 256) &&
     (e (unitRack .runnable 0 [y] [w] s0)).any (fun e => e.members.length == 2 && e.resume.isNone && !e.held && e.st == .runnable &&
       e.members.all (fun t => t.origin == .team 2 && !t.launch.fuse)) && decide (((e (unitRack .runnable 0 [] [] s0)).map (fun e => e.members.map (·.tid))).getD [] = [20, 21]) &&
     decide (((List.range 256).filter (fun k => (busy 255 s0).groups.all (fun g => g.core != 0 || g.slot != some k))).length = 1) &&
     y.members.length == 1 && y.resume.isNone && y.st == .runnable && !y.held && y.eid != 9 && w.eid != y.eid && w.st != .runnable) = true := by decide +kernel

theorem test_meets_RackSteps_far :
    (let e := entryOf .waitStage goodRec []
     let tiled := entryOf .waitStage (goodRec ||| BitVec.ofNat 2048 ((0x109000 + 2 ^ 128 + 4 * 2 ^ 144 + 2 ^ 168) * 2 ^ 256)) []
     let two := withT (fun t => { t with cores := 1 + 2 ^ 128 }) { s0 with running := false }
     let s := fun (e : Entry) => (two.updCore 0 (fun c => { c with probes := [128], idleSince := some 0 })).updCore 128 (fun c => { c with rack := [e] })
     ([e, tiled] : List Entry).all (fun e => (s e).coreTenant 0 == some 0 && (s e).coreTenant 128 == some 0 && !((s e).die? 0).shut && !((s e).die? 1).shut && ((s e).core? 0).rack == [] &&
       ((s e).core? 0).inbound == [] && ((s e).core? 0).idleSince == some 0 && ((s e).core? 0).probes.head? == some 128 && ((s e).core? 128).rack == [e] && e.resume.isNone && !e.held &&
       (s e).cores.all (fun c => c.l1 == [])) &&
     (e.members.flatMap (fun t => (presentTiles t.record).map (·.2))).length == 0 &&
     (let src := buf 0x10A000 0x100 4 3 0 0 0
      let t := withMem 0x109000 (toBytes 32 src) (s tiled)
      (tiled.members.flatMap (fun t => (presentTiles t.record).map (·.2))).all (fun d => d.recAddr == 0x109000 && d.recAddr % 32 == 0) &&
      (t.translate (agentEngine 0 128) hRead false 0x109000).toOption.any (fun l => l.key == 0x109000) && t.poison == [] && src.ok &&
      Rec.ok (ofBytes 256 (t.rdN 0x109000 32)) && !Rec.ok (ofBytes 256 ((withMem 0x109000 [1] t).rdN 0x109000 32)))) = true := by decide +kernel

/-! ## Flits and SRAM sites (R405 to R408), the admin commands' refusals -/

/-- A flit of module 1 to module 2. -/
def flitOf (kind : FlitKind) (tag : Nat) (addr : DWord) (length : Nat) (sectors : List (List Byte × BitVec 16)) (row : Option Contribution)
    (bad : BitVec 3) (op : Option LinkOp) : Flit := ⟨kind, 1, 2, 0, tag, addr, length, sectors, row, true, bad, op, []⟩

theorem test_meets_DeviceSteps_flits :
    (let base : State := { s0 with running := false }
     let bs : List Byte := List.replicate 64 5
     let w := fun (crc : BitVec 16) (bad : BitVec 3) => flitOf .write 0 0x102000 64 [(bs, crc)] none bad none
     let a := flitOf .atomic 9 0x102004 4 [] none 0 (some (.atomic .add .int32 [(0xFFFFFFFF, 0)]))
     let l : Load := ⟨7, 1, 0, 0, 0, 3, 0x100000, 3, .vec (some 1) 4 .fp32, [⟨0, some (keyRemote 1 0x40), 0, .uncached⟩], [], [], true, []⟩
     let d := fun (bad : BitVec 3) => flitOf .readData 7 0x40 64 [(bs, crc16 bs)] none bad none
     let c : Contribution := { contrib 0 2 with n := 16, rows := [List.replicate 16 0] }
     let r := flitOf .reductionRow 0 4 64 [(bs, crc16 bs)] (some c) 0 none
     let q : RSlot := { rslot 1 [] with desc := BitVec.ofNat 512 (0x108000 + 2 ^ 96 + 16 * 2 ^ 112 + 1 * 2 ^ 120 + 2 ^ 200) }
     base.poison == [] && base.cores.all (fun x => x.l1 == []) && Memory.wf base.mem && bs.length == 64 &&
     ([w (crc16 bs) 0, w (crc16 bs) 1, w 0 0] : List Flit).all (fun f => f.crcOk && f.kind == .write && f.length == 64 && decide (f.addr.toNat < 2 ^ 52) && f.addr.toNat % 64 == 0) &&
     (base.tenant? 7).isNone && crc16 bs != 0 && (w (crc16 bs) 1).bad.getLsbD 0 &&
     a.kind == .atomic && a.tags == [] && a.length == 4 && a.addr.toNat % 4 == 0 && decide (a.addr.toNat < 2 ^ 52) &&
     ({ base with loads := [l] } : State).loads.any (fun l => l.id == (d 0).tag) && (d 1).bad.getLsbD 0 && (d 0).kind == .readData &&
     (({ base with rslots := [q] } : State).rslot? r.addr.toNat).any (fun q => q.coming == [] && (q.refuses c).isNone && q.parts.all (fun p => p.2.2.rank != 1)) &&
     c.m == 1 && decide (c.rank < c.count ∧ 1 ≤ c.n ∧ c.n ≤ 16) && r.bad == 0 && decide (r.addr.toNat < 256) &&
     State.reset.tenants == [] && !State.reset.running &&
     ([0, 1] : List (BitVec 64)).all (fun dirty => ((State.reset.updCore 0 (fun x => { x with l1 := [⟨5, 0, 0xFF, dirty, false⟩] })).l1Find 0 5).any (fun x => x.dirty == dirty))) = true := by
  decide +kernel

theorem test_meets_AdminCommands_refusals :
    (let head := fun (s : State) (op : Nat) => !s.running && s.boot == .running && !s.adminBusy && s.adminHead.any (fun a => a.op == op) && (s.tenant? 0).isSome
     let args := fun (s : State) => (s.adminHead.map (fun a => (List.range 4).map a.get)).getD []
     let grant := fun (n : BitVec 8) (s : State) => withT (fun t => { t with cores := 1 + 2 ^ 1 + 2 ^ 32, grants := n }) s
     -- PREEMPT: the ranges, a core that is not the tenant's, one that is saved
     ([[9, 1, 1], [0, 16, 1], [0, 1, 2 ^ 32], [0, 1, 1], [0, 1, 3], [8, 15, 2 ^ 32 - 1]] : List (List Nat)).all (fun x => let s := adminAt 6 0 x 0 s0
       head s 6 && args s == x ++ [0]) &&
     (s0.tenant? 0).any (fun t => t.cores.getLsbD 0 && !t.cores.getLsbD 1) && ((s0.updCore 0 (fun c => { c with saved := true })).core? 0).saved &&
     (adminAt 6 0 [0, 1, 1] 0 (s0.updCore 0 (fun c => { c with saved := true }))).adminHead.isSome &&
     -- RESTORE: out of range, no block, another cluster with and without the grant, a core that is not the tenant's, two blocks to one core, a busy core
     (let b (c : Nat) : SaveBlock := ⟨c, 0, 0x1000000, [], [], CoreSt.init c, [], []⟩
      let at_ := fun (bs : List SaveBlock) (x : List Nat) (n : BitVec 8) => { adminAt 7 0 x 0 (grant n s0) with saves := bs }
      ([at_ [] [36, 0, 0, 0] 0, at_ [] [0, 9, 0, 0] 0, at_ [] [0, 0, 4, 0] 0, at_ [] [0, 0, 0, 0] 0, at_ [b 0] [0, 0, 1, 0] 0, at_ [b 0] [0, 0, 1, 0] 4, at_ [b 0] [0, 0, 0, 0] 0,
        at_ [b 2] [0, 0, 0, 0] 0, at_ [b 0, b 1] [0, 0, 0, 0x300000] 4] : List State).all (fun s => head s 7 && s.saves.all (fun b => b.tenant == 0)) &&
      args (at_ [b 0] [0, 0, 1, 0] 4) == [0, 0, 1, 0] && (grant 4 s0).tenants.all (fun t => t.grants.getLsbD 2 && t.cores.getLsbD 32 && !t.cores.getLsbD 2) &&
      ([0, 1] : List Nat).all (fun c => (at_ [b 0, b 1] [0, 0, 0, 0x300000] 4).rd8 (keyHost (0x300000 + c)) == 0) &&
      ({ at_ [b 0] [0, 0, 0, 0] 0 with groups := [s0.g] } : State).groups.any (fun g => g.core == 0) && (at_ [b 0, b 32] [0, 0, 1, 0] 4).saves.any (fun x => x.core == 32 && x.core / 32 != 0)) &&
     -- TIME.SET: below the time base, and any value above it
     (let s := fun (x : Nat) => adminAt 12 0 [x] 0 { s0 with time := 5 }
      head (s 4) 12 && args (s 4) == [4, 0, 0, 0] && decide (4 < (s 4).time) && head (s (2 ^ 64 - 1)) 12 && head (s 5) 12) &&
     -- SLOT.SET: a slot that holds a contribution of which flits are to come
     (let d : BitVec 512 := BitVec.ofNat 512 (0x108000 + 2 ^ 96 + 64 * 2 ^ 112 + 2 ^ 200)
      let s := { adminAt 11 0 [4, 0x300000, 0, 7] d.toNat s0 with rslots := [{ rslot 1 [] with coming := [⟨1, 0, contrib 0 2, [], false⟩] }] }
      head s 11 && s.rslots.any (fun q => q.num == 4 && q.parts == [] && q.coming != []) && !slotDescBad d) &&
     (s0.tenant? 0).any (fun t => t.id == 0)) = true := by decide +kernel


/-! ## The assembler -/

/-- R37: the example, with or without the stroke mark of SSUB. -/
def triLines (bang : String) : List String :=
  [".func tri", ".vregs 8", "        MOV      s0, ZERO                ; sum := 0", "        MOV      s1, s32          !      ; i := n",
   "loop:   SADD     s0, s0, s1              ; sum := sum + i", "        SSUB     s1, s1, ONE      " ++ bang ++ "      ; i := i - 1",
   "        SCMP.gt  p1, s1, ZERO     !      ; p1 := all ones when i > 0", "        BRC.any  p1, loop", "        EXIT", ".endfunc"]

/-- R37: the words and the descriptor of the example. -/
theorem test_assemble : (match assemble (triLines "!") with
    | .ok o => o.entries == [("tri".toList, 0x40)] && o.code.take 7 == [0x4B4C4631, 8, 0xFFFFFFFF, 0x20, 0, 0, 0x00697274] &&
        o.code.drop 16 == [0x0180F800, 0x8181A000, 0x02808081, 0x838181FB, 0x942181F8, 0xA9E10000, 0xFFFFFFF4, 0xB1000000]
    | .error _ => false) = true := by decide +kernel

/-- R37: without the mark the window from `loop` holds a hazard. -/
theorem test_assemble_hazard : assemble (triLines "") = .error .hazard := by decide +kernel

/-- The words the spec gives for statements in its examples. -/
theorem test_assemble_words : ([("VFMA v5, v6, v7 !", [0xC4050607]), ("SETM fmt=bf16, rm=rtz, sr=1 !", [0xA5FF000E, 0x2A0]),
      ("CVT v8, v2, bf16", [0x54080204]), ("CSRW SLICE.SNAP, #1024", [0x39FF0402, 0x400]), ("CSRR s11, #0x0280", [0x388B0280]),
      ("FENCE.rel module", [0x72020400]), ("WAITC s4, q3, s6", [0xF384EB86]), ("BAR 1", [0xF4010000]), ("FUT.init s10", [0x78008A00]),
      ("JOIN.t p1, s4, s8", [0xF7098488]), ("SPAWNL p3, q4, a2", [0x76E3ECC2]), ("MCFG c0, s10", [0x7C008A00]),
      ("MOP.wait s6, c2", [0xFE860206]), ("COPY s4, q2, q3", [0x7F84EAEB]), ("csrw trap.act, #1 !", [0xB9FF0420, 1]),
      ("MOV s0, #-2.5e-1", [0x0180FF00, 0xBE800000])] : List (String × List Word)).all (fun e =>
    match lineOf e.1 with
    | .ok s => cellsOf [] 0 128 0 s == .ok (e.2.map Cell.word)
    | .error _ => false) = true := by decide +kernel

/-- R34, R36: sources that are rejected, in a function of eight vector registers. -/
theorem test_assemble_errors : ([(["FROB s0"], .unknownName), (["SUN.frob s0, s1"], .unknownName), ([".frob"], .unknownName),
      (["SADD v0, s0, s1"], .operand), (["SADD s0, #1, #2"], .twoLiterals), (["VADD v8, v0, v1"], .regrange), (["DADD s1, s2, s4"], .regalign),
      (["BR nowhere"], .undefinedLabel), (["FUT.init s0, s10"], .operand), (["MOV s0, #0x1_0000_0000"], .range), (["SETM sr=1, sr=0"], .keyword),
      (["BRT s0", "EXIT"], .targets), ([".byte 1"], .directive), (["x: NOP", "x: NOP"], .duplicate), (["f: NOP"], .duplicate),
      ([".func g"], .directive), ([".vregs 16"], .directive), (["x: y: NOP"], .badLine)] : List (List String × AsmError)).all (fun e =>
    assemble ([".func f", ".vregs 8"] ++ e.1 ++ [".endfunc"]) == .error e.2) = true := by decide +kernel
/-- R36: a function without `.vregs`. -/
theorem test_assemble_noVregs : assemble [".func f", ".endfunc"] = .error .noVregs := by decide +kernel
/-- R35: words of `.word` are checked as the hardware runs them: SADD s0, s0, s1 reads the s0 that MOV s0, ONE writes; under
`.hazard allow` they are emitted and the descriptor's flag is set. -/
theorem test_assemble_raw : assemble [".func f", ".vregs 8", ".word 0x0180FB00", ".word 0x02808081", "EXIT", ".endfunc"] = .error .hazard ∧
    (match assemble [".func f", ".vregs 8", ".hazard allow", ".word 0x0180FB00", ".word 0x02808081", "EXIT", ".endfunc"] with
     | .ok o => o.code[1]? == some 0x10008
     | .error _ => false) = true := by decide +kernel
end Sys2Proof.Tests
end

section
/-!
PROOFS. Decoding and encoding agree (R10, R15, R20 to R27, R29): the fields of a first word, the codes of its operands and
of the fields with a meaning of their own, then one row of the decoder for each instruction.
-/

namespace Sys2Proof

/-! ### The layout of a first word -/

/-- R10: the fields of a word are the ones it was built from. -/
@[simp] theorem fieldsOf_wordOf (sb : Bool) (maj : BitVec 7) (x y z : Byte) (rest : List Word) :
    fieldsOf (wordOf sb maj x y z) rest = ⟨sb, maj, x, y, z, rest⟩ := by
  have hsb : (BitVec.ofBool sb ++ maj ++ x ++ y ++ z).getLsbD 31 = sb := by
    simp only [BitVec.getLsbD_append]
    simp
  have hmaj : (BitVec.ofBool sb ++ maj ++ x ++ y ++ z).extractLsb' 24 7 = maj := by
    rw [BitVec.extractLsb'_append_eq_of_le (by decide), BitVec.extractLsb'_append_eq_of_le (by decide),
      BitVec.extractLsb'_append_eq_of_le (by decide), BitVec.extractLsb'_append_eq_of_add_le (by decide)]
    exact BitVec.extractLsb'_eq_self
  have hx : (BitVec.ofBool sb ++ maj ++ x ++ y ++ z).extractLsb' 16 8 = x := by
    rw [BitVec.extractLsb'_append_eq_of_le (by decide), BitVec.extractLsb'_append_eq_of_le (by decide),
      BitVec.extractLsb'_append_eq_of_add_le (by decide)]
    exact BitVec.extractLsb'_eq_self
  have hy : (BitVec.ofBool sb ++ maj ++ x ++ y ++ z).extractLsb' 8 8 = y := by
    rw [BitVec.extractLsb'_append_eq_of_le (by decide), BitVec.extractLsb'_append_eq_of_add_le (by decide)]
    exact BitVec.extractLsb'_eq_self
  have hz : (BitVec.ofBool sb ++ maj ++ x ++ y ++ z).extractLsb' 0 8 = z := by
    rw [BitVec.extractLsb'_append_eq_of_add_le (by decide)]
    exact BitVec.extractLsb'_eq_self
  exact Fields.mk.injEq .. ▸ ⟨hsb, hmaj, hx, hy, hz, rfl⟩

/-! ### Operand codes -/

/-- R15: the code of an operand as a number. -/
def Opnd.codeNat : Opnd → Nat
  | .v n => n
  | .s n => 0x80 + n
  | .a n => 0xC0 + n
  | .p n => 0xE0 + n
  | .q n => 0xE8 + n
  | .zero => 0xF8 | .lane => 0xF9 | .ones => 0xFA | .one => 0xFB | .quad => 0xFC | .fone => 0xFD | .lit _ => 0xFF

theorem Opnd.toNat_code (o : Opnd) : o.code.toNat = o.codeNat := by
  cases o with
  | v n | s n | a n | p n | q n =>
    have := n.isLt
    simp only [Opnd.code, Opnd.codeNat, BitVec.toNat_ofNat]
    omega
  | _ => rfl

theorem Opnd.exists_lit_of_kind {o : Opnd} (h : o.kind = .lit) : ∃ w, o = .lit w := by
  cases o with
  | lit w => exact ⟨w, rfl⟩
  | _ => cases h

/-- R20: a LIT operand is the word that stands behind the first word, where one does. -/
def Opnd.Agrees (rest : List Word) (o : Opnd) : Prop := ∀ w, o = .lit w → ∀ a ∈ rest.head?, a = w

/-- R20: a LIT operand whose word is not there. -/
def Opnd.lacks (rest : List Word) (o : Opnd) : Bool := o.kind == .lit && rest.isEmpty

theorem Opnd.ofCode_code_of_kind {o : Opnd} (h : o.kind ≠ .lit) (rest : List Word) : Opnd.ofCode o.code rest = .ok o := by
  unfold Opnd.ofCode
  cases o with
  | v n => simp [Opnd.toNat_code, Opnd.codeNat]
  | s n =>
    have hn := n.isLt
    have hc : (Opnd.s n).code.toNat = 0x80 + n := Opnd.toNat_code _
    rw [dif_neg (by omega), dif_pos (by omega)]
    simp [hc]
  | a n =>
    have hn := n.isLt
    have hc : (Opnd.a n).code.toNat = 0xC0 + n := Opnd.toNat_code _
    rw [dif_neg (by omega), dif_neg (by omega), dif_pos (by omega)]
    simp [hc]
  | p n =>
    have hn := n.isLt
    have hc : (Opnd.p n).code.toNat = 0xE0 + n := Opnd.toNat_code _
    rw [dif_neg (by omega), dif_neg (by omega), dif_neg (by omega), dif_pos (by omega)]
    simp [hc]
  | q n =>
    have hn := n.isLt
    have hc : (Opnd.q n).code.toNat = 0xE8 + n := Opnd.toNat_code _
    rw [dif_neg (by omega), dif_neg (by omega), dif_neg (by omega), dif_neg (by omega), dif_pos (by omega)]
    simp [hc]
  | lit w => exact absurd rfl h
  | zero | lane | ones | one | quad | fone => rfl

/-- R15, R20: a code names its operand, unless it is LIT and the words end behind the first one. -/
theorem Opnd.ofCode_code {o : Opnd} {rest : List Word} (h : o.Agrees rest) :
    Opnd.ofCode o.code rest = if o.lacks rest then .error .truncated else .ok o := by
  by_cases hk : o.kind = .lit
  · obtain ⟨w, rfl⟩ := Opnd.exists_lit_of_kind hk
    cases rest with
    | nil => rfl
    | cons a r => cases h w rfl a rfl; rfl
  · rw [Opnd.ofCode_code_of_kind hk, if_neg]
    simp [Opnd.lacks, hk]

theorem Opnd.ofCodeB_code {o : Opnd} (h : o.kind ≠ .lit) : Opnd.ofCodeB o.code = .ok o := by
  rw [Opnd.ofCodeB, if_neg, Opnd.ofCode_code_of_kind h]
  intro hc
  have h1 : o.codeNat = 0xFF := by rw [← Opnd.toNat_code, hc]; rfl
  cases o with
  | v n | s n | a n | p n | q n =>
    have := n.isLt
    simp only [Opnd.codeNat] at h1
    omega
  | lit w => exact h rfl
  | zero | lane | ones | one | quad | fone => cases h1

/-! ### Fields with a meaning of their own -/

theorem condField_condByte (c : Cond) (p : PReg) : condField (condByte c p) = some (c, p) := by
  revert p
  cases c <;> decide
theorem BTest.ofByte_byte (t : BTest) : BTest.ofByte t.byte = some t := by cases t <;> rfl
theorem APart.ofByte_byte (p : APart) : APart.ofByte p.byte = some p := by cases p <;> rfl
theorem Fmt.ofByte_byte (f : Fmt) : Fmt.ofByte f.byte = some f := by cases f <;> rfl
theorem Half.ofByte_byte (h : Half) : Half.ofByte (Half.byte h) = some h := by cases h <;> rfl
theorem RedOp.ofByte_byte (op : RedOp) : RedOp.ofByte op.byte = some op := by cases op <;> rfl
theorem PLevel.ofByte_byte (l : PLevel) : PLevel.ofByte l.byte = some l := by cases l <;> rfl
theorem Scope.ofByte_byte (sc : Scope) : Scope.ofByte sc.byte = some sc := by cases sc <;> rfl
theorem Slot.ofByte_finByte (n : Slot) : Slot.ofByte (finByte n) = some n := by revert n; decide
theorem Handle.ofByte_finByte (h : Handle) : Handle.ofByte (finByte h) = some h := by revert h; decide
theorem WHandle.ofByte_byte (h : WHandle) : WHandle.ofByte (WHandle.byte h) = some h := by revert h; decide
theorem VReg.ofByte_finByte (n : VReg) : VReg.ofByte (finByte n) = some n := by revert n; decide
theorem Code4.ofByte_byte (t : Code4) : Code4.ofByte (Code4.byte t) = some t := by revert t; decide
theorem joinField_clear (pd : PReg) : joinField (BitVec.ofNat 8 pd.val) = some (false, pd) := by revert pd; decide
theorem joinField_set (pd : PReg) : joinField (BitVec.ofNat 8 (8 + pd.val)) = some (true, pd) := by revert pd; decide

/-- The two bytes of a 16-bit number, put together again. -/
theorem bytes_append (n : BitVec 16) : n.extractLsb' 8 8 ++ n.extractLsb' 0 8 = n :=
  (BitVec.extractLsb'_append_extractLsb'_eq_extractLsb' (by decide)).trans BitVec.extractLsb'_eq_self

theorem maskField_bytes (m : BitVec 10) :
    maskField ((m.setWidth 16).extractLsb' 8 8) ((m.setWidth 16).extractLsb' 0 8) = some m := by
  have hm := m.isLt
  have hhi : ((m.setWidth 16).extractLsb' 8 8).toNat < 4 := by
    rw [BitVec.extractLsb'_toNat, BitVec.toNat_setWidth, Nat.shiftRight_eq_div_pow]
    omega
  have hlo : (m.setWidth 16).extractLsb' 0 10 = m := by
    apply BitVec.eq_of_toNat_eq
    rw [BitVec.extractLsb'_toNat, BitVec.toNat_setWidth, Nat.shiftRight_zero]
    omega
  rw [maskField, if_pos hhi, bytes_append, hlo]

theorem csrwRow_of_not_own (sb : Bool) (x : Opnd) {num : BitVec 16} (h : ownCsr num = false) :
    csrwRow sb x num = .csrw sb x num := by
  simp only [ownCsr, decide_eq_false_iff_not, not_or] at h
  simp only [csrwRow, h, if_false]

theorem own_eq {α : Type} {o : Option α} {v : α} (h : o = some v) (k : α → Dec) : own o k = k v := by rw [h]; rfl

/-! ### Rows of the decoder, by the fields that hold operands -/

/-- What decoding a first word with these operands answers, where the words behind it may end before a LIT. -/
def supply (rest : List Word) (os : List Opnd) (i : Instr) : Dec :=
  if os.any (Opnd.lacks rest) then .error .truncated else .ok i

section
variable {sb : Bool} {maj : BitVec 7} {a b c : Byte} {x y z : Opnd} {rest : List Word} {i : Instr}

theorem supply_cons (o : Opnd) (os : List Opnd) :
    supply rest (o :: os) i = if o.lacks rest then .error .truncated else supply rest os i := by
  unfold supply
  cases h : o.lacks rest <;> simp [h]

theorem opX_code (h : x.Agrees rest) (k : Opnd → Dec) :
    opX ⟨sb, maj, x.code, b, c, rest⟩ k = if x.lacks rest then .error .truncated else k x := by
  rw [opX, Opnd.ofCode_code h]
  split <;> rfl
theorem opY_code (h : y.Agrees rest) (k : Opnd → Dec) :
    opY ⟨sb, maj, a, y.code, c, rest⟩ k = if y.lacks rest then .error .truncated else k y := by
  rw [opY, Opnd.ofCode_code h]
  split <;> rfl
theorem opZ_code (h : z.Agrees rest) (k : Opnd → Dec) :
    opZ ⟨sb, maj, a, b, z.code, rest⟩ k = if z.lacks rest then .error .truncated else k z := by
  rw [opZ, Opnd.ofCode_code h]
  split <;> rfl

theorem rowX {k : Opnd → Dec} (hs : ∀ o ∈ [x], o.Agrees rest) (h : k x = .ok i) :
    opX ⟨sb, maj, x.code, b, c, rest⟩ k = supply rest [x] i := by
  rw [opX_code (hs _ (.head _)), supply_cons, h]
  rfl
theorem rowY {k : Opnd → Dec} (hs : ∀ o ∈ [y], o.Agrees rest) (h : k y = .ok i) :
    opY ⟨sb, maj, a, y.code, c, rest⟩ k = supply rest [y] i := by
  rw [opY_code (hs _ (.head _)), supply_cons, h]
  rfl
theorem rowZ {k : Opnd → Dec} (hs : ∀ o ∈ [z], o.Agrees rest) (h : k z = .ok i) :
    opZ ⟨sb, maj, a, b, z.code, rest⟩ k = supply rest [z] i := by
  rw [opZ_code (hs _ (.head _)), supply_cons, h]
  rfl
theorem rowXY {k : Opnd → Opnd → Dec} (hs : ∀ o ∈ [x, y], o.Agrees rest) (h : k x y = .ok i) :
    opX ⟨sb, maj, x.code, y.code, c, rest⟩ (fun x' => opY ⟨sb, maj, x.code, y.code, c, rest⟩ (k x')) =
      supply rest [x, y] i := by
  rw [opX_code (hs _ (.head _)), supply_cons, rowY (fun o ho => hs o (.tail _ ho)) h]
theorem rowYZ {k : Opnd → Opnd → Dec} (hs : ∀ o ∈ [y, z], o.Agrees rest) (h : k y z = .ok i) :
    opY ⟨sb, maj, a, y.code, z.code, rest⟩ (fun y' => opZ ⟨sb, maj, a, y.code, z.code, rest⟩ (k y')) =
      supply rest [y, z] i := by
  rw [opY_code (hs _ (.head _)), supply_cons, rowZ (fun o ho => hs o (.tail _ ho)) h]
theorem rowXYZ {k : Opnd → Opnd → Opnd → Dec} (hs : ∀ o ∈ [x, y, z], o.Agrees rest) (h : k x y z = .ok i) :
    opX ⟨sb, maj, x.code, y.code, z.code, rest⟩ (fun x' => opY ⟨sb, maj, x.code, y.code, z.code, rest⟩
      (fun y' => opZ ⟨sb, maj, x.code, y.code, z.code, rest⟩ (k x' y'))) = supply rest [x, y, z] i := by
  rw [opX_code (hs _ (.head _)), supply_cons, rowYZ (fun o ho => hs o (.tail _ ho)) h]
end

/-- R26: the branch-sequence forms, whose words behind the first are no LIT. -/
def Instr.branchForm : Instr → Bool
  | .br _ | .call _ | .brc _ _ _ | .loops _ _ | .bsplit _ _ _ | .brt _ _ | .callt _ _ => true
  | _ => false

/-- R29, R31: the first word of every other instruction decodes to it, unless the words end before its LIT. -/
theorem decodeFields_head {i : Instr} {w : Word} {rest : List Word} (hw : i.head = some w) (hb : i.branchForm = false)
    (hc : i.canonical = true) (hs : ∀ o ∈ i.slots.map (·.o), o.Agrees rest) :
    decodeFields (fieldsOf w rest) = supply rest (i.slots.map (·.o)) i := by
  cases i <;> cases hb <;> cases hw <;> rw [fieldsOf_wordOf]
  -- three operands
  case sadd | ssub | smul | smulh | smulhu | sand | sor | sxor | sshl | sshr | ssar | smin | smax | sminu | smaxu | sbfx
      | sbfi | ssel | dadd | dsub | dshl | dshr | aadd | ascl | ashl | aexp | pand | por | pxor | vadd | vsub | vmul | vmulh
      | vfma | vfms | vmin | vmax | vand | vor | vxor | vshl | vshr | vsel | vbfx | vbfi | vdot2 | vscl | qnt | dqnt | pack
      | xchg | shuf | bcast | ld | st | lds | sts | rld | rst | atadd | atmin | atmax | atand | ator | atxor | atxch | atcas
      | atbinc | spawn | spawnl | copy | waitc =>
    exact rowXYZ hs rfl
  -- operands in X and Y, a minor or a reserved field in Z
  case mov | sunNot | sunNeg | sunAbs | sunClz | sunCtz | sunPopc | sunBrev | sunBswap | sunSext8 | sunSext16 | sunZext8
      | sunZext16 | amov | punNot | punFirst | punLast | punSet | punGet | punCnt | pmov | vunNeg | vunAbs | vunNot | vunRcp
      | vunRsqrt | vunSqrt | vunExp2 | vunLog2 | vunFloor | vunCeil | vunTrunc | vunRint | vunClz | vunPopc | ballot
      | cacheIcinv | cacheWb | cacheInv | cacheWbinv | cacheZero | futPub | futSig | futSet | futFail | futPeek | teamFork
      | teamEnter | teamRank | teamSize | rsvTake | rsvCommit | crewFork | crewCancel | crewInit | crewPeek | mopRdrow
      | mopWrrow =>
    exact rowXY hs rfl
  -- one operand
  case getm | sinfoLanes | sinfoExec | sinfoCount | sinfoId | sinfoDepth | sinfoOvf | crewReport | crewAwait | sysc | trap
      | time =>
    exact rowX hs rfl
  case futInit | futCancel | teamLeave => exact rowY hs rfl
  -- no operand
  case nop | sjoin | ret | exit | yield | rft | bkpt => rfl
  -- CSRW words, those with rows of their own among them
  case csrr => exact rowX hs (congrArg (fun n => Except.ok (Instr.csrr _ _ n)) (bytes_append _))
  case csrw =>
    refine rowX hs (congrArg Except.ok ?_)
    rw [bytes_append]
    exact csrwRow_of_not_own _ _ (by simpa [Instr.canonical] using hc)
  case srSeedWrite | sliceClr | sliceSnap | cellarCarveWrite => exact rowX hs (by simp [csrwRow])
  -- fields with a meaning of their own
  case scmp cond pd y z | vcmp cond pd y z => exact (own_eq (condField_condByte cond pd) _).trans (rowYZ hs rfl)
  case aget part => exact rowXY hs (own_eq (APart.ofByte_byte part) _)
  case setm mask => exact rowX hs (own_eq (maskField_bytes mask) _)
  case liveDead b n | liveFetch b n => exact own_eq (VReg.ofByte_finByte b) _
  case cvt t => exact rowXY hs (own_eq (Code4.ofByte_byte t) _)
  case unpk half => exact rowXY hs (own_eq (Half.ofByte_byte half) _)
  case tag fmt => exact rowXY hs (own_eq (Fmt.ofByte_byte fmt) _)
  case scan op | vred op => exact rowXY hs (own_eq (RedOp.ofByte_byte op) _)
  case rset sel => cases sel <;> exact rowXY hs rfl
  case pref lv y z => exact (own_eq (PLevel.ofByte_byte lv) _).trans (rowYZ hs rfl)
  case fenceAcq sc | fenceRel sc | fenceAr sc => exact own_eq (Scope.ofByte_byte sc) _
  case bar slot => exact own_eq (Slot.ofByte_finByte slot) _
  case join pd y z => exact (own_eq (joinField_clear pd) _).trans (rowYZ hs rfl)
  case joinT pd y z => exact (own_eq (joinField_set pd) _).trans (rowYZ hs rfl)
  case mcfg h y | mloop h y | mopDrain h y | mopDrainn h y | mopFdrain h y =>
    exact (own_eq (Handle.ofByte_finByte h) _).trans (rowY hs rfl)
  case mopZero h => exact own_eq (Handle.ofByte_finByte h) _
  case mopWait h => exact rowX hs (own_eq (WHandle.ofByte_byte h) _)
  case mopCheck h => exact rowX hs (own_eq (Handle.ofByte_finByte h) _)

/-! ### The words behind the first one -/

/-- The word of a LIT operand. -/
def Opnd.litWord : Opnd → Option Word
  | .lit w => some w
  | _ => none

theorem Opnd.isSome_litWord (o : Opnd) : o.litWord.isSome = (o.kind == .lit) := by cases o <;> rfl

namespace Instr
variable {i : Instr}

theorem ext_eq_litWords (hb : i.branchForm = false) : i.ext = i.slots.filterMap (fun sl => sl.o.litWord) := by
  cases i <;> cases hb <;> rfl

theorem length_ext (hb : i.branchForm = false) : i.ext.length = i.lits := by
  rw [ext_eq_litWords hb, List.length_filterMap_eq_countP, List.countP_eq_length_filter, lits]
  simp only [Opnd.isSome_litWord]

theorem lit_mem_ext (hb : i.branchForm = false) {w : Word} (h : Opnd.lit w ∈ i.slots.map (·.o)) : w ∈ i.ext := by
  rw [ext_eq_litWords hb, List.mem_filterMap]
  obtain ⟨sl, hsl, he⟩ := List.mem_map.1 h
  exact ⟨sl, hsl, by rw [he]; rfl⟩

theorem exists_lit_of_ext (hb : i.branchForm = false) (h : i.ext ≠ []) : ∃ o ∈ i.slots.map (·.o), o.kind = .lit := by
  obtain ⟨w, hw⟩ := List.exists_mem_of_ne_nil _ h
  rw [ext_eq_litWords hb, List.mem_filterMap] at hw
  obtain ⟨sl, hsl, he⟩ := hw
  refine ⟨sl.o, List.mem_map_of_mem hsl, ?_⟩
  simpa [he] using (Opnd.isSome_litWord sl.o).symm

/-- R20: where one operand at most is a LIT, every LIT is the first of the words behind the first word. -/
theorem agrees (hb : i.branchForm = false) (hl : i.lits ≤ 1) {rest : List Word}
    (hr : ∀ a ∈ rest.head?, i.ext ≠ [] → a ∈ i.ext) : ∀ o ∈ i.slots.map (·.o), o.Agrees rest := by
  rintro o ho w rfl a ha
  have hw : w ∈ i.ext := lit_mem_ext hb ho
  have ha : a ∈ i.ext := hr a ha (List.ne_nil_of_mem hw)
  have hlen : i.ext.length ≤ 1 := by rwa [length_ext hb]
  obtain ⟨v, hv⟩ := List.length_eq_one_iff.1 (le_antisymm hlen (List.length_pos_of_mem hw))
  rw [hv, List.mem_singleton] at hw ha
  rw [ha, hw]

theorem accepted_iff (i : Instr) :
    i.accepted = true ↔ (∀ sl ∈ i.slots, sl.cls.accepts sl.o = true) ∧ i.lits ≤ 1 ∧ i.fieldsOk = true := by
  simp [accepted, and_assoc]

/-- R20: no position of a branch-sequence form takes LIT. -/
theorem not_lit_of_branchForm (hb : i.branchForm = true) (ha : i.accepted = true) : ∀ sl ∈ i.slots, sl.o.kind ≠ .lit := by
  intro sl hsl
  have hacc := ((accepted_iff i).1 ha).1 sl hsl
  have hcls : sl.cls = .pr ∨ sl.cls = .ix ∨ sl.cls = .cnt := by
    cases i <;> cases hb
    case br | call => cases hsl
    case brc | loops | bsplit | brt | callt => cases List.mem_singleton.1 hsl; simp
  intro hk
  rcases hcls with h | h | h <;> simp [Cls.accepts, h, hk, Cls.codes] at hacc

theorem tableLength_of_fieldsOk (x : Opnd) {ts : List Word} (h : (Instr.brt x ts).fieldsOk = true) :
    1 ≤ ts.length ∧ ts.length ≤ 256 := by
  simp only [fieldsOk, Bool.and_eq_true, decide_eq_true_eq] at h
  exact ⟨h.1.2, h.2⟩

end Instr

theorem decodeFields_operands {i : Instr} {w : Word} (hw : i.head = some w) (hb : i.branchForm = false) (hl : i.lits ≤ 1)
    (hc : i.canonical = true) (rest : List Word) : decodeFields (fieldsOf w (i.ext ++ rest)) = .ok i := by
  rw [decodeFields_head hw hb hc (Instr.agrees hb hl ?_), supply, if_neg]
  · rw [Bool.not_eq_true, List.any_eq_false]
    intro o ho h
    simp only [Opnd.lacks, Bool.and_eq_true, beq_iff_eq, List.isEmpty_iff, List.append_eq_nil_iff] at h
    obtain ⟨hk, he, -⟩ := h
    obtain ⟨v, rfl⟩ := Opnd.exists_lit_of_kind hk
    exact List.ne_nil_of_mem (Instr.lit_mem_ext hb ho) he
  · intro a ha he
    obtain ⟨v, l, hv⟩ := List.exists_cons_of_ne_nil he
    rw [hv] at ha ⊢
    cases ha
    exact .head _

theorem decodeFields_operands_short {i : Instr} {w : Word} (hw : i.head = some w) (hb : i.branchForm = false)
    (hl : i.lits ≤ 1) (hc : i.canonical = true) (he : i.ext ≠ []) : decodeFields (fieldsOf w []) = .error .truncated := by
  rw [decodeFields_head hw hb hc (Instr.agrees hb hl (by simp)), supply, if_pos]
  obtain ⟨o, ho, hk⟩ := Instr.exists_lit_of_ext hb he
  exact List.any_eq_true.2 ⟨o, ho, by simp [Opnd.lacks, hk]⟩

/-! ### Branch-sequence forms -/

theorem opXB_eq {sb : Bool} {maj : BitVec 7} {x : Opnd} {b c : Byte} {rest : List Word} (h : x.kind ≠ .lit)
    {k : Opnd → Dec} {d : Dec} (hk : k x = d) : opXB ⟨sb, maj, x.code, b, c, rest⟩ k = d := by
  rw [opXB, Opnd.ofCodeB_code h]
  exact hk

section
variable {ts : List Word} (h1 : 1 ≤ ts.length) (h2 : ts.length ≤ 256)
include h1 h2

theorem extTable_held (rest : List Word) (k : List Word → Dec) :
    extTable (BitVec.ofNat 32 ts.length :: (ts ++ rest)) k = k ts := by
  have hn : (BitVec.ofNat 32 ts.length).toNat = ts.length := by rw [BitVec.toNat_ofNat]; omega
  have h3 : ¬ (ts.length = 0 ∨ 256 < ts.length) := by omega
  have h4 : ¬ (ts ++ rest).length < ts.length := by simp
  simp only [extTable, hn, h3, h4, if_false, List.take_left]

theorem extTable_short {n : Nat} (h : n < ts.length + 1) (k : List Word → Dec) :
    extTable ((BitVec.ofNat 32 ts.length :: ts).take n) k = .error .truncated := by
  cases n with
  | zero => rfl
  | succ n =>
    have hn : (BitVec.ofNat 32 ts.length).toNat = ts.length := by rw [BitVec.toNat_ofNat]; omega
    have h3 : ¬ (ts.length = 0 ∨ 256 < ts.length) := by omega
    have h4 : n < ts.length := by omega
    simp only [extTable, List.take_succ_cons, hn, h3, if_false, List.length_take, min_eq_left h4.le, h4, if_true]
end

theorem decodeFields_branch {i : Instr} {w : Word} (hw : i.head = some w) (hb : i.branchForm = true) (ha : i.accepted = true)
    (rest : List Word) : decodeFields (fieldsOf w (i.ext ++ rest)) = .ok i := by
  have hx := Instr.not_lit_of_branchForm hb ha
  obtain ⟨-, -, hf⟩ := (Instr.accepted_iff i).1 ha
  cases i <;> cases hb <;> cases hw <;> rw [fieldsOf_wordOf]
  case br | call => rfl
  case loops | bsplit => exact opXB_eq (hx _ (.head _)) rfl
  case brc x t off => exact opXB_eq (hx _ (.head _)) (own_eq (BTest.ofByte_byte t) _)
  case brt x ts =>
    obtain ⟨h1, h2⟩ := Instr.tableLength_of_fieldsOk x hf
    exact opXB_eq (hx _ (.head _)) (extTable_held h1 h2 rest fun us => Except.ok (Instr.brt x us))
  case callt x ts =>
    obtain ⟨h1, h2⟩ := Instr.tableLength_of_fieldsOk x hf
    exact opXB_eq (hx _ (.head _)) (extTable_held h1 h2 rest fun us => Except.ok (Instr.callt x us))

theorem decodeFields_branch_short {i : Instr} {w : Word} (hw : i.head = some w) (hb : i.branchForm = true)
    (ha : i.accepted = true) {n : Nat} (hn : n < i.ext.length) :
    decodeFields (fieldsOf w (i.ext.take n)) = .error .truncated := by
  have hx := Instr.not_lit_of_branchForm hb ha
  obtain ⟨-, -, hf⟩ := (Instr.accepted_iff i).1 ha
  cases i <;> cases hb <;> cases hw <;> rw [fieldsOf_wordOf]
  case br | call => cases Nat.lt_one_iff.1 hn; rfl
  case loops => cases Nat.lt_one_iff.1 hn; exact opXB_eq (hx _ (.head _)) rfl
  case brc x t off => cases Nat.lt_one_iff.1 hn; exact opXB_eq (hx _ (.head _)) (own_eq (BTest.ofByte_byte t) _)
  case bsplit =>
    obtain rfl | rfl : n = 0 ∨ n = 1 := Nat.le_one_iff_eq_zero_or_eq_one.1 (Nat.le_of_lt_succ hn)
    · exact opXB_eq (hx _ (.head _)) rfl
    · exact opXB_eq (hx _ (.head _)) rfl
  case brt x ts =>
    obtain ⟨h1, h2⟩ := Instr.tableLength_of_fieldsOk x hf
    exact opXB_eq (hx _ (.head _)) (extTable_short h1 h2 hn fun us => Except.ok (Instr.brt x us))
  case callt x ts =>
    obtain ⟨h1, h2⟩ := Instr.tableLength_of_fieldsOk x hf
    exact opXB_eq (hx _ (.head _)) (extTable_short h1 h2 hn fun us => Except.ok (Instr.callt x us))

/-! ### Whole instructions -/

theorem encode_eq_some {i : Instr} {ws : List Word} : encode i = some ws ↔ ∃ w, i.head = some w ∧ ws = w :: i.ext := by
  simp [encode, eq_comm]

theorem isSome_encode (i : Instr) : (encode i).isSome = !eventRow i := by cases i <;> rfl

/-- R10, R29: decoding the words of a well-formed instruction gives it back, and the words after it. -/
theorem decode_encode {i : Instr} {ws : List Word} (hi : i.wellFormed = true) (he : encode i = some ws) (rest : List Word) :
    decode (ws ++ rest) = .ok (i, rest) := by
  obtain ⟨w, hw, rfl⟩ := encode_eq_some.1 he
  obtain ⟨ha, hc⟩ := Bool.and_eq_true_iff.1 hi
  obtain ⟨-, hl, -⟩ := (Instr.accepted_iff i).1 ha
  have hd : decodeFields (fieldsOf w (i.ext ++ rest)) = .ok i := by
    cases hb : i.branchForm with
    | true => exact decodeFields_branch hw hb ha rest
    | false => exact decodeFields_operands hw hb hl hc rest
  have h2 : ¬ 2 ≤ i.lits := by omega
  simp [decode, hd, h2]

/-- R27: with fewer words than the instruction has, decoding finds it cut off and nothing else wrong. -/
theorem decode_take_encode {i : Instr} {ws : List Word} (hi : i.wellFormed = true) (he : encode i = some ws) {n : Nat}
    (hn : n < ws.length) : decode (ws.take n) = .error .truncated := by
  obtain ⟨w, hw, rfl⟩ := encode_eq_some.1 he
  obtain ⟨ha, hc⟩ := Bool.and_eq_true_iff.1 hi
  obtain ⟨-, hl, -⟩ := (Instr.accepted_iff i).1 ha
  cases n with
  | zero => rfl
  | succ n =>
    have hn : n < i.ext.length := by simpa using hn
    have hd : decodeFields (fieldsOf w (i.ext.take n)) = .error .truncated := by
      cases hb : i.branchForm with
      | true => exact decodeFields_branch_short hw hb ha hn
      | false =>
        have h1 := Instr.length_ext hb
        obtain rfl : n = 0 := by omega
        exact decodeFields_operands_short hw hb hl hc (List.ne_nil_of_length_pos hn)
    simp [decode, hd]

/-- R26: a branch with more than two words behind the first has a table there, under the count of its entries. -/
theorem Instr.exists_table {i : Instr} (hb : i.branchForm = true) (hf : i.fieldsOk = true) (h : 2 < i.ext.length) :
    ∃ ts : List Word, ts.length ≤ 256 ∧ i.ext = BitVec.ofNat 32 ts.length :: ts := by
  cases i <;> cases hb
  case br | call | brc | loops | bsplit => simp [Instr.ext] at h
  case brt x ts => exact ⟨ts, (Instr.tableLength_of_fieldsOk x hf).2, rfl⟩
  case callt x ts => exact ⟨ts, (Instr.tableLength_of_fieldsOk x hf).2, rfl⟩

/-- R26: the second word of an instruction of more than three words gives its length. -/
theorem length_encode_of_three_lt {i : Instr} {ws : List Word} (hi : i.wellFormed = true) (he : encode i = some ws)
    (h : 3 < ws.length) : ws.length = 2 + min 256 (ws.getD 1 0).toNat := by
  obtain ⟨w, -, rfl⟩ := encode_eq_some.1 he
  obtain ⟨ha, -⟩ := Bool.and_eq_true_iff.1 hi
  obtain ⟨-, hl, hf⟩ := (Instr.accepted_iff i).1 ha
  rw [List.length_cons] at h
  cases hb : i.branchForm with
  | false =>
    have := Instr.length_ext hb
    omega
  | true =>
    obtain ⟨ts, hts, he⟩ := Instr.exists_table hb hf (Nat.lt_of_succ_lt_succ h)
    simp only [he, List.length_cons, List.getD_cons_succ, List.getD_cons_zero, BitVec.toNat_ofNat]
    omega

/-- Settles O59: every row of the decoder reads back the fields that `Instr.head` writes, and the words behind the first
one are the LIT of the one operand that has it, or those of a branch-sequence form. -/
theorem roundTrip : Obligations.RoundTrip :=
  ⟨fun i => by rw [isSome_encode, Bool.not_eq_true'], fun _ _ rest hi he => decode_encode hi he rest⟩

/-- Settles O57: each word is evaluated. -/
theorem decodeWords : Obligations.DecodeWords := by
  unfold Obligations.DecodeWords
  decide

end Sys2Proof
end

section
/-!
PROOFS. Every instruction word goes through `issue`, and what the checks of R30 and R63 answer, in their order.
-/

namespace Sys2Proof.Machine

open Sys2Proof Sys2Proof.Laws

/-! ### Every word goes through issue -/

/-- An outcome is the issue of an instruction word, with some effect of its own. -/
def Issues (i : Instr) (s : State) (o : Host.Outcome State Fault Refusal) : Prop := ∃ body, o = issue i s body

theorem issue_issues (i : Instr) (s : State) (body : State → Res Act) : Issues i s (issue i s body) := ⟨body, rfl⟩
theorem issueDone_issues (i : Instr) (s : State) (f : State → Res State) : Issues i s (issueDone i s f) := issue_issues _ _ _
theorem scalarD_issues (i : Instr) (s : State) (x y z : Opnd) (f : Word → Word → Word) : Issues i s (scalarD i x y z f s) :=
  issueDone_issues _ _ _
theorem scalarU_issues (i : Instr) (s : State) (x y : Opnd) (f : Word → Word) : Issues i s (scalarU i x y f s) :=
  issueDone_issues _ _ _
theorem pairD_issues (i : Instr) (s : State) (x : Opnd) (f : State → DWord) : Issues i s (pairD i x s f) :=
  issueDone_issues _ _ _
theorem affineD_issues (i : Instr) (s : State) (x : Opnd) (f : State → Affine) : Issues i s (affineD i x s f) :=
  issueDone_issues _ _ _
theorem predD_issues (i : Instr) (s : State) (x : Opnd) (f : State → BitVec 16) : Issues i s (predD i x s f) :=
  issueDone_issues _ _ _

/-- Every instruction word of the map goes through `issue`. -/
theorem exec_issues {i : Instr} (hi : i.head.isSome = true) (s : State) : Issues i s (exec i s) := by
  -- `exec` and `issue` unfold at the same height: the meaning of each case must stand in the goal first
  delta exec
  cases i
  case nop | mov | sbfi | scmp | ssel | aget | punGet | punCnt | setm | getm | yield | sinfoLanes | sinfoExec | sinfoCount
      | sinfoId | sinfoDepth | sinfoOvf | liveDead | liveFetch | csrr | time | vadd | vsub | vmul | vmulh | vfma | vfms
      | vmin | vmax | vand | vor | vxor | vshl | vshr | vcmp | vsel | vunNeg | vunAbs | vunNot | vunRcp | vunRsqrt | vunSqrt
      | vunExp2 | vunLog2 | vunFloor | vunCeil | vunTrunc | vunRint | vunClz | vunPopc | vbfx | vbfi | vdot2 | vscl | cvt
      | qnt | dqnt | pack | unpk | tag | ballot | xchg | shuf | bcast | scan | vred | st | sts | rst | rset | pref
      | cacheIcinv | cacheWb | cacheInv | cacheWbinv | cacheZero | fenceAcq | fenceRel | fenceAr | teamEnter | teamLeave
      | teamRank | teamSize | rsvTake | rsvCommit | mloop | mopDrain | mopDrainn | mopFdrain | mopZero | mopWrrow | mopCheck
      | copy =>
    exact issueDone_issues _ _ _
  case br | brc | bsplit | sjoin | brt | call | callt | ret | loops | exit | trap | sysc | rft | csrw | srSeedWrite
      | sliceClr | sliceSnap | cellarCarveWrite | bkpt | ld | lds | rld | atadd | atmin | atmax | atand | ator | atxor
      | atxch | atcas | atbinc | waitc | bar | spawn | spawnl | join | joinT | futInit | futPub | futSig | futSet | futFail
      | futCancel | futPeek | teamFork | crewFork | crewReport | crewAwait | crewCancel | crewInit | crewPeek | mcfg
      | mopRdrow | mopWait =>
    exact issue_issues _ _ _
  case sadd | ssub | smul | smulh | smulhu | sand | sor | sxor | sshl | sshr | ssar | smin | smax | sminu | smaxu | sbfx =>
    exact scalarD_issues _ _ _ _ _ _
  case sunNot | sunNeg | sunAbs | sunClz | sunCtz | sunPopc | sunBrev | sunBswap | sunSext8 | sunSext16 | sunZext8
      | sunZext16 =>
    exact scalarU_issues _ _ _ _ _
  case dadd | dsub | dshl | dshr =>
    exact pairD_issues _ _ _ _
  case amov | aadd | ascl | ashl | aexp =>
    exact affineD_issues _ _ _ _
  case pand | por | pxor | punNot | punFirst | punLast | punSet | pmov =>
    exact predD_issues _ _ _ _
  -- the events of the machine
  all_goals cases hi

/-! ### The checks before an instruction takes effect -/

theorem slotAligned_iff (sl : OSlot) (k : Nat) : slotAligned sl k = true ↔ ∀ n, regNo sl.o = some n → n % k = 0 := by
  unfold slotAligned
  cases regNo sl.o <;> simp

theorem slotInRange_iff (sl : OSlot) (k v : Nat) : slotInRange sl k v = true ↔ ∀ n, sl.o = .v n → n.val + k ≤ v := by
  unfold slotInRange
  cases sl.o <;> simp

theorem slotGroupWide_iff (sl : OSlot) : slotGroupWide sl = true ↔
    clsWrites sl.cls = true ∧ ((∃ n, sl.o = .s n ∧ 16 ≤ n.val) ∨ ∃ n, sl.o = .a n ∧ 8 ≤ n.val) := by
  unfold slotGroupWide
  cases sl.o <;> simp

/-- R6, R170: every wide operand starts at a multiple of its width. -/
def State.aligned (s : State) (i : Instr) : Prop := ∀ sl ∈ i.slots, ∀ n, regNo sl.o = some n → n % s.slotCount i sl = 0

/-- R96, R169: every vector register that the instruction names is below the declared count. -/
def State.inRange (s : State) (i : Instr) : Prop :=
  (∀ sl ∈ i.slots, ∀ n, sl.o = .v n → n.val + s.slotCount i sl ≤ tVregs s.g.record) ∧
    liveRange i ≤ tVregs s.g.record

/-- R63: the instruction writes a register that belongs to the group. -/
def writesGroupWide (i : Instr) : Prop := ∃ sl ∈ i.slots, clsWrites sl.cls = true ∧
  ((∃ n, sl.o = .s n ∧ 16 ≤ n.val) ∨ ∃ n, sl.o = .a n ∧ 8 ≤ n.val)

theorem any_unaligned_iff (s : State) (i : Instr) :
    i.slots.any (fun sl => !slotAligned sl (s.slotCount i sl)) = true ↔ ¬ s.aligned i := by
  simp only [List.any_eq_true, Bool.not_eq_true', ← Bool.not_eq_true, slotAligned_iff, State.aligned, not_forall, exists_prop]

theorem outOfRange_iff (s : State) (i : Instr) :
    (i.slots.any (fun sl => !slotInRange sl (s.slotCount i sl) (tVregs s.g.record)) ||
      decide (tVregs s.g.record < liveRange i)) = true ↔ ¬ s.inRange i := by
  simp only [Bool.or_eq_true, decide_eq_true_eq, List.any_eq_true, Bool.not_eq_true', ← Bool.not_eq_true, slotInRange_iff,
    State.inRange, not_and_or, not_forall, exists_prop, not_le]

theorem any_groupWide_iff (i : Instr) : i.slots.any slotGroupWide = true ↔ writesGroupWide i := by
  simp only [List.any_eq_true, slotGroupWide_iff, writesGroupWide]

section
variable {s : State} {i : Instr}

theorem precheck_invop (ha : i.accepted = false) : s.precheck i = trapOf .invop := by
  unfold State.precheck
  rw [if_pos (by simp [ha])]

theorem precheck_regalign (ha : i.accepted = true) (hal : ¬ s.aligned i) : s.precheck i = trapOf .regalign := by
  unfold State.precheck
  rw [if_neg (by simp [ha]), if_pos ((any_unaligned_iff s i).2 hal)]

theorem precheck_regrange (ha : i.accepted = true) (hal : s.aligned i) (hin : ¬ s.inRange i) :
    s.precheck i = trapOf .regrange := by
  unfold State.precheck
  rw [if_neg (by simp [ha]), if_neg (mt (any_unaligned_iff s i).1 (not_not_intro hal)), if_pos ((outOfRange_iff s i).2 hin)]

theorem precheck_of_inRange (ha : i.accepted = true) (hal : s.aligned i) (hin : s.inRange i) :
    s.precheck i = if s.divided && i.slots.any slotGroupWide then trapOf .splitwrite else .ok () := by
  unfold State.precheck
  rw [if_neg (by simp [ha]), if_neg (mt (any_unaligned_iff s i).1 (not_not_intro hal)),
    if_neg (mt (outOfRange_iff s i).1 (not_not_intro hin))]

theorem precheck_splitwrite (ha : i.accepted = true) (hal : s.aligned i) (hin : s.inRange i) (hd : s.divided = true)
    (hg : writesGroupWide i) : s.precheck i = trapOf .splitwrite := by
  rw [precheck_of_inRange ha hal hin, if_pos (by simp [hd, (any_groupWide_iff i).2 hg])]

theorem precheck_ok_iff : s.precheck i = .ok () ↔
    i.accepted = true ∧ s.aligned i ∧ s.inRange i ∧ (s.divided = true → ¬ writesGroupWide i) := by
  constructor
  · intro h
    have ha : i.accepted = true := by
      by_contra hn
      simp [precheck_invop (Bool.eq_false_of_not_eq_true hn), trapOf] at h
    have hal : s.aligned i := by
      by_contra hn
      simp [precheck_regalign ha hn, trapOf] at h
    have hin : s.inRange i := by
      by_contra hn
      simp [precheck_regrange ha hal hn, trapOf] at h
    exact ⟨ha, hal, hin, fun hd hg => by simp [precheck_splitwrite ha hal hin hd hg, trapOf] at h⟩
  · rintro ⟨ha, hal, hin, hg⟩
    rw [precheck_of_inRange ha hal hin, if_neg]
    simpa only [Bool.and_eq_true, any_groupWide_iff, not_and] using hg
end

theorem trapsAtDecode {i : Instr} {s : State} (hi : i.head.isSome = true) (hr : s.running = true) {c : TrapCode}
    (hp : s.precheck i = trapOf c) : TrapsAtDecode i s (trapCode c) := by
  obtain ⟨body, hb⟩ := exec_issues hi s
  rw [TrapsAtDecode, hb]
  exact issue_stop hr hp body

/-- Settles O30: every word goes through `issue`, whose first act is `precheck`. -/
theorem issueChecks : Obligations.IssueChecks := by
  intro s i hi hr aligned inRange groupWide
  refine ⟨fun ha => trapsAtDecode hi hr (precheck_invop ha), fun ha hal => trapsAtDecode hi hr (precheck_regalign ha hal),
    fun ha hal hin => trapsAtDecode hi hr (precheck_regrange ha hal hin),
    fun ha hal hin hd hg => trapsAtDecode hi hr (precheck_splitwrite ha hal hin hd hg), ?_⟩
  rw [ready_iff, precheck_ok_iff]
  simp only [hr, true_and, and_assoc]
  rfl

end Sys2Proof.Machine
end

section
/-!
PROOFS. The end of a position (R12, R13, R83, R91): where it leads, and what `retire` leaves.
-/

namespace Sys2Proof.Machine

open Sys2Proof Sys2Proof.Laws

/-- Where the position that ends leads: the loop, the next pc, and whether it goes back to the start of a LOOPS body. -/
def State.leads (s : State) (i : Instr) (target : Option DWord) : Option LoopSt × DWord × Bool :=
  match target with
  | some a => (loopJump s.sp.loop a, a, false)
  | none => loopNext s.sp.loop (s.sp.pc + BitVec.ofNat 64 (4 * i.len))

section
variable (s : State) (i : Instr) (bit : Bool) (target : Option DWord)
theorem retire_pc : (s.retire i bit target).sp.pc = (s.leads i target).2.1 := rfl
theorem retire_loop : (s.retire i bit target).sp.loop = (s.leads i target).1 := rfl
theorem retire_st : (s.retire i bit target).sp.st =
    if i.strokeBit || s.sp.pos == 63 || (s.leads i target).2.2 then .win else .run := rfl
theorem retire_pos : (s.retire i bit target).sp.pos = s.sp.pos + 1 := rfl
theorem retire_asked : (s.retire i bit target).sp.asked = none := rfl
theorem retire_wcm : (s.retire i bit target).sp.wcm =
  if bit then s.sp.wcm ||| BitVec.ofNat 64 (2 ^ s.sp.pos) else s.sp.wcm := rfl
theorem retire_rest :
    ({ (s.retire i bit target) with sp := s.sp, g := { (s.retire i bit target).g with vuse := s.g.vuse } } : State) = s := rfl
theorem retire_split :
    ({ (s.retire i bit target).sp with
        pc := s.sp.pc, after := s.sp.after, loop := s.sp.loop, wcm := s.sp.wcm, pos := s.sp.pos, wend := s.sp.wend,
        st := s.sp.st, asked := s.sp.asked } : Split) = s.sp := rfl
end

theorem loopNext_end {l : LoopSt} {next : DWord} (h : next = l.stop) (hl : l.left ≤ 1) :
    loopNext (some l) next = (none, next, false) := by
  simp only [loopNext, if_pos h, if_neg (Nat.not_lt.2 hl)]
theorem loopNext_again {l : LoopSt} {next : DWord} (h : next = l.stop) (hl : 1 < l.left) :
    loopNext (some l) next = (some { l with left := l.left - 1 }, l.start, true) := by
  simp only [loopNext, if_pos h, if_pos hl]
theorem loopNext_inside {l : LoopSt} {next : DWord} (h : next ≠ l.stop) : loopNext (some l) next = (some l, next, false) := by
  simp only [loopNext, if_neg h]
theorem loopJump_inside {l : LoopSt} {a : DWord} (h : l.start.toNat ≤ a.toNat ∧ a.toNat < l.stop.toNat) :
    loopJump (some l) a = some l := by
  simp only [loopJump, BitVec.le_def, BitVec.lt_def, Bool.and_eq_true, decide_eq_true_eq, if_pos h]
theorem loopJump_outside {l : LoopSt} {a : DWord} (h : ¬ (l.start.toNat ≤ a.toNat ∧ a.toNat < l.stop.toNat)) :
    loopJump (some l) a = none := by
  simp only [loopJump, BitVec.le_def, BitVec.lt_def, Bool.and_eq_true, decide_eq_true_eq, if_neg h]

/-- Settles O8: the parts of `retire`, by where the position leads. -/
theorem positionEnd : Obligations.PositionEnd := by
  intro s i bit seq last moved
  have hseq {l : Option LoopSt} (hl : s.sp.loop = l) : s.leads i none = loopNext l seq := by rw [← hl]; rfl
  have hst {target : Option DWord} (h : (s.leads i target).2.2 = false) :
      (s.retire i bit target).sp.st = if last then .win else .run := by
    rw [retire_st, h, Bool.or_false]
  refine ⟨fun target => ?_, fun hl => ?_, fun l hl hs hn => ?_, fun l hl hs hn => ?_, fun l hl hs => ?_, fun a => ?_⟩
  · exact ⟨retire_pos .., retire_wcm .., retire_rest .., retire_asked .., retire_split ..⟩
  · have h : s.leads i none = (none, seq, false) := hseq hl
    exact ⟨by rw [retire_pc, h], by rw [retire_loop, h], hst (by rw [h])⟩
  · have h := (hseq hl).trans (loopNext_again hs hn)
    exact ⟨by rw [retire_pc, h], by rw [retire_loop, h], by rw [retire_st, h, Bool.or_true, if_pos rfl]⟩
  · have h := (hseq hl).trans (loopNext_end hs hn)
    exact ⟨by rw [retire_pc, h], by rw [retire_loop, h], hst (by rw [h])⟩
  · have h := (hseq hl).trans (loopNext_inside hs)
    exact ⟨by rw [retire_pc, h], by rw [retire_loop, h], hst (by rw [h])⟩
  · have hloop : (s.retire i bit (some a)).sp.loop = loopJump s.sp.loop a := rfl
    refine ⟨rfl, hst rfl, fun hl => ?_, fun l hl ha => ?_, fun l hl ha => ?_⟩
    · rw [hloop, hl]; rfl
    · rw [hloop, hl, loopJump_inside ha]
    · rw [hloop, hl, loopJump_outside ha]

end Sys2Proof.Machine
end

section
/-!
PROOFS. NOP and MOV (R14, R18, R67).
-/

namespace Sys2Proof.Machine

open Sys2Proof Sys2Proof.Laws

section
variable {sb : Bool} {x y : Opnd} {s : State}

theorem exec_mov_scalar {n : Fin 64} (h : s.ready (.mov sb (.s n) y) = true) :
    Completes (.mov sb (.s n) y) s (s.setS n (s.sval y)) := by
  rw [Completes, exec_mov, execMov, issueDone_ready h]

theorem exec_mov_masked (h : s.ready (.mov sb x y) = true) (hx : ∀ n, x ≠ .s n) (he : s.exec = 0) :
    Completes (.mov sb x y) s s := by
  rw [Completes, exec_mov, execMov, issueDone_ready h]
  cases x with
  | s n => exact absurd rfl (hx n)
  | _ => simp only [if_pos he]

/-- R67: a ready MOV by what its source gives, where the destination is no scalar register and some lane executes. -/
theorem exec_mov_lanes (h : s.ready (.mov sb x y) = true) (hx : ∀ n, x ≠ .s n) (he : s.exec ≠ 0) :
    exec (.mov sb x y) s = match movSource s y with
      | .error (.trap e) => .next (s.trips (.mov sb x y) e)
      | .error e => .next (s.stop e)
      | .ok r => .next ((s.wVO x s.exec (fun l => r.1[l]) r.2).finish (.mov sb x y)) := by
  rw [exec_mov, execMov, issueDone_ready h]
  cases x with
  | s n => exact absurd rfl (hx n)
  | _ =>
    simp only [if_neg he]
    cases movSource s y with
    | error e => cases e <;> rfl
    | ok r => rfl

theorem exec_mov_copies {lanes : Vector Word 16} {t : Tag} (h : s.ready (.mov sb x y) = true) (hx : ∀ n, x ≠ .s n)
    (he : s.exec ≠ 0) (hy : movSource s y = .ok (lanes, t)) :
    Completes (.mov sb x y) s (s.wVO x s.exec (fun l => lanes[l]) t) := by
  rw [Completes, exec_mov_lanes h hx he, hy]

theorem exec_mov_traps {t : TrapReq} (h : s.ready (.mov sb x y) = true) (hx : (∃ n, x = .v n) ∨ x = .zero) (he : s.exec ≠ 0)
    (hy : movSource s y = .error (.trap t)) : Traps (.mov sb x y) s t := by
  have hs : ∀ n, x ≠ .s n := by rcases hx with ⟨n, rfl⟩ | rfl <;> simp
  rw [Traps, exec_mov_lanes h hs he, hy]

theorem movSource_fmt {m : Fin 128} {f : Fmt} (h : (s.getV m).tag = .fmt f) :
    movSource s (.v m) = .ok ((s.getV m).lanes, .fmt f) := by
  simp only [movSource, h]
theorem movSource_dead {m : Fin 128} (h : (s.getV m).tag = .dead) :
    movSource s (.v m) = .ok (Vector.replicate 16 0, .fmt .raw32) := by
  simp only [movSource, h]
theorem movSource_poison {m : Fin 128} (h : (s.getV m).tag = .poison) :
    movSource s (.v m) = .error (.trap { code := .poison, addr := (s.getV m).paddr }) := by
  simp only [movSource, h]
theorem movSource_invalid {m : Fin 128} (h : (s.getV m).tag = .invalid) :
    movSource s (.v m) = .error (.trap (trapCode .tagmismatch)) := by
  simp only [movSource, h]
  rfl
theorem movSource_operand (hv : ∀ m, y ≠ .v m) (hf : foneBad (modeFmt s.mode) y = false) :
    movSource s y = .ok (s.lanesOfOpnd (modeFmt s.mode) y, .fmt .raw32) := by
  cases y with
  | v m => exact absurd rfl (hv m)
  | _ => simp [movSource, hf]
theorem movSource_fone (hf : foneBad (modeFmt s.mode) .fone = true) : movSource s .fone = .error (.trap (trapCode .invop)) := by
  simp only [movSource, hf, if_true]
  rfl
end

/-- Settles O1: what MOV copies is what `movSource` gives, source by source. -/
theorem nopMovResults : Obligations.NopMovResults := by
  intro s sb y
  have notS : ∀ n k, Opnd.v n ≠ .s k := fun _ _ => Opnd.noConfusion
  have zeroNotS : ∀ k, Opnd.zero ≠ .s k := fun _ => Opnd.noConfusion
  refine ⟨fun h => ?_, fun n h => exec_mov_scalar h, fun n h he => exec_mov_masked h (notS n) he, fun n h he hv hf => ?_,
    fun x h hx he hf => exec_mov_traps h hx he (movSource_fone hf),
    fun n m f h he ht => exec_mov_copies h (notS n) he (movSource_fmt ht), fun n m h he ht => ?_,
    fun x m h hx he ht => exec_mov_traps h hx he (movSource_poison ht),
    fun x m h hx he ht => exec_mov_traps h hx he (movSource_invalid ht), fun m h ht => ?_, fun h hv hf => ?_⟩
  · rw [Completes, exec_nop, execNop, issueDone_ready h]
  · have hc := exec_mov_copies h (notS n) he (movSource_operand hv hf)
    simpa [State.lanesOfOpnd, State.wVO] using hc
  · have hc := exec_mov_copies h (notS n) he (movSource_dead ht)
    simpa [State.wVO] using hc
  · by_cases he : s.exec = 0
    · exact exec_mov_masked h zeroNotS he
    · rcases ht with h0 | ⟨f, hf⟩ | hd
      · exact absurd h0 he
      · exact exec_mov_copies h zeroNotS he (movSource_fmt hf)
      · exact exec_mov_copies h zeroNotS he (movSource_dead hd)
  · by_cases he : s.exec = 0
    · exact exec_mov_masked h zeroNotS he
    · exact exec_mov_copies h zeroNotS he (movSource_operand hv hf)

end Sys2Proof.Machine
end

section
/-!
PROOFS. Instruction fetch (R27, R30, R91, R139): where memory holds the words of an instruction, fetching them changes
nothing but the fetch copies of the core, and the step runs the instruction they encode.
-/

namespace Sys2Proof.Machine

open Sys2Proof Sys2Proof.Laws

/-! ### Lists changed in one place, and the words of a sector -/

theorem find?_upsert_same {α : Type} {p : α → Bool} {f : α → α} (hf : ∀ a, p a = true → p (f a) = true) {new : α}
    (hn : p new = true) (l : List α) : (upsert p f new l).find? p = some (f ((l.find? p).getD new)) := by
  induction l with
  | nil => simp [upsert, hf new hn]
  | cons a l ih =>
    by_cases h : p a = true
    · simp [upsert, h, hf a h]
    · simp [upsert, h, ih]

theorem find?_upsert_other {α : Type} {p q : α → Bool} {f : α → α}
    (hq : ∀ a, p a = true → q a = false ∧ q (f a) = false) {new : α} (hn : p new = true) (l : List α) :
    (upsert p f new l).find? q = l.find? q := by
  induction l with
  | nil => simp [upsert, hq new hn]
  | cons a l ih =>
    by_cases h : p a = true
    · simp [upsert, h, hq a h]
    · simp [upsert, h, List.find?_cons, ih]

theorem mem_upsert {α : Type} {p : α → Bool} {f : α → α} {new x : α} {l : List α} (h : x ∈ upsert p f new l) :
    x ∈ l ∨ ∃ a, (a ∈ l ∨ a = new) ∧ x = f a := by
  induction l with
  | nil => exact .inr ⟨new, .inr rfl, List.mem_singleton.1 h⟩
  | cons a l ih =>
    unfold upsert at h
    split at h
    · rcases List.mem_cons.1 h with h | h
      · exact .inr ⟨a, .inl (.head _), h⟩
      · exact .inl (.tail _ h)
    · rcases List.mem_cons.1 h with h | h
      · exact .inl (h ▸ .head _)
      · rcases ih h with h | ⟨b, hb, hx⟩
        · exact .inl (.tail _ h)
        · exact .inr ⟨b, hb.imp_left (.tail _), hx⟩

theorem mem_of_getKey {α : Type} {k : Nat} {v : α} {l : List (Nat × α)} (h : getKey k l = some v) : (k, v) ∈ l := by
  induction l with
  | nil => cases h
  | cons p l ih =>
    obtain ⟨a, y⟩ := p
    unfold getKey at h
    split at h
    · rename_i e; cases h; cases e; exact .head _
    · exact .tail _ (ih h)

theorem core?_updCore_same (s : State) (c : Nat) {f : CoreSt → CoreSt} (hf : ∀ k, (f k).id = k.id) :
    (s.updCore c f).core? c = f (s.core? c) := by
  unfold State.updCore State.core?
  rw [find?_upsert_same (fun a ha => by rwa [hf a]) (by simp [CoreSt.init])]
  rfl

theorem core?_updCore_other (s : State) {c d : Nat} (h : d ≠ c) {f : CoreSt → CoreSt} (hf : ∀ k, (f k).id = k.id) :
    (s.updCore c f).core? d = s.core? d := by
  unfold State.updCore State.core?
  rw [find?_upsert_other (fun a ha => ?_) (by simp [CoreSt.init])]
  have ha : a.id = c := beq_iff_eq.1 ha
  simp [hf a, ha, h.symm]

theorem rdN_getD (s : State) (k : Nat) {n j : Nat} (h : j < n) : (s.rdN k n).getD j 0 = s.rd8 (k + j) := by
  simp [State.rdN, h]

theorem extract_sector (s : State) {k : Nat} (hk : k % 4 = 0) :
    (ofBytes 512 (s.rdN (64 * (k / 64)) 64)).extractLsb' (8 * (k % 64)) 32 = ofBytes 32 (s.rdN k 4) := by
  apply BitVec.eq_of_getLsbD_eq
  intro i hi
  have h1 : 8 * (k % 64) + i < 512 := by omega
  have h2 : (8 * (k % 64) + i) / 8 = k % 64 + i / 8 := by omega
  have h3 : (8 * (k % 64) + i) % 8 = i % 8 := by omega
  have h4 : 64 * (k / 64) + (k % 64 + i / 8) = k + i / 8 := by omega
  unfold ofBytes
  rw [BitVec.getLsbD_extractLsb', BitVec.getLsbD_ofNat, BitVec.getLsbD_ofNat, natOfBytes_testBit, natOfBytes_testBit, h2, h3,
    rdN_getD s _ (by omega), rdN_getD s _ (by omega), h4]
  simp [hi, h1]

/-! ### What a fetch changes -/

/-- A state with other cores. -/
def State.withCores (s : State) (cs : List CoreSt) : State := { s with cores := cs }

/-- A core without its fetch copies. -/
def CoreSt.uncopied (c : CoreSt) : CoreSt := { c with icopy := [] }

/-- The cores `cs` are those of `s` but for fetch copies, which agree with memory where the issuing group is, and no L1 of them
holds a dirty byte. -/
structure FetchCores (s : State) (cs : List CoreSt) : Prop where
  same : ∀ c, ((s.withCores cs).core? c).uncopied = (s.core? c).uncopied
  clean : ∀ c ∈ cs, ∀ q ∈ c.l1, q.dirty = 0
  fresh : ∀ p ∈ ((s.withCores cs).core? s.here).icopy, p.2 = ofBytes 512 (s.rdN (64 * p.1) 64)

theorem withCores_self (s : State) : s.withCores s.cores = s := rfl

theorem walk_cores (s : State) (cs : List CoreSt) (va : Nat) (levels : List Nat) (node : Nat) :
    (s.withCores cs).walk va levels node = s.walk va levels node := by
  induction levels generalizing node with
  | nil => rfl
  | cons lvl rest ih =>
    have hrd : ∀ k n, (s.withCores cs).rdV k n = s.rdV k n := fun _ _ => rfl
    simp only [State.walk, ih, hrd]

theorem walkNow_cores (s : State) (cs : List CoreSt) (tenant page : Nat) :
    (s.withCores cs).walkNow tenant page = s.walkNow tenant page := by
  simp only [State.walkNow, walk_cores]
  rfl

section
variable {s : State} {cs : List CoreSt}

theorem FetchCores.tlb (h : FetchCores s cs) (c : Nat) : ((s.withCores cs).core? c).tlb = (s.core? c).tlb := by
  have e := congrArg CoreSt.tlb (h.same c)
  exact e

theorem FetchCores.mq (h : FetchCores s cs) (c : Nat) : ((s.withCores cs).core? c).mq = (s.core? c).mq := by
  have e := congrArg CoreSt.mq (h.same c)
  exact e

theorem FetchCores.translate (h : FetchCores s cs) (a : Agent) (how : How) (bypass : Bool) (va : DWord) :
    (s.withCores cs).translate a how bypass va = s.translate a how bypass va := by
  simp only [State.translate, walkNow_cores, h.tlb]
  rfl

theorem FetchCores.skips (h : FetchCores s cs) : (s.withCores cs).skips = s.skips := by
  have hm : ((s.withCores cs).core? (s.withCores cs).here).mq = (s.core? s.here).mq := h.mq _
  simp only [State.skips, hm]
  rfl

theorem FetchCores.settle (h : FetchCores s cs) (sec : Nat) :
    (s.withCores cs).settle sec none = s.withCores cs := by
  unfold State.settle
  rw [List.filter_eq_nil_iff.2]
  · rfl
  · intro c hc
    simpa using fun q hq _ => h.clean c hc q hq

theorem FetchCores.fetchWord (h : FetchCores s cs) {k : Nat} (hk : k % 4 = 0) (hfar : farKey k = false) :
    (s.withCores cs).fetchWord s.here k = ofBytes 32 (s.rdN k 4) := by
  unfold State.fetchWord
  rw [hfar]
  cases hg : getKey (k / 64) ((s.withCores cs).core? s.here).icopy with
  | none => rfl
  | some x =>
    refine pick_of_all _ _ _ _ _ fun o ho => ?_
    have hx : x = ofBytes 512 (s.rdN (64 * (k / 64)) 64) := h.fresh _ (mem_of_getKey hg)
    rw [List.mem_singleton.1 ho, hx]
    exact extract_sector s hk

theorem FetchCores.keepCopy (h : FetchCores s cs) (sec : Nat) :
    ∃ ds, FetchCores s ds ∧ (s.withCores cs).keepCopy s.here sec = s.withCores ds := by
  unfold State.keepCopy
  split
  · exact ⟨cs, h, rfl⟩
  · refine ⟨_, ?_, rfl⟩
    have hid : ∀ k : CoreSt,
        ({ k with icopy := putKey sec (some (ofBytes 512 (s.rdN (64 * sec) 64))) k.icopy } : CoreSt).id = k.id := fun _ => rfl
    refine ⟨fun c => ?_, fun c hc q hq => ?_, fun p hp => ?_⟩
    · by_cases hc : c = s.here
      · subst hc
        have e := core?_updCore_same (s.withCores cs) s.here hid
        exact (congrArg CoreSt.uncopied e).trans (h.same s.here)
      · have e := core?_updCore_other (s.withCores cs) hc hid
        exact (congrArg CoreSt.uncopied e).trans (h.same c)
    · rcases mem_upsert hc with hc | ⟨a, ha | ha, rfl⟩
      · exact h.clean c hc q hq
      · exact h.clean a ha q hq
      · subst ha; cases hq
    · have e := core?_updCore_same (s.withCores cs) s.here hid
      rcases mem_putKey _ _ _ _ ((congrArg CoreSt.icopy e) ▸ hp) with hp | ⟨h1, h2⟩
      · exact h.fresh p hp
      · rw [h1]; exact (Option.some.inj h2).symm
end

/-! ### Fetching the words of an instruction -/

/-- This module's memory holds a word at the translation of an address. -/
def State.holdsWord (s : State) (pc : DWord) (w : Word) : Prop :=
  ∃ l, s.translate s.me hFetch true pc = .ok l ∧ l.key % 4 = 0 ∧ farKey l.key = false ∧ l.key / 64 ∉ s.poison ∧
    s.rdN l.key 4 = toBytes 4 w

/-- The memory holds the words of a list one after another from an address on. -/
def State.holdsWords (s : State) (pc : DWord) (ws : List Word) : Prop :=
  ∀ k (h : k < ws.length), s.holdsWord (pc + BitVec.ofNat 64 (4 * k)) ws[k]

theorem State.holdsWords.take {s : State} {pc : DWord} {ws : List Word} (h : s.holdsWords pc ws) (n : Nat) :
    s.holdsWords pc (ws.take n) := by
  intro k hk
  rw [List.getElem_take]
  exact h k (lt_of_lt_of_le hk (List.length_take_le' n ws))

theorem State.holdsWords.head {s : State} {pc : DWord} {w : Word} {ws : List Word} (h : s.holdsWords pc (w :: ws)) :
    s.holdsWord pc w := by
  simpa using h 0 (Nat.zero_lt_succ _)

theorem State.holdsWords.tail {s : State} {pc : DWord} {w : Word} {ws : List Word} (h : s.holdsWords pc (w :: ws)) :
    s.holdsWords (pc + 4) ws := by
  intro k hk
  have e : pc + 4 + BitVec.ofNat 64 (4 * k) = pc + BitVec.ofNat 64 (4 * (k + 1)) := by
    rw [BitVec.add_assoc, Nat.mul_succ, Nat.add_comm (4 * k), BitVec.ofNat_add]
    rfl
  rw [e]
  exact h (k + 1) (Nat.succ_lt_succ hk)

section
variable {s : State} {cs : List CoreSt} {pc : DWord}

theorem FetchCores.fetchAt (h : FetchCores s cs) {w : Word} (hpc : pc.toNat % 4 = 0) (hw : s.holdsWord pc w) :
    ∃ ds, FetchCores s ds ∧ (s.withCores cs).fetchAt pc = .ok (s.withCores ds, w) := by
  obtain ⟨l, hl, hk, hfar, hp, hrd⟩ := hw
  obtain ⟨ds, hds, hcopy⟩ := h.keepCopy (l.key / 64)
  have htr : (s.withCores cs).translate (s.withCores cs).me hFetch true pc = .ok l := (h.translate _ _ _ _).trans hl
  have hpoison : ((s.withCores cs).poison.contains (l.key / 64)) = false := by simpa [State.withCores] using hp
  have hword : (s.withCores cs).fetchWord s.here l.key = w := by
    rw [h.fetchWord hk hfar, hrd, ofBytes_toBytes 4 w (by decide)]
  refine ⟨ds, hds, ?_⟩
  rw [State.fetchAt, if_neg (not_not_intro hpc)]
  simp only [htr, hpoison, h.settle, Bool.false_eq_true, if_false]
  exact congrArg Except.ok (Prod.ext hcopy hword)

theorem FetchCores.fetchMore {ws : List Word} (h : FetchCores s cs) (hpc : pc.toNat % 4 = 0) (hws : s.holdsWords pc ws) :
    ∃ ds, FetchCores s ds ∧ (s.withCores cs).fetchMore pc ws.length = .ok (s.withCores ds, ws) := by
  induction ws generalizing cs pc with
  | nil => exact ⟨cs, h, rfl⟩
  | cons w ws ih =>
    obtain ⟨ds, hds, h1⟩ := h.fetchAt hpc hws.head
    have hpc4 : (pc + 4).toNat % 4 = 0 := by
      rw [BitVec.toNat_add]
      show (pc.toNat + 4) % 2 ^ 64 % 4 = 0
      omega
    obtain ⟨es, hes, h2⟩ := ih hds hpc4 hws.tail
    refine ⟨es, hes, ?_⟩
    simp only [List.length_cons, State.fetchMore, h1]
    show (((s.withCores ds).fetchMore (pc + 4) ws.length).bind fun t => Except.ok (t.1, w :: t.2)) = _
    rw [h2]
    rfl

/-- What a try with the first `n` of the words that memory holds answers. -/
theorem FetchCores.fetchTry {ws : List Word} (h : FetchCores s cs) (hpc : pc.toNat % 4 = 0) (hws : s.holdsWords pc ws)
    {n : Nat} (hn : n ≤ ws.length) : ∃ ds, FetchCores s ds ∧
      (s.withCores cs).fetchTry pc n = .ok (s.withCores ds, ws.take n, (decode (ws.take n)).map (·.1)) := by
  obtain ⟨ds, hds, h1⟩ := h.fetchMore hpc (hws.take n)
  rw [List.length_take_of_le hn] at h1
  refine ⟨ds, hds, ?_⟩
  rw [State.fetchTry, h1]
  rfl
end

section
variable {s : State} {pc : DWord} {i : Instr} {ws : List Word}

/-- What the tries of `fetchWords` find of an instruction that memory holds: it is cut off until all its words are there. -/
theorem short_fetchTry (hi : i.wellFormed = true) (he : encode i = some ws) (t : State) (n : Nat) :
    short (t, ws.take n, (decode (ws.take n)).map (·.1)) = decide (n < ws.length) := by
  by_cases hn : n < ws.length
  · rw [decode_take_encode hi he hn, decide_eq_true hn]
    rfl
  · have hd := decode_encode hi he []
    rw [List.append_nil] at hd
    rw [List.take_of_length_le (not_lt.1 hn), hd, decide_eq_false hn]
    rfl

/-- R30: the first word of an instruction of several words traps, so no other word of it is fetched. -/
def firstTraps (ws : List Word) : Prop := 1 < ws.length ∧ headProbe (ws.headD 0) = none

theorem fetchWords_one {r : State × List Word × Except Reject Instr} (h1 : s.fetchTry pc 1 = .ok r)
    (hr : short r = false ∨ (r.2.1.head?).bind headProbe = none) : s.fetchWords pc = .ok (r.1, r.2.1) := by
  simp only [State.fetchWords, h1, bind, Except.bind]
  rw [if_pos]
  rcases hr with hr | hr <;> simp [hr]

theorem fetchWords_more {r : State × List Word × Except Reject Instr} (h1 : s.fetchTry pc 1 = .ok r) (hr : short r = true)
    (hp : (r.2.1.head?).bind headProbe ≠ none) : s.fetchWords pc = (do
      let r ← s.fetchTry pc 2
      if !short r then .ok (r.1, r.2.1)
      else
        let r ← s.fetchTry pc 3
        if !short r then .ok (r.1, r.2.1)
        else
          let r ← s.fetchTry pc (2 + min 256 (r.2.1.getD 1 0).toNat)
          .ok (r.1, r.2.1)) := by
  simp only [State.fetchWords, h1, bind, Except.bind]
  rw [if_neg (by simp [hr, hp])]

/-- The words that a fetch of an instruction of several words reads, where its first word does not trap. -/
theorem fetchWords_all (hc : FetchCores s s.cores) (hi : i.wellFormed = true) (he : encode i = some ws)
    (hpc : pc.toNat % 4 = 0) (hws : s.holdsWords pc ws) (hlen : 1 < ws.length) (hp : headProbe (ws.headD 0) ≠ none) :
    ∃ cs, FetchCores s cs ∧ s.fetchWords pc = .ok (s.withCores cs, ws) := by
  have hshort := short_fetchTry hi he
  have hprobe : ((ws.take 1).head?).bind headProbe ≠ none := by
    cases ws with
    | nil => cases hlen
    | cons w l => exact hp
  obtain ⟨cs₁, -, h1⟩ := hc.fetchTry hpc hws hlen.le
  obtain ⟨cs₂, hc2, h2⟩ := hc.fetchTry hpc hws (n := 2) hlen
  rw [withCores_self] at h1 h2
  rw [fetchWords_more h1 ((hshort _ 1).trans (decide_eq_true hlen)) hprobe, h2]
  simp only [bind, Except.bind, hshort]
  rcases Nat.lt_or_ge 2 ws.length with hlen2 | hlen2
  · obtain ⟨cs₃, hc3, h3⟩ := hc.fetchTry hpc hws (n := 3) hlen2
    rw [withCores_self] at h3
    simp only [decide_eq_true hlen2, Bool.not_true, Bool.false_eq_true, if_false, h3, hshort]
    rcases Nat.lt_or_ge 3 ws.length with hlen3 | hlen3
    · have hn : 2 + min 256 ((ws.take 3).getD 1 0).toNat = ws.length := by
        rw [length_encode_of_three_lt hi he hlen3]
        simp
      obtain ⟨cs₄, hc4, h4⟩ := hc.fetchTry hpc hws le_rfl
      rw [withCores_self] at h4
      refine ⟨cs₄, hc4, ?_⟩
      simp only [decide_eq_true hlen3, Bool.not_true, Bool.false_eq_true, if_false, hn, h4, List.take_length]
    · refine ⟨cs₃, hc3, ?_⟩
      simp only [decide_eq_false (not_lt.2 hlen3), Bool.not_false, if_true, List.take_of_length_le hlen3]
  · refine ⟨cs₂, hc2, ?_⟩
    simp only [decide_eq_false (not_lt.2 hlen2), Bool.not_false, if_true, List.take_of_length_le hlen2]

theorem fetchWords_holds (hc : FetchCores s s.cores) (hi : i.wellFormed = true) (he : encode i = some ws)
    (hpc : pc.toNat % 4 = 0) (hws : s.holdsWords pc ws) :
    ∃ cs, FetchCores s cs ∧ (¬ firstTraps ws → s.fetchWords pc = .ok (s.withCores cs, ws)) ∧
      (firstTraps ws → s.fetchWords pc = .ok (s.withCores cs, ws.take 1)) := by
  have hne : 1 ≤ ws.length := by
    obtain ⟨w, -, rfl⟩ := encode_eq_some.1 he
    exact Nat.succ_le_succ (Nat.zero_le _)
  obtain ⟨cs, hc1, h1⟩ := hc.fetchTry hpc hws hne
  rw [withCores_self] at h1
  by_cases hf : firstTraps ws
  · refine ⟨cs, hc1, fun h => absurd hf h, fun _ => fetchWords_one h1 (.inr ?_)⟩
    cases ws with
    | nil => cases hne
    | cons w l => exact hf.2
  · rcases Nat.lt_or_ge 1 ws.length with hlen | hlen
    · obtain ⟨ds, hd, h⟩ := fetchWords_all hc hi he hpc hws hlen (fun hp => hf ⟨hlen, hp⟩)
      exact ⟨ds, hd, fun _ => h, fun h => absurd h hf⟩
    · refine ⟨cs, hc1, fun _ => ?_, fun h => absurd h hf⟩
      have h := fetchWords_one h1 (.inl ((short_fetchTry hi he _ 1).trans (decide_eq_false (not_lt.2 hlen))))
      rwa [List.take_of_length_le hlen] at h

theorem fetch_of_fetchWords {t : State} (ht : s.sp.tripped = false) (hl : s.sp.loopWords = none)
    (h : s.fetchWords s.sp.pc = .ok (t, ws)) : s.fetch = .ok (t, (decode ws).toOption.map (·.1)) := by
  simp only [State.fetch, ht, hl, h, Bool.false_and, Bool.false_eq_true, if_false]

theorem stepIssue_some {t : State} (h : s.fetch = .ok (t, some i)) (hs : t.skips = false) : stepIssue s = exec i t := by
  simp only [stepIssue, h, hs, Bool.false_eq_true, if_false]

theorem stepIssue_none {t : State} (h : s.fetch = .ok (t, none)) : stepIssue s = exec .undefinedEncoding t := by
  simp only [stepIssue, h]

theorem step_running (h : s.running = true) : step s = afterStep (stepIssue { s with tick := s.tick + 1 }) := by
  simp only [step, h, if_true]

/-- A state without dirty bytes in an L1 and without fetch copies at the issuing core. -/
theorem FetchCores.start (hd : ∀ c ∈ s.cores, ∀ q ∈ c.l1, q.dirty = 0) (hi : (s.core? s.here).icopy = []) :
    FetchCores s s.cores :=
  ⟨fun _ => rfl, hd, fun p hp => by
    rw [withCores_self, hi] at hp
    cases hp⟩
end

/-- Settles O58: a fetch of the words that memory holds gives the instruction, and changes fetch copies alone. -/
theorem stepRunsDecoded : Obligations.StepRunsDecoded := by
  intro s i s1
  refine ⟨fun t hr hf hs => ?_, ?_⟩
  · rw [step_running hr, stepIssue_some hf hs]
  · intro ws hr hi he hl ht hd hcopy hpc hs hws first
    have hc : FetchCores s1 s1.cores := FetchCores.start hd hcopy
    obtain ⟨cs, hcs, hall, hone⟩ := fetchWords_holds (s := s1) hc hi he hpc hws
    refine ⟨s1.withCores cs, fun hf => ?_, fun hf => ?_, rfl, hcs.same⟩
    · have hfetch := fetch_of_fetchWords (s := s1) ht hl (hall hf)
      have hdec := decode_encode hi he []
      rw [List.append_nil] at hdec
      rw [hdec] at hfetch
      rw [step_running hr, stepIssue_some hfetch (hcs.skips.trans hs)]
    · have hfetch := fetch_of_fetchWords (s := s1) ht hl (hone hf)
      rw [decode_take_encode hi he hf.1] at hfetch
      rw [step_running hr, stepIssue_none hfetch]

end Sys2Proof.Machine
end

section
/-!
PROOFS. What a write of vector lanes leaves of the registers (R46, R47, R50, R166, R167).
-/

namespace Sys2Proof.Machine

open Sys2Proof Sys2Proof.Laws

/-! ### Rows that leave the register file to make room -/

/-- A group map that moves rows out of the register file and changes nothing else. -/
def MovesRows (h : Group → Group) : Prop := ∀ g, ∃ a, h g = { g with absent := a }

/-- Of the issuing split and group and of memory, only which rows are in the register file, the count of misses and the other
splits may differ. -/
def RegsKept (s t : State) : Prop :=
  t.sp = s.sp ∧ t.mem = s.mem ∧ ∃ a m ps, t.g = { s.g with absent := a, vrfMiss := m, splits := ps }

theorem evictOne_groups (s : State) (core : Nat) (kept : Nat × Nat) :
    ∃ h, MovesRows h ∧ s.evictOne core kept = { s with groups := s.groups.map h } := by
  unfold State.evictOne
  dsimp only
  split
  · rename_i r _
    refine ⟨fun g => if g.tid == r.1 then { g with absent := r.2 :: g.absent } else g, fun g => ?_, rfl⟩
    by_cases hg : (g.tid == r.1) = true
    · exact ⟨_, if_pos hg⟩
    · exact ⟨g.absent, if_neg hg⟩
  · exact ⟨id, fun g => ⟨g.absent, rfl⟩, by rw [List.map_id]⟩

/-- R167: making room moves rows of groups that do not issue out of the register file. -/
theorem makeRoom_groups (s : State) (core : Nat) (kept : Nat × Nat) :
    ∃ h, MovesRows h ∧ s.makeRoom core kept = { s with groups := s.groups.map h } := by
  unfold State.makeRoom
  generalize List.range ((s.heldRows core).length - 8192) = l
  induction l generalizing s with
  | nil => exact ⟨id, fun g => ⟨g.absent, rfl⟩, by rw [List.foldl_nil, List.map_id]⟩
  | cons a l ih =>
    obtain ⟨h, hh, h1⟩ := evictOne_groups s core kept
    obtain ⟨k, hk, h2⟩ := ih (s.evictOne core kept)
    refine ⟨k ∘ h, fun g => ?_, ?_⟩
    · obtain ⟨a, ha⟩ := hh g
      obtain ⟨b, hb⟩ := hk (h g)
      exact ⟨b, by rw [Function.comp_apply, hb, ha]⟩
    · rw [List.foldl_cons, h2, h1, List.map_map]

theorem refocus_movesRows {s : State} (hr : s.running = true) {h : Group → Group} (hh : MovesRows h) (todo : List Nat) :
    RegsKept s (({ s.unfocus with groups := s.unfocus.groups.map h } : State).refocus s.g.tid s.sp.sid todo) := by
  obtain ⟨a, ha⟩ := hh { s.g with splits := s.sp :: s.g.splits }
  have hu : s.unfocus.groups = { s.g with splits := s.sp :: s.g.splits } :: s.groups := by
    unfold State.unfocus
    rw [if_pos hr]
  have hm : s.unfocus.mem = s.mem := by
    unfold State.unfocus
    rw [if_pos hr]
  have hg : ({ s.unfocus with groups := s.unfocus.groups.map h } : State).group? s.g.tid =
      some { s.g with splits := s.sp :: s.g.splits, absent := a } := by
    unfold State.group?
    rw [hu, List.map_cons, ha, List.find?_cons_of_pos (by simp)]
  have hp : Group.split? { s.g with splits := s.sp :: s.g.splits, absent := a } s.sp.sid = some s.sp := by
    unfold Group.split?
    exact List.find?_cons_of_pos (by simp)
  unfold State.refocus
  rw [hg]
  dsimp only
  rw [hp]
  exact ⟨rfl, hm, a, s.g.vrfMiss, _, rfl⟩

theorem wide_makeRoom_kept (s : State) (core : Nat) (kept : Nat × Nat) :
    RegsKept s (s.wide (fun t => t.makeRoom core kept)) := by
  unfold State.wide
  split
  · rename_i hr
    obtain ⟨h, hh, hroom⟩ := makeRoom_groups s.unfocus core kept
    dsimp only
    rw [hroom]
    exact refocus_movesRows hr hh _
  · obtain ⟨h, -, hroom⟩ := makeRoom_groups s core kept
    dsimp only
    rw [hroom]
    exact ⟨rfl, rfl, _, _, _, rfl⟩

/-- R166: allocating a row leaves the registers of the issuing split and group. -/
theorem gotRow_kept (s : State) (n : Nat) : RegsKept s (s.gotRow n) := by
  unfold State.gotRow
  split
  · obtain ⟨hsp, hmem, a, m, ps, hg⟩ := wide_makeRoom_kept
      { s with g := { s.g with absent := s.g.absent.filter (fun m => m != n) }.missed } s.here (s.g.tid, n)
    exact ⟨hsp, hmem, a, m, ps, hg⟩
  · exact ⟨rfl, rfl, _, _, _, rfl⟩

section
variable {s t : State} (h : RegsKept s t)
include h
theorem RegsKept.curV (n : Nat) : t.curV n = s.curV n := by
  obtain ⟨-, -, _, _, _, hg⟩ := h
  unfold State.curV
  rw [hg]
theorem RegsKept.curS (n : Nat) : t.curS n = s.curS n := by
  obtain ⟨hsp, -, _, _, _, hg⟩ := h
  unfold State.curS
  rw [hsp, hg]
theorem RegsKept.curA (n : Nat) : t.curA n = s.curA n := by
  obtain ⟨hsp, -, _, _, _, hg⟩ := h
  unfold State.curA
  rw [hsp, hg]
theorem RegsKept.curP (n : Nat) : t.curP n = s.curP n := by
  obtain ⟨-, -, _, _, _, hg⟩ := h
  unfold State.curP
  rw [hg]
theorem RegsKept.curQ (n : Nat) : t.curQ n = s.curQ n := by
  obtain ⟨-, -, _, _, _, hg⟩ := h
  unfold State.curQ
  rw [hg]
theorem RegsKept.status : t.g.status = s.g.status := by
  obtain ⟨-, -, _, _, _, hg⟩ := h
  rw [hg]
theorem RegsKept.mem : t.mem = s.mem := by
  obtain ⟨-, hm, -⟩ := h
  exact hm
end

/-! ### A write of vector lanes -/

/-- `t` is `s` but for what a write of lanes of v`n` changes: the row `x` now stands in v`n`, the other registers, STATUS and
memory are as they were. -/
structure WroteRow (s : State) (n : Nat) (x : VRow) (t : State) : Prop where
  row : t.curV n = x
  otherV : ∀ m, m ≠ n → t.curV m = s.curV m
  curS : ∀ m, t.curS m = s.curS m
  curA : ∀ m, t.curA m = s.curA m
  curP : ∀ m, t.curP m = s.curP m
  curQ : ∀ m, t.curQ m = s.curQ m
  status : t.g.status = s.g.status
  mem : t.mem = s.mem

/-- R46, R160: the first write of a vector register in its window leaves its own result. -/
theorem wV_wroteRow {s : State} {n : Nat} (hn : n < 128) (hu : s.unwritten (.v n) = true) {e : BitVec 16} (he : e ≠ 0)
    (f : Fin 16 → Word) (t : Tag) (pair : Bool) : WroteRow s n (writeRow (s.curV n) e f t) (s.wV n e f t pair) := by
  obtain ⟨l, hw⟩ := write_unwritten s (.v n) e (.v ⟨Vector.ofFn f, t, 0, 0⟩) pair hu
  have hk : RegsKept (s.write (.v n) e (.v ⟨Vector.ofFn f, t, 0, 0⟩) pair) (s.wV n e f t pair) := by
    unfold State.wV State.setV
    rw [if_neg he]
    exact gotRow_kept _ _
  have hover : (s.cur (.v n)).over e (.v ⟨Vector.ofFn f, t, 0, 0⟩) = .v (writeRow (s.curV n) e f t) := by
    simp [State.cur, RegVal.over, poisonRow]
  rw [hover] at hw
  rw [hw] at hk
  exact {
    row := (hk.curV n).trans (vget_vset_same _ _ _ _ hn)
    otherV := fun m hm => (hk.curV m).trans (vget_vset_other _ _ _ _ _ hm)
    curS := fun m => hk.curS m
    curA := fun m => hk.curA m
    curP := fun m => hk.curP m
    curQ := fun m => hk.curQ m
    status := hk.status
    mem := hk.mem }

theorem writeRow_lanes (r : VRow) (e : BitVec 16) (f : Fin 16 → Word) (t : Tag) (l : Fin 16) :
    (writeRow r e f t).lanes[l] = if e.getLsbD l then f l else r.lanes[l] := by
  unfold writeRow
  by_cases he : e = 0
  · simp [he]
  · rw [if_neg he]
    dsimp only
    split <;> simp

/-- R46, R50: a register no poison stays in takes the tag. -/
theorem writeRow_clean {r : VRow} {e : BitVec 16} (he : e ≠ 0) (h : r.tag = .poison → r.pmask &&& ~~~e = 0)
    (f : Fin 16 → Word) (t : Tag) : (writeRow r e f t).tag = t := by
  unfold writeRow
  rw [if_neg he]
  dsimp only
  rw [if_neg (fun hp => hp.2 (h hp.1))]

/-- R50: poison outside the mask stays. -/
theorem writeRow_poisoned {r : VRow} {e : BitVec 16} (he : e ≠ 0) (h : r.tag = .poison) (hm : r.pmask &&& ~~~e ≠ 0)
    (f : Fin 16 → Word) (t : Tag) : (writeRow r e f t).tag = .poison ∧ (writeRow r e f t).pmask = r.pmask &&& ~~~e ∧
      (writeRow r e f t).paddr = r.paddr := by
  unfold writeRow
  rw [if_neg he]
  dsimp only
  rw [if_pos ⟨h, hm⟩]
  exact ⟨rfl, rfl, rfl⟩

/-! ### STATUS and the generators do not change what the split reads -/

theorem writes_setStatus (s : State) (b : BitVec 4) (r : RegName) : (s.setStatus b).writes r = s.writes r := rfl
theorem cur_setStatus (s : State) (b : BitVec 4) (r : RegName) : (s.setStatus b).cur r = s.cur r := by cases r <;> rfl
theorem seen_setStatus (s : State) (b : BitVec 4) (r : RegName) : (s.setStatus b).seen r = s.seen r := by
  unfold State.seen
  rw [writes_setStatus, cur_setStatus]
  rfl
theorem mode_setStatus (s : State) (b : BitVec 4) : (s.setStatus b).mode = s.mode := by
  unfold State.mode
  rw [writes_setStatus, cur_setStatus]
  rfl
theorem unwritten_setStatus (s : State) (b : BitVec 4) (r : RegName) : (s.setStatus b).unwritten r = s.unwritten r := rfl
theorem unwritten_setLfsr (s : State) (v : Vector Word 16) (r : RegName) : (s.setLfsr v).unwritten r = s.unwritten r := rfl
theorem exec_setStatus (s : State) (b : BitVec 4) : (s.setStatus b).exec = s.exec := by
  unfold State.exec State.getP
  rw [seen_setStatus, mode_setStatus]
  rfl
theorem exec_setLfsr (s : State) (v : Vector Word 16) : (s.setLfsr v).exec = s.exec := by
  unfold State.exec State.getP
  rfl

/-- What a computation leaves before it writes its destination: the generators and STATUS. -/
def State.computed (s : State) (v : Vector Word 16) (b : BitVec 4) : State := (s.setLfsr v).setStatus b

section
variable (s : State) (v : Vector Word 16) (b : BitVec 4)
theorem computed_exec : (s.computed v b).exec = s.exec := (exec_setStatus _ _).trans (exec_setLfsr _ _)
theorem computed_unwritten (x : RegName) : (s.computed v b).unwritten x = s.unwritten x := rfl
theorem computed_curV (n : Nat) : (s.computed v b).curV n = s.curV n := rfl
theorem computed_curS (n : Nat) : (s.computed v b).curS n = s.curS n := rfl
theorem computed_curA (n : Nat) : (s.computed v b).curA n = s.curA n := rfl
theorem computed_curP (n : Nat) : (s.computed v b).curP n = s.curP n := rfl
theorem computed_curQ (n : Nat) : (s.computed v b).curQ n = s.curQ n := rfl
theorem computed_status : (s.computed v b).g.status = s.g.status ||| b := rfl
theorem computed_mem : (s.computed v b).mem = s.mem := rfl
end

/-- R57: the STATUS bits of a computation whose lanes say which of them were clamped. -/
def statusOf (st : BitVec 4) (r : Vector (List Nat × Bool × Word) 16) : BitVec 4 :=
  st ||| satIf ((List.finRange 16).any (fun l => r[l].2.1))

section
variable (s : State) (st : BitVec 4) (r : Vector (List Nat × Bool × Word) 16)
/-- A computation with one destination register is one write of its lanes. -/
theorem putLanes_one (n : Fin 128) (f : Fmt) : s.putLanes (.v n) 1 f st r =
    (s.computed (vmap (fun x => x.2.2) r) (statusOf st r)).wV n s.exec (fun l => packElems f (r[l].1.take f.elems)) (.fmt f) := by
  have h : s.putLanes (.v n) 1 f st r =
      (s.computed (vmap (fun x => x.2.2) r) (statusOf st r)).writeGroup (.v n) 1 f (.fmt f) (fun l => r[l].1) := by
    unfold State.putLanes State.computed statusOf
    rfl
  rw [h]
  generalize statusOf st r = b
  simp only [State.writeGroup, List.range_one, List.foldl_cons, List.foldl_nil, Nat.zero_mul, Nat.add_zero, List.drop_zero,
    computed_exec]
  rfl

theorem putLanes_wroteRow {n : Fin 128} (hu : s.unwritten (.v n) = true) (he : s.exec ≠ 0) (f : Fmt) :
    WroteRow (s.computed (vmap (fun x => x.2.2) r) (statusOf st r)) n
      (writeRow (s.curV n) s.exec (fun l => packElems f (r[l].1.take f.elems)) (.fmt f)) (s.putLanes (.v n) 1 f st r) := by
  rw [putLanes_one]
  generalize statusOf st r = b
  rw [← computed_curV s (vmap (fun x => x.2.2) r) b]
  exact wV_wroteRow n.isLt ((computed_unwritten ..).trans hu) he _ _ _
end

theorem satIf_getLsbD (b : Bool) (i : Nat) : (satIf b).getLsbD i = (decide (i = 3) && b) := by
  cases b
  · simp [satIf]
  · have h : ∀ i : Nat, stSat.getLsbD i = decide (i = 3) := fun i => by
      rw [show stSat = BitVec.twoPow 4 3 from rfl, BitVec.getLsbD_twoPow]
      simp [eq_comm]
    simp [satIf, h]

/-- Settles O25: the one write that `putLanes` makes of its destination, lane by lane and by the poison that stays. -/
theorem laneWrites : Obligations.LaneWrites := by
  intro s n f st r hu he t
  have hw : WroteRow _ n _ t := putLanes_wroteRow s st r hu he f
  have hst : ∀ i, (statusOf st r).getLsbD i = (st.getLsbD i || (decide (i = 3) && (List.finRange 16).any (fun l => r[l].2.1))) :=
    fun i => by rw [statusOf, BitVec.getLsbD_or, satIf_getLsbD]
  clear_value t
  generalize statusOf st r = b at hw hst
  refine ⟨fun l => ?_, fun hp => ?_, fun hp hm => ?_, fun hp hm => ?_, fun m hm => ?_, fun i => ?_, fun m => ?_, fun m => ?_,
    fun m => ?_, fun m => ?_, ?_⟩
  · rw [hw.row, writeRow_lanes]
  · rw [hw.row, writeRow_clean he (fun h => absurd h hp)]
  · rw [hw.row, writeRow_clean he (fun _ => hm)]
  · rw [hw.row]
    exact writeRow_poisoned he hp hm _ _
  · rw [hw.otherV m hm, computed_curV]
  · rw [hw.status, computed_status, BitVec.getLsbD_or, hst, Bool.or_assoc]
  · rw [hw.curS, computed_curS]
  · rw [hw.curA, computed_curA]
  · rw [hw.curP, computed_curP]
  · rw [hw.curQ, computed_curQ]
  · rw [hw.mem, computed_mem]

end Sys2Proof.Machine
end

section
/-!
PROOFS. Instructions that read vector sources under the execute mask (R48, R103 to R105, R121), and the integer and bit
instructions lane by lane (R56, R105, R106, R112, R119, R120).
-/

namespace Sys2Proof.Machine

open Sys2Proof Sys2Proof.Laws

/-! ### When a source may be read -/

section
variable {s : State} {f : Fmt} {o : Opnd}

theorem tagcheck_operand (h : ∀ n, o ≠ .v n) :
    s.tagcheck f o = if foneBad f o then trapOf .invop else .ok (s.lanesOfOpnd f o, 0) := by
  cases o with
  | v n => exact absurd rfl (h n)
  | _ => rfl

theorem rawRead_operand (h : ∀ n, o ≠ .v n) (b : Bool) : s.rawRead b o =
    if foneBad (modeFmt s.mode) o then trapOf .invop else .ok (s.lanesOfOpnd (modeFmt s.mode) o) := by
  cases o with
  | v n => exact absurd rfl (h n)
  | _ => rfl

theorem foneBad_eq_false (h : o = .fone → f ≠ .int8q ∧ f ≠ .int4q) : foneBad f o = false := by
  by_cases ho : o = .fone
  · simp [foneBad, h ho]
  · simp [foneBad, ho]

theorem tagcheck_ok_of_readsAs (h : readsAs s f o) : ∃ a, s.tagcheck f o = .ok a := by
  by_cases hv : ∃ n, o = .v n
  · obtain ⟨n, rfl⟩ := hv
    simp only [State.tagcheck, tagcheckRow]
    rcases h with hd | ⟨t, ht, hr⟩
    · exact ⟨_, by rw [hd]⟩
    · rw [ht]
      dsimp only
      by_cases h1 : t = .raw32 ∨ t = f
      · exact ⟨_, if_pos h1⟩
      · rw [if_neg h1]
        rcases hr with hr | hr | ⟨htp, hel, hq, hq'⟩
        · exact absurd (.inl hr) h1
        · exact absurd (.inr hr) h1
        · rw [htp, if_neg (by decide), if_neg (by tauto)]
          split
          · exact ⟨_, rfl⟩
          · exact ⟨_, rfl⟩
  · have hf : foneBad f o = false := foneBad_eq_false fun ho => by
      subst ho
      exact not_or.1 h
    exact ⟨_, by rw [tagcheck_operand (not_exists.1 hv), hf, if_neg (by decide)]⟩

theorem rawRead_ok_of_readsRaw {b : Bool} (h : readsRaw s b o) : ∃ a, s.rawRead b o = .ok a := by
  by_cases hv : ∃ n, o = .v n
  · obtain ⟨n, rfl⟩ := hv
    obtain ⟨hp, hi⟩ := h
    simp only [State.rawRead]
    cases ht : (s.getV n).tag with
    | poison => exact absurd ht hp
    | invalid =>
      cases b
      · exact absurd ht (hi rfl)
      · exact ⟨_, rfl⟩
    | dead => exact ⟨_, rfl⟩
    | fmt t => exact ⟨_, rfl⟩
  · have hf : foneBad (modeFmt s.mode) o = false := foneBad_eq_false fun ho => by
      subst ho
      exact h
    exact ⟨_, by rw [rawRead_operand (not_exists.1 hv), hf, if_neg (by decide)]⟩
end

/-! ### Reading the sources one after the other -/

/-- The sources of a list read raw, in order, then what goes on with their lanes. -/
def State.readRaws (s : State) : List (Bool × Opnd) → (List (Vector Word 16) → Res State) → Res State
  | [], k => k []
  | r :: rs, k => do
    let a ← s.rawRead r.1 r.2
    s.readRaws rs (fun as => k (a :: as))

/-- The sources of a list checked against a format, in order, then what goes on with their lanes and STATUS bits. -/
def State.readSources (s : State) (g : Fmt) : List Opnd → (List (Vector Word 16 × BitVec 4) → Res State) → Res State
  | [], k => k []
  | o :: os, k => do
    let a ← s.tagcheck g o
    s.readSources g os (fun as => k (a :: as))

theorem readRaws_ok {s : State} {raws : List (Bool × Opnd)} {rs : List (Vector Word 16)}
    (h : List.Forall₂ (fun r a => s.rawRead r.1 r.2 = .ok a) raws rs) (k : List (Vector Word 16) → Res State) :
    s.readRaws raws k = k rs := by
  induction h generalizing k with
  | nil => rfl
  | cons h1 _ ih =>
    simp only [State.readRaws, h1]
    exact ih _

theorem readSources_ok {s : State} {g : Fmt} {srcs : List Opnd} {as : List (Vector Word 16 × BitVec 4)}
    (h : List.Forall₂ (fun o a => s.tagcheck g o = .ok a) srcs as) (k : List (Vector Word 16 × BitVec 4) → Res State) :
    s.readSources g srcs k = k as := by
  induction h generalizing k with
  | nil => rfl
  | cons h1 _ ih =>
    simp only [State.readSources, h1]
    exact ih _

theorem readSources_error {s : State} {g : Fmt} {pre : List Opnd} (h : ∀ q ∈ pre, readsAs s g q) {o : Opnd} {e : Stop}
    (ho : s.tagcheck g o = .error e) (post : List Opnd) (k : List (Vector Word 16 × BitVec 4) → Res State) :
    s.readSources g (pre ++ o :: post) k = .error e := by
  induction pre generalizing k with
  | nil =>
    simp only [List.nil_append, State.readSources, ho]
    rfl
  | cons q pre ih =>
    obtain ⟨a, ha⟩ := tagcheck_ok_of_readsAs (h q (.head _))
    simp only [List.cons_append, State.readSources, ha]
    exact ih (fun q hq => h q (.tail _ hq)) _

theorem exists_forall₂ {α β : Type} {R : α → β → Prop} {l : List α} (h : ∀ a ∈ l, ∃ b, R a b) : ∃ bs, List.Forall₂ R l bs := by
  induction l with
  | nil => exact ⟨[], .nil⟩
  | cons a l ih =>
    obtain ⟨b, hb⟩ := h a (.head _)
    obtain ⟨bs, hbs⟩ := ih (fun a ha => h a (.tail _ ha))
    exact ⟨b :: bs, .cons hb hbs⟩

/-! ### The common form of a vector instruction -/

section
variable {i : Instr} {s : State} {f : State → Res State}

theorem completes_of_ok (hx : exec i s = issueDone i s f) (hr : s.ready i = true) {t : State} (h : f s = .ok t) :
    Completes i s t := by
  rw [Completes, hx, issueDone_ready hr, h]

theorem traps_of_error (hx : exec i s = issueDone i s f) (hr : s.ready i = true) {e : TrapReq} (h : f s = .error (.trap e)) :
    Traps i s e := by
  rw [Traps, hx, issueDone_ready hr, h]

/-- An instruction that under the execute mask and an accepted format reads its sources in order and then completes. -/
theorem vectorForm_of_reads {ok : Fmt → Bool} {b : Fmt → Res State} {g : Fmt} {srcs : List Opnd} {raws : List (Bool × Opnd)}
    {k : List (Vector Word 16 × BitVec 4) → List (Vector Word 16) → State} {body : Prop}
    (hx : exec i s = issueDone i s f) (hf : f s = s.vecOp ok b)
    (hb : b (modeFmt s.mode) = s.readSources g srcs (fun as => s.readRaws raws (fun rs => .ok (k as rs))))
    (hbody : ∀ as rs, List.Forall₂ (fun o a => s.tagcheck g o = .ok a) srcs as →
      List.Forall₂ (fun r a => s.rawRead r.1 r.2 = .ok a) raws rs → Completes i s (k as rs) → body) :
    vectorForm i s ok g srcs raws body := by
  have hrun (he : s.exec ≠ 0) (ho : ok (modeFmt s.mode) = true) : f s = b (modeFmt s.mode) := by
    rw [hf, State.vecOp, if_neg he, if_pos ho]
  have hread (h : ∀ q ∈ srcs, readsAs s g q) : ∃ as, List.Forall₂ (fun o a => s.tagcheck g o = .ok a) srcs as :=
    exists_forall₂ (fun q hq => tagcheck_ok_of_readsAs (h q hq))
  refine ⟨fun hr he => ?_, fun hr he ho => ?_, fun ⟨hr, he, ho⟩ pre o post e hs hp ht => ?_,
    fun ⟨hr, he, ho⟩ hs b' o post e hraw ht => ?_, fun ⟨hr, he, ho⟩ hs hraw => ?_⟩
  · exact completes_of_ok hx hr (by rw [hf, State.vecOp, if_pos he])
  · exact traps_of_error hx hr (by rw [hf, State.vecOp, if_neg he, if_neg (by simp [ho])]; rfl)
  · exact traps_of_error hx hr (by rw [hrun he ho, hb, hs, readSources_error hp ht])
  · obtain ⟨as, has⟩ := hread hs
    refine traps_of_error hx hr ?_
    rw [hrun he ho, hb, readSources_ok has, hraw]
    simp only [State.readRaws, ht]
    rfl
  · obtain ⟨as, has⟩ := hread hs
    obtain ⟨rs, hrs⟩ := exists_forall₂ (R := fun r a => s.rawRead r.1 r.2 = .ok a)
      (fun r hr => rawRead_ok_of_readsRaw (hraw r hr))
    exact hbody as rs has hrs (completes_of_ok hx hr (by rw [hrun he ho, hb, readSources_ok has, readRaws_ok hrs]))

end

/-- What completes only has to be shown for an accepted format. -/
theorem vectorForm_mono {i : Instr} {s : State} {ok : Fmt → Bool} {g : Fmt} {srcs : List Opnd} {raws : List (Bool × Opnd)}
    {p q : Prop} (h : ok (modeFmt s.mode) = true → p → q) (hp : vectorForm i s ok g srcs raws p) :
    vectorForm i s ok g srcs raws q := by
  obtain ⟨h0, h1, h2, h3, h4⟩ := hp
  exact ⟨h0, h1, h2, h3, fun hr hs hraw => h hr.2.2 (h4 hr hs hraw)⟩

/-! ### The shapes of the lane instructions -/

section
variable {i : Instr} {s : State} {x y z : Opnd} {ok : Fmt → Bool}

theorem vectorForm_two {F : Vector Word 16 → Vector Word 16 → Fin 16 → Word} {tag : Tag} {f : State → Res State} {b : Fmt → Res State}
    (hx : exec i s = issueDone i s f) (hf : f s = s.vecOp ok b)
    (hb : b (modeFmt s.mode) = do
      let a ← s.tagcheck (modeFmt s.mode) y
      let b ← s.tagcheck (modeFmt s.mode) z
      .ok ((s.setStatus (a.2 ||| b.2)).wVO x s.exec (F a.1 b.1) tag)) :
    vectorForm i s ok (modeFmt s.mode) [y, z] [] (∃ a b, s.tagcheck (modeFmt s.mode) y = .ok a ∧
      s.tagcheck (modeFmt s.mode) z = .ok b ∧ Completes i s ((s.setStatus (a.2 ||| b.2)).wVO x s.exec (F a.1 b.1) tag)) := by
  refine vectorForm_of_reads (k := fun as _ => match as with
    | [a, b] => (s.setStatus (a.2 ||| b.2)).wVO x s.exec (F a.1 b.1) tag
    | _ => s) hx hf hb ?_
  rintro _ _ (_ | ⟨ha, _ | ⟨hb, _ | _⟩⟩) - hc
  exact ⟨_, _, ha, hb, hc⟩

theorem vectorForm_one {F : Vector Word 16 → Fin 16 → Word} {tag : Tag} {f : State → Res State} {b : Fmt → Res State}
    (hx : exec i s = issueDone i s f) (hf : f s = s.vecOp ok b)
    (hb : b (modeFmt s.mode) = do
      let a ← s.tagcheck (modeFmt s.mode) y
      .ok ((s.setStatus a.2).wVO x s.exec (F a.1) tag)) :
    vectorForm i s ok (modeFmt s.mode) [y] [] (∃ a, s.tagcheck (modeFmt s.mode) y = .ok a ∧
      Completes i s ((s.setStatus a.2).wVO x s.exec (F a.1) tag)) := by
  refine vectorForm_of_reads (k := fun as _ => match as with
    | [a] => (s.setStatus a.2).wVO x s.exec (F a.1) tag
    | _ => s) hx hf hb ?_
  rintro _ _ (_ | ⟨ha, _ | _⟩) - hc
  exact ⟨_, ha, hc⟩

theorem vectorForm_shift {F : Vector Word 16 → Vector Word 16 → Fin 16 → Word} {tag : Tag} {f : State → Res State}
    {b : Fmt → Res State} (hx : exec i s = issueDone i s f) (hf : f s = s.vecOp ok b)
    (hb : b (modeFmt s.mode) = do
      let a ← s.tagcheck (modeFmt s.mode) y
      let n ← s.rawRead false z
      .ok ((s.setStatus a.2).wVO x s.exec (F a.1 n) tag)) :
    vectorForm i s ok (modeFmt s.mode) [y] [(false, z)] (∃ a n, s.tagcheck (modeFmt s.mode) y = .ok a ∧
      s.rawRead false z = .ok n ∧ Completes i s ((s.setStatus a.2).wVO x s.exec (F a.1 n) tag)) := by
  refine vectorForm_of_reads (k := fun as rs => match as, rs with
    | [a], [n] => (s.setStatus a.2).wVO x s.exec (F a.1 n) tag
    | _, _ => s) hx hf hb ?_
  rintro _ _ (_ | ⟨ha, _ | _⟩) (_ | ⟨hn, _ | _⟩) hc
  exact ⟨_, _, ha, hn, hc⟩
end

/-! ### Integer lanes (R56, R106) -/

theorem ofInt_intVal (f : Fmt) (a : Word) : BitVec.ofInt 32 (intVal f a) = a := by
  unfold intVal
  split <;> simp

theorem elems_of_word {f : Fmt} (h : f = .int32 ∨ f = .uint32) : f.elems = 1 ∧ f.isFloat = false ∧ fmtArith f = true := by
  rcases h with rfl | rfl <;> decide

/-- R42: a lane of one element is that element. -/
theorem packElems_word {f : Fmt} (h : f.elems = 1) (a : Word) : packElems f [a.toNat] = a := by
  simp [packElems, Fmt.width, h, Nat.mod_eq_of_lt a.isLt]

theorem runElems_one (op : Nat → Word → Rounded) (t : Word) : runElems op t 1 = ([(op 0 t).bits], (op 0 t).sat, (op 0 t).lfsr) := by
  simp [runElems, List.range_one]

/-- Instruction `i` leaves in the lanes of the mask of v`n` what `g` makes of the lanes of two sources, and changes no other vector
register. -/
def WritesLanes (s : State) (n : Fin 128) (a b : Vector Word 16 × BitVec 4) (i : Instr) (g : Word → Word → Word) : Prop :=
  s.ready i = true → ∃ t, Completes i s t ∧ (∀ l : Fin 16, (t.curV n).lanes[l] =
    if s.exec.getLsbD l then g a.1[l] b.1[l] else (s.curV n).lanes[l]) ∧ ∀ m, m ≠ n.val → t.curV m = s.curV m

section
variable {s : State} {sb : Bool} {n : Fin 128} {y z : Opnd} {a b : Vector Word 16 × BitVec 4}
  (hf : modeFmt s.mode = .int32 ∨ modeFmt s.mode = .uint32) (hsat : (modeR s.mode).sat = false) (he : s.exec ≠ 0)
  (hu : s.unwritten (.v n) = true) (ha : s.tagcheck (modeFmt s.mode) y = .ok a) (hb : s.tagcheck (modeFmt s.mode) z = .ok b)
include hf hsat he hu ha hb

/-- R56, R106: two integer sources without saturation give, in the lanes of the mask, the wrapped result. -/
theorem arith2_wraps {i : Instr} {ff : RCtx → FVal → FVal → FVal} {fi : Int → Int → Int} {g : Word → Word → Word}
    (hx : exec i s = issueDone i s (fun s => s.arith2 (.v n) y z ff fi))
    (hg : ∀ p q, BitVec.ofInt 32 (fi (intVal (modeFmt s.mode) p) (intVal (modeFmt s.mode) q)) = g p q) :
    WritesLanes s n a b i g := by
  intro hr
  obtain ⟨hel, hfl, har⟩ := elems_of_word hf
  have hok : ∃ r, s.arith2 (.v n) y z ff fi = .ok (s.putLanes (.v n) 1 (modeFmt s.mode) (a.2 ||| b.2) r) ∧
      ∀ l : Fin 16, s.exec.getLsbD l = true → r[l].1 = [(g a.1[l] b.1[l]).toNat] := by
    unfold State.arith2 State.vecOp
    rw [if_neg he, if_pos har]
    dsimp only
    rw [ha, hb]
    refine ⟨_, rfl, fun l hl => ?_⟩
    simp [State.runLanes, hl, hel, runElems_one, hfl, intRounded, intResult, hsat, hg]
  obtain ⟨r, hok, hlanes⟩ := hok
  have hw := putLanes_wroteRow s (a.2 ||| b.2) r hu he (modeFmt s.mode)
  refine ⟨_, completes_of_ok hx hr hok, fun l => ?_, fun m hm => ?_⟩
  · rw [hw.row, writeRow_lanes]
    refine ite_congr rfl (fun hl => ?_) (fun _ => rfl)
    rw [hlanes l hl, hel]
    exact packElems_word hel _
  · rw [hw.otherV m hm, computed_curV]

theorem vadd_wraps : WritesLanes s n a b (.vadd sb (.v n) y z) (fun p q => p + q) :=
  arith2_wraps hf hsat he hu ha hb (fi := fun a b => a + b) (exec_vadd ..)
    (fun p q => by rw [BitVec.ofInt_add, ofInt_intVal, ofInt_intVal])

theorem vsub_wraps : WritesLanes s n a b (.vsub sb (.v n) y z) (fun p q => p - q) :=
  arith2_wraps hf hsat he hu ha hb (fi := fun a b => a - b) (exec_vsub ..)
    (fun p q => by
      rw [Int.sub_eq_add_neg, BitVec.ofInt_add, BitVec.ofInt_neg, ofInt_intVal, ofInt_intVal, BitVec.sub_eq_add_neg])

theorem vmul_wraps : WritesLanes s n a b (.vmul sb (.v n) y z) (fun p q => p * q) :=
  arith2_wraps hf hsat he hu ha hb (fi := fun a b => a * b) (exec_vmul ..)
    (fun p q => by rw [BitVec.ofInt_mul, ofInt_intVal, ofInt_intVal])

theorem vmin_lanes : WritesLanes s n a b (.vmin sb (.v n) y z)
    (fun p q => if intVal (modeFmt s.mode) p ≤ intVal (modeFmt s.mode) q then p else q) :=
  arith2_wraps hf hsat he hu ha hb (fi := fun a b => min a b) (exec_vmin ..)
    (fun p q => by rw [min_def, apply_ite (BitVec.ofInt 32), ofInt_intVal, ofInt_intVal])

theorem vmax_lanes : WritesLanes s n a b (.vmax sb (.v n) y z)
    (fun p q => if intVal (modeFmt s.mode) p ≤ intVal (modeFmt s.mode) q then q else p) :=
  arith2_wraps hf hsat he hu ha hb (fi := fun a b => max a b) (exec_vmax ..)
    (fun p q => by rw [max_def, apply_ite (BitVec.ofInt 32), ofInt_intVal, ofInt_intVal])
end

/-- R106: the high half of a product. -/
theorem mulHigh_eq (f : Fmt) (a b : Word) : mulHigh f a b =
    if f = .uint32 then (BitVec.ofNat 64 (a.toNat * b.toNat)).extractLsb' 32 32
    else (BitVec.ofInt 64 (a.toInt * b.toInt)).extractLsb' 32 32 := by
  unfold mulHigh intVal
  split
  · rw [← smulhu_eq]
    norm_cast
  · exact smulh_eq a b

/-- R106: a right shift fills with the sign but under UINT32. -/
theorem shiftRight_eq (f : Fmt) (a b : Word) : shiftRight f a b =
    if f = .uint32 then BitVec.ofNat 32 (a.toNat / 2 ^ (b.toNat % 64)) else a.sshiftRight (b.toNat % 64) := by
  unfold shiftRight
  rw [shr_eq]

/-- R119: the elements of a packed lane are the lower halves of both sources. -/
theorem packed_halves {f : Fmt} (h : 1 < f.elems) (a b : Word) :
    (List.range f.elems).map (fun i => if i < f.elems / 2 then elem f a i else elem f b (i - f.elems / 2)) =
      (List.range (f.elems / 2)).map (elem f a) ++ (List.range (f.elems / 2)).map (elem f b) := by
  have heven : f.elems = f.elems / 2 + f.elems / 2 := by
    revert h
    cases f <;> decide
  conv_lhs => rw [heven, List.range_add, List.map_append, List.map_map]
  rw [← heven]
  congr 1
  · exact List.map_congr_left (fun i hi => if_pos (List.mem_range.1 hi))
  · exact List.map_congr_left (fun i _ => by simp)

/-- Settles O26: the arithmetic of two integer sources, then the instructions on raw lanes by the shape of their sources. -/
theorem integerAndBitLanes : Obligations.IntegerAndBitLanes := by
  constructor
  · intro s sb n y z a b hf hsat he hu ha hb lanes
    have hmin := vmin_lanes (sb := sb) hf hsat he hu ha hb
    have hmax := vmax_lanes (sb := sb) hf hsat he hu ha hb
    refine ⟨vadd_wraps hf hsat he hu ha hb, vsub_wraps hf hsat he hu ha hb, vmul_wraps hf hsat he hu ha hb,
      fun h => ?_, fun h => ?_⟩
    · simp only [h, intVal, if_neg (show Fmt.int32 ≠ .uint32 by decide)] at hmin hmax
      exact ⟨hmin, hmax⟩
    · simp only [h, intVal, if_pos, Int.ofNat_le] at hmin hmax
      exact ⟨hmin, hmax⟩
  · intro s sb x y z f two shift one
    refine ⟨?_, ?_, ?_, ?_, ?_, ?_, ?_, ?_, ?_, ?_, ?_, ?_, fun t => ?_⟩
    · simp only [two, f, ← mulHigh_eq]
      exact vectorForm_two (F := fun a b l => mulHigh f a[l] b[l]) (exec_vmulh ..) rfl rfl
    · exact vectorForm_two (F := fun a b l => a[l] &&& b[l]) (exec_vand ..) rfl rfl
    · exact vectorForm_two (F := fun a b l => a[l] ||| b[l]) (exec_vor ..) rfl rfl
    · exact vectorForm_two (F := fun a b l => a[l] ^^^ b[l]) (exec_vxor ..) rfl rfl
    · simp only [shift, f, ← shl_eq]
      exact vectorForm_shift (F := fun a n l => shiftLeft f a[l] n[l]) (exec_vshl ..) rfl rfl
    · simp only [shift, f, ← shiftRight_eq]
      exact vectorForm_shift (F := fun a n l => shiftRight f a[l] n[l]) (exec_vshr ..) rfl rfl
    · simp only [one, ← not_eq_sub]
      exact vectorForm_one (F := fun a l => ~~~a[l]) (exec_vunNot ..) rfl rfl
    · exact vectorForm_one (F := fun a l => BitVec.ofNat 32 (clzNat 32 a[l].toNat)) (exec_vunClz ..) rfl rfl
    · exact vectorForm_one (F := fun a l => BitVec.ofNat 32 (popc a[l])) (exec_vunPopc ..) rfl rfl
    · refine vectorForm_mono (fun hp => ?_) (vectorForm_two (F := fun a b l => packElems f ((List.range f.elems).map
        (fun i => if i < f.elems / 2 then elem f a[l] i else elem f b[l] (i - f.elems / 2)))) (exec_pack ..) rfl rfl)
      simp only [f, ← packed_halves (of_decide_eq_true hp)]
      exact id
    · exact vectorForm_one (F := fun a l => packElems f ((List.range (f.elems / 2)).map (elem f a[l]))) (exec_unpk ..) rfl rfl
    · exact vectorForm_one (F := fun a l => packElems f ((List.range (f.elems / 2)).map (fun i => elem f a[l] (f.elems / 2 + i))))
        (exec_unpk ..) rfl rfl
    · refine vectorForm_of_reads (k := fun _ rs => match rs with
        | [a] => s.wVO x s.exec (fun l => a[l]) (.fmt t)
        | _ => s) (exec_tag ..) rfl rfl ?_
      rintro _ _ - (_ | ⟨ha, _ | _⟩) hc
      exact ⟨_, ha, hc⟩

end Sys2Proof.Machine
end

section
/-!
PROOFS. What CSRR reads (R55, R100, R143, R145, R168, R172, R187, R190, R194, R309, R320, R326, R344, R348, R372, R411).
-/

namespace Sys2Proof.Machine

open Sys2Proof Sys2Proof.Laws

/-- R100: a CSRR of a CSR other than STATUS writes the value of the CSR to X. -/
theorem csrr_completes {s : State} {sb : Bool} {x : Opnd} {n : BitVec 16} (hr : s.ready (.csrr sb x n) = true) (hn : n ≠ 0x0030)
    {v : Word} (hv : s.csrRead n.toNat = .ok v) : Completes (.csrr sb x n) s (s.wS x v) := by
  refine completes_of_ok (exec_csrr ..) hr ?_
  rw [hv]
  exact congrArg (fun t => Except.ok (State.wS t x v)) (if_neg hn)

/-! ### The value of a CSR -/

theorem csrRead_occ (s : State) {i : Nat} (h : i < 128) : s.csrRead (0x0200 + i) =
    .ok (BitVec.ofNat 32 (s.sliceCnt (dieOf s.here) i s.g.tenant).occ) := by
  unfold State.csrRead
  repeat rw [if_neg (by omega)]
  rw [if_pos (by omega), Nat.add_sub_cancel_left]

theorem csrRead_req (s : State) {i : Nat} (h : i < 128) : s.csrRead (0x0280 + i) =
    .ok (s.sliceCnt (dieOf s.here) i s.g.tenant).req := by
  unfold State.csrRead
  repeat rw [if_neg (by omega)]
  rw [if_pos (by omega), Nat.add_sub_cancel_left]

/-- A register of three bits. -/
theorem threeBits (a b c : Bool) : let v := BitVec.ofNat 32 (bitAt a 0 + bitAt b 1 + bitAt c 2)
    v.toNat < 8 ∧ v.getLsbD 0 = a ∧ v.getLsbD 1 = b ∧ v.getLsbD 2 = c := by
  cases a <;> cases b <;> cases c <;> decide

theorem tenantWord_some {s : State} {t : Tenant} (h : s.tenant? s.g.tenant = some t) (f : Tenant → Word) :
    s.tenantWord f = f t := by
  rw [State.tenantWord, h]
  rfl

theorem lowLane_zero : lowLane 0 = none := by decide

/-- R55: the lowest lane of a mask. -/
theorem lowLane_eq_some {m : BitVec 16} {l : Fin 16} (h : m.getLsbD l = true) (hlow : ∀ k < l.val, m.getLsbD k = false) :
    lowLane m = some l := by
  unfold lowLane lanesOf
  rw [List.head?_filter, List.find?_eq_some_iff_getElem]
  refine ⟨h, l.val, by simp, by simp, fun j hj => ?_⟩
  simpa using hlow j hj

theorem openStatus_eq_zero {s : State} (h : ∀ p ∈ s.allSplits, p.wfresh = 0) : s.openStatus = 0 := by
  have hl : ∀ (l : List Split), (∀ p ∈ l, p.wfresh = 0) → l.foldl (fun m p => m ||| p.wfresh) 0 = 0 := by
    intro l hl
    induction l with
    | nil => rfl
    | cons p l ih =>
      rw [List.foldl_cons, hl p (.head _)]
      exact ih (fun p hp => hl p (.tail _ hp))
  unfold State.openStatus
  rw [h s.sp (.head _)]
  exact hl _ (fun p hp => h p (.tail _ (List.mem_filter.1 hp).1))

/-- R101: where no window still owes a bit, STATUS reads as it stands. -/
theorem readStatus_settled {s : State} (h : s.openStatus = 0) : s.readStatus = BitVec.ofNat 32 s.g.status.toNat := by
  have hb : s.statusBit = fun i => s.g.status.getLsbD i := by
    funext i
    simp [State.statusBit, h]
  unfold State.readStatus
  rw [hb]
  generalize s.g.status = b
  revert b
  decide

theorem statusSeen_settled {s : State} (h : s.openStatus = 0) : s.statusSeen = s := by
  have hstep : ∀ (l : List Nat), l.foldl (fun s i =>
      if s.openStatus.getLsbD i && s.statusBit i then
        let all := s.settings i
        let one := all[s.free .windowStatus (32 + i) % all.length]?
        s.settingsGone i (all.filter (fun x => some x = one || s.settingCoin i x)) (fun _ => false)
      else s) s = s := by
    intro l
    induction l with
    | nil => rfl
    | cons i l ih => rw [List.foldl_cons, if_neg (by simp [h]), ih]
  exact hstep _

/-- Settles O20: each CSR by its number; of STATUS, no window still owes a bit. -/
theorem csrReads : Obligations.CsrReads := by
  intro s sb x hr reads d
  have hreads {n : BitVec 16} {v : Word} (hn : n ≠ 0x0030) (hv : s.csrRead n.toNat = .ok v) : reads n v :=
    csrr_completes (hr n) hn hv
  have hslice {i : Nat} (hi : i < 128) (base : Nat) (hb : base = 0x0200 ∨ base = 0x0280) :
      (BitVec.ofNat 16 (base + i)).toNat = base + i ∧ BitVec.ofNat 16 (base + i) ≠ 0x0030 := by
    have ht : (BitVec.ofNat 16 (base + i)).toNat = base + i := by
      rw [BitVec.toNat_ofNat]
      omega
    refine ⟨ht, fun h => ?_⟩
    rw [h, show (0x0030 : BitVec 16).toNat = 0x0030 from rfl] at ht
    omega
  refine ⟨hreads (by decide) rfl, hreads (by decide) rfl, hreads (by decide) rfl, fun t ht => ⟨?_, ?_, ?_, ?_, ?_⟩,
    hreads (by decide) rfl, ?_, fun hs => ?_, hreads (by decide) rfl, hreads (by decide) rfl, fun i hi => ⟨?_, ?_⟩, fun he => ?_,
    fun l hl hlow => ?_, hreads (by decide) rfl, ?_, ?_, hreads (by decide) rfl, hreads (by decide) rfl, hreads (by decide) rfl,
    hreads (by decide) rfl, hreads (by decide) rfl⟩
  · exact hreads (by decide) (congrArg _ (tenantWord_some ht (·.locDepth)))
  · exact hreads (by decide) (congrArg _ (tenantWord_some ht (·.locBytes)))
  · exact hreads (by decide) (congrArg _ (tenantWord_some ht (·.locIdle)))
  · exact hreads (by decide) (congrArg _ (tenantWord_some ht (fun t => BitVec.ofNat 32 t.watch.length)))
  · exact hreads (by decide) (congrArg _ (tenantWord_some ht (fun t => BitVec.ofNat 32 t.wdog)))
  · exact ⟨s.cellarStatus, hreads (by decide) rfl, threeBits _ _ _⟩
  · have h0 := openStatus_eq_zero hs
    refine completes_of_ok (exec_csrr ..) (hr _) ?_
    rw [show s.csrRead (0x0030 : BitVec 16).toNat = .ok s.readStatus from rfl, readStatus_settled h0]
    exact congrArg (fun t => Except.ok (State.wS t x _)) ((if_pos rfl).trans (statusSeen_settled h0))
  · obtain ⟨ht, hn⟩ := hslice hi 0x0200 (.inl rfl)
    exact hreads hn (by rw [ht]; exact csrRead_occ s hi)
  · obtain ⟨ht, hn⟩ := hslice hi 0x0280 (.inr rfl)
    exact hreads hn (by rw [ht]; exact csrRead_req s hi)
  · refine hreads (by decide) (congrArg Except.ok (?_ : s.seedRead = 0))
    rw [State.seedRead, he, lowLane_zero]
  · refine hreads (by decide) (congrArg Except.ok (?_ : s.seedRead = s.g.lfsr[l]))
    rw [State.seedRead, lowLane_eq_some hl hlow]
  · exact hreads (by decide) rfl
  · obtain ⟨hlt, h0, h1, h2⟩ := threeBits s.powerLow (s.die? (dieOf s.here)).therm (((s.tenant? s.g.tenant).map (·.pwrSeen)).getD false)
    exact ⟨s.pwrStatus, hreads (by decide) rfl, hlt, h0, h1, fun t ht => h2.trans (by rw [ht]; rfl)⟩

end Sys2Proof.Machine
end

section
/-!
PROOFS. Exact values of the floating formats (spec 02): sums and products (R41), comparison of magnitudes, and what an
encoding stands for (R39).
-/

namespace Sys2Proof.Machine

open Sys2Proof Sys2Proof.Laws

/-! ### Magnitudes -/

/-- The rational number m × 2^e. -/
def mag (m : Nat) (e : Int) : ℚ := (m : ℚ) * (2 : ℚ) ^ e

theorem mag_nonneg (m : Nat) (e : Int) : 0 ≤ mag m e := by unfold mag; positivity

theorem mag_pos {m : Nat} (h : m ≠ 0) (e : Int) : 0 < mag m e := by
  have : 0 < m := Nat.pos_of_ne_zero h
  unfold mag; positivity

@[simp] theorem mag_zero (e : Int) : mag 0 e = 0 := by simp [mag]

theorem mag_eq_zero {m : Nat} {e : Int} : mag m e = 0 ↔ m = 0 := by
  simp [mag, zpow_ne_zero]

theorem mag_one (e : Int) : mag 1 e = (2 : ℚ) ^ e := by simp [mag]

/-- The same number at a smaller exponent. -/
theorem mag_shift (m k : Nat) (e : Int) : mag (m * 2 ^ k) e = mag m (e + k) := by
  simp only [mag, zpow_add₀ (two_ne_zero' ℚ), zpow_natCast]
  push_cast
  ring

theorem mag_align {e e1 : Int} (h : e ≤ e1) (m : Nat) : mag m e1 = mag (m * 2 ^ (e1 - e).toNat) e := by
  rw [mag_shift]
  congr 1
  omega

theorem mag_lt_mag {m n : Nat} {e : Int} : mag m e < mag n e ↔ m < n := by
  unfold mag
  rw [mul_lt_mul_iff_left₀ (by positivity)]
  exact Nat.cast_lt

theorem mag_le_mag {m n : Nat} {e : Int} : mag m e ≤ mag n e ↔ m ≤ n := by
  rw [← not_lt, mag_lt_mag, not_lt]

theorem mag_inj {m n : Nat} {e : Int} : mag m e = mag n e ↔ m = n := by
  rw [le_antisymm_iff, mag_le_mag, mag_le_mag, Nat.le_antisymm_iff]

theorem magLt_iff (m1 : Nat) (e1 : Int) (m2 : Nat) (e2 : Int) : magLt m1 e1 m2 e2 = true ↔ mag m1 e1 < mag m2 e2 := by
  rw [mag_align (min_le_left e1 e2) m1, mag_align (min_le_right e1 e2) m2, mag_lt_mag]
  exact decide_eq_true_iff

/-! ### Values -/

/-- The factor of a sign. -/
def sgn (n : Bool) : ℚ := if n then -1 else 1

theorem valueQ_fin (n : Bool) (m : Nat) (e : Int) : valueQ (.fin n m e) = sgn n * mag m e := mul_assoc _ _ _

theorem valueQ_pos (m : Nat) (e : Int) : valueQ (.fin false m e) = mag m e := by simp [valueQ_fin, sgn]

theorem valueQ_neg (m : Nat) (e : Int) : valueQ (.fin true m e) = -mag m e := by simp [valueQ_fin, sgn]

/-- The value of an integer multiple of a power of two, kept as a sign and a magnitude. -/
theorem valueQ_ofSigned (t : Int) (e : Int) : valueQ (.fin (t < 0) t.natAbs e) = (t : ℚ) * (2 : ℚ) ^ e := by
  rcases lt_or_ge t 0 with h | h
  · rw [decide_eq_true h, valueQ_neg, mag, Nat.cast_natAbs, abs_of_neg h]
    push_cast
    ring
  · rw [decide_eq_false (not_lt.2 h), valueQ_pos, mag, Nat.cast_natAbs, abs_of_nonneg h]

/-! ### Exact sums and products (R41, R104) -/

/-- A natural number under a sign. -/
def signed (n : Bool) (a : Nat) : Int := if n then -(a : Int) else a

theorem sgn_mul_mag (n : Bool) (m : Nat) (e : Int) : sgn n * mag m e = (signed n m : ℚ) * (2 : ℚ) ^ e := by
  cases n <;> simp [sgn, mag, signed]

theorem fadd_fin_fin (rd n1 n2 : Bool) (m1 m2 : Nat) (e1 e2 : Int) : fadd rd (.fin n1 m1 e1) (.fin n2 m2 e2) =
    if signed n1 (m1 * 2 ^ (e1 - min e1 e2).toNat) + signed n2 (m2 * 2 ^ (e2 - min e1 e2).toNat) = 0
    then .fin (if n1 = n2 then n1 else rd) 0 0
    else .fin (signed n1 (m1 * 2 ^ (e1 - min e1 e2).toNat) + signed n2 (m2 * 2 ^ (e2 - min e1 e2).toNat) < 0)
      (signed n1 (m1 * 2 ^ (e1 - min e1 e2).toNat) + signed n2 (m2 * 2 ^ (e2 - min e1 e2).toNat)).natAbs (min e1 e2) := rfl

theorem valueQ_fadd (rd n1 n2 : Bool) (m1 m2 : Nat) (e1 e2 : Int) :
    valueQ (fadd rd (.fin n1 m1 e1) (.fin n2 m2 e2)) = valueQ (.fin n1 m1 e1) + valueQ (.fin n2 m2 e2) := by
  rw [valueQ_fin, valueQ_fin, mag_align (min_le_left e1 e2) m1, mag_align (min_le_right e1 e2) m2, sgn_mul_mag, sgn_mul_mag,
    ← add_mul, ← Int.cast_add, fadd_fin_fin]
  split
  · next h => rw [h, valueQ_fin, mag_zero, mul_zero, Int.cast_zero, zero_mul]
  · exact valueQ_ofSigned _ _

theorem fadd_fin (rd n1 n2 : Bool) (m1 m2 : Nat) (e1 e2 : Int) :
    ∃ n m e, fadd rd (.fin n1 m1 e1) (.fin n2 m2 e2) = .fin n m e := by
  rw [fadd_fin_fin]
  split
  · exact ⟨_, _, _, rfl⟩
  · exact ⟨_, _, _, rfl⟩

theorem valueQ_fmul (n1 n2 : Bool) (m1 m2 : Nat) (e1 e2 : Int) :
    valueQ (fmul (.fin n1 m1 e1) (.fin n2 m2 e2)) = valueQ (.fin n1 m1 e1) * valueQ (.fin n2 m2 e2) := by
  have hs : sgn (n1 != n2) = sgn n1 * sgn n2 := by cases n1 <;> cases n2 <;> norm_num [sgn]
  simp only [fmul, valueQ_fin, hs, mag, zpow_add₀ (two_ne_zero' ℚ)]
  push_cast
  ring

theorem fadd_nan_right (rd : Bool) (x : FVal) : fadd rd x .nan = .nan := by cases x <;> rfl

theorem fmul_nan_right (x : FVal) : fmul x .nan = .nan := by cases x <;> rfl

/-! ### Encodings (R39) -/

theorem layout_width {f : Fmt} (h : f.isFloat = true) : f.width = f.layout.eb + f.layout.mb + 1 := by
  cases f with
  | raw32 | int32 | uint32 | int8q | int4q => exact absurd h (by decide)
  | fp32 | bf16 | fp16 | e4m3 | e5m2 => rfl

theorem layout_hasInf {f : Fmt} : f.layout.hasInf = true ↔ f ≠ .e4m3 := by
  cases f <;> decide

/-- The encoding with a sign, an exponent field and a fraction field. -/
def encode (f : Fmt) (sign : Bool) (E F : Nat) : Nat := E * 2 ^ f.layout.mb + F + signBits f sign

theorem encode_eq {f : Fmt} (hf : f.isFloat = true) (sign : Bool) (E F : Nat) :
    encode f sign E F = F + 2 ^ f.layout.mb * (E + 2 ^ f.layout.eb * sign.toNat) := by
  have hw : f.width - 1 = f.layout.eb + f.layout.mb := by rw [layout_width hf]; rfl
  have hs : signBits f sign = 2 ^ (f.layout.eb + f.layout.mb) * sign.toNat := by
    rw [signBits, hw]
    cases sign <;> simp
  rw [encode, hs]
  ring

section
variable {f : Fmt} {sign : Bool} {E F : Nat} (hf : f.isFloat = true) (hE : E < 2 ^ f.layout.eb) (hF : F < 2 ^ f.layout.mb)
include hf hE hF

omit hE in
theorem encode_fraction : encode f sign E F % 2 ^ f.layout.mb = F := by
  rw [encode_eq hf, Nat.add_mul_mod_self_left, Nat.mod_eq_of_lt hF]

theorem encode_exponent : encode f sign E F / 2 ^ f.layout.mb % 2 ^ f.layout.eb = E := by
  rw [encode_eq hf, Nat.add_mul_div_left _ _ (by positivity), Nat.div_eq_of_lt hF, zero_add, Nat.add_mul_mod_self_left,
    Nat.mod_eq_of_lt hE]

theorem encode_sign : (encode f sign E F).testBit (f.layout.eb + f.layout.mb) = sign := by
  rw [Nat.testBit_eq_decide_div_mod_eq, add_comm, pow_add, ← Nat.div_div_eq_div_mul, encode_eq hf,
    Nat.add_mul_div_left _ _ (by positivity), Nat.div_eq_of_lt hF, zero_add, Nat.add_mul_div_left _ _ (by positivity),
    Nat.div_eq_of_lt hE, zero_add]
  cases sign <;> rfl

/-- What an encoding stands for, in its fields. -/
theorem fdecode_encode : fdecode f (encode f sign E F) =
    if E = 2 ^ f.layout.eb - 1 ∧ f ≠ .e4m3 then (if F = 0 then .inf sign else .nan)
    else if E = 2 ^ f.layout.eb - 1 ∧ F = 2 ^ f.layout.mb - 1 then .nan
    else if E = 0 then .fin sign F (1 - (f.layout.bias : Int) - f.layout.mb)
    else .fin sign (2 ^ f.layout.mb + F) ((E : Int) - f.layout.bias - f.layout.mb) := by
  simp only [fdecode, encode_fraction hf hF, encode_exponent hf hE hF, encode_sign hf hE hF, layout_hasInf]

/-- R39: the number that a finite encoding stands for. -/
theorem valueQ_fdecode_encode (h1 : ¬(E = 2 ^ f.layout.eb - 1 ∧ f ≠ .e4m3)) (h2 : ¬(E = 15 ∧ F = 7 ∧ f = .e4m3)) :
    ∃ m e, fdecode f (encode f sign E F) = .fin sign m e ∧ valueQ (fdecode f (encode f sign E F)) =
      (if sign then -1 else 1) * (2 : ℚ) ^ ((max E 1 : Int) - f.layout.bias) *
        ((if E = 0 then 0 else 1) + (F : ℚ) / 2 ^ f.layout.mb) := by
  have h2' : ¬(E = 2 ^ f.layout.eb - 1 ∧ F = 2 ^ f.layout.mb - 1) := fun ⟨hE', hF'⟩ => by
    have h4 : f = .e4m3 := by_contra fun h => h1 ⟨hE', h⟩
    subst h4
    exact h2 ⟨hE', hF', rfl⟩
  rw [fdecode_encode hf hE hF, if_neg h1, if_neg h2']
  by_cases h0 : E = 0
  · rw [if_pos h0]
    refine ⟨_, _, rfl, ?_⟩
    rw [valueQ_fin, if_pos h0, mag, zpow_sub₀ two_ne_zero, zpow_natCast, h0]
    simp [sgn, div_eq_mul_inv]
    ring_nf
  · rw [if_neg h0]
    refine ⟨_, _, rfl, ?_⟩
    rw [valueQ_fin, if_neg h0, mag, zpow_sub₀ two_ne_zero, zpow_natCast, max_eq_left (by omega)]
    simp only [sgn]
    push_cast
    field_simp
end

theorem fdecode_encodings (f : Fmt) (sign : Bool) (E F : Nat) (hf : f.isFloat = true) (hE : E < 2 ^ f.layout.eb)
    (hF : F < 2 ^ f.layout.mb) :
    if E = 2 ^ f.layout.eb - 1 ∧ f ≠ .e4m3 then fdecode f (encode f sign E F) = if F = 0 then .inf sign else .nan
    else if E = 15 ∧ F = 7 ∧ f = .e4m3 then fdecode f (encode f sign E F) = .nan
    else ∃ m e, fdecode f (encode f sign E F) = .fin sign m e ∧ valueQ (fdecode f (encode f sign E F)) =
      (if sign then -1 else 1) * (2 : ℚ) ^ ((max E 1 : Int) - f.layout.bias) *
        ((if E = 0 then 0 else 1) + (F : ℚ) / 2 ^ f.layout.mb) := by
  split
  · next h => rw [fdecode_encode hf hE hF, if_pos h]
  · next h =>
    split
    · next h2 =>
      obtain ⟨rfl, rfl, rfl⟩ := h2
      rw [fdecode_encode hf hE hF, if_neg h, if_pos ⟨rfl, rfl⟩]
    · next h2 => exact valueQ_fdecode_encode hf hE hF h h2

end Sys2Proof.Machine
end

section
/-!
PROOFS. Rounding (spec 02): the finite encodings in their order, and what round() makes of an exact value (R51 to R54).
-/

namespace Sys2Proof.Machine

open Sys2Proof Sys2Proof.Laws

/-! ### The finite encodings without a sign, in the order of their values -/

/-- The significand of an encoding. -/
def sig (f : Fmt) (a : Nat) : Nat := if a / 2 ^ f.layout.mb = 0 then a % 2 ^ f.layout.mb else 2 ^ f.layout.mb + a % 2 ^ f.layout.mb

/-- The exponent of an encoding. -/
def expo (f : Fmt) (a : Nat) : Int := max ((a / 2 ^ f.layout.mb : Nat) : Int) 1 - f.layout.bias - f.layout.mb

theorem sig_lt (f : Fmt) (a : Nat) : sig f a < 2 ^ (f.layout.mb + 1) := by
  have h := Nat.mod_lt a (Nat.two_pow_pos f.layout.mb)
  rw [pow_succ]
  unfold sig
  split <;> omega

theorem sig_of_lt {f : Fmt} {a : Nat} (h : a < 2 ^ f.layout.mb) : sig f a = a := by
  rw [sig, if_pos (Nat.div_eq_of_lt h), Nat.mod_eq_of_lt h]

theorem expo_of_lt {f : Fmt} {a : Nat} (h : a < 2 ^ f.layout.mb) : expo f a = 1 - (f.layout.bias : Int) - f.layout.mb := by
  rw [expo, Nat.div_eq_of_lt h]; rfl

theorem sig_normal {f : Fmt} {E F : Nat} (hE : E ≠ 0) (hF : F < 2 ^ f.layout.mb) :
    sig f (E * 2 ^ f.layout.mb + F) = 2 ^ f.layout.mb + F := by
  rw [sig, mul_comm, Nat.mul_add_div (by positivity), Nat.div_eq_of_lt hF, if_neg (by omega), Nat.mul_add_mod, Nat.mod_eq_of_lt hF]

theorem expo_normal {f : Fmt} {E F : Nat} (hE : E ≠ 0) (hF : F < 2 ^ f.layout.mb) :
    expo f (E * 2 ^ f.layout.mb + F) = (E : Int) - f.layout.bias - f.layout.mb := by
  rw [expo, mul_comm, Nat.mul_add_div (by positivity), Nat.div_eq_of_lt hF]
  omega

/-- A greater encoding stands for a greater number. -/
theorem mag_encoding_strictMono (f : Fmt) : StrictMono fun a => mag (sig f a) (expo f a) := by
  refine strictMono_nat_of_lt_succ fun a => ?_
  obtain ⟨E, F, hF, rfl⟩ : ∃ E F, F < 2 ^ f.layout.mb ∧ a = E * 2 ^ f.layout.mb + F :=
    ⟨_, _, Nat.mod_lt a (by positivity), (Nat.div_add_mod' a _).symm⟩
  by_cases hE : E = 0
  · subst hE
    simp only [Nat.zero_mul, Nat.zero_add]
    rw [sig_of_lt hF, expo_of_lt hF]
    by_cases hF1 : F + 1 < 2 ^ f.layout.mb
    · rw [sig_of_lt hF1, expo_of_lt hF1, mag_lt_mag]
      omega
    · have h1 : F + 1 = 1 * 2 ^ f.layout.mb + 0 := by omega
      rw [h1, sig_normal one_ne_zero (by positivity), expo_normal one_ne_zero (by positivity), Nat.cast_one, mag_lt_mag]
      omega
  · rw [sig_normal hE hF, expo_normal hE hF]
    by_cases hF1 : F + 1 < 2 ^ f.layout.mb
    · rw [add_assoc, sig_normal hE hF1, expo_normal hE hF1, mag_lt_mag]
      omega
    · have h1 : E * 2 ^ f.layout.mb + F + 1 = (E + 1) * 2 ^ f.layout.mb + 0 := by rw [add_mul]; omega
      rw [h1, sig_normal (by omega) (by positivity), expo_normal (by omega) (by positivity),
        mag_align (e := (E : Int) - f.layout.bias - f.layout.mb) (by omega) (2 ^ f.layout.mb + 0), mag_lt_mag]
      rw [show (((E + 1 : Nat) : Int) - f.layout.bias - f.layout.mb - ((E : Int) - f.layout.bias - f.layout.mb)).toNat = 1 by omega]
      omega

theorem maxBits_lt {f : Fmt} (h : f.isFloat = true) : maxBits f < 2 ^ (f.layout.eb + f.layout.mb) := by
  cases f with
  | raw32 | int32 | uint32 | int8q | int4q => exact absurd h (by decide)
  | fp32 | bf16 | fp16 | e4m3 | e5m2 => decide

/-- The finite encodings are those up to the largest. -/
theorem le_maxBits_iff {f : Fmt} (h : f.isFloat = true) {a : Nat} (ha : a < 2 ^ (f.layout.eb + f.layout.mb)) :
    a ≤ maxBits f ↔ ¬(a / 2 ^ f.layout.mb = 2 ^ f.layout.eb - 1 ∧ f ≠ .e4m3) ∧
      ¬(a / 2 ^ f.layout.mb = 2 ^ f.layout.eb - 1 ∧ a % 2 ^ f.layout.mb = 2 ^ f.layout.mb - 1) := by
  cases f with
  | raw32 | int32 | uint32 | int8q | int4q => exact absurd h (by decide)
  | fp32 | bf16 | fp16 | e4m3 | e5m2 =>
    simp only [Fmt.layout, maxBits, ne_eq, reduceCtorEq] at ha ⊢
    norm_num at ha ⊢
    omega

theorem encode_div_mod (f : Fmt) (sign : Bool) (a : Nat) :
    encode f sign (a / 2 ^ f.layout.mb) (a % 2 ^ f.layout.mb) = a + signBits f sign := by
  rw [encode, Nat.div_add_mod']

section
variable {f : Fmt} (hf : f.isFloat = true)
include hf

theorem fdecode_finite {a : Nat} (ha : a ≤ maxBits f) (sign : Bool) :
    fdecode f (a + signBits f sign) = .fin sign (sig f a) (expo f a) := by
  have hlt := lt_of_le_of_lt ha (maxBits_lt hf)
  obtain ⟨h1, h2⟩ := (le_maxBits_iff hf hlt).1 ha
  have hE : a / 2 ^ f.layout.mb < 2 ^ f.layout.eb := Nat.div_lt_of_lt_mul (by rwa [← pow_add, add_comm])
  rw [← encode_div_mod, fdecode_encode hf hE (Nat.mod_lt _ (by positivity)), if_neg h1, if_neg h2]
  unfold sig expo
  split
  · next h => rw [h]; rfl
  · next h => rw [max_eq_left (by exact_mod_cast Nat.one_le_iff_ne_zero.2 h)]

theorem fdecode_finite_pos {a : Nat} (ha : a ≤ maxBits f) : fdecode f a = .fin false (sig f a) (expo f a) :=
  fdecode_finite hf ha false

theorem valueQ_fdecode_finite {a : Nat} (ha : a ≤ maxBits f) : valueQ (fdecode f a) = mag (sig f a) (expo f a) := by
  rw [fdecode_finite_pos hf ha, valueQ_pos]

/-- Every finite value of a format has a finite encoding without its sign. -/
theorem exists_of_fdecode_fin {b m : Nat} {n : Bool} {e : Int} (h : fdecode f b = .fin n m e) :
    ∃ a ≤ maxBits f, m = sig f a ∧ e = expo f a := by
  obtain ⟨a, ha⟩ : ∃ a, a = b % 2 ^ (f.layout.eb + f.layout.mb) := ⟨_, rfl⟩
  have hlt : a < 2 ^ (f.layout.eb + f.layout.mb) := ha ▸ Nat.mod_lt _ (by positivity)
  have hE : b / 2 ^ f.layout.mb % 2 ^ f.layout.eb = a / 2 ^ f.layout.mb := by
    rw [ha, add_comm, pow_add, Nat.mod_mul_right_div_self]
  have hF : b % 2 ^ f.layout.mb = a % 2 ^ f.layout.mb := by
    rw [ha, add_comm, pow_add, Nat.mod_mul_right_mod]
  simp only [fdecode, hE, hF, layout_hasInf] at h
  have hle : a ≤ maxBits f := by
    refine (le_maxBits_iff hf hlt).2 ⟨fun h1 => ?_, fun h2 => ?_⟩
    · rw [if_pos h1] at h
      split at h <;> cases h
    · by_cases h1 : f ≠ .e4m3
      · rw [if_pos ⟨h2.1, h1⟩] at h
        split at h <;> cases h
      · rw [if_neg (fun hh => h1 hh.2), if_pos h2] at h
        cases h
  obtain ⟨h1, h2⟩ := (le_maxBits_iff hf hlt).1 hle
  rw [if_neg h1, if_neg h2] at h
  refine ⟨a, hle, ?_⟩
  unfold sig expo
  split at h
  · next h0 =>
    cases h
    rw [h0, if_pos rfl]
    exact ⟨rfl, rfl⟩
  · next h0 =>
    cases h
    rw [if_neg h0, max_eq_left (by exact_mod_cast Nat.one_le_iff_ne_zero.2 h0)]
    exact ⟨rfl, rfl⟩
end

end Sys2Proof.Machine
end

section
/-!
PROOFS. round() of a finite value (spec 02, R51 to R54): the unit of the last place, the part below it, the step up, and the
encoding of what comes out.
-/

namespace Sys2Proof.Machine

open Sys2Proof Sys2Proof.Laws

/-! ### A magnitude in units of the last place -/

/-- The least exponent of a unit of the last place. -/
def leastExp (f : Fmt) : Int := 1 - (f.layout.bias : Int) - f.layout.mb

/-- The exponent of the unit of the last place of a magnitude. -/
def unitExp (f : Fmt) (m : Nat) (e : Int) : Int := max ((Nat.log2 m : Int) + e - f.layout.mb) (leastExp f)

/-- The whole units in a magnitude. -/
def units (q : Int) (m : Nat) (e : Int) : Nat := if e ≥ q then m * 2 ^ (e - q).toNat else m / 2 ^ (q - e).toNat

/-- What lies above the whole units, in units of the magnitude's own last place. -/
def rest (q : Int) (m : Nat) (e : Int) : Nat := if e ≥ q then 0 else m % 2 ^ (q - e).toNat

theorem rest_lt (q : Int) (m : Nat) (e : Int) : rest q m e < 2 ^ (q - e).toNat := by
  unfold rest
  split
  · positivity
  · exact Nat.mod_lt _ (by positivity)

theorem mag_div_unit (q : Int) (m : Nat) (e : Int) :
    mag m e / (2 : ℚ) ^ q = units q m e + (rest q m e : ℚ) / 2 ^ (q - e).toNat := by
  rw [div_eq_iff (by positivity)]
  unfold units rest
  split
  · next h => rw [mag_align h, mag]; simp
  · next h =>
    have hq : (2 : ℚ) ^ q = 2 ^ e * 2 ^ (q - e).toNat := by
      rw [← zpow_natCast, ← zpow_add₀ (two_ne_zero' ℚ)]
      congr 1
      omega
    have hm : (m : ℚ) = (m / 2 ^ (q - e).toNat : Nat) * 2 ^ (q - e).toNat + (m % 2 ^ (q - e).toNat : Nat) := by
      exact_mod_cast (Nat.div_add_mod' m _).symm
    rw [mag, hq]
    conv_lhs => rw [hm]
    field_simp

section
variable (f : Fmt) {m : Nat} (hm : m ≠ 0) (e : Int)

theorem leastExp_le_unitExp : leastExp f ≤ unitExp f m e := le_max_right _ _

theorem mag_lt_of_log2 : mag m e < (2 : ℚ) ^ ((Nat.log2 m : Int) + 1 + e) := by
  rw [← mag_one, ← Nat.cast_succ, add_comm, ← mag_shift, mag_lt_mag, one_mul]
  exact Nat.lt_log2_self

/-- The whole units fit the significand. -/
theorem units_lt : units (unitExp f m e) m e < 2 ^ (f.layout.mb + 1) := by
  have h1 := mag_lt_of_log2 (m := m) e
  have h2 : (2 : ℚ) ^ ((Nat.log2 m : Int) + 1 + e) ≤ 2 ^ ((f.layout.mb + 1 : Nat) + unitExp f m e) := by
    refine zpow_le_zpow_right₀ one_le_two ?_
    have := le_max_left ((Nat.log2 m : Int) + e - f.layout.mb) (leastExp f)
    unfold unitExp
    push_cast
    omega
  have h3 : mag m e / (2 : ℚ) ^ unitExp f m e < 2 ^ (f.layout.mb + 1) := by
    rw [div_lt_iff₀ (by positivity), ← zpow_natCast, ← zpow_add₀ two_ne_zero]
    exact lt_of_lt_of_le h1 h2
  rw [mag_div_unit] at h3
  have h4 : (0 : ℚ) ≤ (rest (unitExp f m e) m e : ℚ) / 2 ^ (unitExp f m e - e).toNat := by positivity
  have h5 : (units (unitExp f m e) m e : ℚ) < (2 ^ (f.layout.mb + 1) : Nat) := by
    push_cast
    linarith
  exact_mod_cast h5

include hm

theorem le_mag_of_log2 : (2 : ℚ) ^ ((Nat.log2 m : Int) + e) ≤ mag m e := by
  rw [← mag_one, add_comm, ← mag_shift, mag_le_mag, one_mul]
  exact Nat.log2_self_le hm

/-- Only a subnormal has fewer units than a significand of full length. -/
theorem unitExp_of_units_lt (h : units (unitExp f m e) m e < 2 ^ f.layout.mb) : unitExp f m e = leastExp f := by
  by_contra hne
  have hq : unitExp f m e = (Nat.log2 m : Int) + e - f.layout.mb :=
    (max_choice _ _).resolve_right hne
  have h1 : (2 : ℚ) ^ f.layout.mb ≤ mag m e / (2 : ℚ) ^ unitExp f m e := by
    rw [le_div_iff₀ (by positivity), ← zpow_natCast, ← zpow_add₀ two_ne_zero, hq, add_sub_cancel]
    exact le_mag_of_log2 hm e
  rw [mag_div_unit] at h1
  have h2 : (rest (unitExp f m e) m e : ℚ) / 2 ^ (unitExp f m e - e).toNat < 1 := by
    rw [div_lt_one (by positivity)]
    exact_mod_cast rest_lt _ _ _
  have h3 : (units (unitExp f m e) m e : ℚ) + 1 ≤ (2 ^ f.layout.mb : Nat) := by exact_mod_cast h
  push_cast at h3
  linarith
end

/-! ### The step up -/

theorem roundUp_iff (rm : Nat) (s : Word) (neg : Bool) (i : Nat) {r sh : Nat} :
    roundUp rm neg i r sh = true ↔ goesUp rm false s neg i ((r : ℚ) / 2 ^ sh) := by
  have hp : (0 : ℚ) < 2 ^ sh := by positivity
  have hpos : 0 < (r : ℚ) / 2 ^ sh ↔ r ≠ 0 := by
    rw [div_pos_iff_of_pos_right hp, Nat.cast_pos, Nat.pos_iff_ne_zero]
  have hlt : 1 / 2 < (r : ℚ) / 2 ^ sh ↔ 2 ^ sh < 2 * r := by
    rw [div_lt_div_iff₀ two_pos hp, one_mul, mul_comm]
    exact_mod_cast Iff.rfl
  have heq : (r : ℚ) / 2 ^ sh = 1 / 2 ↔ 2 * r = 2 ^ sh := by
    rw [div_eq_div_iff hp.ne' two_ne_zero, one_mul, mul_comm]
    exact_mod_cast Iff.rfl
  have hsh : 2 * r = 2 ^ sh → sh ≠ 0 := by
    rintro h rfl
    omega
  match rm with
  | 0 =>
    simp only [roundUp, goesUp, hlt, heq, Bool.or_eq_true, decide_eq_true_eq, Bool.and_eq_true, beq_iff_eq, bne_iff_ne,
      Bool.false_eq_true, if_false]
    tauto
  | 1 => simp [roundUp, goesUp]
  | 2 => simp [roundUp, goesUp, hpos]
  | _ + 3 => simp [roundUp, goesUp, hpos]

/-- Does rounding step up to the next unit? -/
abbrev stepsUp (f : Fmt) (c : RCtx) (s' : Word) (neg : Bool) (i r sh : Nat) : Prop :=
  if c.sr && f != .fp32 then r * 2 ^ 24 > (s'.toNat % 2 ^ 24) * 2 ^ sh else roundUp c.rm neg i r sh = true

theorem stepsUp_iff (f : Fmt) (c : RCtx) (s' : Word) (neg : Bool) (i : Nat) {r sh : Nat} :
    stepsUp f c s' neg i r sh ↔ goesUp c.rm (c.sr && f != .fp32) s' neg i ((r : ℚ) / 2 ^ sh) := by
  unfold stepsUp
  split
  · next h =>
    rw [h]
    simp only [goesUp, if_true]
    rw [div_mul_eq_mul_div, lt_div_iff₀ (by positivity)]
    exact_mod_cast Iff.rfl
  · next h =>
    rw [Bool.not_eq_true] at h
    rw [h]
    exact roundUp_iff _ _ _ _

/-! ### The encoding of a multiple of the unit -/

/-- The encoding of `i` units at exponent `q`. -/
def encodeMag (f : Fmt) (i : Nat) (q : Int) : Nat :=
  if i < 2 ^ f.layout.mb then i
  else if i = 2 ^ (f.layout.mb + 1) then (q + 1 + f.layout.mb + f.layout.bias).toNat * 2 ^ f.layout.mb
  else i - 2 ^ f.layout.mb + (q + f.layout.mb + f.layout.bias).toNat * 2 ^ f.layout.mb

theorem mag_double (m : Nat) (e : Int) : mag (m * 2) e = mag m (e + 1) := mag_shift m 1 e

theorem mag_encodeMag {f : Fmt} {i : Nat} {q : Int} (hi : i ≤ 2 ^ (f.layout.mb + 1)) (hq : leastExp f ≤ q)
    (hs : i < 2 ^ f.layout.mb → q = leastExp f) :
    mag (sig f (encodeMag f i q)) (expo f (encodeMag f i q)) = mag i q := by
  unfold leastExp at hq hs
  unfold encodeMag
  split
  · next h => rw [sig_of_lt h, expo_of_lt h, hs h]
  · next h =>
    split
    · next h2 =>
      have hE : (q + 1 + f.layout.mb + f.layout.bias).toNat ≠ 0 := by omega
      rw [← Nat.add_zero (_ * _), sig_normal hE (by positivity), expo_normal hE (by positivity), h2, Nat.add_zero, pow_succ,
        mag_double]
      congr 1
      omega
    · next h2 =>
      have hF : i - 2 ^ f.layout.mb < 2 ^ f.layout.mb := by
        rw [pow_succ] at hi h2
        omega
      have hE : (q + f.layout.mb + f.layout.bias).toNat ≠ 0 := by omega
      rw [add_comm, sig_normal hE hF, expo_normal hE hF]
      congr 1
      · omega
      · omega

theorem encodeMag_le {f : Fmt} {i : Nat} {q : Int} (hi : i ≤ 2 ^ (f.layout.mb + 1)) (hq : leastExp f ≤ q)
    (hs : i < 2 ^ f.layout.mb → q = leastExp f) (h : mag i q ≤ mag (sig f (maxBits f)) (expo f (maxBits f))) :
    encodeMag f i q ≤ maxBits f := by
  rw [← mag_encodeMag hi hq hs] at h
  exact (mag_encoding_strictMono f).le_iff_le.1 h

/-! ### round() -/

/-- The units that come out of rounding. -/
def roundedUnits (f : Fmt) (c : RCtx) (s' : Word) (neg : Bool) (m : Nat) (e : Int) : Nat :=
  if stepsUp f c s' neg (units (unitExp f m e) m e) (rest (unitExp f m e) m e) (unitExp f m e - e).toNat
  then units (unitExp f m e) m e + 1 else units (unitExp f m e) m e

/-- The generator after a rounding that is not flushed. -/
def stepped (f : Fmt) (c : RCtx) (s : Word) : Word := if c.sr && f != .fp32 then lfsrStep s else s

theorem fround_fin_eq (f : Fmt) (c : RCtx) (s : Word) (neg : Bool) (m : Nat) (e : Int) :
    fround f c s (.fin neg m e) =
      if (c.ftz && m != 0 && belowNormal f m e) = true then ⟨signBits f neg, false, s⟩
      else if m = 0 then ⟨signBits f neg, false, stepped f c s⟩
      else if (match fdecode f (maxBits f) with
          | .fin _ mm me => magLt mm me (roundedUnits f c (stepped f c s) neg m e) (unitExp f m e)
          | _ => false) = true then
        ⟨(overflow f (if c.sr && f != .fp32 then 0 else c.rm) c.sat neg).1,
          (overflow f (if c.sr && f != .fp32 then 0 else c.rm) c.sat neg).2, stepped f c s⟩
      else if roundedUnits f c (stepped f c s) neg m e < 2 ^ f.layout.mb then
        ⟨roundedUnits f c (stepped f c s) neg m e + signBits f neg, false, stepped f c s⟩
      else match (if roundedUnits f c (stepped f c s) neg m e = 2 ^ (f.layout.mb + 1) then (2 ^ f.layout.mb, unitExp f m e + 1)
          else (roundedUnits f c (stepped f c s) neg m e, unitExp f m e)) with
        | (i, q) => ⟨(i - 2 ^ f.layout.mb) + (q + f.layout.mb + f.layout.bias).toNat * 2 ^ f.layout.mb + signBits f neg, false,
          stepped f c s⟩ := rfl

/-- round() of a finite value, case by case. -/
theorem fround_fin {f : Fmt} (hf : f.isFloat = true) (c : RCtx) (s : Word) (neg : Bool) (m : Nat) (e : Int) :
    fround f c s (.fin neg m e) =
      if (c.ftz && m != 0 && belowNormal f m e) = true then ⟨signBits f neg, false, s⟩
      else if m = 0 then ⟨signBits f neg, false, stepped f c s⟩
      else if mag (sig f (maxBits f)) (expo f (maxBits f)) < mag (roundedUnits f c (stepped f c s) neg m e) (unitExp f m e) then
        ⟨(overflow f (if c.sr && f != .fp32 then 0 else c.rm) c.sat neg).1,
          (overflow f (if c.sr && f != .fp32 then 0 else c.rm) c.sat neg).2, stepped f c s⟩
      else ⟨encodeMag f (roundedUnits f c (stepped f c s) neg m e) (unitExp f m e) + signBits f neg, false, stepped f c s⟩ := by
  rw [fround_fin_eq, fdecode_finite_pos hf le_rfl]
  simp only [magLt_iff]
  refine ite_congr rfl (fun _ => rfl) fun _ => ite_congr rfl (fun _ => rfl) fun _ => ite_congr rfl (fun _ => rfl) fun _ => ?_
  unfold encodeMag
  split
  · rfl
  · split
    · rw [Nat.sub_self, Nat.zero_add]
    · rfl

end Sys2Proof.Machine
end

section
/-!
PROOFS. What round() makes of every value (spec 02, R41, R51, R52, R54), and the size of its encodings.
-/

namespace Sys2Proof.Machine

open Sys2Proof Sys2Proof.Laws

theorem belowNormal_iff (f : Fmt) (m : Nat) (e : Int) :
    belowNormal f m e = true ↔ mag m e < (2 : ℚ) ^ (1 - (f.layout.bias : Int)) := by
  rw [← mag_one]
  exact magLt_iff _ _ _ _

/-- R51: what is flushed. -/
theorem flushes_iff (f : Fmt) (ftz : Bool) (m : Nat) (e : Int) : (ftz && m != 0 && belowNormal f m e) = true ↔
    ftz = true ∧ m ≠ 0 ∧ mag m e < (2 : ℚ) ^ (1 - (f.layout.bias : Int)) := by
  rw [Bool.and_eq_true, Bool.and_eq_true, bne_iff_ne, belowNormal_iff, and_assoc]

theorem flushIn_fin (f : Fmt) (ftz neg : Bool) (m : Nat) (e : Int) : flushIn f ftz (.fin neg m e) =
    if ftz = true ∧ m ≠ 0 ∧ mag m e < (2 : ℚ) ^ (1 - (f.layout.bias : Int)) then .fin neg 0 0 else .fin neg m e := by
  simp only [flushIn, flushes_iff]

/-- R52: the table of overflowing results. -/
theorem overflow_eq {f : Fmt} (rm : Nat) (sat neg : Bool) : overflow f rm sat neg =
    (if sat = true then maxBits f + signBits f neg
      else if rm = 0 ∨ (rm = 2 ∧ neg = true) ∨ (3 ≤ rm ∧ neg = false)
        then (if f = .e4m3 then 0x7F else infBits f + signBits f neg) else maxBits f + signBits f neg, sat) := by
  have hinf : (if f.layout.hasInf then infBits f + signBits f neg else canonNaN f) =
      if f = .e4m3 then 0x7F else infBits f + signBits f neg := by
    cases f with
    | e4m3 => rfl
    | _ => rfl
  unfold overflow
  simp only [hinf]
  cases sat with
  | true => rfl
  | false =>
    match rm with
    | 0 => rfl
    | 1 => rfl
    | 2 => cases neg <;> rfl
    | _ + 3 => cases neg <;> simp

section
variable {f : Fmt} (hf : f.isFloat = true) (c : RCtx) (s : Word) (neg : Bool) {m : Nat} (e : Int)

theorem units_le_roundedUnits (s' : Word) : units (unitExp f m e) m e ≤ roundedUnits f c s' neg m e := by
  unfold roundedUnits
  split <;> omega

theorem roundedUnits_le (s' : Word) : roundedUnits f c s' neg m e ≤ 2 ^ (f.layout.mb + 1) := by
  have h := units_lt f (m := m) e
  unfold roundedUnits
  split <;> omega

theorem unitExp_of_roundedUnits_lt (hm : m ≠ 0) {s' : Word} (h : roundedUnits f c s' neg m e < 2 ^ f.layout.mb) :
    unitExp f m e = leastExp f :=
  unitExp_of_units_lt f hm e (lt_of_le_of_lt (units_le_roundedUnits c neg e s') h)

theorem encodeMag_roundedUnits_le (hm : m ≠ 0) {s' : Word}
    (h : ¬ mag (sig f (maxBits f)) (expo f (maxBits f)) < mag (roundedUnits f c s' neg m e) (unitExp f m e)) :
    encodeMag f (roundedUnits f c s' neg m e) (unitExp f m e) ≤ maxBits f :=
  encodeMag_le (roundedUnits_le c neg e s') (leastExp_le_unitExp f e) (unitExp_of_roundedUnits_lt c neg e hm) (not_lt.1 h)

include hf

/-- R51, R52, R54: the one rounding of every finite value. -/
theorem roundsRight_fround (m : Nat) : roundsRight f c s neg (mag m e) (fround f c s (.fin neg m e)) := by
  have hflush : (c.ftz = true ∧ mag m e ≠ 0 ∧ mag m e < (2 : ℚ) ^ (1 - (f.layout.bias : Int))) ↔
      (c.ftz && m != 0 && belowNormal f m e) = true := by
    rw [flushes_iff, Ne, mag_eq_zero]
  unfold roundsRight
  rw [fround_fin hf]
  simp only [hflush]
  split
  · rfl
  · by_cases hm : m = 0
    · subst hm
      rw [if_pos rfl]
      refine ⟨rfl, leastExp f, 0, false, ?_⟩
      have hup : ¬ goesUp c.rm (c.sr && f != .fp32) (stepped f c s) neg 0 0 := by
        rw [← zero_div ((2 : ℚ) ^ 0), ← Nat.cast_zero (R := ℚ), ← stepsUp_iff]
        unfold stepsUp
        split
        · simp
        · match c.rm with
          | 0 => simp [roundUp]
          | 1 => simp [roundUp]
          | 2 => simp [roundUp]
          | _ + 3 => simp [roundUp]
      have hmax : ¬ valueQ (fdecode f (maxBits f)) < 0 := by
        rw [valueQ_fdecode_finite hf le_rfl]
        exact not_lt.2 (mag_nonneg _ _)
      have h0 : valueQ (fdecode f 0) = 0 := by
        rw [valueQ_fdecode_finite hf (Nat.zero_le _), sig_of_lt (by positivity), mag_zero]
      simp only [mag_zero, zero_div, Nat.cast_zero, sub_self, zero_mul, Bool.false_eq_true, if_false, if_neg hmax]
      refine ⟨le_rfl, zero_lt_one, le_rfl, by positivity, fun _ => rfl, ?_, trivial, 0, Nat.zero_le _, (Nat.zero_add _).symm, h0⟩
      exact iff_of_false (by decide) hup
    · rw [if_neg hm]
      have hphi : mag m e / (2 : ℚ) ^ unitExp f m e - units (unitExp f m e) m e =
          (rest (unitExp f m e) m e : ℚ) / 2 ^ (unitExp f m e - e).toNat := by
        rw [mag_div_unit, add_sub_cancel_left]
      have hlt : (rest (unitExp f m e) m e : ℚ) / 2 ^ (unitExp f m e - e).toNat < 1 := by
        rw [div_lt_one (by positivity)]
        exact_mod_cast rest_lt _ _ _
      obtain ⟨up, hup⟩ : ∃ up : Bool, up = true ↔ stepsUp f c (stepped f c s) neg (units (unitExp f m e) m e)
          (rest (unitExp f m e) m e) (unitExp f m e - e).toNat := ⟨_, decide_eq_true_iff⟩
      have hy : roundedUnits f c (stepped f c s) neg m e =
          if up = true then units (unitExp f m e) m e + 1 else units (unitExp f m e) m e := by
        simp only [roundedUnits, hup]
      have hfold : (mag (roundedUnits f c (stepped f c s) neg m e) (unitExp f m e)) =
          (roundedUnits f c (stepped f c s) neg m e : ℚ) * (2 : ℚ) ^ unitExp f m e := rfl
      refine ⟨by split <;> rfl, unitExp f m e, units (unitExp f m e) m e, up, ?_⟩
      simp only [hphi, ← hy, ← hfold, valueQ_fdecode_finite hf le_rfl]
      refine ⟨by positivity, hlt, leastExp_le_unitExp f e, units_lt f e, unitExp_of_units_lt f hm e, ?_, ?_⟩
      · rw [hup]
        exact stepsUp_iff _ _ _ _ _
      · split
        · rw [overflow_eq]
          exact ⟨rfl, rfl⟩
        · next h =>
          have hle := encodeMag_roundedUnits_le c neg e hm h
          refine ⟨rfl, _, hle, rfl, ?_⟩
          rw [valueQ_fdecode_finite hf hle]
          exact mag_encodeMag (roundedUnits_le c neg e _) (leastExp_le_unitExp f e) (unitExp_of_roundedUnits_lt c neg e hm)
end

/-- round() of an infinity where the format has one (R39, R41). -/
theorem fround_inf {f : Fmt} (h : f ≠ .e4m3) (c : RCtx) (s : Word) (neg : Bool) :
    fround f c s (.inf neg) = ⟨infBits f + signBits f neg, false, s⟩ := if_pos (layout_hasInf.2 h)

/-- The largest encodings of a format and its infinities and NaN fit its width. -/
theorem specials_lt {f : Fmt} (hf : f.isFloat = true) (neg : Bool) :
    maxBits f + signBits f neg < 2 ^ f.width ∧ infBits f + signBits f neg < 2 ^ f.width ∧ canonNaN f < 2 ^ f.width := by
  cases f with
  | raw32 | int32 | uint32 | int8q | int4q => exact absurd hf (by decide)
  | fp32 | bf16 | fp16 | e4m3 | e5m2 => cases neg <;> decide

theorem overflow_fst_lt {f : Fmt} (hf : f.isFloat = true) (rm : Nat) (sat neg : Bool) : (overflow f rm sat neg).1 < 2 ^ f.width := by
  obtain ⟨hmax, hinf, hnan⟩ := specials_lt hf neg
  rw [overflow_eq]
  dsimp only
  split_ifs with _ _ h4
  · exact hmax
  · subst h4; exact hnan
  · exact hinf
  · exact hmax

/-- R51: a rounded value is an encoding of the format. -/
theorem fround_bits_lt {f : Fmt} (hf : f.isFloat = true) (c : RCtx) (s : Word) (x : FVal) : (fround f c s x).bits < 2 ^ f.width := by
  cases x with
  | nan => exact (specials_lt hf true).2.2
  | inf neg =>
    obtain ⟨hmax, hinf, hnan⟩ := specials_lt hf neg
    simp only [fround]
    split_ifs
    · exact hinf
    · exact hmax
    · exact hnan
  | fin neg m e =>
    have hle {b : Nat} (hb : b ≤ maxBits f) : b + signBits f neg < 2 ^ f.width :=
      lt_of_le_of_lt (Nat.add_le_add_right hb _) (specials_lt hf neg).1
    have h0 : signBits f neg < 2 ^ f.width := lt_of_le_of_lt (Nat.le_add_left _ _) (specials_lt hf neg).1
    rw [fround_fin hf]
    split
    · exact h0
    · split
      · exact h0
      · next hm =>
        split
        · exact overflow_fst_lt hf _ _ _
        · next h => exact hle (encodeMag_roundedUnits_le c neg e hm h)

end Sys2Proof.Machine
end

section
/-!
PROOFS. The generator over the elements of a lane (R53, R54), integers (R56), and the order of values (R21, R107, R114).
-/

namespace Sys2Proof.Machine

open Sys2Proof Sys2Proof.Laws

/-! ### The generator -/

/-- R53: a step shifts right and, where a 1 falls out, folds in the taps. -/
theorem lfsrStep_eq (s : Word) :
    lfsrStep s = BitVec.ofNat 32 (s.toNat / 2) ^^^ (if s.toNat % 2 = 1 then 0x80200003 else 0) := by
  have hshift : s >>> 1 = BitVec.ofNat 32 (s.toNat / 2) := by
    apply BitVec.eq_of_toNat_eq
    rw [BitVec.toNat_ushiftRight, BitVec.toNat_ofNat, Nat.shiftRight_one, Nat.mod_eq_of_lt (by omega)]
  have hbit : s.getLsbD 0 = true ↔ s.toNat % 2 = 1 := by
    rw [BitVec.getLsbD, Nat.testBit_zero, decide_eq_true_iff]
  simp only [lfsrStep, hbit, hshift]
  split
  · rfl
  · exact (BitVec.xor_zero).symm

/-- R54: the elements of a lane take the generator one after the other. -/
theorem runElems_succ (op : Nat → Word → Rounded) (s : Word) (n : Nat) : runElems op s (n + 1) =
    ((runElems op s n).1 ++ [(op n (runElems op s n).2.2).bits], (runElems op s n).2.1 || (op n (runElems op s n).2.2).sat,
      (op n (runElems op s n).2.2).lfsr) := by
  simp only [runElems, List.range_succ, List.foldl_append, List.foldl_cons, List.foldl_nil]

/-! ### Integer results (R56) -/

theorem toInt_ofInt_of_range {k : Int} (h1 : -(2 ^ 31) ≤ k) (h2 : k ≤ 2 ^ 31 - 1) : (BitVec.ofInt 32 k).toInt = k := by
  rw [BitVec.toInt_ofInt, Int.bmod_def]
  omega

theorem toNat_ofInt_of_range {k : Int} (h1 : 0 ≤ k) (h2 : k ≤ 2 ^ 32 - 1) : ((BitVec.ofInt 32 k).toNat : Int) = k := by
  rw [BitVec.toNat_ofInt]
  omega

theorem clampedTo_intResult (f : Fmt) (k : Int) : clampedTo f k (intResult f true k) := by
  by_cases hf : f = .uint32
  · simp only [clampedTo, intResult, hf, if_true, Bool.true_and, Bool.or_eq_true, decide_eq_true_eq, gt_iff_lt]
    split_ifs with h h1
    · exact ⟨iff_of_true rfl h, by rw [toNat_ofInt_of_range (by omega) (by omega)]; omega⟩
    · exact ⟨iff_of_true rfl h, by rw [toNat_ofInt_of_range (by omega) (by omega)]; omega⟩
    · exact ⟨iff_of_false (by decide) h, by rw [toNat_ofInt_of_range (by omega) (by omega)]; omega⟩
  · simp only [clampedTo, intResult, hf, if_false, Bool.true_and, Bool.or_eq_true, decide_eq_true_eq, gt_iff_lt]
    split_ifs with h h1
    · exact ⟨iff_of_true rfl h, by rw [toInt_ofInt_of_range (by omega) (by omega)]; omega⟩
    · exact ⟨iff_of_true rfl h, by rw [toInt_ofInt_of_range (by omega) (by omega)]; omega⟩
    · exact ⟨iff_of_false (by decide) h, by rw [toInt_ofInt_of_range (by omega) (by omega)]; omega⟩

/-- R51, R56: rounding a number to an integer, from its whole part, its fraction and the step up. -/
theorem nearestInt_of_goesUp {rm : Nat} {s : Word} {neg : Bool} {i : Nat} {phi : ℚ} {up : Bool} (h0 : 0 ≤ phi) (h1 : phi < 1)
    (h : up = true ↔ goesUp rm false s neg i phi) :
    nearestInt rm (sgn neg * (i + phi)) (signed neg (if up = true then i + 1 else i)) := by
  have hi : (0 : ℚ) ≤ i := Nat.cast_nonneg i
  match rm with
  | 0 => 
    simp only [goesUp, Bool.false_eq_true, if_false] at h
    have habs (a b : ℚ) : |sgn neg * a - sgn neg * b| = |a - b| := by
      cases neg
      · simp [sgn]
      · rw [← mul_sub, abs_mul]; simp [sgn]
    have hk (a : Nat) : ((signed neg a : Int) : ℚ) = sgn neg * a := by cases neg <;> simp [signed, sgn]
    have heven (a : Nat) : Even (signed neg a) ↔ a % 2 = 0 := by cases neg <;> simp [signed, Nat.even_iff]
    simp only [nearestInt, hk, habs, heven]
    cases up with
    | true =>
      have hphi : 1 / 2 ≤ phi := (h.1 rfl).elim le_of_lt fun h => h.1.ge
      rw [if_pos rfl, show ((i + 1 : Nat) : ℚ) - (i + phi) = 1 - phi by push_cast; ring, abs_of_nonneg (by linarith)]
      refine ⟨by linarith, fun he => ?_⟩
      rcases h.1 rfl with h | h
      · linarith
      · omega
    | false =>
      rw [Bool.false_eq_true, false_iff, not_or] at h
      rw [if_neg (by decide), show (i : ℚ) - (i + phi) = -phi by ring, abs_neg, abs_of_nonneg h0]
      refine ⟨not_lt.1 h.1, fun he => ?_⟩
      have := not_and.1 h.2 he
      omega
  | 1 =>
    have hup : up = false := by simpa [goesUp] using h
    subst hup
    simp only [nearestInt, Bool.false_eq_true, if_false]
    cases neg with
    | false =>
      rw [if_pos (by simp only [sgn, Bool.false_eq_true, if_false]; linarith), eq_comm, Int.floor_eq_iff]
      simp only [sgn, signed, Bool.false_eq_true, if_false]
      push_cast
      constructor <;> linarith
    | true =>
      simp only [sgn, signed, if_true]
      split_ifs with hv
      · rw [eq_comm, Int.floor_eq_iff]
        push_cast
        constructor <;> linarith
      · rw [eq_comm, Int.ceil_eq_iff]
        push_cast
        constructor <;> linarith
  | 2 =>
    simp only [goesUp, Bool.false_eq_true, if_false] at h
    simp only [nearestInt]
    rw [eq_comm, Int.floor_eq_iff]
    cases neg <;> cases up <;> simp [sgn, signed] at h ⊢ <;> constructor <;> linarith
  | _ + 3 =>
    simp only [goesUp, Bool.false_eq_true, if_false] at h
    simp only [nearestInt]
    rw [eq_comm, Int.ceil_eq_iff]
    cases neg <;> cases up <;> simp [sgn, signed] at h ⊢ <;> constructor <;> linarith

theorem nearestInt_self (rm : Nat) (k : Int) : nearestInt rm k k := by
  match rm with
  | 0 => exact ⟨by norm_num, fun h => by norm_num at h⟩
  | 1 => simp [nearestInt]
  | 2 => simp [nearestInt]
  | _ + 3 => simp [nearestInt]

theorem roundInt_of_nonneg {e : Int} (h : 0 ≤ e) (rm : Nat) (neg : Bool) (m : Nat) :
    roundInt rm neg m e = signed neg (m * 2 ^ e.toNat) := if_pos h

theorem roundInt_of_neg {e : Int} (h : e < 0) (rm : Nat) (neg : Bool) (m : Nat) : roundInt rm neg m e =
    signed neg (if roundUp rm neg (m / 2 ^ (-e).toNat) (m % 2 ^ (-e).toNat) (-e).toNat = true
      then m / 2 ^ (-e).toNat + 1 else m / 2 ^ (-e).toNat) := if_neg (not_le.2 h)

/-- R56: the integer a value rounds to. -/
theorem nearestInt_roundInt (rm : Nat) (neg : Bool) (m : Nat) (e : Int) :
    nearestInt rm (valueQ (.fin neg m e)) (roundInt rm neg m e) := by
  rw [valueQ_fin]
  rcases le_or_gt 0 e with h | h
  · rw [mag_align h, sub_zero, roundInt_of_nonneg h, sgn_mul_mag, zpow_zero, mul_one]
    exact nearestInt_self _ _
  · have hmag : mag m e = (m / 2 ^ (-e).toNat : Nat) + ((m % 2 ^ (-e).toNat : Nat) : ℚ) / 2 ^ (-e).toNat := by
      have h1 := mag_div_unit 0 m e
      rwa [zpow_zero, div_one, units, rest, if_neg (not_le.2 h), if_neg (not_le.2 h), zero_sub] at h1
    rw [hmag, roundInt_of_neg h]
    refine nearestInt_of_goesUp (s := 0) (by positivity) ?_ (roundUp_iff _ _ _ _)
    rw [div_lt_one (by positivity)]
    exact_mod_cast Nat.mod_lt _ (by positivity)

end Sys2Proof.Machine
end

section
/-!
PROOFS. The order of values that are not NaN (R21), minimum and maximum (R107), and the conditions of VCMP (R114).
-/

namespace Sys2Proof.Machine

open Sys2Proof Sys2Proof.Laws

theorem valueOrder_fin (n : Bool) (m : Nat) (e : Int) :
    valueOrder (.fin n m e) = (((valueQ (.fin n m e) : ℚ) : WithTop ℚ) : WithBot (WithTop ℚ)) := rfl

theorem fltVal_fin_iff (n1 n2 : Bool) (m1 m2 : Nat) (e1 e2 : Int) :
    fltVal (.fin n1 m1 e1) (.fin n2 m2 e2) = true ↔ valueQ (.fin n1 m1 e1) < valueQ (.fin n2 m2 e2) := by
  have hsgn {n : Bool} {m : Nat} (e : Int) (h : m ≠ 0) : 0 < sgn n * mag m e ↔ n = false := by
    have := mag_pos h e
    cases n
    · simp [sgn, this]
    · simp [sgn, this.le]
  have hsgn' {n : Bool} {m : Nat} (e : Int) (h : m ≠ 0) : sgn n * mag m e < 0 ↔ n = true := by
    have := mag_pos h e
    cases n
    · simp [sgn, this.le]
    · simp [sgn, this]
  rw [valueQ_fin, valueQ_fin]
  simp only [fltVal]
  by_cases h1 : m1 = 0
  · by_cases h2 : m2 = 0
    · simp [h1, h2]
    · simp [h1, h2, hsgn]
  · by_cases h2 : m2 = 0
    · simp [h1, h2, hsgn']
    · rw [if_neg (fun h => h1 h.1), if_neg h1, if_neg h2]
      have hp1 := mag_pos h1 e1
      have hp2 := mag_pos h2 e2
      cases n1 with
      | false =>
        cases n2 with
        | false => simp [magLt_iff, sgn]
        | true => simpa [sgn] using by linarith
      | true =>
        cases n2 with
        | false => simpa [sgn] using by linarith
        | true => simp [magLt_iff, sgn]

/-- R21: the order of two values that are not NaN. -/
theorem fltVal_iff {a b : FVal} (ha : a ≠ .nan) (hb : b ≠ .nan) : fltVal a b = true ↔ valueOrder a < valueOrder b := by
  cases a with
  | nan => exact absurd rfl ha
  | inf n =>
    cases b with
    | nan => exact absurd rfl hb
    | inf n' => cases n <;> cases n' <;> simp [fltVal, valueOrder]
    | fin n' m' e' =>
      rw [valueOrder_fin]
      cases n <;> simp [fltVal, valueOrder]
  | fin n m e =>
    cases b with
    | nan => exact absurd rfl hb
    | inf n' =>
      cases n' with
      | false => exact iff_of_true rfl (WithBot.coe_lt_coe.2 (WithTop.coe_lt_top _))
      | true => simp [fltVal, valueOrder]
    | fin n' m' e' => rw [fltVal_fin_iff, valueOrder_fin, valueOrder_fin, WithBot.coe_lt_coe, WithTop.coe_lt_coe]

theorem isNaN_eq_false {a : FVal} (h : a ≠ .nan) : a.isNaN = false := by
  cases a with
  | nan => exact absurd rfl h
  | inf n => rfl
  | fin n m e => rfl

/-- R21: equality of two values that are not NaN. -/
theorem feqVal_iff {a b : FVal} (ha : a ≠ .nan) (hb : b ≠ .nan) : feqVal a b = true ↔ valueOrder a = valueOrder b := by
  simp only [feqVal, isNaN_eq_false ha, isNaN_eq_false hb, Bool.not_false, Bool.true_and, Bool.and_eq_true, Bool.not_eq_true',
    ← Bool.not_eq_true, fltVal_iff ha hb, fltVal_iff hb ha, not_lt]
  exact ⟨fun ⟨h1, h2⟩ => le_antisymm h2 h1, fun h => ⟨h.ge, h.le⟩⟩

theorem fltVal_nan_right (a : FVal) : fltVal a .nan = false := by cases a <;> rfl

theorem feqVal_nan_right (a : FVal) : feqVal a .nan = false := by simp [feqVal, FVal.isNaN]

theorem fminmax_nan_right (mx : Bool) (a : FVal) : fminmax mx a .nan = a := by
  cases a <;> rfl

section
variable {a b : FVal} (ha : a ≠ .nan) (hb : b ≠ .nan) (mx : Bool)
include ha hb

/-- R107: which operand minimum and maximum give. -/
theorem fminmax_eq : fminmax mx a b =
    if valueOrder a = valueOrder b then (if a.isNeg = mx then b else a)
    else if (valueOrder a < valueOrder b ↔ mx = true) then b else a := by
  have hlt : (fltVal a b = mx) ↔ (valueOrder a < valueOrder b ↔ mx = true) := by rw [Bool.eq_iff_iff, fltVal_iff ha hb]
  simp only [fminmax, isNaN_eq_false ha, isNaN_eq_false hb, Bool.false_eq_true, if_false, feqVal_iff ha hb, hlt]

theorem fminmax_choice : fminmax mx a b = a ∨ fminmax mx a b = b := by
  rw [fminmax_eq ha hb]
  split_ifs <;> simp

theorem valueOrder_fminmax : valueOrder (fminmax mx a b) =
    if mx then max (valueOrder a) (valueOrder b) else min (valueOrder a) (valueOrder b) := by
  rw [fminmax_eq ha hb]
  by_cases heq : valueOrder a = valueOrder b
  · rw [if_pos heq, heq, max_self, min_self, ite_self]
    split
    · rfl
    · exact heq
  · rw [if_neg heq]
    by_cases hlt : valueOrder a < valueOrder b
    · rw [max_eq_right hlt.le, min_eq_left hlt.le]
      cases mx <;> simp [hlt]
    · have hle := not_lt.1 hlt
      rw [max_eq_left hle, min_eq_right hle]
      cases mx <;> simp [hlt]

theorem isNeg_fminmax (heq : valueOrder a = valueOrder b) :
    (fminmax mx a b).isNeg = if mx then a.isNeg && b.isNeg else a.isNeg || b.isNeg := by
  rw [fminmax_eq ha hb, if_pos heq]
  cases mx <;> cases h : a.isNeg <;> simp [h]
end

/-! ### The conditions of VCMP -/

/-- A running conjunction that has no answer where one of its parts has none. -/
theorem foldl_bind_and (g : Nat → Option Bool) (l : List Nat) (acc : Option Bool) :
    (l.foldl (fun acc i => acc.bind (fun p => (g i).map (fun q => p && q))) acc).isSome =
      (acc.isSome && l.all (fun i => (g i).isSome)) ∧
    (l.foldl (fun acc i => acc.bind (fun p => (g i).map (fun q => p && q))) acc = some true ↔
      acc = some true ∧ ∀ i ∈ l, g i = some true) := by
  induction l generalizing acc with
  | nil => simp
  | cons i l ih =>
    rw [List.foldl_cons]
    obtain ⟨ih1, ih2⟩ := ih (acc.bind (fun p => (g i).map (fun q => p && q)))
    rw [ih1, ih2]
    cases acc with
    | none => simp
    | some p => cases hg : g i with
      | none => simp [hg]
      | some q => simp [hg, and_assoc]

theorem condInt_ord_uno {uns : Bool} {k : Cond} (h : k = .ord ∨ k = .uno) (a b : Word) : condInt uns k a b = none := by
  rcases h with rfl | rfl <;> rfl

theorem laneCond_int {f : Fmt} (h : f.isInt = true) (c : RCtx) (k : Cond) (a b : Word) :
    laneCond f c k a b = if k = .ord ∨ k = .uno then none else condInt (f == .uint32) k a b := by
  have hel : f.elems = 1 := by
    cases f with
    | raw32 | int32 | uint32 => rfl
    | _ => exact absurd h (by decide)
  have hfl : f.isFloat = false := by
    cases f with
    | raw32 | int32 | uint32 => rfl
    | _ => exact absurd h (by decide)
  have hone : laneCond f c k a b = condInt (f == .uint32) k a b := by
    simp [laneCond, hel, hfl, List.range_one]
  rw [hone]
  split
  · next h => exact condInt_ord_uno h a b
  · rfl

theorem condFloat_isSome (k : Cond) (a b : FVal) :
    (condFloat k a b).isSome = true ↔ k ∈ [Cond.eq, .ne, .lt, .le, .gt, .ge, .ord, .uno] := by
  cases k <;> simp [condFloat]

theorem elems_pos (f : Fmt) : 0 < f.elems := by cases f <;> decide

section
variable {f : Fmt} (h : f.isFloat = true) (c : RCtx) (k : Cond) (a b : Word)
include h

theorem laneCond_float : laneCond f c k a b = (List.range f.elems).foldl (fun acc i =>
    acc.bind (fun p => (condFloat k (fpIn f c a i) (fpIn f c b i)).map (fun q => p && q))) (some true) := by
  simp only [laneCond, h, if_true]

/-- R114: which conditions compare floating elements. -/
theorem laneCond_float_isSome :
    (laneCond f c k a b).isSome = true ↔ k ∈ [Cond.eq, .ne, .lt, .le, .gt, .ge, .ord, .uno] := by
  rw [laneCond_float h, (foldl_bind_and _ _ _).1, Option.isSome_some, Bool.true_and, List.all_eq_true]
  simp only [condFloat_isSome, List.mem_range]
  exact ⟨fun hk => hk 0 (elems_pos f), fun hk _ _ => hk⟩

theorem laneCond_float_true :
    laneCond f c k a b = some true ↔ ∀ i < f.elems, condFloat k (fpIn f c a i) (fpIn f c b i) = some true := by
  rw [laneCond_float h, (foldl_bind_and _ _ _).2]
  simp only [List.mem_range, true_and]
end

end Sys2Proof.Machine
end

section
/-!
PROOFS. Reciprocal, square root and reciprocal square root stand for the exact number (spec 02 and 04, R112, R113).
-/

namespace Sys2Proof.Machine

open Sys2Proof Sys2Proof.Laws

/-! ### The integer square root -/

theorem isqrtAux_spec (x n r : Nat) (h1 : r * r ≤ x) (h2 : x < (r + 2 ^ n) * (r + 2 ^ n)) :
    isqrtAux x n r * isqrtAux x n r ≤ x ∧ x < (isqrtAux x n r + 1) * (isqrtAux x n r + 1) := by
  induction n generalizing r with
  | zero => exact ⟨h1, h2⟩
  | succ n ih =>
    unfold isqrtAux
    dsimp only
    split
    · next h =>
      refine ih _ h ?_
      rwa [add_assoc, ← mul_two, ← pow_succ]
    · next h => exact ih _ h1 (not_le.1 h)

/-- The integer square root is the whole part of the root. -/
theorem isqrt_spec (x : Nat) : isqrt x * isqrt x ≤ x ∧ x < (isqrt x + 1) * (isqrt x + 1) := by
  refine isqrtAux_spec x _ 0 (Nat.zero_le _) ?_
  rw [zero_add, ← pow_add]
  exact lt_of_lt_of_le Nat.lt_log2_self (Nat.pow_le_pow_right two_pos (by omega))

theorem le_isqrt {x k : Nat} (h : 2 ^ (2 * k) ≤ x) : 2 ^ k ≤ isqrt x := by
  by_contra hlt
  have h1 := (isqrt_spec x).2
  have h2 : (isqrt x + 1) * (isqrt x + 1) ≤ 2 ^ k * 2 ^ k := Nat.mul_le_mul (by omega) (by omega)
  rw [← pow_add, ← two_mul] at h2
  omega

/-! ### A value with a sticky bit -/

theorem mag_mul (a b : Nat) (d e : Int) : mag a d * mag b e = mag (a * b) (d + e) := by
  simp only [mag, zpow_add₀ (two_ne_zero' ℚ)]
  push_cast
  ring

theorem mag_two_pow (k : Nat) : mag (2 ^ k) (-(k : Int)) = 1 := by
  rw [← one_mul (2 ^ k), mag_shift, neg_add_cancel, mag_one, zpow_zero]

/-- What a result with a sticky bit stands for. -/
theorem standsFor_sticky {neg exact : Bool} {M : Nat} {e : Int} {less equal : ℚ → Prop} (hM : 2 ^ 100 ≤ M)
    (heq : exact = true → equal (mag M e))
    (hne : exact = false → less (mag M e) ∧ ¬ less (mag (M + 1) e) ∧ ¬ equal (mag (M + 1) e)) :
    standsFor (sticky neg M e exact) neg less equal := by
  cases exact with
  | true => exact ⟨M, e, rfl, .inl (heq rfl)⟩
  | false =>
    obtain ⟨h1, h2, h3⟩ := hne rfl
    refine ⟨2 * M + 1, e - 1, rfl, .inr ⟨M, rfl, hM, ?_⟩⟩
    rw [sub_add_cancel]
    exact ⟨h1, h2, h3⟩

/-! ### The three functions -/

section
variable {m : Nat} (hm : m ≠ 0)
include hm

theorem frcp_fin (n : Bool) (e : Int) : frcp (.fin n m e) = sticky n (2 ^ (128 + Nat.log2 m) / m)
    (-e - (128 + Nat.log2 m : Nat)) (2 ^ (128 + Nat.log2 m) % m == 0) := by
  simp only [frcp, fdiv, if_neg hm, one_mul, zero_sub, Bool.false_bne]

/-- R113: the reciprocal. -/
theorem frcp_standsFor (n : Bool) (e : Int) :
    standsFor (frcp (.fin n m e)) n (fun y => y * mag m e < 1) (fun y => y * mag m e = 1) := by
  rw [frcp_fin hm]
  obtain ⟨k, hk⟩ : ∃ k, k = 128 + Nat.log2 m := ⟨_, rfl⟩
  rw [← hk]
  have hprod (q : Nat) : mag q (-e - k) * mag m e = mag (q * m) (-(k : Int)) := by
    rw [mag_mul]
    congr 1
    omega
  have hdiv := Nat.div_add_mod' (2 ^ k) m
  have hmod := Nat.mod_lt (2 ^ k) (Nat.pos_of_ne_zero hm)
  refine standsFor_sticky ?_ (fun h => ?_) (fun h => ?_)
  · rw [Nat.le_div_iff_mul_le (Nat.pos_of_ne_zero hm)]
    calc 2 ^ 100 * m ≤ 2 ^ 100 * 2 ^ (Nat.log2 m + 1) := Nat.mul_le_mul_left _ Nat.lt_log2_self.le
      _ = 2 ^ (100 + (Nat.log2 m + 1)) := (pow_add _ _ _).symm
      _ ≤ 2 ^ k := Nat.pow_le_pow_right two_pos (by omega)
  · rw [beq_iff_eq] at h
    rw [hprod, ← mag_two_pow k, mag_inj]
    omega
  · rw [beq_eq_false_iff_ne] at h
    simp only [hprod]
    rw [← mag_two_pow k, mag_lt_mag, mag_lt_mag, mag_inj, add_mul]
    omega

/-- R113: the square root. -/
theorem fsqrt_standsFor (e : Int) :
    standsFor (fsqrt (.fin false m e)) false (fun y => y * y < mag m e) (fun y => y * y = mag m e) := by
  simp only [fsqrt, if_neg hm, Bool.false_eq_true, if_false]
  obtain ⟨k, hk⟩ : ∃ k : Nat, k = 256 + (if e % 2 = 0 then 0 else 1) := ⟨_, rfl⟩
  rw [← hk]
  have heven : (e - k) / 2 + (e - k) / 2 = e - k := by
    split at hk <;> omega
  have hsq (r : Nat) : mag r ((e - k) / 2) * mag r ((e - k) / 2) = mag (r * r) (e - k) := by rw [mag_mul, heven]
  have hx : mag m e = mag (m * 2 ^ k) (e - k) := by rw [mag_shift, sub_add_cancel]
  have hk256 : 256 ≤ k := by omega
  obtain ⟨h1, h2⟩ := isqrt_spec (m * 2 ^ k)
  refine standsFor_sticky ?_ (fun h => ?_) (fun h => ?_)
  · refine le_isqrt (le_trans ?_ (Nat.le_mul_of_pos_left (2 ^ k) (Nat.pos_of_ne_zero hm)))
    exact Nat.pow_le_pow_right two_pos (by omega)
  · rw [beq_iff_eq] at h
    rw [hsq, hx, h]
  · rw [beq_eq_false_iff_ne] at h
    simp only [hsq]
    rw [hx, mag_lt_mag, mag_lt_mag, mag_inj]
    omega

/-- R113: the reciprocal square root. -/
theorem frsqrt_standsFor (e : Int) :
    standsFor (frsqrt (.fin false m e)) false (fun y => y * y * mag m e < 1) (fun y => y * y * mag m e = 1) := by
  simp only [frsqrt, if_neg hm, Bool.false_eq_true, if_false]
  obtain ⟨k, hk⟩ : ∃ k : Nat, k = Nat.log2 m + 256 + (if ((Nat.log2 m + 256 : Nat) + e) % 2 = 0 then 0 else 1) := ⟨_, rfl⟩
  rw [← hk]
  have heven : -((k : Int) + e) / 2 + -((k : Int) + e) / 2 = -((k : Int) + e) := by
    split at hk <;> omega
  have hprod (r : Nat) : mag r (-((k : Int) + e) / 2) * mag r (-((k : Int) + e) / 2) * mag m e = mag (r * r * m) (-(k : Int)) := by
    rw [mag_mul, mag_mul, heven]
    congr 1
    omega
  have hkl : Nat.log2 m + 256 ≤ k := by omega
  obtain ⟨h1, h2⟩ := isqrt_spec (2 ^ k / m)
  have hle : isqrt (2 ^ k / m) * isqrt (2 ^ k / m) * m ≤ 2 ^ k := (Nat.le_div_iff_mul_le (Nat.pos_of_ne_zero hm)).1 h1
  have hlt : 2 ^ k < (isqrt (2 ^ k / m) + 1) * (isqrt (2 ^ k / m) + 1) * m := (Nat.div_lt_iff_lt_mul (Nat.pos_of_ne_zero hm)).1 h2
  refine standsFor_sticky ?_ (fun h => ?_) (fun h => ?_)
  · refine le_isqrt ?_
    rw [Nat.le_div_iff_mul_le (Nat.pos_of_ne_zero hm)]
    calc 2 ^ (2 * 100) * m ≤ 2 ^ (2 * 100) * 2 ^ (Nat.log2 m + 1) := Nat.mul_le_mul_left _ Nat.lt_log2_self.le
      _ = 2 ^ (2 * 100 + (Nat.log2 m + 1)) := (pow_add _ _ _).symm
      _ ≤ 2 ^ k := Nat.pow_le_pow_right two_pos (by omega)
  · rw [beq_iff_eq] at h
    rw [hprod, ← mag_two_pow k, h]
  · rw [beq_eq_false_iff_ne] at h
    simp only [hprod]
    rw [← mag_two_pow k, mag_lt_mag, mag_lt_mag, mag_inj]
    omega
end

end Sys2Proof.Machine
end

section
/-!
PROOFS. Powers of two and binary logarithms (spec 02 and 04, R112, R113): exact where the result is a power of two or an integer,
and strictly between the neighbouring ones elsewhere.
-/

namespace Sys2Proof.Machine

open Sys2Proof Sys2Proof.Laws

/-! ### The fixed-point sums -/

theorem expSum_acc_le (t n k p acc : Nat) : acc ≤ expSum t n k p acc := by
  induction n generalizing k p acc with
  | zero => exact le_rfl
  | succ n ih => exact le_trans (Nat.le_add_right _ _) (ih _ _ _)

theorem expSum_mono {t t' : Nat} (ht : t ≤ t') (n k : Nat) {p p' acc acc' : Nat} (hp : p ≤ p') (ha : acc ≤ acc') :
    expSum t n k p acc ≤ expSum t' n k p' acc' := by
  induction n generalizing k p p' acc acc' with
  | zero => exact ha
  | succ n ih => exact ih _ (Nat.div_le_div_right (Nat.div_le_div_right (Nat.mul_le_mul hp ht))) (Nat.add_le_add ha hp)

/-- The series of 2^t stays between 1 and 2 for 0 ≤ t ≤ 1. -/
theorem expSum_bounds {t : Nat} (ht : t ≤ ln2Fix) :
    2 ^ fixW ≤ expSum t 80 0 (2 ^ fixW) 0 ∧ expSum t 80 0 (2 ^ fixW) 0 < 2 ^ (fixW + 1) := by
  refine ⟨?_, lt_of_le_of_lt (expSum_mono ht 80 0 le_rfl le_rfl) (by decide +kernel)⟩
  exact le_trans (Nat.zero_add (2 ^ fixW)).ge (expSum_acc_le t 79 1 _ (0 + 2 ^ fixW))

/-- A start that is greater by `d` leaves a sum that is greater by as much. -/
theorem atanhSum_mono {z z' : Nat} (hz : z ≤ z') (n k : Nat) {p p' acc acc' d : Nat} (hp : p ≤ p') (ha : acc + d ≤ acc') :
    atanhSum z n k p acc + d ≤ atanhSum z' n k p' acc' := by
  induction n generalizing k p p' acc acc' with
  | zero => exact ha
  | succ n ih =>
    refine ih _ (Nat.div_le_div_right (Nat.mul_le_mul hp hz)) ?_
    have := Nat.div_le_div_right (c := 2 * k + 1) (Nat.mul_le_mul_left 2 hp)
    omega

theorem atanhSum_acc_le (z n k p acc : Nat) : acc ≤ atanhSum z n k p acc := by
  induction n generalizing k p acc with
  | zero => exact le_rfl
  | succ n ih => exact le_trans (Nat.le_add_right _ _) (ih _ _ _)

theorem atanhSum_first {z z' p p' : Nat} (hz : z ≤ z') (hp : p < p') (n : Nat) :
    atanhSum z (n + 1) 0 p 0 < atanhSum z' (n + 1) 0 p' 0 := by
  refine atanhSum_mono (d := 1) hz n 1 (Nat.div_le_div_right (Nat.mul_le_mul hp.le hz)) ?_
  simp only [Nat.mul_zero, Nat.zero_add, Nat.div_one]
  omega

theorem le_atanhSum_first (z p n : Nat) : 2 * p ≤ atanhSum z (n + 1) 0 p 0 := by
  refine le_trans (le_of_eq ?_) (atanhSum_acc_le z n 1 _ _)
  simp only [Nat.mul_zero, Nat.zero_add, Nat.div_one]

theorem lnFix_eq (a b : Nat) : lnFix a b = atanhSum ((a - b) * 2 ^ fixW / (a + b) * ((a - b) * 2 ^ fixW / (a + b)) / 2 ^ fixW)
    (109 + 1) 0 ((a - b) * 2 ^ fixW / (a + b)) 0 := rfl

theorem ln2Fix_bounds : 0 < ln2Fix ∧ ln2Fix ≤ 2 ^ fixW := by decide +kernel

theorem two_pow_le_fixW : 2 ^ 100 ≤ 2 ^ fixW := by
  have h : 100 ≤ fixW := by decide
  exact pow_le_pow_right₀ one_le_two h

section
variable {a b : Nat} (h1 : b < a) (h2 : a < 2 * b) (h3 : a + b < 2 ^ 100)
include h1 h3

theorem ratio_pos : 0 < (a - b) * 2 ^ fixW / (a + b) := by
  refine Nat.div_pos ?_ (by omega)
  calc a + b ≤ 2 ^ 100 := h3.le
    _ ≤ 2 ^ fixW := two_pow_le_fixW
    _ ≤ (a - b) * 2 ^ fixW := Nat.le_mul_of_pos_left _ (by omega)

include h2

/-- The quotient the series starts from is below that of ln 2. -/
theorem ratio_lt : (a - b) * 2 ^ fixW / (a + b) < (2 - 1) * 2 ^ fixW / (2 + 1) := by
  rw [Nat.div_lt_iff_lt_mul (by omega), Nat.one_mul]
  have hW := two_pow_le_fixW
  generalize 2 ^ fixW = W at *
  have hy : W ≤ 3 * (W / 3) + 2 := by omega
  have e1 := Nat.mul_le_mul_right W (show 3 * (a - b) + 2 ≤ a + b by omega)
  have e2 := Nat.mul_le_mul_left (a + b) hy
  have e3 : (a + b) * (3 * (W / 3) + 2) = 3 * (W / 3 * (a + b)) + 2 * (a + b) := by ring
  have e4 : (3 * (a - b) + 2) * W = 3 * ((a - b) * W) + 2 * W := by ring
  generalize hX : (a - b) * W = X at *
  generalize hY : W / 3 * (a + b) = Y at *
  generalize hZ : (a + b) * W = Z at *
  omega

/-- The logarithm of a significand between 1 and 2 lies between 0 and ln 2. -/
theorem lnFix_bounds : 0 < lnFix a b ∧ lnFix a b < ln2Fix := by
  have hz := ratio_lt h1 h2 h3
  have hpos := ratio_pos h1 h3
  rw [ln2Fix, lnFix_eq, lnFix_eq]
  exact ⟨lt_of_lt_of_le (by omega) (le_atanhSum_first _ _ _),
    atanhSum_first (Nat.div_le_div_right (Nat.mul_le_mul hz.le hz.le)) hz _⟩

theorem log_fraction_bounds : 0 < lnFix a b * 2 ^ fixW / ln2Fix ∧ lnFix a b * 2 ^ fixW / ln2Fix < 2 ^ fixW := by
  obtain ⟨hpos, hle⟩ := ln2Fix_bounds
  obtain ⟨hl, hu⟩ := lnFix_bounds h1 h2 h3
  constructor
  · exact Nat.div_pos (le_trans hle (Nat.le_mul_of_pos_left _ hl)) hpos
  · rw [Nat.div_lt_iff_lt_mul hpos, mul_comm]
    exact (Nat.mul_lt_mul_left (by positivity)).2 hu
end

/-! ### 2^x -/

theorem mag_lt_pow_of {a : Nat} {e k : Int} {j : Nat} (h : a < 2 ^ j) (hk : e + j = k) : mag a e < (2 : ℚ) ^ k := by
  rw [← hk, ← mag_one, ← mag_shift, mag_lt_mag, one_mul]
  exact h

theorem pow_lt_mag_of {a : Nat} {e k : Int} {j : Nat} (h : 2 ^ j < a) (hk : e + j = k) : (2 : ℚ) ^ k < mag a e := by
  rw [← hk, ← mag_one, ← mag_shift, mag_lt_mag, one_mul]
  exact h

theorem cast_signed (n : Bool) (a : Nat) : ((signed n a : Int) : ℚ) = sgn n * a := by
  cases n <;> simp [signed, sgn]

section
variable {n : Bool} {m : Nat} {e : Int} {k : Int}

/-- A finite value with a natural exponent, as the integer it is. -/
theorem valueQ_of_nonneg (he : 0 ≤ e) : valueQ (.fin n m e) = (signed n (m * 2 ^ e.toNat) : Int) := by
  rw [valueQ_fin, mag_align he, sub_zero, sgn_mul_mag, zpow_zero, mul_one]

theorem mag_of_neg (he : e < 0) : mag m e = (m / 2 ^ (-e).toNat : Nat) + ((m % 2 ^ (-e).toNat : Nat) : ℚ) / 2 ^ (-e).toNat := by
  have h1 := mag_div_unit 0 m e
  rwa [zpow_zero, div_one, units, rest, if_neg (not_le.2 he), if_neg (not_le.2 he), zero_sub] at h1

theorem valueQ_whole (he : e < 0) (hr : m % 2 ^ (-e).toNat = 0) :
    valueQ (.fin n m e) = (signed n (m / 2 ^ (-e).toNat) : Int) := by
  rw [valueQ_fin, mag_of_neg he, hr, Nat.cast_zero, zero_div, add_zero, cast_signed]

theorem fexp2_big (hm : m ≠ 0) (h : (Nat.log2 m : Int) + e ≥ 12) :
    fexp2 (.fin n m e) = .fin false 1 (if n then -4096 else 4096) := by
  rw [fexp2, if_neg hm, if_pos h]

theorem fexp2_int (hm : m ≠ 0) (h : ¬ (Nat.log2 m : Int) + e ≥ 12) (he : 0 ≤ e) :
    fexp2 (.fin n m e) = .fin false 1 (signed n (m * 2 ^ e.toNat)) := by
  rw [fexp2, if_neg hm, if_neg h, if_pos he]
  rfl

theorem fexp2_whole (hm : m ≠ 0) (h : ¬ (Nat.log2 m : Int) + e ≥ 12) (he : e < 0) (hr : m % 2 ^ (-e).toNat = 0) :
    fexp2 (.fin n m e) = .fin false 1 (signed n (m / 2 ^ (-e).toNat)) := by
  rw [fexp2, if_neg hm, if_neg h, if_neg (not_le.2 he)]
  exact if_pos hr

theorem fexp2_fraction (hm : m ≠ 0) (h : ¬ (Nat.log2 m : Int) + e ≥ 12) (he : e < 0) (hr : m % 2 ^ (-e).toNat ≠ 0) :
    fexp2 (.fin n m e) = sticky false
      (expSum ((if n then 2 ^ (-e).toNat - m % 2 ^ (-e).toNat else m % 2 ^ (-e).toNat) * ln2Fix / 2 ^ (-e).toNat) 80 0 (2 ^ fixW) 0)
      ((if n then -((m / 2 ^ (-e).toNat : Nat) : Int) - 1 else (m / 2 ^ (-e).toNat : Nat)) - fixW) false := by
  rw [fexp2, if_neg hm, if_neg h, if_neg (not_le.2 he)]
  exact if_neg hr

theorem le_mag_of_big (hm : m ≠ 0) (h : (Nat.log2 m : Int) + e ≥ 12) : 4096 ≤ mag m e := by
  refine le_trans ?_ (le_mag_of_log2 hm e)
  calc (4096 : ℚ) = 2 ^ (12 : Int) := by norm_num
    _ ≤ _ := zpow_le_zpow_right₀ one_le_two h

/-- A value with a fraction lies strictly between two neighbouring integers. -/
theorem fraction_between (he : e < 0) (hr : m % 2 ^ (-e).toNat ≠ 0) :
    ((if n then -((m / 2 ^ (-e).toNat : Nat) : Int) - 1 else (m / 2 ^ (-e).toNat : Nat) : Int) : ℚ) < valueQ (.fin n m e) ∧
    valueQ (.fin n m e) < (if n then -((m / 2 ^ (-e).toNat : Nat) : Int) - 1 else (m / 2 ^ (-e).toNat : Nat) : Int) + 1 := by
  have h0 : (0 : ℚ) < ((m % 2 ^ (-e).toNat : Nat) : ℚ) / 2 ^ (-e).toNat := by
    have := Nat.pos_of_ne_zero hr
    positivity
  have h1 : ((m % 2 ^ (-e).toNat : Nat) : ℚ) / 2 ^ (-e).toNat < 1 := by
    rw [div_lt_one (by positivity)]
    exact_mod_cast Nat.mod_lt _ (by positivity)
  cases n with
  | false =>
    rw [valueQ_pos, mag_of_neg he, if_neg (by decide), Int.cast_natCast]
    constructor <;> linarith
  | true =>
    rw [valueQ_neg, mag_of_neg he, if_pos rfl, Int.cast_sub, Int.cast_neg, Int.cast_natCast, Int.cast_one]
    constructor <;> linarith

/-- R112: 2^x at an integer. -/
theorem valueQ_fexp2_int (h1 : -4096 ≤ k) (h2 : k ≤ 4096) (h : valueQ (.fin n m e) = k) :
    valueQ (fexp2 (.fin n m e)) = (2 : ℚ) ^ k := by
  have hpow (j : Int) (hj : (j : ℚ) = k) : valueQ (.fin false 1 j) = (2 : ℚ) ^ k := by
    rw [valueQ_pos, mag_one, Int.cast_injective hj]
  by_cases hm : m = 0
  · subst hm
    rw [valueQ_fin, mag_zero, mul_zero] at h
    exact hpow 0 (by rw [← h, Int.cast_zero])
  by_cases hb : (Nat.log2 m : Int) + e ≥ 12
  · rw [fexp2_big hm hb]
    have hbig := le_mag_of_big hm hb
    have h1' : (-4096 : ℚ) ≤ k := by exact_mod_cast h1
    have h2' : (k : ℚ) ≤ 4096 := by exact_mod_cast h2
    refine hpow _ ?_
    cases n with
    | false =>
      rw [valueQ_pos] at h
      simp only [Bool.false_eq_true, if_false]
      push_cast
      linarith
    | true =>
      rw [valueQ_neg] at h
      simp only [if_true]
      push_cast
      linarith
  rcases le_or_gt 0 e with he | he
  · rw [fexp2_int hm hb he]
    exact hpow _ (by rw [← h, valueQ_of_nonneg he])
  by_cases hr : m % 2 ^ (-e).toNat = 0
  · rw [fexp2_whole hm hb he hr]
    refine hpow _ ?_
    rw [← h, valueQ_whole he hr]
  · obtain ⟨hl, hu⟩ := fraction_between (n := n) he hr
    rw [h] at hl hu
    generalize (if n then -((m / 2 ^ (-e).toNat : Nat) : Int) - 1 else (m / 2 ^ (-e).toNat : Nat) : Int) = i at hl hu
    have hl' : i < k := Int.cast_lt.1 hl
    have hu' : k < i + 1 := by exact_mod_cast hu
    omega

/-- R112: 2^x strictly between two integers. -/
theorem fexp2_between (h1 : -4096 ≤ k) (h2 : k < 4096) (hl : (k : ℚ) < valueQ (.fin n m e)) (hu : valueQ (.fin n m e) < k + 1) :
    (2 : ℚ) ^ k < valueQ (fexp2 (.fin n m e)) ∧ valueQ (fexp2 (.fin n m e)) < (2 : ℚ) ^ (k + 1) := by
  have hint (j : Int) (hj : valueQ (.fin n m e) = j) : False := by
    rw [hj] at hl hu
    have hl' := Int.cast_lt.1 hl
    have hu' : j < k + 1 := by exact_mod_cast hu
    omega
  have hm : m ≠ 0 := by
    rintro rfl
    exact hint 0 (by rw [valueQ_fin, mag_zero, mul_zero, Int.cast_zero])
  have hb : ¬ (Nat.log2 m : Int) + e ≥ 12 := fun hb => by
    have hbig := le_mag_of_big hm hb
    have h1' : (-4096 : ℚ) ≤ k := by exact_mod_cast h1
    have h2' : (k : ℚ) + 1 ≤ 4096 := by exact_mod_cast h2
    cases n with
    | false => rw [valueQ_pos] at hu; linarith
    | true => rw [valueQ_neg] at hl; linarith
  have he : e < 0 := not_le.1 fun he => hint _ (valueQ_of_nonneg he)
  have hr : m % 2 ^ (-e).toNat ≠ 0 := fun hr => hint _ (valueQ_whole he hr)
  rw [fexp2_fraction hm hb he hr]
  obtain ⟨hl', hu'⟩ := fraction_between (n := n) he hr
  generalize hi : (if n then -((m / 2 ^ (-e).toNat : Nat) : Int) - 1 else (m / 2 ^ (-e).toNat : Nat) : Int) = i at *
  have hik : i = k := by
    have a1 : i < k + 1 := by exact_mod_cast hl'.trans hu
    have a2 : k < i + 1 := by exact_mod_cast hl.trans hu'
    omega
  have ht : (if n then 2 ^ (-e).toNat - m % 2 ^ (-e).toNat else m % 2 ^ (-e).toNat) * ln2Fix / 2 ^ (-e).toNat ≤ ln2Fix := by
    refine Nat.div_le_of_le_mul (Nat.mul_le_mul_right _ ?_)
    split
    · exact Nat.sub_le _ _
    · exact (Nat.mod_lt _ (by positivity)).le
  obtain ⟨hS1, hS2⟩ := expSum_bounds ht
  generalize expSum _ 80 0 (2 ^ fixW) 0 = S at *
  rw [hik, sticky, if_neg (by decide), valueQ_pos]
  have p1 : 2 ^ (fixW + 1) = 2 * 2 ^ fixW := pow_succ' 2 fixW
  have p2 : 2 ^ (fixW + 1 + 1) = 2 * 2 ^ (fixW + 1) := pow_succ' 2 (fixW + 1)
  constructor
  · exact pow_lt_mag_of (j := fixW + 1) (by rw [p1]; generalize 2 ^ fixW = W at *; omega) (by push_cast; ring)
  · exact mag_lt_pow_of (j := fixW + 1 + 1) (by rw [p2]; generalize 2 ^ (fixW + 1) = W at *; omega) (by push_cast; ring)
end

end Sys2Proof.Machine
end

section
/-!
PROOFS. The binary logarithm of an encoded value, and floor, ceil, trunc and rint (spec 04, R112, R113).
-/

namespace Sys2Proof.Machine

open Sys2Proof Sys2Proof.Laws

/-! ### log2 x -/

/-- A value above zero is a finite one of positive sign. -/
theorem eq_fin_of_valueQ_pos {x : FVal} (h : 0 < valueQ x) : ∃ m e, x = .fin false m e ∧ m ≠ 0 := by
  cases x with
  | nan => exact absurd h (lt_irrefl _)
  | inf n => exact absurd h (lt_irrefl _)
  | fin n m e =>
    cases n with
    | true =>
      rw [valueQ_neg] at h
      have := mag_nonneg m e
      linarith
    | false =>
      refine ⟨m, e, rfl, ?_⟩
      rintro rfl
      rw [valueQ_pos, mag_zero] at h
      exact lt_irrefl _ h

theorem mag_eq_pow_iff {m : Nat} {e : Int} : mag m e = (2 : ℚ) ^ ((Nat.log2 m : Int) + e) ↔ m = 2 ^ Nat.log2 m := by
  rw [← mag_one, add_comm, ← mag_shift, one_mul, mag_inj]

theorem sticky_signed (t e : Int) :
    valueQ (sticky (t < 0) t.natAbs e false) = ((if t < 0 then 2 * t - 1 else 2 * t + 1 : Int) : ℚ) * (2 : ℚ) ^ (e - 1) := by
  rw [sticky, if_neg (by decide), valueQ_fin, mag]
  split
  · next h =>
    rw [decide_eq_true h, sgn, if_pos rfl]
    push_cast
    rw [Nat.cast_natAbs, abs_of_neg h]
    push_cast
    ring
  · next h =>
    rw [decide_eq_false h, sgn, if_neg (by decide)]
    push_cast
    rw [Nat.cast_natAbs, abs_of_nonneg (not_lt.1 h)]
    ring

section
variable {m : Nat} {e k : Int} (hm : m ≠ 0)
include hm

theorem flog2_pow (h : m = 2 ^ Nat.log2 m) : flog2 (.fin false m e) = FVal.ofInt (Nat.log2 m + e) := by
  rw [flog2, if_neg hm, if_neg (by decide)]
  exact if_pos h

theorem flog2_between_powers (h : m ≠ 2 ^ Nat.log2 m) : flog2 (.fin false m e) =
    sticky (((Nat.log2 m + e) * ((2 ^ fixW : Nat) : Int) + (lnFix m (2 ^ Nat.log2 m) * 2 ^ fixW / ln2Fix : Nat) : Int) < 0)
      ((Nat.log2 m + e) * ((2 ^ fixW : Nat) : Int) + (lnFix m (2 ^ Nat.log2 m) * 2 ^ fixW / ln2Fix : Nat)).natAbs (-(fixW : Int))
      false := by
  rw [flog2, if_neg hm, if_neg (by decide)]
  exact if_neg h

/-- The exponent of the leading bit of a positive number. -/
theorem log2_add_eq (h1 : (2 : ℚ) ^ k ≤ mag m e) (h2 : mag m e < (2 : ℚ) ^ (k + 1)) : (Nat.log2 m : Int) + e = k := by
  have a1 := (zpow_lt_zpow_iff_right₀ one_lt_two).1 (lt_of_le_of_lt h1 (mag_lt_of_log2 e))
  have a2 := (zpow_lt_zpow_iff_right₀ one_lt_two).1 (lt_of_le_of_lt (le_mag_of_log2 hm e) h2)
  omega

/-- R112: log2 of a power of two. -/
theorem valueQ_flog2_pow (h : mag m e = (2 : ℚ) ^ k) : valueQ (flog2 (.fin false m e)) = k := by
  have hk := log2_add_eq hm h.ge (h ▸ zpow_lt_zpow_right₀ one_lt_two (lt_add_one k))
  rw [← hk, mag_eq_pow_iff] at h
  rw [flog2_pow hm h, hk]
  exact (valueQ_ofSigned k 0).trans (by rw [zpow_zero, mul_one])

/-- R112: log2 strictly between two powers of two. -/
theorem flog2_between (hsize : m < 2 ^ 90) (h1 : (2 : ℚ) ^ k < mag m e) (h2 : mag m e < (2 : ℚ) ^ (k + 1)) :
    (k : ℚ) < valueQ (flog2 (.fin false m e)) ∧ valueQ (flog2 (.fin false m e)) < k + 1 := by
  have hk := log2_add_eq hm h1.le h2
  have hne : m ≠ 2 ^ Nat.log2 m := by
    rw [Ne, ← mag_eq_pow_iff (e := e), hk]
    exact h1.ne'
  have hle := Nat.log2_self_le hm
  have hlt : m < 2 * 2 ^ Nat.log2 m := by
    rw [← pow_succ']
    exact Nat.lt_log2_self
  obtain ⟨hr0, hr1⟩ := log_fraction_bounds (lt_of_le_of_ne hle (Ne.symm hne)) hlt (by omega)
  rw [flog2_between_powers hm hne, hk, sticky_signed]
  generalize lnFix m (2 ^ Nat.log2 m) * 2 ^ fixW / ln2Fix = r at *
  have hunit : (2 : ℚ) ^ (-(fixW : Int) - 1) = ((2 * (2 ^ fixW : Nat) : Int) : ℚ)⁻¹ := by
    rw [zpow_sub₀ two_ne_zero, zpow_neg, zpow_natCast]
    rw [zpow_one]
    push_cast
    rw [mul_inv, div_eq_mul_inv, mul_comm]
  have hpos : 0 < 2 ^ fixW := Nat.two_pow_pos _
  rw [hunit]
  generalize 2 ^ fixW = W at *
  have hWq : (0 : ℚ) < ((2 * (W : Nat) : Int) : ℚ) := by
    push_cast
    positivity
  rw [← div_eq_mul_inv, lt_div_iff₀ hWq, div_lt_iff₀ hWq]
  constructor
  · rw [← Int.cast_mul, Int.cast_lt, show k * (2 * (W : Int)) = 2 * (k * W) by ring]
    generalize k * (W : Int) = kW
    split <;> omega
  · rw [← Int.cast_one (R := ℚ), ← Int.cast_add, ← Int.cast_mul, Int.cast_lt, show (k + 1) * (2 * (W : Int)) = 2 * (k * W) + 2 * W by ring]
    generalize k * (W : Int) = kW
    split <;> omega
end

/-- The significand of a decoded value is small. -/
theorem significand_lt {f : Fmt} (hf : f.isFloat = true) {b m : Nat} {n : Bool} {e : Int} (h : fdecode f b = .fin n m e) : m < 2 ^ 24 := by
  obtain ⟨a, _, rfl, _⟩ := exists_of_fdecode_fin hf h
  have hmb : f.layout.mb ≤ 23 := by cases f <;> decide
  exact lt_of_lt_of_le (sig_lt f a) (Nat.pow_le_pow_right two_pos (by omega))

/-- R112, R113: log2 of an encoded value. -/
theorem flog2_fdecode (f : Fmt) (b : Nat) (k : Int) (hf : f.isFloat = true) :
    (valueQ (fdecode f b) = (2 : ℚ) ^ k → valueQ (flog2 (fdecode f b)) = k) ∧
    ((2 : ℚ) ^ k < valueQ (fdecode f b) → valueQ (fdecode f b) < (2 : ℚ) ^ (k + 1) →
      (k : ℚ) < valueQ (flog2 (fdecode f b)) ∧ valueQ (flog2 (fdecode f b)) < k + 1) := by
  have hpow : (0 : ℚ) < 2 ^ k := by positivity
  constructor
  · intro h
    obtain ⟨m, e, hx, hm⟩ := eq_fin_of_valueQ_pos (h.symm ▸ hpow)
    rw [hx, valueQ_pos] at h
    rw [hx]
    exact valueQ_flog2_pow hm h
  · intro h1 h2
    obtain ⟨m, e, hx, hm⟩ := eq_fin_of_valueQ_pos (hpow.trans h1)
    have hsize := significand_lt hf hx
    rw [hx, valueQ_pos] at h1 h2
    rw [hx]
    exact flog2_between hm (hsize.trans (by decide)) h1 h2

/-! ### Integral values -/

/-- Rounding a number that the format holds gives its encoding's value. -/
theorem fround_representable {f : Fmt} (hf : f.isFloat = true) (neg : Bool) {a m : Nat} {e : Int} (ha : a ≤ maxBits f)
    (h : mag m e = mag (sig f a) (expo f a)) :
    ∃ m' e', fdecode f (fround f rneCtx 0 (.fin neg m e)).bits = .fin neg m' e' ∧ mag m' e' = mag m e := by
  rw [fround_fin hf, if_neg (by simp [rneCtx])]
  by_cases hm : m = 0
  · subst hm
    refine ⟨_, _, by rw [if_pos rfl, ← Nat.zero_add (signBits f neg), fdecode_finite hf (Nat.zero_le _)], ?_⟩
    rw [sig_of_lt (by positivity), mag_zero, mag_zero]
  · have hq : unitExp f m e ≤ expo f a := by
      refine max_le ?_ ?_
      · have h1 := le_mag_of_log2 hm e
        have h2 : mag (sig f a) (expo f a) < (2 : ℚ) ^ (expo f a + (f.layout.mb + 1 : Nat)) := mag_lt_pow_of (sig_lt f a) rfl
        rw [← h] at h2
        have h3 := (zpow_lt_zpow_iff_right₀ one_lt_two).1 (lt_of_le_of_lt h1 h2)
        push_cast at h3
        omega
      · have := le_max_right ((a / 2 ^ f.layout.mb : Nat) : Int) 1
        unfold leastExp expo
        omega
    have hwhole : rest (unitExp f m e) m e = 0 := by
      have h1 := mag_div_unit (unitExp f m e) m e
      rw [h, mag_align hq, mag, mul_div_assoc, div_self (by positivity), mul_one] at h1
      have h2 : (rest (unitExp f m e) m e : ℚ) / 2 ^ (unitExp f m e - e).toNat < 1 := by
        rw [div_lt_one (by positivity)]
        exact_mod_cast rest_lt _ _ _
      have h3 : (0 : ℚ) ≤ (rest (unitExp f m e) m e : ℚ) / 2 ^ (unitExp f m e - e).toNat := by positivity
      have h4 : units (unitExp f m e) m e = sig f a * 2 ^ (expo f a - unitExp f m e).toNat := by
        have h5 : (units (unitExp f m e) m e : ℚ) ≤ (sig f a * 2 ^ (expo f a - unitExp f m e).toNat : Nat) := by linarith
        have h6 : ((sig f a * 2 ^ (expo f a - unitExp f m e).toNat : Nat) : ℚ) < (units (unitExp f m e) m e + 1 : Nat) := by
          push_cast at h1 ⊢
          linarith
        have h5' := Nat.cast_le.1 h5
        have h6' := Nat.cast_lt.1 h6
        omega
      rw [h4, left_eq_add, div_eq_zero_iff, Nat.cast_eq_zero] at h1
      exact h1.resolve_right (by positivity)
    have hunits : roundedUnits f rneCtx (stepped f rneCtx 0) neg m e = units (unitExp f m e) m e := by
      rw [roundedUnits, hwhole]
      refine if_neg ?_
      have hpow := Nat.two_pow_pos (unitExp f m e - e).toNat
      simp only [stepsUp, rneCtx, Bool.false_and, Bool.false_eq_true, if_false, roundUp, Nat.mul_zero, Bool.or_eq_true,
        decide_eq_true_eq, Bool.and_eq_true, beq_iff_eq]
      omega
    have hmag : mag (units (unitExp f m e) m e) (unitExp f m e) = mag m e := by
      have h1 := mag_div_unit (unitExp f m e) m e
      rwa [hwhole, Nat.cast_zero, zero_div, add_zero, div_eq_iff (by positivity), eq_comm] at h1
    have hmax : ¬ mag (sig f (maxBits f)) (expo f (maxBits f)) <
        mag (roundedUnits f rneCtx (stepped f rneCtx 0) neg m e) (unitExp f m e) := by
      rw [hunits, hmag, h, not_lt]
      exact (mag_encoding_strictMono f).monotone ha
    rw [if_neg hm, if_neg hmax]
    refine ⟨_, _, fdecode_finite hf (encodeMag_roundedUnits_le rneCtx neg e hm hmax) neg, ?_⟩
    rw [mag_encodeMag (roundedUnits_le rneCtx neg e _) (leastExp_le_unitExp f e) (unitExp_of_roundedUnits_lt rneCtx neg e hm),
      hunits, hmag]

/-- Every format holds the integers of its significand's length. -/
theorem integer_representable {f : Fmt} (hf : f.isFloat = true) {N : Nat} (hN : N ≤ 2 ^ f.layout.mb) :
    ∃ a ≤ maxBits f, mag N 0 = mag (sig f a) (expo f a) := by
  by_cases h0 : N = 0
  · subst h0
    exact ⟨0, Nat.zero_le _, by rw [sig_of_lt (by positivity), mag_zero, mag_zero]⟩
  have hlog : Nat.log2 N ≤ f.layout.mb := (Nat.pow_le_pow_iff_right (by decide)).1 ((Nat.log2_self_le h0).trans hN)
  have hmag : mag (N * 2 ^ (f.layout.mb - Nat.log2 N)) (Nat.log2 N - f.layout.mb) = mag N 0 := by
    rw [mag_shift]
    congr 1
    omega
  have hi : N * 2 ^ (f.layout.mb - Nat.log2 N) ≤ 2 ^ (f.layout.mb + 1) := by
    rw [show f.layout.mb + 1 = Nat.log2 N + 1 + (f.layout.mb - Nat.log2 N) by omega, pow_add]
    exact Nat.mul_le_mul_right _ Nat.lt_log2_self.le
  have hi' : 2 ^ f.layout.mb ≤ N * 2 ^ (f.layout.mb - Nat.log2 N) := by
    conv_lhs => rw [show f.layout.mb = Nat.log2 N + (f.layout.mb - Nat.log2 N) by omega, pow_add]
    exact Nat.mul_le_mul_right _ (Nat.log2_self_le h0)
  have hbias : 1 ≤ f.layout.bias := by cases f <;> decide
  have hq : leastExp f ≤ (Nat.log2 N : Int) - f.layout.mb := by
    unfold leastExp
    omega
  have hmax : mag (2 ^ f.layout.mb) 0 ≤ mag (sig f (maxBits f)) (expo f (maxBits f)) := by
    rw [← not_lt, ← magLt_iff, Bool.not_eq_true]
    cases f with
    | raw32 | int32 | uint32 | int8q | int4q => exact absurd hf (by decide)
    | fp32 | bf16 | fp16 | e4m3 | e5m2 => decide
  have hs (h : N * 2 ^ (f.layout.mb - Nat.log2 N) < 2 ^ f.layout.mb) : (Nat.log2 N : Int) - f.layout.mb = leastExp f :=
    absurd h (not_lt.2 hi')
  refine ⟨encodeMag f (N * 2 ^ (f.layout.mb - Nat.log2 N)) (Nat.log2 N - f.layout.mb), encodeMag_le hi hq hs ?_, ?_⟩
  · rw [hmag]
    exact (mag_le_mag.2 hN).trans hmax
  · rw [mag_encodeMag hi hq hs, hmag]

theorem natAbs_signed (n : Bool) (a : Nat) : (signed n a).natAbs = a := by
  cases n <;> simp [signed]

/-- The integers that values of a format round to are values of the format. -/
theorem roundInt_representable {f : Fmt} (hf : f.isFloat = true) (rm : Nat) (n : Bool) {a : Nat} (ha : a ≤ maxBits f) {m : Nat} {e : Int}
    (h : m = sig f a ∧ e = expo f a) :
    ∃ N, roundInt rm n m e = signed n N ∧ ∃ a' ≤ maxBits f, mag N 0 = mag (sig f a') (expo f a') := by
  obtain ⟨rfl, rfl⟩ := h
  rcases le_or_gt 0 (expo f a) with he | he
  · exact ⟨_, roundInt_of_nonneg he _ _ _, a, ha, by rw [mag_align he (sig f a), sub_zero]⟩
  · refine ⟨_, roundInt_of_neg he _ _ _, integer_representable hf ?_⟩
    have hdiv : sig f a / 2 ^ (-expo f a).toNat < 2 ^ f.layout.mb := by
      rw [Nat.div_lt_iff_lt_mul (by positivity)]
      refine lt_of_lt_of_le (sig_lt f a) ?_
      rw [pow_succ]
      exact Nat.mul_le_mul_left _ (Nat.le_self_pow (by omega) 2)
    split <;> omega

theorem fdecode_canonNaN {f : Fmt} (hf : f.isFloat = true) : fdecode f (canonNaN f) = .nan := by
  cases f with
  | raw32 | int32 | uint32 | int8q | int4q => exact absurd hf (by decide)
  | fp32 | bf16 | fp16 | e4m3 | e5m2 => decide

theorem fdecode_infBits {f : Fmt} (hf : f.isFloat = true) (h : f ≠ .e4m3) (n : Bool) :
    fdecode f (infBits f + signBits f n) = .inf n := by
  cases f with
  | raw32 | int32 | uint32 | int8q | int4q => exact absurd hf (by decide)
  | e4m3 => exact absurd rfl h
  | fp32 | bf16 | fp16 | e5m2 => cases n <;> decide

/-- R39: E4M3 has no infinities. -/
theorem ne_e4m3_of_inf {f : Fmt} {b : Nat} {n : Bool} (h : fdecode f b = .inf n) : f ≠ .e4m3 := by
  intro h4
  simp only [fdecode, layout_hasInf] at h
  rw [if_neg fun hh => hh.2 h4] at h
  split at h
  · cases h
  · split at h <;> cases h

/-- R112: floor, ceil, trunc and rint where the integer is a value of the format. -/
theorem fintegral_fin {f : Fmt} (hf : f.isFloat = true) {rm : Nat} {n : Bool} {m : Nat} {e : Int}
    (h : ∃ N, roundInt rm n m e = signed n N ∧ ∃ a ≤ maxBits f, mag N 0 = mag (sig f a) (expo f a)) :
    ∃ k : Int, nearestInt rm (valueQ (.fin n m e)) k ∧
      ∃ m' e', fdecode f (fintegral f rm (.fin n m e)) = .fin n m' e' ∧ valueQ (.fin n m' e') = k := by
  obtain ⟨N, hN, a', ha', hmag⟩ := h
  refine ⟨_, nearestInt_roundInt rm n m e, ?_⟩
  obtain ⟨m', e', hdec, hval⟩ := fround_representable hf n ha' hmag
  refine ⟨m', e', ?_, ?_⟩
  · rw [fintegral, hN, natAbs_signed]
    exact hdec
  · rw [valueQ_fin, hval, hN, sgn_mul_mag, zpow_zero, mul_one]

theorem fintegral_spec (f : Fmt) (b rm : Nat) (ftz : Bool) (hf : f.isFloat = true) :
    match flushIn f ftz (fdecode f b) with
    | .fin n m e => ∃ k : Int, nearestInt rm (valueQ (.fin n m e)) k ∧
        ∃ m' e', fdecode f (fintegral f rm (.fin n m e)) = .fin n m' e' ∧ valueQ (.fin n m' e') = k
    | x => sameValue (fdecode f (fintegral f rm x)) x := by
  cases hx : fdecode f b with
  | nan =>
    show sameValue (fdecode f (canonNaN f)) .nan
    rw [fdecode_canonNaN hf]
    trivial
  | inf n =>
    have h4 := ne_e4m3_of_inf hx
    show sameValue (fdecode f (fround f rneCtx 0 (.inf n)).bits) (.inf n)
    rw [fround_inf h4, fdecode_infBits hf h4]
    rfl
  | fin n m e =>
    obtain ⟨a, ha, hm, he⟩ := exists_of_fdecode_fin hf hx
    rw [flushIn_fin]
    by_cases hflush : ftz = true ∧ m ≠ 0 ∧ mag m e < (2 : ℚ) ^ (1 - (f.layout.bias : Int))
    · rw [if_pos hflush]
      exact fintegral_fin hf ⟨_, roundInt_of_nonneg le_rfl _ _ _, integer_representable hf (by simp)⟩
    · rw [if_neg hflush]
      exact fintegral_fin hf (roundInt_representable hf rm n ha ⟨hm, he⟩)

end Sys2Proof.Machine
end

section
/-!
PROOFS. In-flight conversion of a lane (R42, R49) and the tag check of a vector register (R48); the exact arithmetic, its encodings
and its rounding together.
-/

namespace Sys2Proof.Machine

open Sys2Proof Sys2Proof.Laws

/-! ### The elements of a lane -/

/-- The digits of a lane, least significant first. -/
theorem packed_digit (w : Nat) (l : List Nat) (i : Nat) :
    l.foldr (fun x acc => x % 2 ^ w + 2 ^ w * acc) 0 / 2 ^ (w * i) % 2 ^ w = (l[i]?.getD 0) % 2 ^ w := by
  have hpos := Nat.two_pow_pos w
  induction l generalizing i with
  | nil => simp
  | cons x l ih =>
    rw [List.foldr_cons]
    cases i with
    | zero => simp
    | succ i =>
      rw [Nat.mul_succ, pow_add, mul_comm (2 ^ (w * i)), ← Nat.div_div_eq_div_mul, Nat.add_mul_div_left _ _ hpos,
        Nat.div_eq_of_lt (Nat.mod_lt _ hpos), Nat.zero_add, ih, List.getElem?_cons_succ]

theorem packed_lt (w : Nat) (l : List Nat) : l.foldr (fun x acc => x % 2 ^ w + 2 ^ w * acc) 0 < 2 ^ (w * l.length) := by
  induction l with
  | nil => simp
  | cons x l ih =>
    rw [List.foldr_cons, List.length_cons, Nat.mul_succ, pow_add, mul_comm (2 ^ (w * l.length))]
    have hx := Nat.mod_lt x (Nat.two_pow_pos w)
    have hl := Nat.mul_le_mul_left (2 ^ w) (Nat.succ_le_of_lt ih)
    rw [Nat.mul_succ] at hl
    omega

theorem width_mul_elems (f : Fmt) : f.width * f.elems = 32 := by cases f <;> rfl

/-- R42: the elements of a packed lane. -/
theorem elem_packElems {f : Fmt} {l : List Nat} (hl : l.length = f.elems) (i : Nat) :
    elem f (packElems f l) i = (l[i]?.getD 0) % 2 ^ f.width := by
  have hlt := packed_lt f.width l
  rw [hl, width_mul_elems] at hlt
  rw [elem, packElems, BitVec.toNat_ofNat, Nat.mod_eq_of_lt hlt, packed_digit]

theorem isInt_of_not_isFloat {f : Fmt} (h : f.isFloat = false) (h8 : f ≠ .int8q) (h4 : f.elems ≤ 4) : f.isInt = true := by
  cases f with
  | raw32 | int32 | uint32 => rfl
  | fp32 | bf16 | fp16 | e4m3 | e5m2 => exact absurd h (by decide)
  | int8q => exact absurd rfl h8
  | int4q => exact absurd h4 (by decide)

theorem elems_of_isInt {f : Fmt} (h : f.isInt = true) : f.elems = 1 := by
  cases f with
  | raw32 | int32 | uint32 => rfl
  | _ => exact absurd h (by decide)

theorem width_of_isInt {f : Fmt} (h : f.isInt = true) : f.width = 32 := by rw [Fmt.width, elems_of_isInt h]

theorem elem_of_isInt {f : Fmt} (h : f.isInt = true) (w : Word) : elem f w 0 = w.toNat := by
  rw [elem, width_of_isInt h, Nat.mul_zero, pow_zero, Nat.div_one, Nat.mod_eq_of_lt w.isLt]

/-! ### In-flight conversion (R49) -/

section
variable (f g : Fmt) (c : RCtx)

theorem convElem_float_float (hf : f.isFloat = true) (hg : g.isFloat = true) (x : Nat) :
    convElem f g c x = ((fround g { c with sr := false } 0 (flushIn f c.ftz (fdecode f x))).bits,
      (fround g { c with sr := false } 0 (flushIn f c.ftz (fdecode f x))).sat) := by
  simp only [convElem, hf, hg, if_true]

theorem convElem_float_int (hf : f.isFloat = true) (hg : g.isFloat = false) (x : Nat) :
    convElem f g c x = ((floatToInt g c.rm (flushIn f c.ftz (fdecode f x))).1.toNat,
      (floatToInt g c.rm (flushIn f c.ftz (fdecode f x))).2) := by
  simp only [convElem, hf, hg, if_true, Bool.false_eq_true, if_false]

theorem convElem_int_float (hf : f.isFloat = false) (hg : g.isFloat = true) (x : Nat) :
    convElem f g c x = ((fround g { c with sr := false } 0 (.ofInt (intVal f (BitVec.ofNat 32 x)))).bits,
      (fround g { c with sr := false } 0 (.ofInt (intVal f (BitVec.ofNat 32 x)))).sat) := by
  simp only [convElem, hf, hg, if_true, Bool.false_eq_true, if_false]

theorem convElem_int_int (hf : f.isFloat = false) (hg : g.isFloat = false) (x : Nat) :
    convElem f g c x = ((intToInt f g (BitVec.ofNat 32 x)).1.toNat, (intToInt f g (BitVec.ofNat 32 x)).2) := by
  simp only [convElem, hf, hg, Bool.false_eq_true, if_false]

theorem convElem_lt (hg : g.isFloat = true ∨ g.isInt = true) (x : Nat) : (convElem f g c x).1 < 2 ^ g.width := by
  by_cases hgf : g.isFloat = true
  · cases hf : f.isFloat with
    | true => rw [convElem_float_float f g c hf hgf]; exact fround_bits_lt hgf _ _ _
    | false => rw [convElem_int_float f g c hf hgf]; exact fround_bits_lt hgf _ _ _
  · rw [width_of_isInt (hg.resolve_left hgf)]
    rw [Bool.not_eq_true] at hgf
    cases hf : f.isFloat with
    | true => rw [convElem_float_int f g c hf hgf]; exact BitVec.isLt _
    | false => rw [convElem_int_int f g c hf hgf]; exact BitVec.isLt _

/-- R42, R49: the elements of a converted lane. -/
theorem elem_convLane (hg : g.isFloat = true ∨ g.isInt = true) (hel : f.elems = g.elems) (w : Word) {i : Nat} (hi : i < f.elems) :
    elem g (convLane f g c w).1 i = (convElem f g c (elem f w i)).1 := by
  rw [convLane, elem_packElems (by simp [hel])]
  simp [List.getElem?_range hi, Nat.mod_eq_of_lt (convElem_lt f g c hg _)]

theorem convLane_sat (w : Word) {i : Nat} (hi : i < f.elems) (h : (convElem f g c (elem f w i)).2 = true) :
    (convLane f g c w).2 = true := by
  simp only [convLane, List.any_map, List.any_eq_true, List.mem_range]
  exact ⟨i, hi, h⟩

theorem convLane_elements (w : Word) (hel : f.elems = g.elems) (h4 : f.elems ≤ 4) (hf8 : f ≠ .int8q) (hg8 : g ≠ .int8q)
    (i : Nat) (hi : i < f.elems) :
    let r := convElem f g c (elem f w i)
    let x := flushIn f c.ftz (fdecode f (elem f w i))
    let off : RCtx := { c with sr := false }
    elem g (convLane f g c w).1 i = r.1 ∧ (r.2 = true → (convLane f g c w).2 = true) ∧
    (f.isFloat = true → g.isFloat = true → r = ((fround g off 0 x).bits, (fround g off 0 x).sat)) ∧
    (f.isFloat = true → g.isFloat = false → r = ((floatToInt g c.rm x).1.toNat, (floatToInt g c.rm x).2)) ∧
    (f.isFloat = false → g.isFloat = true →
      let q := fround g off 0 (.ofInt (if f = .uint32 then (w.toNat : Int) else w.toInt))
      r = (q.bits, q.sat)) ∧
    (f.isFloat = false → g.isFloat = false → r = ((intToInt f g w).1.toNat, (intToInt f g w).2)) := by
  have hg : g.isFloat = true ∨ g.isInt = true := by
    by_cases h : g.isFloat = true
    · exact .inl h
    · exact .inr (isInt_of_not_isFloat (by simpa using h) hg8 (hel ▸ h4))
  have hword (h : f.isFloat = false) : BitVec.ofNat 32 (elem f w i) = w := by
    have hint := isInt_of_not_isFloat h hf8 h4
    rw [elems_of_isInt hint] at hi
    obtain rfl : i = 0 := by omega
    rw [elem_of_isInt hint, BitVec.ofNat_toNat, BitVec.setWidth_eq]
  refine ⟨elem_convLane f g c hg hel w hi, convLane_sat f g c w hi, fun h1 h2 => convElem_float_float f g c h1 h2 _,
    fun h1 h2 => convElem_float_int f g c h1 h2 _, fun h1 h2 => ?_, fun h1 h2 => ?_⟩
  · have h := convElem_int_float f g c h1 h2 (elem f w i)
    rw [hword h1] at h
    exact h
  · rw [convElem_int_int f g c h1 h2, hword h1]
end

/-! ### The tag check (R48) -/

/-- The register whose lanes outside the execute mask are left out of a conversion. -/
def maskedRow (s : State) (n : Fin 128) : VRow :=
  { s.getV n with lanes := Vector.ofFn (fun l => if s.exec.getLsbD l.val then (s.getV n).lanes[l] else 0) }

theorem tagcheck_v (s : State) (f : Fmt) (n : Fin 128) :
    s.tagcheck f (.v n) = tagcheckRow f (modeTP s.mode) (modeR s.mode) (maskedRow s n) := rfl

theorem maskedRow_tag (s : State) (n : Fin 128) : (maskedRow s n).tag = (s.getV n).tag := by
  simp only [maskedRow]

theorem maskedRow_paddr (s : State) (n : Fin 128) : (maskedRow s n).paddr = (s.getV n).paddr := by
  simp only [maskedRow]

theorem maskedRow_lane {s : State} {n : Fin 128} {l : Fin 16} (h : s.exec.getLsbD l = true) :
    (maskedRow s n).lanes[l] = (s.getV n).lanes[l] := by
  simp [maskedRow, h]

/-- What the tag check reads of a register that it converts. -/
def convertedRow (t g : Fmt) (c : RCtx) (r : VRow) : Vector Word 16 × BitVec 4 :=
  (vmap (fun w => (convLane t g c w).1) r.lanes, stCvt ||| satIf ((List.finRange 16).any (fun l => (convLane t g c r.lanes[l]).2)))

theorem convertedRow_spec (t g : Fmt) (c : RCtx) (r : VRow) : (convertedRow t g c r).2.getLsbD 2 = true ∧
    ∀ l : Fin 16, (convertedRow t g c r).1[l] = (convLane t g c r.lanes[l]).1 ∧
      ((convLane t g c r.lanes[l]).2 = true → (convertedRow t g c r).2.getLsbD 3 = true) := by
  refine ⟨?_, fun l => ⟨by simp [convertedRow, vmap], fun h => ?_⟩⟩
  · rw [convertedRow, BitVec.getLsbD_or]
    exact Bool.or_eq_true_iff.2 (.inl rfl)
  · rw [convertedRow, BitVec.getLsbD_or, satIf_getLsbD]
    refine Bool.or_eq_true_iff.2 (.inr ?_)
    rw [decide_eq_true rfl, Bool.true_and, List.any_eq_true]
    exact ⟨l, List.mem_finRange l, h⟩

/-- The tag check of a register that holds raw words or the format itself. -/
theorem tagcheckRow_same {f t : Fmt} {tp : Bool} {c : RCtx} {r : VRow} (ht : r.tag = .fmt t) (h : t = .raw32 ∨ t = f) :
    tagcheckRow f tp c r = .ok (r.lanes, 0) := by
  simp only [tagcheckRow, ht, if_pos h]

/-- The tag check of a register that holds another format. -/
theorem tagcheckRow_other {f t : Fmt} {tp : Bool} {c : RCtx} {r : VRow} (ht : r.tag = .fmt t) (h1 : t ≠ .raw32) (h2 : t ≠ f) :
    tagcheckRow f tp c r =
      if tp = true ∨ t.elems ≠ f.elems ∨ t = .int8q ∨ t = .int4q ∨ f = .int8q ∨ f = .int4q then trapOf .tagmismatch
      else .ok (convertedRow t (if f = .raw32 then .int32 else f) c r) := by
  simp only [tagcheckRow, ht]
  rw [if_neg (not_or.2 ⟨h1, h2⟩)]
  cases tp with
  | true => rw [if_pos rfl, if_pos (.inl rfl)]
  | false =>
    rw [if_neg (by decide)]
    simp only [Bool.false_eq_true, false_or]
    refine ite_congr rfl (fun _ => rfl) fun _ => ?_
    split
    · rfl
    · rfl

theorem readsAs_iff {s : State} {f t : Fmt} {n : Fin 128} (ht : (s.getV n).tag = .fmt t) (h1 : t ≠ .raw32) (h2 : t ≠ f) :
    readsAs s f (.v n) ↔
      ¬(modeTP s.mode = true ∨ t.elems ≠ f.elems ∨ t = .int8q ∨ t = .int4q ∨ f = .int8q ∨ f = .int4q) := by
  simp only [readsAs, ht, reduceCtorEq, false_or]
  constructor
  · rintro ⟨t', ht', h⟩
    cases ht'
    rcases h with h | h | ⟨htp, hel, hq, hq'⟩
    · exact absurd h h1
    · exact absurd h h2
    · rw [htp]
      tauto
  · intro h
    exact ⟨t, rfl, .inr (.inr (by
      rw [← Bool.not_eq_true]
      tauto))⟩

theorem tagcheck_spec (s : State) (f : Fmt) (n : Fin 128) : let r := s.getV n
    (r.tag = .poison → s.tagcheck f (.v n) = .error (.trap { code := .poison, addr := r.paddr })) ∧
    (r.tag = .invalid → s.tagcheck f (.v n) = trapOf .tagmismatch) ∧
    (r.tag = .dead → s.tagcheck f (.v n) = .ok (Vector.replicate 16 0, 0)) ∧
    (∀ t, r.tag = .fmt t → t = .raw32 ∨ t = f → ∃ v, s.tagcheck f (.v n) = .ok (v, 0) ∧
      ∀ l : Fin 16, s.exec.getLsbD l = true → v[l] = r.lanes[l]) ∧
    (∀ t, r.tag = .fmt t → t ≠ .raw32 → t ≠ f →
      (¬ readsAs s f (.v n) → s.tagcheck f (.v n) = trapOf .tagmismatch) ∧
      (readsAs s f (.v n) → ∃ v, s.tagcheck f (.v n) = .ok v ∧ v.2.getLsbD 2 = true ∧
        let g := if f = .raw32 then .int32 else f
        ∀ l : Fin 16, s.exec.getLsbD l = true → v.1[l] = (convLane t g (modeR s.mode) r.lanes[l]).1 ∧
          ((convLane t g (modeR s.mode) r.lanes[l]).2 = true → v.2.getLsbD 3 = true))) := by
  dsimp only
  rw [tagcheck_v]
  refine ⟨fun h => ?_, fun h => ?_, fun h => ?_, fun t ht h => ?_, fun t ht h1 h2 => ?_⟩
  · simp only [tagcheckRow, maskedRow_tag, maskedRow_paddr, h]
  · simp only [tagcheckRow, maskedRow_tag, h]
  · simp only [tagcheckRow, maskedRow_tag, h]
  · refine ⟨(maskedRow s n).lanes, ?_, fun l hl => maskedRow_lane hl⟩
    exact tagcheckRow_same ((maskedRow_tag s n).trans ht) h
  · rw [readsAs_iff ht h1 h2, tagcheckRow_other ((maskedRow_tag s n).trans ht) h1 h2]
    refine ⟨fun h => if_pos (not_not.1 h), fun h => ?_⟩
    obtain ⟨hcvt, hl⟩ := convertedRow_spec t (if f = .raw32 then .int32 else f) (modeR s.mode) (maskedRow s n)
    refine ⟨_, if_neg h, hcvt, fun l he => ?_⟩
    rw [← maskedRow_lane he]
    exact hl l

/-! ### The exact functions together (R112, R113) -/

theorem exact_functions (n : Bool) (m : Nat) (e : Int) : let x := (m : ℚ) * (2 : ℚ) ^ e;
    (m = 0 → frcp (.fin n m e) = .inf n ∧ frsqrt (.fin n m e) = .inf n ∧ fsqrt (.fin n m e) = .fin n 0 0 ∧
      flog2 (.fin n m e) = .inf true) ∧
    (m ≠ 0 → n = true → frsqrt (.fin n m e) = .nan ∧ fsqrt (.fin n m e) = .nan ∧ flog2 (.fin n m e) = .nan) ∧
    (m ≠ 0 → standsFor (frcp (.fin n m e)) n (fun y => y * x < 1) (fun y => y * x = 1)) ∧
    (m ≠ 0 → n = false → standsFor (fsqrt (.fin n m e)) false (fun y => y * y < x) (fun y => y * y = x) ∧
      standsFor (frsqrt (.fin n m e)) false (fun y => y * y * x < 1) (fun y => y * y * x = 1)) ∧
    (∀ k : Int, -4096 ≤ k → k ≤ 4096 → valueQ (.fin n m e) = k → valueQ (fexp2 (.fin n m e)) = (2 : ℚ) ^ k) ∧
    (∀ k : Int, -4096 ≤ k → k < 4096 → (k : ℚ) < valueQ (.fin n m e) → valueQ (.fin n m e) < k + 1 →
      (2 : ℚ) ^ k < valueQ (fexp2 (.fin n m e)) ∧ valueQ (fexp2 (.fin n m e)) < (2 : ℚ) ^ (k + 1)) := by
  refine ⟨?_, ?_, fun hm => frcp_standsFor hm n e, ?_, fun k h1 h2 h => valueQ_fexp2_int h1 h2 h,
    fun k h1 h2 hl hu => fexp2_between h1 h2 hl hu⟩
  · rintro rfl
    exact ⟨rfl, rfl, rfl, rfl⟩
  · rintro hm rfl
    exact ⟨if_neg hm, if_neg hm, if_neg hm⟩
  · rintro hm rfl
    exact ⟨fsqrt_standsFor hm e, frsqrt_standsFor hm e⟩

/-- Settles O24: the arithmetic under the rounding through the rational values, the rounding through the units of the last place,
the exact functions through their sticky bit, and the operands through the lanes of the execute mask. -/
theorem exactArithmetic : Obligations.ExactArithmetic := by
  unfold Obligations.ExactArithmetic
  refine ⟨fun rd n1 n2 m1 m2 e1 e2 x => ⟨valueQ_fadd .., valueQ_fmul .., fadd_fin .., rfl, fadd_nan_right rd x, rfl,
      fmul_nan_right x, rfl, rfl, fun hm => if_neg hm⟩,
    fun f sign E F hf hE hF => fdecode_encodings f sign E F hf hE hF, rfl, rfl, rfl, rfl, rfl, by decide, rfl,
    fun f c s neg m e hf => ⟨roundsRight_fround hf c s neg e m, rfl, fun h => fround_inf h c s neg, rfl, flushIn_fin f c.ftz neg m e⟩,
    lfsrStep_eq, fun op s n => ⟨rfl, runElems_succ op s n⟩,
    fun f k _ => ⟨clampedTo_intResult f k, rfl⟩,
    fun f rm n m e _ => ⟨rfl, clampedTo_intResult _ _, _, nearestInt_roundInt rm n m e, clampedTo_intResult _ _⟩,
    fun f g w => clampedTo_intResult _ _,
    fun a b ha hb => ⟨fltVal_iff ha hb, feqVal_iff ha hb, fun mx => ⟨fminmax_choice ha hb mx, valueOrder_fminmax ha hb mx,
      isNeg_fminmax ha hb mx⟩⟩,
    fun a => ⟨rfl, fltVal_nan_right a, rfl, feqVal_nan_right a, fun mx => ⟨rfl, fminmax_nan_right mx a⟩⟩,
    fun f c k a b => ⟨fun h => laneCond_int h c k a b, fun h => ⟨laneCond_float_isSome h c k a b,
      fun _ => laneCond_float_true h c k a b⟩⟩,
    fun n => ?_, by decide, exact_functions, flog2_fdecode,
    fun f b rm ftz hf _ => fintegral_spec f b rm ftz hf, tagcheck_spec,
    fun f g c w hel h4 hf8 hg8 i hi => convLane_elements f g c w hel h4 hf8 hg8 i hi⟩
  exact ⟨by cases n <;> rfl, rfl, rfl, rfl, rfl⟩

end Sys2Proof.Machine
end

section
/-!
PROOFS. Scalar arithmetic, the unary scalar instructions and bit fields, compares and selects (R65, R68 to R72).
-/

namespace Sys2Proof.Machine

open Sys2Proof Sys2Proof.Laws

/-! ### What a ready instruction's operands may be -/

theorem ready_accepted {s : State} {i : Instr} (h : s.ready i = true) : i.accepted = true := by
  obtain ⟨-, hp, -⟩ := (ready_iff s i).1 h
  obtain ⟨ha, -⟩ := precheck_ok_iff.1 hp
  exact ha

theorem ready_accepts {s : State} {i : Instr} (h : s.ready i = true) {sl : OSlot} (hs : sl ∈ i.slots) :
    sl.cls.accepts sl.o = true := by
  have ha := ready_accepted h
  simp only [Instr.accepted, Bool.and_eq_true, List.all_eq_true] at ha
  exact ha.1.1 sl hs

/-- R16, R19: what may stand in a scalar destination. -/
theorem accepts_sd {x : Opnd} (h : Cls.sd.accepts x = true) : x = .zero ∨ ∃ k, x = .s k := by
  cases x with
  | zero => exact .inl rfl
  | s k => exact .inr ⟨k, rfl⟩
  | _ => exact absurd h (by simp [Cls.accepts, Cls.codes, Opnd.kind])

/-- R16: a predicate destination is a predicate register. -/
theorem accepts_pd {x : Opnd} (h : Cls.pd.accepts x = true) : ∃ k, x = .p k := by
  cases x with
  | p k => exact ⟨k, rfl⟩
  | _ => exact absurd h (by simp [Cls.accepts, Cls.codes, Opnd.kind])

section
variable {i : Instr} {s : State} {x y z : Opnd}

theorem scalarD_completes {f : Word → Word → Word} {v : Word} (hx : exec i s = scalarD i x y z f s)
    (hv : f (s.sval y) (s.sval z) = v) (h : s.ready i = true) : Completes i s (s.wS x v) := by
  rw [Completes, hx, scalarD_ready h, hv]

theorem scalarU_completes {f : Word → Word} {v : Word} (hx : exec i s = scalarU i x y f s) (hv : f (s.sval y) = v)
    (h : s.ready i = true) : Completes i s (s.wS x v) := by
  rw [Completes, hx, scalarU_ready h, hv]
end

/-- Settles O2: each result of the table, by the word that its function computes. -/
theorem scalarArithmeticResults : Obligations.ScalarArithmeticResults := by
  intro s sb x y z a b n
  refine ⟨scalarD_completes (exec_sadd ..) (add_eq_ofNat a b), scalarD_completes (exec_ssub ..) (sub_eq_ofInt a b),
    scalarD_completes (exec_smul ..) (mul_eq_ofNat a b), scalarD_completes (exec_smulh ..) (smulh_eq a b),
    scalarD_completes (exec_smulhu ..) (smulhu_eq a b), scalarD_completes (exec_sand ..) rfl,
    scalarD_completes (exec_sor ..) rfl, scalarD_completes (exec_sxor ..) rfl,
    scalarD_completes (exec_sshl ..) (congrArg (ite _ _) (shl_eq a n)),
    scalarD_completes (exec_sshr ..) (congrArg (ite _ _) (shr_eq a n)), scalarD_completes (exec_ssar ..) (sar_min a n),
    scalarD_completes (exec_smin ..) (smin_eq a b), scalarD_completes (exec_smax ..) (smax_eq a b),
    scalarD_completes (exec_sminu ..) (sminu_eq a b), scalarD_completes (exec_smaxu ..) (smaxu_eq a b),
    fun i hi h => ?_, fun v => rfl⟩
  have hs : ⟨x, .sd, .w1⟩ ∈ i.slots := by
    simp only [List.mem_cons, List.not_mem_nil, or_false] at hi
    rcases hi with rfl | rfl | rfl | rfl | rfl | rfl | rfl | rfl | rfl | rfl | rfl | rfl | rfl | rfl | rfl <;> exact .head _
  exact accepts_sd (ready_accepts h hs)

/-- Settles O3: the unary instructions by what each computes of its source, the bit fields bit by bit. -/
theorem scalarUnaryAndFields : Obligations.ScalarUnaryAndFields := by
  constructor
  · intro s sb x y a
    exact ⟨scalarU_completes (exec_sunNot ..) (not_eq_sub a),
      scalarU_completes (exec_sunNeg ..) (BitVec.zero_sub a).symm,
      scalarU_completes (exec_sunAbs ..) (sabs_eq a),
      fun h => ⟨_, scalarU_completes (exec_sunClz ..) rfl h, clz_spec a⟩,
      fun h => ⟨_, scalarU_completes (exec_sunCtz ..) rfl h, ctz_spec a⟩,
      scalarU_completes (exec_sunPopc ..) rfl,
      fun h => ⟨_, scalarU_completes (exec_sunBrev ..) rfl h, bitRev_spec a⟩,
      fun h => ⟨_, scalarU_completes (exec_sunBswap ..) rfl h, bswap_spec a⟩,
      scalarU_completes (exec_sunSext8 ..) (sext8_eq a), scalarU_completes (exec_sunSext16 ..) (sext16_eq a),
      scalarU_completes (exec_sunZext8 ..) (zext8_eq a), scalarU_completes (exec_sunZext16 ..) (zext16_eq a)⟩
  · intro s sb x y z c pos hi
    refine ⟨fun h => ⟨_, scalarD_completes (exec_sbfx ..) rfl h, bfExtract_spec _ c⟩,
      fun h => ⟨bfInsert (s.sval x) (s.sval y) c, ?_, bfInsert_spec _ _ c⟩⟩
    rw [Completes, exec_sbfi, execSbfi, issueDone_ready h]

/-! ### Compares and selects -/

/-- R21, R71: the condition that SCMP tests. -/
theorem condInt_condMeans (c : Cond) (a b : Word) (h1 : c ≠ .ord) (h2 : c ≠ .uno) :
    ∃ r : Bool, condInt false c a b = some r ∧ (r = true ↔ condMeans c a b) := by
  cases c with
  | ord => exact absurd rfl h1
  | uno => exact absurd rfl h2
  | _ =>
    refine ⟨_, rfl, ?_⟩
    simp [condMeans, BitVec.slt_eq_decide, BitVec.ult_eq_decide]

section
variable {s : State} {sb : Bool} {x y z : Opnd} {c : Cond} {pd : PReg}

theorem scmp_completes {r : Bool} (h : s.ready (.scmp sb c pd y z) = true) (hc : condInt false c (s.sval y) (s.sval z) = some r) :
    Completes (.scmp sb c pd y z) s (s.pwrite pd (if r then 0xFFFF else 0)) :=
  completes_of_ok (exec_scmp ..) h (by rw [hc])

theorem scmp_undefined (h : s.ready (.scmp sb c pd y z) = true) (hc : c = .ord ∨ c = .uno) :
    Traps (.scmp sb c pd y z) s (trapCode .invop) :=
  traps_of_error (exec_scmp ..) h (by rcases hc with rfl | rfl <;> rfl)

theorem ssel_completes (h : s.ready (.ssel sb x y z) = true) :
    Completes (.ssel sb x y z) s (if s.pval y &&& s.sp.lanes != 0 then s.wS x (s.sval z) else s) :=
  completes_of_ok (exec_ssel ..) h rfl
end

/-- Settles O4: SCMP by the meaning of its condition, SSEL by its predicate. -/
theorem compareSelectResults : Obligations.CompareSelectResults := by
  intro s sb x y z
  refine ⟨fun c pd h h1 h2 hc => ?_, fun c pd h h1 h2 hc => ?_, fun c pd h hc => scmp_undefined h hc, fun h hp => ?_, fun h hp => ?_⟩
  · obtain ⟨r, hr, hm⟩ := condInt_condMeans c (s.sval y) (s.sval z) h1 h2
    have hs := scmp_completes h hr
    rwa [if_pos (hm.2 hc)] at hs
  · obtain ⟨r, hr, hm⟩ := condInt_condMeans c (s.sval y) (s.sval z) h1 h2
    have hs := scmp_completes h hr
    rwa [if_neg (mt hm.1 hc)] at hs
  · have hs := ssel_completes h
    rwa [if_pos (bne_iff_ne.2 hp)] at hs
  · have hs := ssel_completes h
    rwa [if_neg (by simp [hp])] at hs

end Sys2Proof.Machine
end

section
/-!
PROOFS. Pairs, affine registers, predicates and MODE (R6, R64, R73 to R81).
-/

namespace Sys2Proof.Machine

open Sys2Proof Sys2Proof.Laws

/-! ### Pairs and affine registers -/

section
variable {i : Instr} {s : State} {x : Opnd}

theorem pairD_completes {f : State → DWord} {v : DWord} (hx : exec i s = pairD i x s f) (hv : f s = v)
    (h : s.ready i = true) : Completes i s (s.wD x v) := by
  rw [Completes, hx, pairD_ready h, hv]

theorem affineD_completes {f : State → Affine} {v : Affine} (hx : exec i s = affineD i x s f) (hv : f s = v)
    (h : s.ready i = true) : Completes i s (s.wA x v) := by
  rw [Completes, hx, affineD_ready h, hv]

theorem predD_completes {f : State → BitVec 16} {v : BitVec 16} (hx : exec i s = predD i x s f) (hv : f s = v)
    (h : s.ready i = true) : Completes i s (s.wP x v) := by
  rw [Completes, hx, predD_ready h, hv]
end

/-- R6: an odd register in a pair position traps REGALIGN. -/
theorem odd_pair_traps {s : State} {i : Instr} (hi : i.head.isSome = true) (hr : s.running = true) (ha : i.accepted = true)
    {k : Fin 64} (hk : k.val % 2 = 1) {c : Cls} (hs : ⟨.s k, c, .w2⟩ ∈ i.slots) : TrapsAtDecode i s (trapCode .regalign) := by
  refine trapsAtDecode hi hr (precheck_unaligned ha hs ?_)
  simp [slotAligned, regNo, State.slotCount, widthCount, hk]

theorem aval_zero (s : State) : s.aval .zero = ⟨0, 0⟩ := rfl

/-- Settles O5: each result by the word its function computes; the odd registers by the position they stand in. -/
theorem pairAndAffineResults : Obligations.PairAndAffineResults := by
  constructor
  · intro s sb x y z n
    refine ⟨pairD_completes (exec_dadd ..) (add_eq_ofNat _ _), pairD_completes (exec_dsub ..) (sub_eq_ofInt _ _),
      pairD_completes (exec_dshl ..) (congrArg (ite _ _) (shl_eq _ n)),
      pairD_completes (exec_dshr ..) (congrArg (ite _ _) (shr_eq _ n)), fun k hk hr i hi ha => ?_⟩
    simp only [List.mem_cons, List.not_mem_nil, or_false] at hi
    rcases hi with rfl | rfl | rfl | rfl | rfl | rfl | rfl | rfl | rfl | rfl
    -- the register stands in X
    · exact odd_pair_traps rfl hr ha hk (.head _)
    · exact odd_pair_traps rfl hr ha hk (.head _)
    · exact odd_pair_traps rfl hr ha hk (.head _)
    · exact odd_pair_traps rfl hr ha hk (.head _)
    -- in Y
    · exact odd_pair_traps rfl hr ha hk (.tail _ (.head _))
    · exact odd_pair_traps rfl hr ha hk (.tail _ (.head _))
    · exact odd_pair_traps rfl hr ha hk (.tail _ (.head _))
    · exact odd_pair_traps rfl hr ha hk (.tail _ (.head _))
    -- in Z
    · exact odd_pair_traps rfl hr ha hk (.tail _ (.tail _ (.head _)))
    · exact odd_pair_traps rfl hr ha hk (.tail _ (.tail _ (.head _)))
  · intro s sb x y z a n
    refine ⟨aval_zero s, affineD_completes (exec_amov ..) rfl, fun k => affineD_completes (exec_aadd ..) rfl, fun h hz => ?_,
      affineD_completes (exec_ascl ..) rfl, affineD_completes (exec_ashl ..) ?_, affineD_completes (exec_aexp ..) rfl,
      fun h => completes_of_ok (exec_aget ..) h rfl, fun h => completes_of_ok (exec_aget ..) h rfl⟩
    · refine affineD_completes (exec_aadd ..) (if_neg ?_) h
      cases z with
      | a k => exact absurd rfl (hz k)
      | _ => exact Bool.false_ne_true
    · exact congrArg₂ Affine.mk (shl_eq _ n) (congrArg (ite _ _) (shl_eq _ n))

/-! ### Predicates -/

/-- R77: the width of a predicate. -/
theorem setWidth_eq_ofNat {v w : Nat} (a : BitVec v) : a.setWidth w = BitVec.ofNat w a.toNat := by
  apply BitVec.eq_of_toNat_eq
  simp

/-- Settles O6: the results by the word each computes, the bits that pwrite changes by `pwrite_curP`. -/
theorem predicateResults : Obligations.PredicateResults := by
  constructor
  · intro s sb x y z
    refine ⟨rfl, predD_completes (exec_pand ..) rfl, predD_completes (exec_por ..) rfl, predD_completes (exec_pxor ..) rfl,
      predD_completes (exec_pmov ..) rfl, predD_completes (exec_punNot ..) (not_eq_sub16 _),
      fun h => ⟨_, predD_completes (exec_punFirst ..) rfl h, lowBit_spec _⟩,
      fun h => ⟨_, predD_completes (exec_punLast ..) rfl h, highBit_spec _⟩,
      predD_completes (exec_punSet ..) (BitVec.setWidth_eq_extractLsb' (by decide)), ?_,
      fun h => completes_of_ok (exec_punCnt ..) h rfl, fun i hi h => ?_, fun i hi h => ?_⟩
    · intro h
      rw [← setWidth_eq_ofNat]
      exact completes_of_ok (exec_punGet ..) h rfl
    · have hs : ⟨x, .pd, .w1⟩ ∈ i.slots := by
        simp only [List.mem_cons, List.not_mem_nil, or_false] at hi
        rcases hi with rfl | rfl | rfl | rfl <;> exact .head _
      exact accepts_pd (ready_accepts h hs)
    · have hs : ⟨x, .sd, .w1⟩ ∈ i.slots := by
        simp only [List.mem_cons, List.not_mem_nil, or_false] at hi
        rcases hi with rfl | rfl <;> exact .head _
      exact accepts_sd (ready_accepts h hs)
  · intro s n v hn
    exact ⟨pwrite_zero s v, fun m hm => pwrite_curP_other s n m v hm, fun hu l hl => pwrite_curP_outside s n v hn hu l hl,
      fun h0 hu l hl => pwrite_curP_inside s n v hn h0 hu l hl, fun hh l hl => predMask_getLsbD s hh l hl⟩

/-! ### MODE -/

/-- A run of ones above the bits of a smaller number. -/
theorem testBit_add_ones {n lo hi : Nat} (hn : n < 2 ^ lo) (h : lo ≤ hi + 1) (b : Bool) (i : Nat) :
    (n + if b then 2 ^ (hi + 1) - 2 ^ lo else 0).testBit i = if i < lo then n.testBit i else b && decide (i ≤ hi) := by
  have hpow : 2 ^ (hi + 1) - 2 ^ lo = 2 ^ lo * (2 ^ (hi + 1 - lo) - 1) := by
    rw [Nat.mul_sub, ← Nat.pow_add, Nat.add_sub_cancel' h, Nat.mul_one]
  have hsum : (n + if b then 2 ^ (hi + 1) - 2 ^ lo else 0) = 2 ^ lo * (if b then 2 ^ (hi + 1 - lo) - 1 else 0) + n := by
    cases b
    · simp
    · rw [if_pos rfl, if_pos rfl, hpow, Nat.add_comm]
  rw [hsum, Nat.testBit_two_pow_mul_add _ hn]
  split
  · rfl
  · cases b
    · simp
    · rw [if_pos rfl, Nat.testBit_two_pow_sub_one, Bool.true_and]
      exact decide_eq_decide.2 (by omega)

theorem add_ones_lt {n lo hi : Nat} (hn : n < 2 ^ lo) (h : lo ≤ hi + 1) (b : Bool) :
    (n + if b then 2 ^ (hi + 1) - 2 ^ lo else 0) < 2 ^ (hi + 1) := by
  have := Nat.pow_le_pow_right (n := 2) (by decide) h
  cases b
  · rw [if_neg (by decide)]; omega
  · rw [if_pos rfl]; omega

/-- The first bit above the runs whose top bits a list gives, the highest first. -/
def aboveRuns : List Nat → Nat
  | [] => 0
  | hi :: _ => hi + 1

/-- Runs of ones, each from the end of the one below it to its top bit; a test says which of them are there. -/
def onesRuns (b : Nat → Bool) : List Nat → Nat
  | [] => 0
  | hi :: l => onesRuns b l + if b l.length then 2 ^ (hi + 1) - 2 ^ aboveRuns l else 0

/-- A bit of `onesRuns`. -/
def onesRunsBit (b : Nat → Bool) : List Nat → Nat → Bool
  | [], _ => false
  | hi :: l, i => if i < aboveRuns l then onesRunsBit b l i else b l.length && decide (i ≤ hi)

theorem aboveRuns_le {hi : Nat} {l : List Nat} (h : (hi :: l).Pairwise (· > ·)) : aboveRuns l ≤ hi + 1 := by
  cases l with
  | nil => exact Nat.zero_le _
  | cons a l => exact Nat.le_succ_of_le (List.rel_of_pairwise_cons h (.head _))

theorem onesRuns_lt (b : Nat → Bool) {l : List Nat} (h : l.Pairwise (· > ·)) : onesRuns b l < 2 ^ aboveRuns l := by
  induction l with
  | nil => exact Nat.one_pos
  | cons hi l ih => exact add_ones_lt (ih h.of_cons) (aboveRuns_le h) _

theorem onesRuns_testBit (b : Nat → Bool) {l : List Nat} (h : l.Pairwise (· > ·)) (i : Nat) :
    (onesRuns b l).testBit i = onesRunsBit b l i := by
  induction l with
  | nil => exact Nat.zero_testBit i
  | cons hi l ih =>
    rw [onesRuns, testBit_add_ones (onesRuns_lt b h.of_cons) (aboveRuns_le h), ih h.of_cons, onesRunsBit]

/-- The top bits of the fields of MODE, the highest first. -/
def modeTops : List Nat := [19, 17, 14, 12, 11, 10, 9, 8, 6, 2]

theorem modeBits_eq (mask : BitVec 10) : modeBits mask = BitVec.ofNat 32 (onesRuns mask.getLsbD modeTops) := by
  simp only [modeBits, modeTops, onesRuns, aboveRuns, List.length_cons, List.length_nil, Nat.zero_add, Nat.reduceAdd]

/-- R79: the merge of SETM by the mask of the selected bits. -/
theorem modeMerge_eq (old v : Word) (mask : BitVec 10) :
    modeMerge old v mask = (old &&& ~~~modeBits mask) ||| (v &&& modeBits mask) := by
  apply BitVec.eq_of_getLsbD_eq
  intro i hi
  have hm : (modeBits mask).getLsbD i = onesRunsBit mask.getLsbD modeTops i := by
    rw [modeBits_eq, BitVec.getLsbD_ofNat, onesRuns_testBit _ (by decide), decide_eq_true hi, Bool.true_and]
  rw [modeMerge_getLsbD _ _ _ _ hi, BitVec.getLsbD_or, BitVec.getLsbD_and, BitVec.getLsbD_and, BitVec.getLsbD_not, hm]
  have hsel (c o w : Bool) : (if c then w else o) = (o && !c || w && c) := by cases c <;> simp
  rw [hsel, decide_eq_true hi, Bool.true_and]
  interval_cases i <;> simp [onesRunsBit, modeTops, aboveRuns]

theorem modeLegal_eq_false (m : Word) : modeLegal m = false ↔
    10 ≤ m.toNat / 2 ^ 3 % 16 ∨ 6 ≤ m.toNat / 2 ^ 15 % 8 ∨ m.toNat / 2 ^ 18 % 4 = 3 := by
  simp only [modeLegal, field, BitVec.extractLsb'_toNat, Nat.shiftRight_eq_div_pow, Bool.and_eq_false_iff, decide_eq_false_iff_not]
  omega

theorem setm_completes {s : State} {sb : Bool} {x : Opnd} {mask : BitVec 10} (h : s.ready (.setm sb x mask) = true)
    (hv : field (s.sval x) 31 20 = 0) (hm : modeLegal (modeMerge s.mode (s.sval x) mask) = true) :
    Completes (.setm sb x mask) s (s.setMode (modeMerge s.mode (s.sval x) mask)) :=
  completes_of_ok (exec_setm ..) h (if_neg (by simp [hv, hm]))

theorem setm_traps {s : State} {sb : Bool} {x : Opnd} {mask : BitVec 10} (h : s.ready (.setm sb x mask) = true)
    (hb : field (s.sval x) 31 20 ≠ 0 ∨ modeLegal (modeMerge s.mode (s.sval x) mask) = false) :
    Traps (.setm sb x mask) s (trapCode .modeval) :=
  traps_of_error (exec_setm ..) h (if_pos (by simpa using hb))

/-- Settles O7: the merged value and the two tests that SETM makes of it. -/
theorem modeResults : Obligations.ModeResults := by
  intro s sb x mask v new bad
  have hnew : modeMerge s.mode v mask = new := modeMerge_eq ..
  have htop : field v 31 20 = v.toNat / 2 ^ 20 := by
    unfold field
    rw [BitVec.extractLsb'_toNat, Nat.shiftRight_eq_div_pow]
    exact Nat.mod_eq_of_lt (by have := v.isLt; omega)
  have hbad : bad ↔ field v 31 20 ≠ 0 ∨ modeLegal (modeMerge s.mode v mask) = false := by
    rw [htop, hnew, modeLegal_eq_false]
  refine ⟨fun h hb => ?_, fun h hb => setm_traps h (hbad.1 hb), fun h => completes_of_ok (exec_getm ..) h rfl⟩
  rw [hbad, not_or, not_not, Bool.not_eq_false] at hb
  rw [← hnew]
  exact setm_completes h hb.1 hb.2

end Sys2Proof.Machine
end

section
/-!
PROOFS. Transfers of control, the return stack, branch tables and counted loops (R83 to R85, R89 to R92).
-/

namespace Sys2Proof.Machine

open Sys2Proof Sys2Proof.Laws

/-! ### How an instruction ends by what its body answers -/

section
variable {i : Instr} {s t : State} {f : State → Res Act}

theorem completes_of_done (hx : exec i s = issue i s f) (hr : s.ready i = true) (h : f s = .ok (.done t)) : Completes i s t := by
  rw [Completes, hx, issue_ready hr, h]

theorem jumps_of_jump {a : DWord} (hx : exec i s = issue i s f) (hr : s.ready i = true) (h : f s = .ok (.jump t a)) :
    Jumps i s t a := by
  rw [Jumps, hx, issue_ready hr, h]

theorem parks_of_park {c : Cause} (hx : exec i s = issue i s f) (hr : s.ready i = true) (h : f s = .ok (.park t c)) :
    Parks i s t c := by
  rw [Parks, hx, issue_ready hr, h]

theorem traps_of_trap {e : TrapReq} (hx : exec i s = issue i s f) (hr : s.ready i = true) (h : f s = .error (.trap e)) :
    Traps i s e := by
  rw [Traps, hx, issue_ready hr, h]
end

theorem inLoop_not_true {p : Split} (h : p.inLoop = true) : (!p.inLoop) = false := by rw [h]; rfl
theorem inLoop_not_false {p : Split} (h : p.inLoop = false) : (!p.inLoop) = true := by rw [h]; rfl

/-! ### BR, BRC, CALL and RET -/

theorem pushRet_room {s : State} (h : s.sp.rets.length < 64) (a : DWord) :
    s.pushRet a = .ok { s with sp := { s.sp with rets := a :: s.sp.rets } } := if_pos h

theorem pushRet_full {s : State} (h : 64 ≤ s.sp.rets.length) (a : DWord) : s.pushRet a = trapOf .stack :=
  if_neg (Nat.not_lt.2 h)

section
variable {s : State} {x : Opnd} {off : Word} {t : BTest}

theorem brc_jumps (h : s.ready (.brc x t off) = true) (ht : branchTest t (s.pval x) s.sp.lanes = true) :
    Jumps (.brc x t off) s s (s.target off) :=
  jumps_of_jump (exec_brc ..) h (congrArg Except.ok (if_pos ht))

theorem brc_falls (h : s.ready (.brc x t off) = true) (ht : branchTest t (s.pval x) s.sp.lanes = false) :
    Completes (.brc x t off) s s :=
  completes_of_done (exec_brc ..) h (congrArg Except.ok (if_neg (by rw [ht]; decide)))

theorem call_jumps (h : s.ready (.call off) = true) (hl : s.sp.inLoop = false) (hr : s.sp.rets.length < 64) :
    Jumps (.call off) s { s with sp := { s.sp with rets := (s.sp.pc + 8) :: s.sp.rets } } (s.target off) := by
  refine jumps_of_jump (exec_call ..) h ?_
  rw [inLoop_not_false hl, pushRet_room hr]
  rfl

theorem call_full (h : s.ready (.call off) = true) (hl : s.sp.inLoop = false) (hr : 64 ≤ s.sp.rets.length) :
    Traps (.call off) s (trapCode .stack) := by
  refine traps_of_trap (exec_call ..) h ?_
  rw [inLoop_not_false hl, pushRet_full hr]
  rfl

theorem call_inLoop (h : s.ready (.call off) = true) (hl : s.sp.inLoop = true) : Traps (.call off) s (trapCode .invop) := by
  refine traps_of_trap (exec_call ..) h ?_
  rw [inLoop_not_true hl]
  rfl

theorem ret_jumps {a : DWord} {rest : List DWord} (h : s.ready .ret = true) (hl : s.sp.inLoop = false)
    (hr : s.sp.rets = a :: rest) : Jumps .ret s { s with sp := { s.sp with rets := rest } } a := by
  refine jumps_of_jump (exec_ret s) h ?_
  rw [inLoop_not_false hl, hr]
  rfl

theorem ret_empty (h : s.ready .ret = true) (hl : s.sp.inLoop = false) (hr : s.sp.rets = []) :
    Traps .ret s (trapCode .stack) := by
  refine traps_of_trap (exec_ret s) h ?_
  rw [inLoop_not_false hl, hr]
  rfl

theorem ret_inLoop (h : s.ready .ret = true) (hl : s.sp.inLoop = true) : Traps .ret s (trapCode .invop) := by
  refine traps_of_trap (exec_ret s) h ?_
  rw [inLoop_not_true hl]
  rfl
end

/-- Settles O9: each transfer by its test, the loop it stands in and the return stack. -/
theorem transferResults : Obligations.TransferResults := by
  intro s x off target c
  refine ⟨fun h => jumps_of_jump (exec_br ..) h rfl, fun t h ht => brc_jumps h ?_, fun t h ht => brc_falls h ?_, call_jumps,
    call_full, fun a rest => ret_jumps, ret_empty, call_inLoop, ret_inLoop⟩
  · cases t with
    | any => exact bne_iff_ne.2 ht
    | all => exact beq_iff_eq.2 ht
    | none => exact beq_iff_eq.2 ht
    | nall => exact bne_iff_ne.2 ht
  · cases t with
    | any => exact bne_eq_false_iff_eq.2 ht
    | all => exact beq_eq_false_iff_ne.2 ht
    | none => exact beq_eq_false_iff_ne.2 ht
    | nall => exact bne_eq_false_iff_eq.2 ht

/-! ### Branch tables with a scalar index -/

section
variable {s : State} {x : Opnd} {ts : List Word}

theorem isVec_eq_false (hx : ∀ n, x ≠ .v n) : isVec x = false := by
  cases x with
  | v n => exact absurd rfl (hx n)
  | _ => rfl

theorem branchTable_past (i : Instr) (call : Bool) (h : ts.length ≤ (s.sval x).toNat) :
    branchTable i x ts call s = trapOf .brtarget := by
  unfold branchTable
  rw [List.getElem?_eq_none h]

theorem branchTable_inside (i : Instr) (call : Bool) (h : (s.sval x).toNat < ts.length) :
    branchTable i x ts call s = (do
      let t ← if call then s.pushRet (s.nextPc i) else .ok s
      .ok (.jump t (s.target (ts.getD (s.sval x).toNat 0)))) := by
  unfold branchTable
  rw [List.getElem?_eq_getElem h, List.getD_eq_getElem _ _ h]

theorem callt_body (hl : s.sp.inLoop = false) (hx : ∀ n, x ≠ .v n) : (do
      need (!s.sp.inLoop) .invop
      if isVec x then branchLanes (.callt x ts) x ts true s else branchTable (.callt x ts) x ts true s) =
    branchTable (.callt x ts) x ts true s := by
  rw [inLoop_not_false hl, isVec_eq_false hx]
  rfl

theorem nextPc_callt : s.nextPc (.callt x ts) = s.sp.pc + BitVec.ofNat 64 (4 * (2 + ts.length)) := by
  rw [State.nextPc, show (Instr.callt x ts).len = 1 + (ts.length + 1) from rfl]
  congr 3
  omega

theorem callt_inLoop (h : s.ready (.callt x ts) = true) (hl : s.sp.inLoop = true) :
    Traps (.callt x ts) s (trapCode .invop) := by
  refine traps_of_trap (exec_callt ..) h ?_
  rw [inLoop_not_true hl]
  rfl

/-- R89: BRT and CALLT with an index that is no vector. -/
theorem branchTable_results (hx : ∀ n, x ≠ .v n) :
    (s.ready (.brt x ts) = true → (s.sval x).toNat < ts.length →
      Jumps (.brt x ts) s s (s.target (ts.getD (s.sval x).toNat 0))) ∧
    (s.ready (.brt x ts) = true → ts.length ≤ (s.sval x).toNat → Traps (.brt x ts) s (trapCode .brtarget)) ∧
    (s.ready (.callt x ts) = true → s.sp.inLoop = false → (s.sval x).toNat < ts.length → s.sp.rets.length < 64 →
      Jumps (.callt x ts) s
        { s with sp := { s.sp with rets := (s.sp.pc + BitVec.ofNat 64 (4 * (2 + ts.length))) :: s.sp.rets } }
        (s.target (ts.getD (s.sval x).toNat 0))) ∧
    (s.ready (.callt x ts) = true → s.sp.inLoop = false → (s.sval x).toNat < ts.length → 64 ≤ s.sp.rets.length →
      Traps (.callt x ts) s (trapCode .stack)) ∧
    (s.ready (.callt x ts) = true → s.sp.inLoop = false → ts.length ≤ (s.sval x).toNat →
      Traps (.callt x ts) s (trapCode .brtarget)) ∧
    (s.ready (.callt x ts) = true → s.sp.inLoop = true → Traps (.callt x ts) s (trapCode .invop)) := by
  have hv : ¬ isVec x = true := by simp [isVec_eq_false hx]
  refine ⟨fun h hk => jumps_of_jump (exec_brt ..) h ?_, fun h hk => traps_of_trap (exec_brt ..) h ?_,
    fun h hl hk hr => jumps_of_jump (exec_callt ..) h ?_, fun h hl hk hr => traps_of_trap (exec_callt ..) h ?_,
    fun h hl hk => traps_of_trap (exec_callt ..) h ?_, callt_inLoop⟩
  · rw [if_neg hv, branchTable_inside _ _ hk]
    rfl
  · rw [if_neg hv, branchTable_past _ _ hk]
    rfl
  · rw [callt_body hl hx, branchTable_inside _ _ hk, if_pos rfl, pushRet_room hr, nextPc_callt]
    rfl
  · rw [callt_body hl hx, branchTable_inside _ _ hk, if_pos rfl, pushRet_full hr]
    rfl
  · rw [callt_body hl hx, branchTable_past _ _ hk]
    rfl
end

/-! ### Branch tables with a vector index -/

/-- Of two numbers of a list the one stands before every place of the other. -/
def StandsBefore (l : List Nat) (a b : Nat) : Prop := a ≠ b ∧ ∃ pre post, l = pre ++ a :: post ∧ b ∉ pre

theorem StandsBefore.append {l : List Nat} {a b : Nat} (h : StandsBefore l a b) (m : List Nat) : StandsBefore (l ++ m) a b := by
  obtain ⟨hne, pre, post, rfl, hb⟩ := h
  exact ⟨hne, pre, post ++ m, by simp, hb⟩

theorem firstSeen_append (l : List Nat) (x : Nat) :
    firstSeen (l ++ [x]) = if (firstSeen l).contains x then firstSeen l else firstSeen l ++ [x] := by
  unfold firstSeen
  rw [List.foldl_append]
  rfl

theorem mem_firstSeen {l : List Nat} {k : Nat} : k ∈ firstSeen l ↔ k ∈ l := by
  induction l using List.reverseRecOn with
  | nil => rfl
  | append_singleton l x ih =>
    rw [firstSeen_append, List.mem_append, List.mem_singleton]
    split
    · rename_i hc
      have hx : x ∈ firstSeen l := List.contains_iff_mem.1 hc
      exact ⟨fun h => .inl (ih.1 h), fun h => h.elim ih.2 (fun e => e ▸ hx)⟩
    · rw [List.mem_append, List.mem_singleton, ih]

/-- R90: the distinct indices stand in the order in which they are first seen. -/
theorem firstSeen_pairwise (l : List Nat) : (firstSeen l).Pairwise (StandsBefore l) := by
  induction l using List.reverseRecOn with
  | nil => exact .nil
  | append_singleton l x ih =>
    rw [firstSeen_append]
    have hmono := ih.imp (fun h => StandsBefore.append h [x])
    split
    · exact hmono
    · rename_i hc
      refine List.pairwise_append.2 ⟨hmono, List.pairwise_singleton .., fun a ha b hb => ?_⟩
      have hx : x ∉ l := fun hm => hc (List.contains_iff_mem.2 (mem_firstSeen.2 hm))
      obtain rfl := List.mem_singleton.1 hb
      have hal := mem_firstSeen.1 ha
      obtain ⟨pre, post, rfl⟩ := List.append_of_mem hal
      exact ⟨fun e => hx (e ▸ hal), pre, post ++ [b], by simp, fun hm => hx (List.mem_append_left _ hm)⟩

theorem mem_lanesOf {e : BitVec 16} {l : Fin 16} : l ∈ lanesOf e ↔ e.getLsbD l = true := by simp [lanesOf]

theorem lanesOf_pairwise (e : BitVec 16) : (lanesOf e).Pairwise (· < ·) :=
  (List.pairwise_lt_finRange 16).filter _

theorem eq_zero_of_lanes {m : BitVec 16} (h : ∀ l : Fin 16, m.getLsbD l = false) : m = 0 := by
  apply BitVec.eq_of_getLsbD_eq
  intro i hi
  rw [h ⟨i, hi⟩]
  exact (BitVec.getLsbD_zero).symm

theorem exists_lane {m : BitVec 16} (h : m ≠ 0) : ∃ l : Fin 16, m.getLsbD l = true := by
  by_contra hn
  refine h (eq_zero_of_lanes fun l => ?_)
  rw [← Bool.not_eq_true]
  exact fun hl => hn ⟨l, hl⟩

section
variable (e : BitVec 16) (v : Vector Word 16)

theorem laneSets_lanes {g : Nat × BitVec 16} (h : g ∈ laneSets e v) :
    g.2 ≠ 0 ∧ ∀ l : Fin 16, g.2.getLsbD l = (e.getLsbD l && v[l].toNat == g.1) := by
  obtain ⟨k, hk, rfl⟩ := List.mem_map.1 h
  have hl := fun l : Fin 16 => maskOf_getLsbD (fun l => e.getLsbD l.val && v[l].toNat == k) l
  refine ⟨fun h0 => ?_, hl⟩
  obtain ⟨l, hm, hv⟩ := List.mem_map.1 (mem_firstSeen.1 hk)
  have h1 := hl l
  rw [show maskOf _ = 0 from h0, mem_lanesOf.1 hm, hv] at h1
  simp at h1

theorem exists_laneSet {l : Fin 16} (h : e.getLsbD l = true) : ∃ g ∈ laneSets e v, g.1 = v[l].toNat :=
  ⟨_, List.mem_map.2 ⟨v[l].toNat, mem_firstSeen.2 (List.mem_map.2 ⟨l, mem_lanesOf.2 h, rfl⟩), rfl⟩, rfl⟩

/-- R90: the sets of lanes stand in the order of their lowest lanes. -/
theorem laneSets_pairwise : (laneSets e v).Pairwise (fun a b =>
    a.1 ≠ b.1 ∧ ∃ l : Fin 16, a.2.getLsbD l = true ∧ ∀ m : Fin 16, m < l → b.2.getLsbD m = false) := by
  refine List.pairwise_map.2 ((firstSeen_pairwise _).imp ?_)
  rintro a b ⟨hne, pre, post, hl, hb⟩
  refine ⟨hne, ?_⟩
  obtain ⟨lp, lq, hlanes, rfl, hq⟩ := List.map_eq_append_iff.1 hl
  obtain ⟨l, lr, rfl, hv, -⟩ := List.map_eq_cons_iff.1 hq
  have hmem : l ∈ lanesOf e := by rw [hlanes]; simp
  refine ⟨l, ?_, fun m hm => ?_⟩
  · rw [maskOf_getLsbD, mem_lanesOf.1 hmem, hv]
    simp
  · rw [maskOf_getLsbD]
    by_contra hn
    simp only [Bool.and_eq_false_iff, not_or, Bool.not_eq_false, beq_iff_eq] at hn
    have hme : m ∈ lp ++ l :: lr := by rw [← hlanes]; exact mem_lanesOf.2 hn.1
    have hsorted := lanesOf_pairwise e
    rw [hlanes] at hsorted
    rcases List.mem_append.1 hme with h | h
    · exact hb (List.mem_map.2 ⟨m, h, hn.2⟩)
    · rcases List.mem_cons.1 h with rfl | h
      · exact lt_irrefl _ hm
      · have := List.rel_of_pairwise_cons (List.pairwise_append.1 hsorted).2.1 h
        exact lt_asymm this hm
end

/-- The index that a lane of a vector register holds. -/
def laneIndex (r : VRow) (l : Fin 16) : Nat := if r.tag = .dead then 0 else r.lanes[l].toNat

theorem rawRead_poison {s : State} {n : Fin 128} (h : (s.getV n).tag = .poison) (b : Bool) :
    s.rawRead b (.v n) = .error (.trap { code := .poison, addr := (s.getV n).paddr }) := by
  simp only [State.rawRead, h]

theorem rawRead_invalid {s : State} {n : Fin 128} (h : (s.getV n).tag = .invalid) : s.rawRead false (.v n) = trapOf .tagmismatch := by
  simp only [State.rawRead, h]
  rfl

theorem rawRead_held {s : State} {n : Fin 128} (h1 : (s.getV n).tag ≠ .poison) (h2 : (s.getV n).tag ≠ .invalid) (b : Bool) :
    ∃ w, s.rawRead b (.v n) = .ok w ∧ ∀ l : Fin 16, w[l].toNat = laneIndex (s.getV n) l := by
  cases ht : (s.getV n).tag with
  | poison => exact absurd ht h1
  | invalid => exact absurd ht h2
  | dead => exact ⟨Vector.replicate 16 0, by simp only [State.rawRead, ht], fun l => by simp [laneIndex, ht]⟩
  | fmt f => exact ⟨(s.getV n).lanes, by simp only [State.rawRead, ht], fun l => by simp [laneIndex, ht]⟩

theorem settled_ok {s : State} (h : s.inFlight s.g s.sp.sid = false) : s.settled = .ok () := by
  rw [State.settled, h]
  rfl

/-- R90: the split of one set of lanes, placed among the others. -/
def State.placeSet (s : State) (ts : List Word) (rets : List DWord) (u : State) (g : Nat × BitVec 16) : State :=
  u.addSplit { u.child g.2 (s.target (ts.getD g.1 0)) with rets := rets }

/-- R90: the return stack of a split that takes a target. -/
def State.setRets (s : State) (i : Instr) (call : Bool) : List DWord := if call then s.nextPc i :: s.sp.rets else s.sp.rets

/-- R90: what a lane-varying branch does once its sets of lanes are known. -/
def State.divideSets (s : State) (i : Instr) (ts : List Word) (call : Bool) (gs : List (Nat × BitVec 16)) : Res Act := do
  need ((if s.sp.lanes &&& ~~~s.exec = 0 then gs.length - 1 else gs.length) ≤ s.room) .splitovf
  need (!(call && s.sp.rets.length ≥ 64)) .stack
  s.settled
  if s.sp.tripped then .ok (.late s)
  else if s.sp.lanes &&& ~~~s.exec ≠ 0 then
    let s' := gs.foldl (s.placeSet ts (s.setRets i call)) s
    .ok (.done { s' with sp := { s'.sp with lanes := s.sp.lanes &&& ~~~s.exec } })
  else match gs with
    | [] => .ok (.done s)
    | g :: rest =>
      let s' := rest.foldl (s.placeSet ts (s.setRets i call)) s
      .ok (.jump { s' with sp := { s'.sp with lanes := g.2, rets := s.setRets i call } } (s.target (ts.getD g.1 0)))

section
variable {s : State} {x : Opnd} {ts : List Word} {i : Instr} {call : Bool}

theorem branchLanes_barred (h : s.sp.handler = true ∨ s.sp.inLoop = true) : branchLanes i x ts call s = trapOf .invop := by
  unfold branchLanes
  cases hh : s.sp.handler with
  | true => rfl
  | false =>
    rw [inLoop_not_true (h.resolve_left (by rw [hh]; decide))]
    rfl

theorem branchLanes_masked (hh : s.sp.handler = false) (hl : s.sp.inLoop = false) (he : s.exec = 0) :
    branchLanes i x ts call s = .ok (.done s) := by
  unfold branchLanes
  rw [hh, inLoop_not_false hl, if_pos he]
  rfl

theorem branchLanes_read (hh : s.sp.handler = false) (hl : s.sp.inLoop = false) (he : s.exec ≠ 0) :
    branchLanes i x ts call s = (do
      let v ← s.rawRead false x
      need ((lanesOf s.exec).all (fun l => v[l].toNat < ts.length)) .brtarget
      s.divideSets i ts call (laneSets s.exec v)) := by
  unfold branchLanes
  rw [hh, inLoop_not_false hl, if_neg he]
  rfl
end

section
variable {s : State} {ts : List Word} {i : Instr} {call : Bool} {gs : List (Nat × BitVec 16)}

theorem divideSets_room (h : s.room < if s.sp.lanes &&& ~~~s.exec = 0 then gs.length - 1 else gs.length) :
    s.divideSets i ts call gs = trapOf .splitovf := by
  unfold State.divideSets
  rw [decide_eq_false (Nat.not_le.2 h)]
  rfl

theorem divideSets_full (h : (if s.sp.lanes &&& ~~~s.exec = 0 then gs.length - 1 else gs.length) ≤ s.room) (hc : call = true)
    (hr : 64 ≤ s.sp.rets.length) : s.divideSets i ts call gs = trapOf .stack := by
  unfold State.divideSets
  rw [decide_eq_true h, hc, decide_eq_true hr]
  rfl

theorem tableCall_room (hr : call = true → s.sp.rets.length < 64) : (call && decide (s.sp.rets.length ≥ 64)) = false := by
  cases call with
  | false => rfl
  | true => simpa using hr rfl

theorem divideSets_falls (h : (if s.sp.lanes &&& ~~~s.exec = 0 then gs.length - 1 else gs.length) ≤ s.room)
    (hr : call = true → s.sp.rets.length < 64) (hf : s.inFlight s.g s.sp.sid = false) (ht : s.sp.tripped = false)
    (hl : s.sp.lanes &&& ~~~s.exec ≠ 0) : s.divideSets i ts call gs =
      .ok (.done { gs.foldl (s.placeSet ts (s.setRets i call)) s with sp :=
        { (gs.foldl (s.placeSet ts (s.setRets i call)) s).sp with lanes := s.sp.lanes &&& ~~~s.exec } }) := by
  unfold State.divideSets
  rw [decide_eq_true h, tableCall_room hr, settled_ok hf, ht, if_pos hl]
  rfl

theorem divideSets_jumps {g : Nat × BitVec 16} {rest : List (Nat × BitVec 16)} (hgs : gs = g :: rest)
    (h : (if s.sp.lanes &&& ~~~s.exec = 0 then gs.length - 1 else gs.length) ≤ s.room)
    (hr : call = true → s.sp.rets.length < 64) (hf : s.inFlight s.g s.sp.sid = false) (ht : s.sp.tripped = false)
    (hl : s.sp.lanes &&& ~~~s.exec = 0) : s.divideSets i ts call gs =
      .ok (.jump { rest.foldl (s.placeSet ts (s.setRets i call)) s with sp :=
        { (rest.foldl (s.placeSet ts (s.setRets i call)) s).sp with lanes := g.2, rets := s.setRets i call } }
        (s.target (ts.getD g.1 0))) := by
  unfold State.divideSets
  rw [decide_eq_true h, tableCall_room hr, settled_ok hf, ht, if_neg (not_not_intro hl), hgs]
  rfl

theorem placeSet_sp (rets : List DWord) (u : State) (g : Nat × BitVec 16) : (s.placeSet ts rets u g).sp = u.sp := rfl

theorem foldl_placeSet_sp (rets : List DWord) (u : State) : (gs.foldl (s.placeSet ts rets) u).sp = u.sp := by
  induction gs generalizing u with
  | nil => rfl
  | cons g gs ih => exact ih _
end

/-- BRT or CALLT with a vector index. -/
def laneBranch (n : Fin 128) (ts : List Word) (call : Bool) : Instr := if call then .callt (.v n) ts else .brt (.v n) ts

theorem laneBranch_exec (s : State) (n : Fin 128) (ts : List Word) (call : Bool) :
    ∃ f, exec (laneBranch n ts call) s = issue (laneBranch n ts call) s f ∧
      f s = branchLanes (laneBranch n ts call) (.v n) ts call s := by
  cases call with
  | false => exact ⟨_, exec_brt .., rfl⟩
  | true =>
    refine ⟨_, exec_callt .., ?_⟩
    cases hl : s.sp.inLoop with
    | false => rfl
    | true => exact (branchLanes_barred (.inr hl)).symm

/-- Settles O10: by the index of the table, and lane by lane. -/
theorem branchTableResults : Obligations.BranchTableResults := by
  refine ⟨fun s x ts hx => branchTable_results hx, ?_⟩
  intro s n ts call i e r v goal rets fall place hr
  obtain ⟨f, hx, hf⟩ := laneBranch_exec s n ts call
  have hrets : s.setRets i call = rets := by
    cases call with
    | false => rfl
    | true => exact congrArg (· :: s.sp.rets) nextPc_callt
  refine ⟨fun h => traps_of_trap hx hr (hf.trans (branchLanes_barred h)),
    fun hh hl he => completes_of_done hx hr (hf.trans (branchLanes_masked hh hl he)), fun hh hl he => ?_⟩
  rw [branchLanes_read hh hl he] at hf
  refine ⟨fun ht => ?_, fun ht => ?_, fun h1 h2 => ?_⟩
  · rw [rawRead_poison ht] at hf
    exact traps_of_trap hx hr hf
  · rw [rawRead_invalid ht] at hf
    exact traps_of_trap hx hr hf
  · obtain ⟨w, hw, hv⟩ := rawRead_held h1 h2 false
    replace hf : f s = (do
        need ((lanesOf s.exec).all (fun l => w[l].toNat < ts.length)) .brtarget
        s.divideSets i ts call (laneSets s.exec w)) := hf.trans (congrArg (· >>= _) hw)
    replace hv : ∀ l : Fin 16, w[l].toNat = v l := hv
    refine ⟨fun ⟨l, hl, hp⟩ => ?_, fun hin => ?_⟩
    · have hall : (lanesOf s.exec).all (fun l => decide (w[l].toNat < ts.length)) = false := by
        rw [List.all_eq_false]
        exact ⟨l, mem_lanesOf.2 hl, by rw [hv, decide_eq_true_eq]; exact Nat.not_lt.2 hp⟩
      rw [hall] at hf
      exact traps_of_trap hx hr hf
    · have hall : (lanesOf s.exec).all (fun l => decide (w[l].toNat < ts.length)) = true := by
        rw [List.all_eq_true]
        exact fun l hl => by rw [hv, decide_eq_true_eq]; exact hin l (mem_lanesOf.1 hl)
      rw [hall] at hf
      replace hf : f s = s.divideSets i ts call (laneSets s.exec w) := hf
      refine ⟨laneSets s.exec w, fun g hg => ?_, fun l hl => ?_, laneSets_pairwise _ _, fun hroom => ?_, fun hroom hc h64 => ?_,
        fun hroom hc hfl ht => ?_⟩
      · simpa only [hv] using laneSets_lanes _ w hg
      · simpa only [hv] using exists_laneSet _ w hl
      · exact traps_of_trap hx hr (hf.trans (divideSets_room hroom))
      · exact traps_of_trap hx hr (hf.trans (divideSets_full hroom hc h64))
      · refine ⟨fun hne => ?_, fun g rest h0 hg => ?_⟩
        · rw [divideSets_falls hroom hc hfl ht hne, hrets, foldl_placeSet_sp] at hf
          exact completes_of_done hx hr hf
        · rw [divideSets_jumps hg hroom hc hfl ht h0, hrets, foldl_placeSet_sp] at hf
          exact jumps_of_jump hx hr hf

/-! ### Counted loops -/

theorem wordCount_of_branchForm {i : Instr} (hb : i.branchForm = true) : wordCount i = i.len := by
  unfold Instr.len
  cases i <;> cases hb
  case br | brc | call | loops | bsplit => rfl
  case brt x ts | callt x ts => exact (Nat.add_comm 1 (ts.length + 1)).symm ▸ (Nat.add_comm 2 ts.length)

theorem wordCount_of_operands {i : Instr} (hb : i.branchForm = false) :
    wordCount i = if i.slots.any (fun sl => sl.o.kind == .lit) then 2 else 1 := by
  have hlit : (fun sl : OSlot => match sl.o with | .lit _ => true | _ => false) = fun sl => sl.o.kind == .lit :=
    funext fun sl => by cases sl.o <;> rfl
  rw [← hlit]
  cases i <;> cases hb <;> rfl

/-- R27: the length of an instruction that passes the checks of R30. -/
theorem wordCount_eq_len {i : Instr} (ha : i.accepted = true) : wordCount i = i.len := by
  cases hb : i.branchForm with
  | true => exact wordCount_of_branchForm hb
  | false =>
    obtain ⟨-, hl, -⟩ := (Instr.accepted_iff i).1 ha
    rw [wordCount_of_operands hb, Instr.len, Instr.length_ext hb]
    unfold Instr.lits at hl ⊢
    split
    · rename_i h
      obtain ⟨sl, hsl, hk⟩ := List.any_eq_true.1 h
      have := List.length_pos_of_mem (List.mem_filter (p := fun sl : OSlot => sl.o.kind == .lit).2 ⟨hsl, hk⟩)
      omega
    · rename_i h
      rw [List.filter_eq_nil_iff.2 (fun sl hsl hk => h (List.any_eq_true.2 ⟨sl, hsl, hk⟩))]
      rfl

/-- R91: how many of the words that an instruction of a body could have are its own. -/
def bodyCount (ws : List Word) : Nat :=
  match decode ws with
  | .ok (i, _) => if i.accepted && !alwaysInvop i then wordCount i else 1
  | .error _ => 1

theorem bodyWords_eq (ws : List Word) : bodyWords ws = ws.take (bodyCount ws) := by
  unfold bodyWords bodyCount
  cases decode ws with
  | error e => rfl
  | ok r =>
    dsimp only
    split
    · rename_i h
      rw [wordCount_eq_len (Bool.and_eq_true_iff.1 h).1]
    · rfl

theorem measure_fails {s : State} {pc : DWord} {e : Stop} (h : s.fetchWords pc = .error e) (n : Nat) :
    s.measure pc (n + 1) = .error e := by
  rw [State.measure, h]
  rfl

theorem measure_step {s u t : State} {pc : DWord} {ws rest : List Word} {n : Nat} (h : s.fetchWords pc = .ok (u, ws))
    (hm : u.measure (pc + BitVec.ofNat 64 (4 * (ws.take (bodyCount ws)).length)) n = .ok (t, rest)) :
    s.measure pc (n + 1) = .ok (t, ws.take (bodyCount ws) ++ rest) := by
  rw [State.measure, h, ← bodyWords_eq]
  rw [← bodyWords_eq] at hm
  show (u.measure (pc + BitVec.ofNat 64 (4 * (bodyWords ws).length)) n >>= fun t => Except.ok (t.1, bodyWords ws ++ t.2)) = _
  rw [hm]
  rfl

section
variable {s t : State} {x : Opnd} {len : Word} {ws : List Word}

theorem loops_inLoop (h : s.ready (.loops x len) = true) (hl : s.sp.inLoop = true) :
    Traps (.loops x len) s (trapCode .invop) := by
  refine traps_of_trap (exec_loops ..) h ?_
  rw [inLoop_not_true hl]
  rfl

theorem loops_passes (h : s.ready (.loops x len) = true) (hl : s.sp.inLoop = false)
    (hm : s.measure (s.sp.pc + 8) len.toNat = .ok (t, ws)) (h0 : t.sval x = 0) :
    Jumps (.loops x len) s t (s.sp.pc + 8 + BitVec.ofNat 64 (4 * ws.length)) := by
  refine jumps_of_jump (exec_loops ..) h ?_
  rw [inLoop_not_false hl]
  show (s.measure (s.sp.pc + 8) len.toNat >>= _) = _
  rw [hm]
  exact if_pos (congrArg BitVec.toNat h0)

theorem loops_enters (h : s.ready (.loops x len) = true) (hl : s.sp.inLoop = false)
    (hm : s.measure (s.sp.pc + 8) len.toNat = .ok (t, ws)) (h0 : t.sval x ≠ 0) :
    Jumps (.loops x len) s { t with sp := { t.sp with
        loop := some ⟨(t.sval x).toNat, s.sp.pc + 8, s.sp.pc + 8 + BitVec.ofNat 64 (4 * ws.length), ws⟩ } } (s.sp.pc + 8) := by
  refine jumps_of_jump (exec_loops ..) h ?_
  rw [inLoop_not_false hl]
  show (s.measure (s.sp.pc + 8) len.toNat >>= _) = _
  rw [hm]
  exact if_neg fun h => h0 (BitVec.eq_of_toNat_eq h)
end

/-- Settles O11: the measure one instruction at a time, then LOOPS by the count that it reads after it. -/
theorem countedLoops : Obligations.CountedLoops := by
  constructor
  · intro s pc n
    refine ⟨rfl, fun e h => measure_fails h n, fun u ws h => ?_⟩
    intro k t rest hm
    exact measure_step h hm
  · intro s x len t ws start stop
    exact ⟨loops_inLoop, loops_passes, loops_enters⟩

end Sys2Proof.Machine
end

section
/-!
PROOFS. The system instructions TRAP, BKPT, SYSC, RFT and TIME (R97 to R99, R102).
-/

namespace Sys2Proof.Machine

open Sys2Proof Sys2Proof.Laws

section
variable {s : State} {x : Opnd} {c : Byte} {sb : Bool}

theorem trap_traps (h : s.ready (.trap x c) = true) :
    Traps (.trap x c) s { code := .user, addr := BitVec.ofNat 64 (s.sval x).toNat, detail := c } :=
  traps_of_trap (exec_trap ..) h (by rw [setWidth_eq_ofNat])

theorem bkpt_traps (h : s.ready (.bkpt c) = true) : Traps (.bkpt c) s { code := .bkpt, detail := c } :=
  traps_of_trap (exec_bkpt ..) h rfl

theorem sysc_parks (h : s.ready (.sysc x) = true) : Parks (.sysc x) s s (.sysc (s.sval x)
    [s.getS 0, s.getS 1, s.getS 2, s.getS 3, s.getS 4, s.getS 5, s.getS 6, s.getS 7]) :=
  parks_of_park (exec_sysc ..) h rfl

theorem undefined_traps (h : s.running = true) : TrapsAtDecode .undefinedEncoding s (trapCode .invop) := by
  rw [TrapsAtDecode, exec_undefinedEncoding]
  exact if_pos h

/-- R98: RFT outside a handler, whether the group has a handler split elsewhere or none. -/
theorem rft_traps (h : s.ready .rft = true) (hh : s.sp.handler = false) : Traps .rft s (trapCode .invop) := by
  refine traps_of_trap (exec_rft ..) h ?_
  cases s.g.handler with
  | none => rfl
  | some hs => rw [hh]; rfl

theorem le_countOn (n k : Nat) : n ≤ countOn n k := by
  unfold countOn
  split <;> omega

theorem time_base (h : s.ready (.time sb x 0xF8) = true) : ∃ now, s.time ≤ now ∧
    Completes (.time sb x 0xF8) s (({ s with time := now } : State).wD x (BitVec.ofNat 64 now)) :=
  ⟨countOn s.time (s.free .timeBase 0), le_countOn .., completes_of_ok (exec_time ..) h (if_pos rfl)⟩

theorem time_cycles (h : s.ready (.time sb x 0xFB) = true) :
    Completes (.time sb x 0xFB) s ((s.cycle s.g.core).wD x (BitVec.ofNat 64 ((s.cycle s.g.core).core? s.g.core).cycles)) :=
  completes_of_ok (exec_time ..) h rfl
end

/-- Settles O22: the answer of each instruction's body. -/
theorem systemResults : Obligations.SystemResults :=
  ⟨fun _ _ _ => ⟨trap_traps, bkpt_traps, sysc_parks, undefined_traps, rft_traps⟩,
    fun s _ _ => ⟨time_base, fun h => ⟨s.cycle s.g.core, rfl, time_cycles h⟩⟩⟩

end Sys2Proof.Machine
end

section
/-!
PROOFS. BSPLIT and the families of join entries (R86, R87).
-/

namespace Sys2Proof.Machine

open Sys2Proof Sys2Proof.Laws

/-! ### A family that no join stack holds -/

theorem ofNat_add_injOn {n : Nat} (start : Nat) (hn : n ≤ 2 ^ 16) :
    ∀ a ∈ List.range n, ∀ b ∈ List.range n, BitVec.ofNat 16 (start + a) = BitVec.ofNat 16 (start + b) → a = b := by
  intro a ha b hb h
  have h := congrArg BitVec.toNat h
  simp only [BitVec.toNat_ofNat] at h
  rw [List.mem_range] at ha hb
  omega

/-- Among one more than as many consecutive numbers as are taken, one is not taken. -/
theorem exists_untaken (used : List (BitVec 16)) (start : Nat) (hn : used.length < 2 ^ 16) :
    ∃ f ∈ (List.range (used.length + 1)).map (fun k => BitVec.ofNat 16 (start + k)), f ∉ used := by
  by_contra hall
  push Not at hall
  have hnodup := (List.nodup_range (n := used.length + 1)).map_on (ofNat_add_injOn start hn)
  have := (hnodup.subperm hall).length_le
  simp at this

theorem freshFamily_notMem {s : State} (hn : (s.allSplits.flatMap (·.joins)).length < 2 ^ 16) :
    ∀ p ∈ s.allSplits, ∀ e ∈ p.joins, e.2 ≠ s.freshFamily := by
  have hlen : (s.allSplits.flatMap (fun p => p.joins.map (·.2))).length = (s.allSplits.flatMap (·.joins)).length := by
    simp only [List.length_flatMap, List.length_map]
  obtain ⟨f, hf, hu⟩ := exists_untaken (s.allSplits.flatMap (fun p => p.joins.map (·.2))) (s.free .family 0) (hlen ▸ hn)
  obtain ⟨g, hg⟩ := Option.isSome_iff_exists.1 (List.find?_isSome
    (p := fun f => !((s.allSplits.flatMap (fun p => p.joins.map (·.2))).contains f)) |>.2
    ⟨f, hf, by simpa only [List.contains_iff_mem, Bool.not_eq_true', ← Bool.not_eq_true] using hu⟩)
  have hfresh : s.freshFamily = g := by
    unfold State.freshFamily
    dsimp only
    rw [hg]
    rfl
  have hnot := List.find?_some hg
  intro p hp e he heq
  rw [hfresh] at heq
  have : g ∈ s.allSplits.flatMap (fun p => p.joins.map (·.2)) :=
    List.mem_flatMap.2 ⟨p, hp, List.mem_map.2 ⟨e, he, heq⟩⟩
  simp [this] at hnot

/-! ### BSPLIT -/

/-- R86: the issuing split with the join entry of a BSPLIT that joins at the offset `join`. -/
def State.withJoin (s : State) (join : Word) : State :=
  { s with sp := { s.sp with joins := (s.target join, s.freshFamily) :: s.sp.joins } }

/-- R86: how BSPLIT ends once no check has stopped it. -/
def State.bsplitAct (s : State) (x : Opnd) (tgt join : Word) : Act :=
  let t := s.exec &&& s.pval x
  let rest := s.sp.lanes &&& ~~~t
  let s1 := s.withJoin join
  if t = 0 then .done s1
  else if rest = 0 then .jump s1 (s.target tgt)
  else .done { s1.addSplit (s1.child t (s.target tgt)) with sp := { s1.sp with lanes := rest } }

section
variable {s : State} {x : Opnd} {tgt join : Word}

theorem bsplit_barred (h : s.ready (.bsplit x tgt join) = true) (hb : s.sp.handler = true ∨ s.sp.inLoop = true) :
    Traps (.bsplit x tgt join) s (trapCode .invop) := by
  refine traps_of_trap (exec_bsplit ..) h ?_
  cases hh : s.sp.handler with
  | true => rfl
  | false => rw [hb.resolve_left (by rw [hh]; decide)]; rfl

variable (hh : s.sp.handler = false) (hl : s.sp.inLoop = false)
include hh hl

theorem bsplit_deep (h : s.ready (.bsplit x tgt join) = true) (hj : 16 ≤ s.sp.joins.length) :
    Traps (.bsplit x tgt join) s (trapCode .splitovf) := by
  refine traps_of_trap (exec_bsplit ..) h ?_
  rw [hh, hl, decide_eq_false (Nat.not_lt.2 hj)]
  rfl

variable (hj : s.sp.joins.length < 16)
include hj

theorem bsplit_full (h : s.ready (.bsplit x tgt join) = true) (ht : s.exec &&& s.pval x ≠ 0)
    (hr : s.sp.lanes &&& ~~~(s.exec &&& s.pval x) ≠ 0) (h0 : s.room = 0) : Traps (.bsplit x tgt join) s (trapCode .splitovf) := by
  refine traps_of_trap (exec_bsplit ..) h ?_
  have hb : (!(s.exec &&& s.pval x != 0 && s.sp.lanes &&& ~~~(s.exec &&& s.pval x) != 0 && s.room == 0)) = false := by
    rw [bne_iff_ne.2 ht, bne_iff_ne.2 hr, h0]
    rfl
  rw [hh, hl, decide_eq_true hj]
  show (need (!(s.exec &&& s.pval x != 0 && s.sp.lanes &&& ~~~(s.exec &&& s.pval x) != 0 && s.room == 0)) .splitovf >>= _) = _
  rw [hb]
  rfl

/-- R86: what BSPLIT does once no check has stopped it. -/
theorem bsplit_divides (hroom : s.exec &&& s.pval x ≠ 0 → s.sp.lanes &&& ~~~(s.exec &&& s.pval x) ≠ 0 → s.room ≠ 0)
    (hf : s.inFlight s.g s.sp.sid = false) (ht : s.sp.tripped = false) :
    ∃ f, exec (.bsplit x tgt join) s = issue (.bsplit x tgt join) s f ∧ f s = .ok (s.bsplitAct x tgt join) := by
  refine ⟨_, exec_bsplit .., ?_⟩
  have hb : (!(s.exec &&& s.pval x != 0 && s.sp.lanes &&& ~~~(s.exec &&& s.pval x) != 0 && s.room == 0)) = true := by
    rw [Bool.not_eq_true', ← Bool.not_eq_true]
    simp only [Bool.and_eq_true, bne_iff_ne, beq_iff_eq, not_and, and_imp]
    exact hroom
  rw [hh, hl, decide_eq_true hj]
  show (need (!(s.exec &&& s.pval x != 0 && s.sp.lanes &&& ~~~(s.exec &&& s.pval x) != 0 && s.room == 0)) .splitovf >>= _) = _
  rw [hb, settled_ok hf, ht]
  unfold State.bsplitAct
  dsimp only
  by_cases h0 : s.exec &&& s.pval x = 0
  · rw [if_pos h0, if_pos h0]
    rfl
  · rw [if_neg h0, if_neg h0]
    by_cases h1 : s.sp.lanes &&& ~~~(s.exec &&& s.pval x) = 0
    · rw [if_pos h1, if_pos h1]
      rfl
    · rw [if_neg h1, if_neg h1]
      rfl
end

/-- Settles O12: each outcome of BSPLIT, and the family by counting those in use. -/
theorem divisionResults : Obligations.DivisionResults := by
  intro s x tgt join
  refine ⟨bsplit_barred, fun h hh hl hj => bsplit_deep hh hl h hj, fun h hh hl hj => bsplit_full hh hl hj h,
    fun h hh hl hj hf ht h0 => ?_, fun h hh hl hj hf ht h0 h1 => ?_, fun h hh hl hj hf ht h0 h1 hr => ?_,
    ⟨rfl, rfl, rfl, rfl, rfl, rfl, rfl⟩, freshFamily_notMem⟩
  · obtain ⟨f, hx, hs⟩ := bsplit_divides (x := x) (tgt := tgt) (join := join) hh hl hj (fun hn => absurd h0 hn) hf ht
    exact completes_of_done hx h (hs.trans (congrArg Except.ok (if_pos h0)))
  · obtain ⟨f, hx, hs⟩ := bsplit_divides (x := x) (tgt := tgt) (join := join) hh hl hj (fun _ hn => absurd h1 hn) hf ht
    exact jumps_of_jump hx h (hs.trans (congrArg Except.ok ((if_neg h0).trans (if_pos h1))))
  · obtain ⟨f, hx, hs⟩ := bsplit_divides (x := x) (tgt := tgt) (join := join) hh hl hj (fun _ _ => hr) hf ht
    exact completes_of_done hx h (hs.trans (congrArg Except.ok ((if_neg h0).trans (if_neg h1))))

end Sys2Proof.Machine
end

section
/-!
PROOFS. The privilege of CSRs and what CSRW writes (R55, R100, R101, R145, R184, R190, R194, R320, R366, R411).
-/

namespace Sys2Proof.Machine

open Sys2Proof Sys2Proof.Laws

/-! ### How CSRR and CSRW end by what the CSR answers -/

section
variable {s t : State} {sb : Bool} {x : Opnd} {n : BitVec 16}

theorem csrr_traps {e : TrapReq} (hr : s.ready (.csrr sb x n) = true) (h : s.csrRead n.toNat = .error (.trap e)) :
    Traps (.csrr sb x n) s e := by
  refine traps_of_error (exec_csrr ..) hr ?_
  rw [h]
  rfl

theorem csrw_completes (hr : s.ready (.csrw sb x n) = true) (h : s.csrWrite n.toNat (s.sval x) = .ok (.done t)) :
    Completes (.csrw sb x n) s t := completes_of_done (exec_csrw ..) hr h

theorem csrw_traps {e : TrapReq} (hr : s.ready (.csrw sb x n) = true)
    (h : s.csrWrite n.toNat (s.sval x) = .error (.trap e)) : Traps (.csrw sb x n) s e := traps_of_trap (exec_csrw ..) hr h
end

/-! ### The registers of the handler -/

section
variable {s : State} {h : HandlerSt} {n : Nat} {v : Word}

theorem handlerReg_outside (hs : s.sp.handler = false) (f : HandlerSt → Word) : s.handlerReg f = trapOf .invop := by
  unfold State.handlerReg
  cases s.g.handler with
  | none => rfl
  | some h => rw [hs]; rfl

theorem handlerReg_inside (hs : s.sp.handler = true) (hh : s.g.handler = some h) (f : HandlerSt → Word) :
    s.handlerReg f = .ok (f h) := by
  rw [State.handlerReg, hh]
  exact if_pos hs

theorem actWrite_outside (hs : s.sp.handler = false) : s.actWrite v = trapOf .invop := by
  unfold State.actWrite
  cases s.g.handler with
  | none => rfl
  | some h => rw [hs]; rfl

theorem csrRead_record (h : n < 16) :
    s.csrRead (0x0410 + n) = s.handlerReg (fun h => h.record.extractLsb' (32 * n) 32) := by
  unfold State.csrRead
  repeat rw [if_neg (by omega)]
  rw [if_pos (by omega), Nat.add_sub_cancel_left]

theorem csrWrite_record (h : n < 16) :
    s.csrWrite (0x0410 + n) v = (s.handlerReg (fun _ => 0)).map (fun _ => Act.done s) := by
  have hro : ∀ n < 16, csrReadOnly (0x0410 + n) = false := by decide
  unfold State.csrWrite
  rw [hro n h, if_neg (by decide)]
  repeat rw [if_neg (by omega)]
  rw [if_pos (by omega)]

theorem csrRead_outside (hs : s.sp.handler = false) (hl : 0x0410 ≤ n) (hu : n ≤ 0x0420) : s.csrRead n = trapOf .invop := by
  rcases Nat.lt_or_ge n 0x0420 with hn | hn
  · obtain ⟨w, rfl⟩ := Nat.exists_eq_add_of_le hl
    rw [csrRead_record (by omega), handlerReg_outside hs]
  · obtain rfl : n = 0x0420 := by omega
    exact handlerReg_outside hs _

theorem csrWrite_outside (hs : s.sp.handler = false) (hl : 0x0410 ≤ n) (hu : n ≤ 0x0420) : s.csrWrite n v = trapOf .invop := by
  rcases Nat.lt_or_ge n 0x0420 with hn | hn
  · obtain ⟨w, rfl⟩ := Nat.exists_eq_add_of_le hl
    rw [csrWrite_record (by omega), handlerReg_outside hs]
    rfl
  · obtain rfl : n = 0x0420 := by omega
    exact actWrite_outside hs

theorem field_low (v : Word) : field v 1 0 = v.toNat % 4 := by
  rw [field, BitVec.extractLsb'_toNat, Nat.shiftRight_zero]

theorem actWrite_takes (hs : s.sp.handler = true) (hh : s.g.handler = some h) (hv : v.toNat % 4 ≠ 3) :
    s.actWrite v = .ok (.done { s with g := { s.g with handler := some { h with act := BitVec.ofNat 2 v.toNat } } }) := by
  rw [State.actWrite, hh, hs, field_low]
  exact if_neg (by simpa using hv)

theorem actWrite_three (hs : s.sp.handler = true) (hh : s.g.handler = some h) (hv : v.toNat % 4 = 3) :
    s.actWrite v = trapOf .invop := by
  rw [State.actWrite, hh, hs, field_low]
  exact if_pos (by simpa using hv)
end

/-! ### Numbers that are no CSR, and registers that are read-only -/

theorem csrRead_undefined {s : State} {n : Nat}
    (h : n ∈ [0x0000, 0x0004, 0x0013, 0x0022, 0x0031, 0x0042, 0x01FF, 0x0300, 0x03FF, 0x040A, 0x040F, 0x0422, 0xFFFF]) :
    s.csrRead n = trapOf .invop := by
  simp only [List.mem_cons, List.not_mem_nil, or_false] at h
  rcases h with rfl | rfl | rfl | rfl | rfl | rfl | rfl | rfl | rfl | rfl | rfl | rfl | rfl <;> rfl

theorem csrWrite_undefined {s : State} {n : Nat} {v : Word}
    (h : n ∈ [0x0000, 0x0004, 0x0013, 0x0022, 0x0031, 0x0042, 0x01FF, 0x0300, 0x03FF, 0x040A, 0x040F, 0x0422, 0xFFFF]) :
    s.csrWrite n v = trapOf .invop := by
  simp only [List.mem_cons, List.not_mem_nil, or_false] at h
  rcases h with rfl | rfl | rfl | rfl | rfl | rfl | rfl | rfl | rfl | rfl | rfl | rfl | rfl <;> rfl

theorem csrWrite_readOnly {s : State} {n : Nat} {v : Word} (h : csrReadOnly n = true) : s.csrWrite n v = .ok (.done s) :=
  if_pos h

/-! ### Grants: the locality registers and CELLAR.CARVE -/

section
variable {s : State} {t : Tenant} {v : Word} {f : Tenant → Tenant}

theorem locWrite_granted (h : s.granted 1 = true) : s.locWrite f = .ok (.done (s.updTenant s.g.tenant f)) := if_pos h
theorem locWrite_barred (h : s.granted 1 = false) : s.locWrite f = trapOf .perm := if_neg (by rw [h]; decide)

theorem carveWrite_barred (h : s.granted 0 = false) : s.carveWrite v = trapOf .perm := by
  unfold State.carveWrite
  rw [h]
  rfl

variable (ht : s.tenant? s.g.tenant = some t) (hg : s.granted 0 = true)
include ht hg

theorem carveWrite_outside (h : (v.extractLsb' 16 16 ||| v.extractLsb' 0 16) &&& ~~~(vget t.allot (s.g.core / 128) 0) ≠ 0) :
    s.carveWrite v = trapOf .perm := by
  rw [State.carveWrite, hg, ht]
  exact if_pos h

variable (hin : (v.extractLsb' 16 16 ||| v.extractLsb' 0 16) &&& ~~~(vget t.allot (s.g.core / 128) 0) = 0)
include hin

theorem carveWrite_overlap (h : v.extractLsb' 16 16 &&& v.extractLsb' 0 16 ≠ (0 : BitVec 16)) :
    s.carveWrite v = trapOf .invop := by
  rw [State.carveWrite, hg, ht]
  exact (if_neg (not_not_intro hin)).trans (if_pos h)

variable (h : v.extractLsb' 16 16 &&& v.extractLsb' 0 16 = (0 : BitVec 16))
include h

theorem carveWrite_takes (hc : (s.tdie? s.g.tenant (s.g.core / 128)).change = none) : s.carveWrite v =
    .ok (.done (s.updTdie s.g.tenant (s.g.core / 128) (fun t => { t with change := some (v.extractLsb' 16 16, v.extractLsb' 0 16) }))) := by
  rw [State.carveWrite, hg, ht]
  refine (if_neg (not_not_intro hin)).trans ((if_neg (not_not_intro h)).trans (if_neg ?_))
  rw [State.myDie, State.here, dieOf, hc]
  decide

theorem carveWrite_waits (hc : (s.tdie? s.g.tenant (s.g.core / 128)).change ≠ none) :
    s.carveWrite v = .ok (.park s (.carve (s.g.core / 128))) := by
  rw [State.carveWrite, hg, ht]
  refine (if_neg (not_not_intro hin)).trans ((if_neg (not_not_intro h)).trans (if_pos ?_))
  exact Option.isSome_iff_ne_none.2 hc
end

/-! ### STATUS -/

section
variable {s : State} {v : Word}

/-- No window owes STATUS a bit or has one that may still read 0. -/
def StatusMade (s : State) : Prop := ∀ p ∈ s.allSplits, p.wstatus = [] ∧ p.wfresh = 0

theorem settings_made (h : StatusMade s) (i : Nat) : s.settings i = [] := by
  refine List.flatMap_eq_nil_iff.2 fun p hp => ?_
  rw [(h p (List.mem_filter.1 hp).1).1]
  rfl

/-- R101: what `settingsGone` does to one split. -/
def Split.settingGone (i : Nat) (gone : List (Nat × Nat)) (fresh : Nat → Bool) (p : Split) : Split :=
  { p with wstatus := p.wstatus.zipIdx.map (fun b => if gone.contains (p.sid, b.2) then b.1 &&& ~~~BitVec.ofNat 4 (2 ^ i) else b.1),
           wfresh := if fresh p.sid then p.wfresh ||| BitVec.ofNat 4 (2 ^ i) else p.wfresh &&& ~~~BitVec.ofNat 4 (2 ^ i) }

theorem settingsGone_eq (s : State) (i : Nat) (gone : List (Nat × Nat)) (fresh : Nat → Bool) :
    s.settingsGone i gone fresh = { s with sp := s.sp.settingGone i gone fresh,
                                           g := { s.g with splits := s.g.splits.map (·.settingGone i gone fresh) } } := rfl

theorem settingGone_made {p : Split} (hw : p.wstatus = []) (hf : p.wfresh = 0) (i : Nat) :
    p.settingGone i [] (fun _ => false) = p := by
  cases p
  cases hw
  cases hf
  simp [Split.settingGone]

theorem settingsGone_made (h : StatusMade s) (i : Nat) : s.settingsGone i [] (fun _ => false) = s := by
  have hp : ∀ p ∈ s.allSplits, p.settingGone i [] (fun _ => false) = p := fun p hp =>
    settingGone_made (h p hp).1 (h p hp).2 i
  rw [settingsGone_eq, hp s.sp (.head _), List.map_congr_left (g := id) (fun p hm => hp p (.tail _ hm)), List.map_id]

theorem bitClear_made (h : StatusMade s) (hm : ∀ t, s.g.smixAt = some t → t < s.cycleAt) (i : Nat) :
    s.bitClear i = { s with g := { s.g with status := s.g.status &&& ~~~BitVec.ofNat 4 (2 ^ i) } } := by
  have hmix : s.g.smixAt.any (fun t => s.cycleAt ≤ t) = false := by
    cases hs : s.g.smixAt with
    | none => rfl
    | some t => simpa using hm t hs
  have hgone := settingsGone_made h i
  unfold State.bitClear
  simp only [settings_made h, hmix, List.filter_nil, List.any_nil, List.isEmpty_nil, Bool.false_and, Bool.not_false, Bool.not_true,
    Bool.and_false, Bool.or_self, Bool.false_eq_true, if_false, hgone]

/-- R101: the four bits of STATUS, each cleared where it is set and a 1 is written. -/
def clearBits (v : Word) (l : List Nat) (st : BitVec 4) : BitVec 4 :=
  l.foldl (fun st i => if st.getLsbD i && v.getLsbD i then st &&& ~~~BitVec.ofNat 4 (2 ^ i) else st) st

theorem foldl_bitClear (v : Word) (l : List Nat) (s : State) (h : StatusMade s)
    (hm : ∀ t, s.g.smixAt = some t → t < s.cycleAt) :
    l.foldl (fun s i => if s.g.status.getLsbD i && v.getLsbD i then s.bitClear i else s) s =
      { s with g := { s.g with status := clearBits v l s.g.status } } := by
  induction l generalizing s with
  | nil => rfl
  | cons i l ih =>
    rw [List.foldl_cons, clearBits, List.foldl_cons]
    by_cases hb : (s.g.status.getLsbD i && v.getLsbD i) = true
    · rw [if_pos hb, if_pos hb, bitClear_made h hm]
      exact ih _ h hm
    · rw [if_neg hb, if_neg hb]
      exact ih s h hm

theorem statusClear_made (h : StatusMade s) (hm : ∀ t, s.g.smixAt = some t → t < s.cycleAt) :
    s.statusClear v = { s with g := { s.g with status := clearBits v (List.range 4) s.g.status } } :=
  foldl_bitClear v _ s h hm

theorem clearBits_getLsbD (v : Word) (l : List Nat) (st : BitVec 4) {j : Nat} (hj : j < 4) :
    (clearBits v l st).getLsbD j = (st.getLsbD j && !(v.getLsbD j && decide (j ∈ l))) := by
  induction l generalizing st with
  | nil => simp [clearBits]
  | cons i l ih =>
    have hbit : (BitVec.ofNat 4 (2 ^ i)).getLsbD j = decide (i = j) := by
      rw [BitVec.getLsbD_ofNat, Nat.testBit_two_pow, decide_eq_true hj, Bool.true_and]
    have hstep : (if st.getLsbD i && v.getLsbD i then st &&& ~~~BitVec.ofNat 4 (2 ^ i) else st).getLsbD j =
        (st.getLsbD j && !(v.getLsbD j && decide (j = i))) := by
      rw [apply_ite (BitVec.getLsbD · j), BitVec.getLsbD_and, BitVec.getLsbD_not, hbit, decide_eq_true hj, Bool.true_and]
      by_cases hij : j = i
      · subst hij
        cases st.getLsbD j <;> cases v.getLsbD j <;> simp
      · simp [hij, Ne.symm hij]
    rw [clearBits, List.foldl_cons]
    refine (ih _).trans ?_
    rw [hstep]
    cases st.getLsbD j <;> cases v.getLsbD j <;> simp
end

/-! ### SR.SEED -/

theorem seedWrite_eq (s : State) (v : Word) : s.seedWrite v = { s with g := { s.g with lfsr := Vector.ofFn (fun l =>
    if s.exec.getLsbD l.val then lfsrFix (v + BitVec.ofNat 32 (l.val * 0x9E3779B9)) else s.g.lfsr[l]) } } := by
  unfold State.seedWrite State.setLfsr
  rfl

theorem seeds_lane (s : State) (v : Word) (l : Fin 16) : (Vector.ofFn (fun l : Fin 16 =>
    if s.exec.getLsbD l.val then lfsrFix (v + BitVec.ofNat 32 (l.val * 0x9E3779B9)) else s.g.lfsr[l]))[l] =
    if s.exec.getLsbD l = false then s.g.lfsr[l]
    else if v + BitVec.ofNat 32 (l.val * 0x9E3779B9) = 0 then 1 else v + BitVec.ofNat 32 (l.val * 0x9E3779B9) := by
  simp only [Fin.getElem_fin, Vector.getElem_ofFn, lfsrFix]
  cases s.exec.getLsbD l
  · simp
  · simp only [if_true, Bool.true_eq_false, if_false]

/-! ### Bytes that reach their place -/

/-- Of `s` to `t` nothing but bytes, their poison, their tags and the lines that hold them differ. -/
def BytesOnly (s t : State) : Prop :=
  ∃ m p tg l, t = { s with mem := m, poison := p, tags := tg, l2d := l }

theorem BytesOnly.refl (s : State) : BytesOnly s s := ⟨s.mem, s.poison, s.tags, s.l2d, rfl⟩

theorem BytesOnly.trans {s t u : State} (h1 : BytesOnly s t) (h2 : BytesOnly t u) : BytesOnly s u := by
  obtain ⟨_, _, _, _, rfl⟩ := h1
  obtain ⟨m, p, tg, l, rfl⟩ := h2
  exact ⟨m, p, tg, l, rfl⟩

theorem BytesOnly.foldl {α : Type} {f : State → α → State} (hf : ∀ s a, BytesOnly s (f s a)) (l : List α) (s : State) :
    BytesOnly s (l.foldl f s) := by
  induction l generalizing s with
  | nil => exact .refl s
  | cons a l ih => exact (hf s a).trans (ih _)

theorem keepOld_bytesOnly (s : State) (k : Nat) : BytesOnly s (s.keepOld k) := by
  unfold State.keepOld
  split
  · exact ⟨_, _, _, _, rfl⟩
  · exact .refl s

theorem clearPoison_bytesOnly (s : State) (k n : Nat) : BytesOnly s (s.clearPoison k n) := by
  unfold State.clearPoison
  split
  · exact .refl s
  · exact ⟨_, _, _, _, rfl⟩

theorem clearTags_bytesOnly (s : State) (k n : Nat) : BytesOnly s (s.clearTags k n) := by
  unfold State.clearTags
  split
  · exact .refl s
  · exact ⟨_, _, _, _, rfl⟩

theorem l2Fit_bytesOnly (s : State) (k : Nat) : BytesOnly s (s.l2Fit k) := by
  unfold State.l2Fit
  dsimp only
  repeat' split
  · exact .refl s
  · exact .refl s
  · exact ⟨_, _, _, _, rfl⟩

theorem l2Settle_bytesOnly (s : State) (k n : Nat) : BytesOnly s (s.l2Settle k n) := by
  unfold State.l2Settle
  split
  · exact .refl s
  · exact .foldl (fun s _ => l2Fit_bytesOnly s _) _ s

theorem place_bytesOnly (s : State) (k : Nat) (bs : List Byte) : BytesOnly s (s.place k bs) := by
  have hold : BytesOnly s ((List.range bs.length).foldl (fun s i => s.keepOld (k + i)) s) :=
    .foldl (fun s _ => keepOld_bytesOnly s _) _ s
  refine .trans (.trans (.trans hold ?_) (clearPoison_bytesOnly _ k bs.length)) (l2Settle_bytesOnly _ k bs.length)
  exact ⟨_, _, _, _, rfl⟩

theorem placePlain_bytesOnly (s : State) (k : Nat) (bs : List Byte) : BytesOnly s (s.placePlain k bs) :=
  (place_bytesOnly s k bs).trans (clearTags_bytesOnly _ k bs.length)

/-- A store of a core to its own scratch leaves everything but bytes. -/
theorem writeLoc_near_bytesOnly (s : State) (core k : Nat) (va : DWord) (h : Option Nat) (bs : List Byte) :
    BytesOnly s (s.writeLoc core ⟨k, va, .near, h⟩ bs) :=
  .foldl (fun s _ => placePlain_bytesOnly s _ _) _ s

theorem storeUnit_near_g (s : State) (prior : List (Nat × List Byte)) (k : Nat) (va : DWord) (h : Option Nat) (bs : List Byte) :
    (s.storeUnit prior ⟨k, va, .near, h⟩ bs).g = s.g := by
  have hg {bs : List Byte} : (s.writeLoc s.here ⟨k, va, .near, h⟩ bs).g = s.g := by
    obtain ⟨_, _, _, _, ht⟩ := writeLoc_near_bytesOnly s s.here k va h bs
    rw [ht]
  unfold State.storeUnit
  dsimp only
  split <;> exact hg

theorem storeLoc_near_g (s : State) (k : Nat) (va : DWord) (h : Option Nat) (bs : List Byte) :
    (s.storeLoc ⟨k, va, .near, h⟩ bs).g = s.g := by
  show ((unitsAt k bs).foldl (fun t u => t.storeUnit s.sp.wstores ((⟨k, va, .near, h⟩ : Loc).plus (u.1 - k)) u.2) s).g = s.g
  generalize s.sp.wstores = prior
  induction unitsAt k bs generalizing s with
  | nil => rfl
  | cons u us ih => exact (ih _).trans (storeUnit_near_g s prior _ _ _ _)

/-! ### Snapshots of slice counters -/

/-- A group map that changes nothing but which snapshots its windows wait for. -/
def MovesSnaps (h : Group → Group) : Prop :=
  ∀ g, ∃ k : Split → Split, (∀ p, ∃ w, k p = { p with wsnaps := w }) ∧ h g = { g with splits := g.splits.map k }

/-- Of slices and groups, only which snapshots windows wait for may differ. -/
def SnapsOnly (s t : State) : Prop := t.slices = s.slices ∧ ∃ h, MovesSnaps h ∧ t.groups = s.groups.map h

theorem movesSnaps_id : MovesSnaps id := fun g => ⟨id, fun p => ⟨p.wsnaps, rfl⟩, by rw [List.map_id]; rfl⟩

theorem SnapsOnly.of_eq {s t : State} (hs : t.slices = s.slices) (hg : t.groups = s.groups) : SnapsOnly s t :=
  ⟨hs, id, movesSnaps_id, by rw [List.map_id, hg]⟩

theorem SnapsOnly.trans {s t u : State} (h1 : SnapsOnly s t) (h2 : SnapsOnly t u) : SnapsOnly s u := by
  obtain ⟨hs1, h, hh, hg1⟩ := h1
  obtain ⟨hs2, k, hk, hg2⟩ := h2
  refine ⟨hs2.trans hs1, k ∘ h, fun g => ?_, by rw [hg2, hg1, List.map_map]⟩
  obtain ⟨a, ha, hag⟩ := hh g
  obtain ⟨b, hb, hbg⟩ := hk (h g)
  refine ⟨b ∘ a, fun p => ?_, by rw [Function.comp_apply, hbg, hag, List.map_map]⟩
  obtain ⟨w, hw⟩ := ha p
  obtain ⟨x, hx⟩ := hb (a p)
  exact ⟨x, by rw [Function.comp_apply, hx, hw]⟩

theorem SnapsOnly.foldl {α : Type} {f : State → α → State} (hf : ∀ s a, SnapsOnly s (f s a)) (l : List α) (s : State) :
    SnapsOnly s (l.foldl f s) := by
  induction l generalizing s with
  | nil => exact .of_eq rfl rfl
  | cons a l ih => exact (hf s a).trans (ih _)

theorem SnapsOnly.of_bytesOnly {s t : State} (h : BytesOnly s t) : SnapsOnly s t := by
  obtain ⟨_, _, _, _, rfl⟩ := h
  exact .of_eq rfl rfl

theorem updGroup_wsnaps_snapsOnly (s : State) (tid sid : Nat) (f : Split → List (Nat × Nat × List Nat)) :
    SnapsOnly s (s.updGroup tid (fun g => g.updSplit sid (fun p => { p with wsnaps := f p }))) := by
  refine ⟨rfl, _, fun g => ?_, rfl⟩
  dsimp only
  split
  · refine ⟨_, fun p => ?_, rfl⟩
    dsimp only
    split
    · exact ⟨_, rfl⟩
    · exact ⟨p.wsnaps, rfl⟩
  · exact movesSnaps_id g

theorem snapMoved_snapsOnly (s : State) (die slice tenant : Nat) : SnapsOnly s (s.snapMoved die slice tenant) := by
  have hsee : ∀ (s : State) (w : Nat × Nat × List Nat) (tid sid i : Nat) (x : Word),
      SnapsOnly s (if w.1 ≠ die || w.2.2.contains i then s
        else if s.coin .memoryRace (16 * (256 * w.2.1 + i) + 1) then s.placePlain (w.2.1 + 4 * i) (toBytes 4 x)
        else s.updGroup tid (fun g => g.updSplit sid (fun p =>
          { p with wsnaps := p.wsnaps.map (fun v => if v = w then (v.1, v.2.1, i :: v.2.2) else v) }))) := by
    intro s w tid sid i x
    split
    · exact .of_eq rfl rfl
    · split
      · exact .of_bytesOnly (placePlain_bytesOnly ..)
      · exact updGroup_wsnaps_snapsOnly s tid sid (fun p => p.wsnaps.map (fun v => if v = w then (v.1, v.2.1, i :: v.2.2) else v))
  unfold State.snapMoved
  exact .foldl (fun s x => (hsee s _ _ _ _ _).trans (hsee _ _ _ _ _ _)) _ s

/-- R146: where no window waits for a snapshot, moving the counters changes nothing. -/
theorem snapMoved_none {s : State} (h : ∀ g ∈ s.groups, ∀ p ∈ g.splits, p.wsnaps = []) (die slice tenant : Nat) :
    s.snapMoved die slice tenant = s := by
  unfold State.snapMoved
  have hnil : (s.groups.filter (fun g => g.tenant == tenant)).flatMap (fun g =>
      g.splits.flatMap (fun p => p.wsnaps.map (fun w => (g.tid, p.sid, w)))) = [] := by
    refine List.flatMap_eq_nil_iff.2 fun g hg => List.flatMap_eq_nil_iff.2 fun p hp => ?_
    rw [h g (List.mem_filter.1 hg).1 p hp]
    rfl
  dsimp only
  rw [hnil]
  rfl

/-- R145: the counters of the issuing tenant's slices on the die of the issuing core. -/
def State.clearedSlices (s : State) : State :=
  { s with slices := s.slices.filter (fun c => !(c.die == dieOf s.here && c.tenant == s.g.tenant)),
           sp := { s.sp with wsnaps := [] } }

/-- R145: what SLICE.CLR does to the snapshots of windows still running. -/
def State.moveSnaps (s u : State) : State :=
  (s.slices.filter (fun c => c.die == dieOf s.here && c.tenant == s.g.tenant)).foldl
    (fun t c => t.snapMoved (dieOf s.here) c.slice c.tenant) u

theorem sliceClear_eq (s : State) : s.sliceClear = s.clearedSlices.wide s.moveSnaps := rfl

theorem moveSnaps_snapsOnly (s u : State) : SnapsOnly u (s.moveSnaps u) :=
  .foldl (fun t _ => snapMoved_snapsOnly t _ _ _) _ u

theorem moveSnaps_none (s : State) {u : State} (h : ∀ g ∈ u.groups, ∀ p ∈ g.splits, p.wsnaps = []) : s.moveSnaps u = u := by
  unfold State.moveSnaps
  generalize s.slices.filter (fun c => c.die == dieOf s.here && c.tenant == s.g.tenant) = l
  induction l with
  | nil => rfl
  | cons c l ih => rw [List.foldl_cons, snapMoved_none h, ih]

/-- Where only snapshots have moved, the issuing split comes back with its registers. -/
theorem refocus_snapsOnly {s u : State} (hr : s.running = true) (h : SnapsOnly s.unfocus u) (todo : List Nat) :
    let t := u.refocus s.g.tid s.sp.sid todo
    t.slices = s.slices ∧ t.mem = u.mem ∧ (∀ k, t.curV k = s.curV k) ∧ ∀ k, t.curS k = s.curS k := by
  obtain ⟨hs, h, hh, hg⟩ := h
  rw [State.unfocus, if_pos hr] at hs hg
  obtain ⟨k, hk, hgk⟩ := hh { s.g with splits := s.sp :: s.g.splits }
  obtain ⟨w, hw⟩ := hk s.sp
  have hgroup : u.group? s.g.tid = some { s.g with splits := { s.sp with wsnaps := w } :: s.g.splits.map k } := by
    unfold State.group?
    rw [hg, List.map_cons, hgk, List.map_cons, hw, List.find?_cons_of_pos (by simp)]
  unfold State.refocus
  rw [hgroup]
  dsimp only
  rw [show Group.split? { s.g with splits := { s.sp with wsnaps := w } :: s.g.splits.map k } s.sp.sid =
    some { s.sp with wsnaps := w } from List.find?_cons_of_pos (by simp)]
  exact ⟨hs, rfl, fun _ => rfl, fun _ => rfl⟩

/-! ### SLICE.CLR and SLICE.SNAP -/

theorem unfocus_groups {s : State} (hr : s.running = true) :
    s.unfocus.groups = { s.g with splits := s.sp :: s.g.splits } :: s.groups := by
  unfold State.unfocus
  rw [if_pos hr]

theorem unfocus_mem {s : State} (hr : s.running = true) : s.unfocus.mem = s.mem := by
  unfold State.unfocus
  rw [if_pos hr]

theorem sliceClear_result {s : State} (hr : s.running = true) :
    (∀ c, c ∈ s.sliceClear.slices ↔ c ∈ s.slices ∧ ¬ (c.die = s.g.core / 128 ∧ c.tenant = s.g.tenant)) ∧
    (∀ k, s.sliceClear.curV k = s.curV k) ∧ (∀ k, s.sliceClear.curS k = s.curS k) ∧
    ((∀ g ∈ s.groups, ∀ p ∈ g.splits, p.wsnaps = []) → (∀ p ∈ s.g.splits, p.wsnaps = []) → s.sliceClear.mem = s.mem) := by
  have hwide : s.sliceClear = (s.moveSnaps s.clearedSlices.unfocus).refocus s.clearedSlices.g.tid
      s.clearedSlices.sp.sid s.todo := by
    rw [sliceClear_eq, State.wide]
    exact if_pos hr
  obtain ⟨hslices, hmem, hv, hs⟩ := refocus_snapsOnly (s := s.clearedSlices) hr
    (moveSnaps_snapsOnly s s.clearedSlices.unfocus) s.todo
  have hu : s.clearedSlices.unfocus.groups =
      { s.g with splits := { s.sp with wsnaps := [] } :: s.g.splits } :: s.groups := unfocus_groups (s := s.clearedSlices) hr
  rw [hwide]
  refine ⟨fun c => ?_, hv, hs, fun hg hp => hmem.trans ?_⟩
  · rw [hslices, State.clearedSlices, List.mem_filter, State.here, dieOf, Bool.not_eq_true', ← Bool.not_eq_true,
      Bool.and_eq_true, beq_iff_eq, beq_iff_eq]
  · rw [moveSnaps_none]
    · exact unfocus_mem (s := s.clearedSlices) hr
    · rw [hu]
      intro g hmem p hps
      rcases List.mem_cons.1 hmem with rfl | hmem
      · rcases List.mem_cons.1 hps with rfl | hps
        · rfl
        · exact hp p hps
      · exact hg g hmem p hps

theorem field_snap (v : Word) : field v 20 10 = v.toNat / 2 ^ 10 % 2 ^ 11 := by
  rw [field, BitVec.extractLsb'_toNat, Nat.shiftRight_eq_div_pow]

section
variable {s : State} {v : Word}

/-- R146: the state with the offset of the block of counters. -/
def State.snapOffset (s : State) (off : Nat) : State :=
  s.updTdie s.g.tenant (dieOf s.here) (fun t => { t with snapOff := off })

/-- R146: the state in which the block of counters stands in the tenant's scratch. -/
def State.snapStored (s : State) (off : Nat) : State :=
  (s.snapOffset off).storeLoc ⟨keyNear (s.snapOffset off).here (1024 * off), BitVec.ofNat 64 (1024 * off), .near, none⟩
    (s.snapOffset off).snapBlock

theorem snapOffset_here (s : State) (off : Nat) : (s.snapOffset off).here = s.here := rfl

theorem snapStored_here (s : State) (off : Nat) : (s.snapStored off).here = s.here := by
  rw [State.here, State.snapStored, storeLoc_near_g]
  rfl

theorem sliceSnapshot_eq (s : State) (v : Word) : s.sliceSnapshot v =
    if 1024 * field v 20 10 + 1024 ≤ nearSize - s.stageBytes s.g.tenant then
      .ok { s.snapStored (field v 20 10) with sp := { (s.snapStored (field v 20 10)).sp with
        wsnaps := (dieOf (s.snapStored (field v 20 10)).here, keyNear (s.snapOffset (field v 20 10)).here (1024 * field v 20 10), []) ::
          (s.snapStored (field v 20 10)).sp.wsnaps } }
    else trapAt .bounds (BitVec.ofNat 64 (1024 * field v 20 10)) .write := rfl

theorem sliceSnapshot_fits (h : 1024 * (v.toNat / 2 ^ 10 % 2 ^ 11) + 1024 ≤ nearSize - s.stageBytes s.g.tenant) :
    s.sliceSnapshot v = .ok { s.snapStored (v.toNat / 2 ^ 10 % 2 ^ 11) with sp := { (s.snapStored (v.toNat / 2 ^ 10 % 2 ^ 11)).sp with
      wsnaps := (s.g.core / 128, keyNear s.g.core (1024 * (v.toNat / 2 ^ 10 % 2 ^ 11)), []) ::
        (s.snapStored (v.toNat / 2 ^ 10 % 2 ^ 11)).sp.wsnaps } } := by
  rw [sliceSnapshot_eq, field_snap, if_pos h, snapStored_here, snapOffset_here, State.here, dieOf]

theorem sliceSnapshot_beyond (h : nearSize - s.stageBytes s.g.tenant < 1024 * (v.toNat / 2 ^ 10 % 2 ^ 11) + 1024) :
    s.sliceSnapshot v = .error (.trap { code := .bounds, addr := BitVec.ofNat 64 (1024 * (v.toNat / 2 ^ 10 % 2 ^ 11)), access := .write }) := by
  rw [sliceSnapshot_eq, field_snap, if_neg (Nat.not_le.2 h)]
  rfl
end

/-! ### The effect of CSRW -/

theorem csrs_privileged (s : State) (sb : Bool) (x : Opnd) (n : BitVec 16) (hn : 0x0410 ≤ n.toNat ∧ n.toNat ≤ 0x0420)
    (hs : s.sp.handler = false) :
    (s.ready (.csrr sb x n) = true → Traps (.csrr sb x n) s (trapCode .invop)) ∧
    (s.ready (.csrw sb x n) = true → Traps (.csrw sb x n) s (trapCode .invop)) :=
  ⟨fun hr => csrr_traps hr (csrRead_outside hs hn.1 hn.2), fun hr => csrw_traps hr (csrWrite_outside hs hn.1 hn.2)⟩

/-- Settles O21: privilege, then the effect of each register by its number. -/
theorem csrWrites : Obligations.CsrWrites := by
  constructor
  · intro s sb x n
    refine ⟨csrs_privileged s sb x n, fun h hs hh => ⟨fun w hw hn hr => ?_, fun hn hr => ?_, fun hn hr hv => ?_, fun hn hr hv => ?_⟩,
      fun hn hg hr => ?_, fun hg hr => ?_, fun t ht hg hr hout => ?_, fun t ht hg hr hin hov => ?_, fun hn => ⟨fun hr => ?_, fun hr => ?_⟩⟩
    · have hw' : (BitVec.ofNat 16 (0x0410 + w)).toNat = 0x0410 + w := by
        rw [BitVec.toNat_ofNat]
        omega
      refine csrr_completes hr (fun h30 => ?_) (by rw [hn, hw', csrRead_record hw, handlerReg_inside hs hh])
      have := hn.symm.trans h30 ▸ hw'
      exact absurd this (by rw [show (0x0030 : BitVec 16).toNat = 0x0030 from rfl]; omega)
    · refine csrr_completes hr (fun h30 => by rw [h30] at hn; exact absurd hn (by decide)) ?_
      rw [hn, ← setWidth_eq_ofNat]
      exact handlerReg_inside hs hh _
    · exact csrw_completes hr (by rw [hn]; exact actWrite_takes hs hh hv)
    · exact csrw_traps hr (by rw [hn]; exact actWrite_three hs hh hv)
    · refine csrw_traps hr ?_
      simp only [List.mem_cons, List.not_mem_nil, or_false] at hn
      rcases hn with hn | hn | hn <;> rw [hn] <;> exact locWrite_barred hg
    · exact traps_of_trap (exec_cellarCarveWrite ..) hr (carveWrite_barred hg)
    · exact traps_of_trap (exec_cellarCarveWrite ..) hr (carveWrite_outside ht hg hout)
    · exact traps_of_trap (exec_cellarCarveWrite ..) hr (carveWrite_overlap ht hg hin hov)
    · exact csrr_traps hr (csrRead_undefined hn)
    · exact csrw_traps hr (csrWrite_undefined hn)
  · intro s sb x n v d
    refine ⟨fun hr hn => csrw_completes hr (csrWrite_readOnly ?_), fun hr hg => csrw_completes hr (locWrite_granted hg),
      fun hr hg => csrw_completes hr (locWrite_granted hg), fun hr hg => csrw_completes hr (locWrite_granted hg),
      fun hr hv => csrw_completes hr ?_, fun hr hv => csrw_completes hr ?_, fun hr hw hm => ?_, fun hr => csrw_completes hr rfl,
      fun hr hv => csrw_completes hr ?_, fun hr hv => csrw_completes hr ?_, fun hr => ?_, fun hr => ?_, fun hr hfit => ?_,
      fun hr hbey => ?_, fun t ht hg hr hin hov => ⟨fun hc => ?_, fun hc => ?_⟩⟩
    · simp only [List.mem_cons, List.not_mem_nil, or_false] at hn
      rcases hn with hn | hn | hn | hn | hn | hn | hn | hn | hn | hn | hn | hn | hn | hn | hn <;> rw [hn] <;> rfl
    · exact congrArg (fun t => Except.ok (Act.done t)) (if_pos hv)
    · exact congrArg (fun t => Except.ok (Act.done t)) (if_neg (by rw [hv]; decide))
    · refine ⟨_, csrw_completes hr (congrArg (fun t => Except.ok (Act.done t)) (statusClear_made hw hm)), fun i hi => ?_⟩
      rw [clearBits_getLsbD v _ _ hi, decide_eq_true (List.mem_range.2 hi), Bool.and_true]
    · exact congrArg (fun t => Except.ok (Act.done t)) (if_pos hv)
    · exact congrArg (fun t => Except.ok (Act.done t)) (if_neg (by rw [hv]; decide))
    · exact ⟨_, completes_of_done (exec_srSeedWrite ..) hr (congrArg (fun t => Except.ok (Act.done t)) (seedWrite_eq s v)),
        seeds_lane s v⟩
    · exact ⟨_, completes_of_done (exec_sliceClr ..) hr rfl, sliceClear_result ((ready_iff s _).1 hr).1⟩
    · exact ⟨s.snapStored (v.toNat / 2 ^ 10 % 2 ^ 11), rfl,
        completes_of_done (exec_sliceSnap ..) hr (congrArg (Except.map Act.done) (sliceSnapshot_fits hfit))⟩
    · exact traps_of_trap (exec_sliceSnap ..) hr (congrArg (Except.map Act.done) (sliceSnapshot_beyond hbey))
    · exact completes_of_done (exec_cellarCarveWrite ..) hr (carveWrite_takes ht hg hin hov hc)
    · exact parks_of_park (exec_cellarCarveWrite ..) hr (carveWrite_waits ht hg hin hov hc)

end Sys2Proof.Machine
end

section
/-!
PROOFS. Placing splits, merging them, and their lane sets (R87, R88, R203).
-/

namespace Sys2Proof.Machine

open Sys2Proof Sys2Proof.Laws

/-! ### The lowest free entry and the split at the end of the table -/

/-- R87: what it means that no split has an entry. -/
theorem freeEntry_test (g : Group) (also : Option Nat) (e : Nat) :
    (some e ≠ also && g.splits.all (fun p => p.entry ≠ some e)) = true ↔ some e ≠ also ∧ ∀ q ∈ g.splits, q.entry ≠ some e := by
  simp

theorem freeEntry_some {g : Group} {also : Option Nat} {e : Nat} (h : e < 8 ∧ some e ≠ also ∧ ∀ q ∈ g.splits, q.entry ≠ some e)
    (hlow : ∀ d < e, ¬ (d < 8 ∧ some d ≠ also ∧ ∀ q ∈ g.splits, q.entry ≠ some d)) : g.freeEntry also = some e := by
  obtain ⟨he, hfree⟩ := h
  unfold Group.freeEntry
  rw [List.find?_range_eq_some]
  refine ⟨(freeEntry_test g also e).2 hfree, List.mem_range.2 he, fun d hd => ?_⟩
  rw [Bool.not_eq_true', ← Bool.not_eq_true, freeEntry_test]
  exact fun hf => hlow d hd ⟨hd.trans he, hf⟩

theorem freeEntry_none {g : Group} {also : Option Nat}
    (h : ∀ e, ¬ (e < 8 ∧ some e ≠ also ∧ ∀ q ∈ g.splits, q.entry ≠ some e)) : g.freeEntry also = none := by
  unfold Group.freeEntry
  rw [List.find?_eq_none]
  exact fun e he hf => h e ⟨List.mem_range.1 he, (freeEntry_test g also e).1 hf⟩

theorem placeNew_some {g : Group} {also : Option Nat} {e : Nat} (h : g.freeEntry also = some e) (p : Split) :
    g.placeNew also p = { g with splits := g.splits ++ [{ p with entry := some e, count := 0 }] } := by
  rw [Group.placeNew, h]

theorem placeNew_none {g : Group} {also : Option Nat} (h : g.freeEntry also = none) (p : Split) :
    g.placeNew also p = { g with splits := g.splits ++ [{ p with entry := none, count := 0 }], ovf := p.sid :: g.ovf } := by
  rw [Group.placeNew, h]

/-- R87: wherever it is placed, the new split stands behind the others, its lanes, state and registers as they are. -/
theorem placeNew_splits (g : Group) (also : Option Nat) (p : Split) :
    ∃ e, (g.placeNew also p).splits = g.splits ++ [{ p with entry := e, count := 0 }] := by
  cases h : g.freeEntry also with
  | none => exact ⟨none, by rw [placeNew_none h]⟩
  | some e => exact ⟨some e, by rw [placeNew_some h]⟩

theorem placeNew_status (g : Group) (also : Option Nat) (p : Split) : (g.placeNew also p).status = g.status := by
  unfold Group.placeNew
  split <;> rfl

/-! ### Lane sets that stay apart -/

/-- Of a split alone: it has lanes, or it is a handler split that waits at no join. -/
def Split.sound (p : Split) : Prop :=
  (p.handler = false → p.lanes ≠ 0) ∧ (p.handler = true → ∀ j f, p.st ≠ .joinWait j f)

/-- No lane is held by two splits that are no handler split. -/
def lanesApart (p q : Split) : Prop := p.handler = false → q.handler = false → p.lanes &&& q.lanes = 0

theorem lanesApart_symm {p q : Split} (h : lanesApart p q) : lanesApart q p :=
  fun hq hp => by rw [BitVec.and_comm]; exact h hp hq

theorem splitsApart_iff (l : List Split) : splitsApart l ↔ l.Pairwise lanesApart ∧ ∀ p ∈ l, p.sound := by
  refine and_congr_left' ?_
  rw [List.pairwise_filter]
  simp only [Bool.not_eq_true']
  rfl

theorem splitsApart_perm {l m : List Split} (h : l.Perm m) : splitsApart l ↔ splitsApart m := by
  rw [splitsApart_iff, splitsApart_iff, h.pairwise_iff lanesApart_symm]
  simp only [h.mem_iff]

theorem splitsApart_cons {p : Split} {l : List Split} :
    splitsApart (p :: l) ↔ (∀ q ∈ l, lanesApart p q) ∧ p.sound ∧ splitsApart l := by
  simp only [splitsApart_iff, List.pairwise_cons, List.forall_mem_cons]
  tauto

/-- R203: placing a split keeps lane sets apart. -/
theorem splitsApart_placeNew {g : Group} {p : Split} (h : splitsApart (p :: g.splits)) (also : Option Nat) :
    splitsApart (g.placeNew also p).splits := by
  obtain ⟨e, he⟩ := placeNew_splits g also p
  rw [he, splitsApart_perm (List.perm_append_singleton _ _), splitsApart_cons]
  obtain ⟨hapart, hsound, hothers⟩ := splitsApart_cons.1 h
  exact ⟨hapart, hsound, hothers⟩

theorem and_eq_zero_iff_getLsbD {n : Nat} (a b : BitVec n) :
    a &&& b = 0 ↔ ∀ i, a.getLsbD i = true → b.getLsbD i = false := by
  refine ⟨fun h i ha => ?_, fun h => BitVec.eq_of_getLsbD_eq fun i hi => ?_⟩
  · have hi := congrArg (BitVec.getLsbD · i) h
    simpa [ha] using hi
  · rw [BitVec.getLsbD_and, show (0 : BitVec n).getLsbD i = false from BitVec.getLsbD_zero]
    cases ha : a.getLsbD i with
    | false => rfl
    | true => exact h i ha

/-- The lanes of a part of a split are apart from the lanes of every other. -/
theorem lanesApart_part {p q r : Split} (h : lanesApart p r) (hh : q.handler = p.handler)
    (hl : ∀ i, q.lanes.getLsbD i = true → p.lanes.getLsbD i = true) : lanesApart q r :=
  fun hq hr => (and_eq_zero_iff_getLsbD _ _).2 fun i hi => (and_eq_zero_iff_getLsbD _ _).1 (h (hh ▸ hq) hr) i (hl i hi)

/-- R86, R203: dividing the lanes of the issuing split keeps lane sets apart. -/
theorem splitsApart_addSplit {s : State} {m : BitVec 16} {pc : DWord} (h : splitsApart (s.sp :: s.g.splits))
    (hh : s.sp.handler = false) (ht : s.sp.lanes &&& m ≠ 0) (hr : s.sp.lanes &&& ~~~m ≠ 0) :
    splitsApart ({ s.sp with lanes := s.sp.lanes &&& ~~~m } :: (s.addSplit (s.child (s.sp.lanes &&& m) pc)).g.splits) := by
  obtain ⟨hapart, -, hothers⟩ := splitsApart_cons.1 h
  obtain ⟨e, he⟩ := placeNew_splits s.g s.sp.entry (s.child (s.sp.lanes &&& m) pc)
  rw [show (s.addSplit (s.child (s.sp.lanes &&& m) pc)).g.splits = _ from he,
    splitsApart_perm ((List.perm_append_singleton _ _).cons _), splitsApart_cons, splitsApart_cons, List.forall_mem_cons]
  refine ⟨⟨fun _ _ => ?_, fun q hq => lanesApart_part (hapart q hq) rfl fun i hi => ?_⟩,
    ⟨fun _ => hr, fun h => absurd (hh.symm.trans h) (by decide)⟩, fun q hq => lanesApart_part (hapart q hq) rfl fun i hi => ?_,
    ⟨fun _ => ht, fun h => absurd (hh.symm.trans h) (by decide)⟩, hothers⟩
  · refine (and_eq_zero_iff_getLsbD (s.sp.lanes &&& ~~~m) (s.sp.lanes &&& m)).2 fun i hi => ?_
    simp only [BitVec.getLsbD_and, BitVec.getLsbD_not, Bool.and_eq_true, Bool.not_eq_true'] at hi
    rw [BitVec.getLsbD_and, hi.2.2, Bool.and_false]
  · exact (Bool.and_eq_true_iff.1 ((BitVec.getLsbD_and ..).symm.trans hi)).1
  · exact (Bool.and_eq_true_iff.1 ((BitVec.getLsbD_and ..).symm.trans hi)).1

/-! ### The largest of a list -/

theorem maxBy_eq_none {α : Type} {f : α → Int} {l : List α} (h : maxBy f l = none) : l = [] := by
  cases l with
  | nil => rfl
  | cons a l =>
    rw [maxBy] at h
    split at h
    · cases h
    · split at h <;> cases h

theorem maxBy_eq_some {α : Type} {f : α → Int} {l : List α} {w : α} (h : maxBy f l = some w) :
    w ∈ l ∧ ∀ p ∈ l, f p ≤ f w := by
  induction l generalizing w with
  | nil => cases h
  | cons a l ih =>
    rw [maxBy] at h
    cases hl : maxBy f l with
    | none =>
      rw [hl] at h
      cases h
      rw [maxBy_eq_none hl]
      simp
    | some b =>
      obtain ⟨hb, hle⟩ := ih hl
      rw [hl] at h
      dsimp only at h
      split at h <;> cases h
      · refine ⟨.tail _ hb, List.forall_mem_cons.2 ⟨by omega, hle⟩⟩
      · refine ⟨.head _, List.forall_mem_cons.2 ⟨le_rfl, fun p hp => ?_⟩⟩
        have := hle p hp
        omega

/-! ### The merge -/

/-- R88: the splits of a group that wait at a join. -/
def Group.waiting (g : Group) (j : DWord) (f : BitVec 16) : List Split := g.splits.filter (fun p => p.st == .joinWait j f)

/-- R88: does some live split that does not wait hold the join entry? -/
def Group.awaited (g : Group) (j : DWord) (f : BitVec 16) : Bool :=
  g.splits.any (fun p => !p.handler && p.st != .joinWait j f && p.lanes != 0 && p.joins.contains (j, f))

/-- R88: the merged split, with the state of `w`. -/
def Split.merged (w : Split) (wait : List Split) (j : DWord) : Split :=
  { w with lanes := wait.foldl (fun a (p : Split) => a ||| p.lanes) 0, joins := w.joins.drop 1, pc := j + 4 }.newWindow

/-- R88: a group before its merged split is placed. -/
def Group.unwaited (g : Group) (tick : Nat) (j : DWord) (f : BitVec 16) (mix : Bool) : Group :=
  { g with splits := g.splits.filter (fun p => p.st != SState.joinWait j f),
           status := if mix then g.status ||| stSmix else g.status,
           smixAt := if mix then some tick else g.smixAt }

/-- The lowest lane of a split, 16 where it has none. -/
def Split.low (p : Split) : Int := ((lowLane p.lanes).map (fun l => (l.val : Int))).getD 16

section
variable {g : Group} {tick : Nat} {j : DWord} {f : BitVec 16}

theorem mergeAt_eq (g : Group) (tick : Nat) (j : DWord) (f : BitVec 16) : g.mergeAt tick j f =
    if g.awaited j f || (g.waiting j f).any (·.stopped) then g
    else match maxBy (fun p : Split => -p.low) (g.waiting j f) with
      | none => g
      | some w => (g.unwaited tick j f ((g.waiting j f).any (fun p => p.differs w))).placeNew none (w.merged (g.waiting j f) j) := by
  have hany : (!(g.splits.filter (fun p => !p.handler && p.st != .joinWait j f && p.lanes != 0 && p.joins.contains (j, f))).isEmpty) =
      g.awaited j f := by
    rw [Group.awaited, Bool.eq_iff_iff]
    simp [and_assoc]
  rw [← hany]
  rfl

theorem mem_waiting {p : Split} : p ∈ g.waiting j f ↔ p ∈ g.splits ∧ p.st = .joinWait j f := by
  rw [Group.waiting, List.mem_filter, beq_iff_eq]

theorem merged_lanes (w : Split) (wait : List Split) (i : Nat) :
    (w.merged wait j).lanes.getLsbD i = true ↔ ∃ p ∈ wait, p.lanes.getLsbD i = true := by
  show (wait.foldl (fun a (p : Split) => a ||| p.lanes) 0).getLsbD i = true ↔ _
  rw [← List.foldl_map (f := Split.lanes) (g := fun a l => a ||| l), foldl_or_getLsbD]
  simp

theorem awaited_iff : g.awaited j f = true ↔
    ∃ p ∈ g.splits, p.handler = false ∧ p.lanes ≠ 0 ∧ p.st ≠ .joinWait j f ∧ (j, f) ∈ p.joins := by
  rw [Group.awaited, List.any_eq_true]
  refine exists_congr fun p => and_congr_right' ?_
  simp
  tauto

/-- R88: while another live split holds (J, f), nothing merges. -/
theorem mergeAt_awaited (h : g.awaited j f = true) (tick : Nat) : g.mergeAt tick j f = g := by
  rw [mergeAt_eq, h]
  rfl

/-- R88: the merge, with the state of the waiting split of the lowest lane. -/
theorem mergeAt_merges (ha : g.awaited j f = false) (hs : ∀ p ∈ g.waiting j f, p.stopped = false) {w : Split}
    (hw : maxBy (fun p : Split => -p.low) (g.waiting j f) = some w) (tick : Nat) : g.mergeAt tick j f =
      (g.unwaited tick j f ((g.waiting j f).any (fun p => p.differs w))).placeNew none (w.merged (g.waiting j f) j) := by
  have hstop : (g.waiting j f).any (·.stopped) = false := by
    rw [List.any_eq_false]
    exact fun p hp => by rw [hs p hp]; decide
  rw [mergeAt_eq, ha, hstop, hw]
  rfl

/-- R203: the lanes of a merged split are apart from those of the splits that did not wait. -/
theorem splitsApart_merged (h : splitsApart g.splits) {w : Split} (hw : w ∈ g.waiting j f) (mix : Bool) :
    splitsApart (w.merged (g.waiting j f) j :: (g.unwaited tick j f mix).splits) := by
  obtain ⟨hpair, hsound⟩ := (splitsApart_iff _).1 h
  have hplain : ∀ p ∈ g.waiting j f, p.handler = false ∧ p.lanes ≠ 0 := fun p hp => by
    obtain ⟨hp, hst⟩ := mem_waiting.1 hp
    obtain ⟨hl, hj⟩ := hsound p hp
    cases hh : p.handler with
    | false => exact ⟨rfl, hl hh⟩
    | true => exact absurd hst (hj hh j f)
  rw [splitsApart_cons]
  refine ⟨fun q hq _ hqh => (and_eq_zero_iff_getLsbD _ _).2 fun i hi => ?_,
    ⟨fun _ h0 => ?_, fun hh => absurd ((hplain w hw).1.symm.trans hh) (by decide)⟩, ?_⟩
  · obtain ⟨p, hp, hpi⟩ := (merged_lanes w _ i).1 hi
    obtain ⟨hqs, hqst⟩ := List.mem_filter.1 hq
    obtain ⟨hps, hpst⟩ := mem_waiting.1 hp
    have hne : p ≠ q := fun he => bne_iff_ne.1 hqst (he ▸ hpst)
    have hsymm : Std.Symm lanesApart := ⟨fun _ _ => lanesApart_symm⟩
    have hap : lanesApart p q := hpair.forall hps hqs hne
    exact (and_eq_zero_iff_getLsbD _ _).1 (hap (hplain p hp).1 hqh) i hpi
  · refine (hplain w hw).2 (BitVec.eq_of_getLsbD_eq fun i _ => ?_)
    rw [show (0 : BitVec 16).getLsbD i = false from BitVec.getLsbD_zero, ← Bool.not_eq_true]
    intro hi
    have := (merged_lanes (j := j) w _ i).2 ⟨w, hw, hi⟩
    rw [h0] at this
    simp at this
  · exact (splitsApart_iff _).2 ⟨hpair.filter _, fun p hp => hsound p (List.mem_filter.1 hp).1⟩

/-- R203: merging keeps lane sets apart. -/
theorem splitsApart_mergeAt (h : splitsApart g.splits) : splitsApart (g.mergeAt tick j f).splits := by
  rw [mergeAt_eq]
  split
  · exact h
  · split
    · exact h
    · rename_i w hw
      exact splitsApart_placeNew (splitsApart_merged h (maxBy_eq_some hw).1 _) none

theorem lowLane_cases (m : BitVec 16) : (lowLane m = none ∧ ∀ l : Fin 16, m.getLsbD l = false) ∨
    ∃ l, lowLane m = some l ∧ m.getLsbD l = true ∧ ∀ k < l.val, m.getLsbD k = false := by
  by_cases h : ∃ n, n < 16 ∧ m.getLsbD n = true
  · obtain ⟨hn, hb⟩ := Nat.find_spec h
    have hlow : ∀ k < Nat.find h, m.getLsbD k = false := fun k hk => by
      have := Nat.find_min h hk
      rw [← Bool.not_eq_true]
      exact fun hk' => this ⟨hk.trans hn, hk'⟩
    exact .inr ⟨⟨Nat.find h, hn⟩, lowLane_eq_some hb hlow, hb, hlow⟩
  · have hnone : ∀ l : Fin 16, m.getLsbD l = false := fun l => by
      rw [← Bool.not_eq_true]
      exact fun hl => h ⟨l, l.isLt, hl⟩
    refine .inl ⟨?_, hnone⟩
    have hnil : lanesOf m = [] := List.filter_eq_nil_iff.2 fun l _ => by rw [hnone l]; decide
    rw [lowLane, hnil]
    rfl

theorem low_le_of_bit {p : Split} {i : Nat} (h : p.lanes.getLsbD i = true) : p.low ≤ i := by
  unfold Split.low
  obtain ⟨-, hn⟩ | ⟨l, hl, -, hlow⟩ := lowLane_cases p.lanes
  · exact absurd h (by rw [hn ⟨i, BitVec.lt_of_getLsbD h⟩]; decide)
  · rw [hl]
    refine Int.ofNat_le.2 (Nat.le_of_not_lt fun hi => ?_)
    rw [hlow i hi] at h
    cases h

theorem le_low {p : Split} {i : Nat} (hi : i ≤ 16) (h : ∀ k < i, p.lanes.getLsbD k = false) : (i : Int) ≤ p.low := by
  unfold Split.low
  obtain ⟨hl, -⟩ | ⟨l, hl, hb, -⟩ := lowLane_cases p.lanes
  · rw [hl]
    exact Int.ofNat_le.2 hi
  · rw [hl]
    refine Int.ofNat_le.2 (Nat.le_of_not_lt fun hlt => ?_)
    rw [h _ hlt] at hb
    cases hb

/-- Below the lowest lane of a split that comes no later, a split has no lane. -/
theorem no_lane_below {p w : Split} (h : w.low ≤ p.low) {l : Nat} (hw : ∀ k < l, w.lanes.getLsbD k = false) :
    ∀ k < l, p.lanes.getLsbD k = false := by
  intro k hk
  rw [← Bool.not_eq_true]
  intro hb
  have hk16 := BitVec.lt_of_getLsbD hb
  have h1 := low_le_of_bit hb
  have h2 := le_low hk16 (fun j hj => hw j (by omega))
  push_cast at h2
  omega

theorem unwaited_smix (mix : Bool) : (g.unwaited tick j f mix).status.getLsbD 1 = (g.status.getLsbD 1 || mix) := by
  cases mix <;> simp [Group.unwaited, stSmix]

theorem differs_iff {p w : Split} : p.differs w = true ↔ p.slo ≠ w.slo ∨ p.alo ≠ w.alo ∨ p.mode ≠ w.mode ∨ p.rets ≠ w.rets := by
  simp only [Split.differs, Bool.or_eq_true, bne_iff_ne, or_assoc]
end

/-- Settles O13: the lowest free entry, the merge, and lane sets, which are apart as the bits of masks. -/
theorem placingAndMerging : Obligations.PlacingAndMerging := by
  refine ⟨fun g also p tick j f => ⟨fun h => splitsApart_placeNew h also, splitsApart_mergeAt⟩, fun s m pc h hh => ?_,
    fun g also p => ?_, fun g tick j f => ?_⟩
  · intro t rest u ht hr
    exact splitsApart_addSplit h hh ht hr
  · intro free
    refine ⟨fun e he hlow => ?_, fun h => ?_⟩
    · rw [placeNew_some (freeEntry_some he hlow)]
      exact ⟨rfl, rfl⟩
    · rw [placeNew_none (freeEntry_none h)]
      exact ⟨rfl, rfl⟩
  · intro waits
    refine ⟨fun p hp hh hl hs hj => mergeAt_awaited (awaited_iff.2 ⟨p, hp, hh, hl, hs, hj⟩) tick, fun hn hs hw => ?_⟩
    obtain ⟨w, hw⟩ : ∃ w, maxBy (fun p : Split => -p.low) (g.waiting j f) = some w := by
      rw [← Option.ne_none_iff_exists']
      intro h0
      obtain ⟨p, hp⟩ := hw
      have := mem_waiting.2 hp
      rw [maxBy_eq_none h0] at this
      cases this
    obtain ⟨hmem, hle⟩ := maxBy_eq_some hw
    have ha : g.awaited j f = false := by
      rw [← Bool.not_eq_true, awaited_iff]
      rintro ⟨p, hp, hh, hl, hst, hj⟩
      exact hn p hp hh hl hst hj
    rw [mergeAt_merges ha (fun p hp => hs p (mem_waiting.1 hp)) hw]
    obtain ⟨e, he⟩ := placeNew_splits (g.unwaited tick j f ((g.waiting j f).any (fun p => p.differs w))) none (w.merged (g.waiting j f) j)
    rw [he, placeNew_status]
    refine ⟨w, _, mem_waiting.1 hmem, List.mem_append_right _ (.head _), fun p hp => ?_, fun p hp l hl => ?_, rfl, rfl, rfl, rfl, rfl,
      rfl, rfl, rfl, fun l => (merged_lanes (j := j) w (g.waiting j f) l).trans ?_, ?_⟩
    · rcases List.mem_append.1 hp with hp | hp
      · exact bne_iff_ne.1 (List.mem_filter.1 hp).2
      · rw [List.mem_singleton.1 hp]
        exact fun h => nomatch h
    · have := hle p (mem_waiting.2 hp)
      exact no_lane_below (by omega) hl
    · exact exists_congr fun p => and_congr_left' mem_waiting
    · rw [unwaited_smix, Bool.or_eq_true, List.any_eq_true]
      exact or_congr_right (exists_congr fun p => and_congr mem_waiting differs_iff)

end Sys2Proof.Machine
end

section
/-!
PROOFS. Looking up groups and splits, and what leaves them (R88, R206, R217, R220).
-/

namespace Sys2Proof.Machine

open Sys2Proof Sys2Proof.Laws

/-! ### The issuing group among the others -/

theorem unfocus_running (s : State) : s.unfocus.running = false := by
  unfold State.unfocus
  split
  · rfl
  · rename_i h
    rwa [Bool.not_eq_true] at h

theorem unfocus_idle {s : State} (h : s.running = false) : s.unfocus = s := by
  unfold State.unfocus
  rw [h]
  rfl

theorem unfocus_group? {s : State} (hr : s.running = true) :
    s.unfocus.group? s.g.tid = some { s.g with splits := s.sp :: s.g.splits } := by
  rw [State.group?, unfocus_groups hr]
  exact List.find?_cons_of_pos (by simp)

theorem unfocus_group?_other {s : State} (hr : s.running = true) {tid : Nat} (h : tid ≠ s.g.tid) :
    s.unfocus.group? tid = s.group? tid := by
  rw [State.group?, unfocus_groups hr]
  exact List.find?_cons_of_neg (by simpa using h.symm)

theorem splitSeen_idle {s : State} (h : s.running = false) (tid sid : Nat) :
    s.splitSeen tid sid = (s.group? tid).bind (fun g => g.split? sid) := by rw [State.splitSeen, unfocus_idle h]

theorem groupSeen_idle {s : State} (h : s.running = false) (tid : Nat) :
    s.groupSeen tid = (s.group? tid).map (fun g => { g with splits := [] }) := by rw [State.groupSeen, unfocus_idle h]

theorem split?_head (g : Group) (p : Split) (ps : List Split) : Group.split? { g with splits := p :: ps } p.sid = some p :=
  List.find?_cons_of_pos (by simp)

theorem split?_tail (g : Group) {p : Split} {sid : Nat} (h : p.sid ≠ sid) (ps : List Split) :
    Group.split? { g with splits := p :: ps } sid = Group.split? { g with splits := ps } sid :=
  List.find?_cons_of_neg (by simpa using h)

theorem group?_tid {s : State} {tid : Nat} {g : Group} (h : s.group? tid = some g) : g.tid = tid := by
  simpa using List.find?_some h

theorem split?_sid {g : Group} {sid : Nat} {p : Split} (h : g.split? sid = some p) : p.sid = sid := by
  simpa using List.find?_some h

/-! ### Changing one group -/

theorem find?_updWhere {α : Type} {p q : α → Bool} {f : α → α} {l : List α} (hf : ∀ a, p a = true → q (f a) = q a) :
    (updWhere p f l).find? q = (l.find? q).map (fun a => if p a then f a else a) := by
  rw [updWhere, List.find?_map]
  congr 2
  funext a
  rw [Function.comp_apply]
  split
  · rename_i h
    exact hf a h
  · rfl

theorem updGroup_group? (s : State) {tid : Nat} {f : Group → Group} (hf : ∀ g, g.tid = tid → (f g).tid = tid) :
    (s.updGroup tid f).group? tid = (s.group? tid).map f := by
  rw [State.group?, State.updGroup, find?_updWhere]
  · rw [State.group?]
    cases h : s.groups.find? (fun g => g.tid == tid) with
    | none => rfl
    | some g => rw [Option.map_some, if_pos (List.find?_some h), Option.map_some]
  · intro g hg
    rw [hg, beq_iff_eq]
    exact hf g (beq_iff_eq.1 hg)

theorem updGroup_group?_other (s : State) {tid k : Nat} (hk : k ≠ tid) {f : Group → Group}
    (hf : ∀ g, g.tid = tid → (f g).tid = tid) : (s.updGroup tid f).group? k = s.group? k := by
  rw [State.group?, State.updGroup, find?_updWhere]
  · rw [State.group?]
    cases h : s.groups.find? (fun g => g.tid == k) with
    | none => rfl
    | some g =>
      have hg : g.tid = k := group?_tid h
      rw [Option.map_some, if_neg (by rw [hg]; simpa using hk)]
  · intro g hg
    have hg := beq_iff_eq.1 hg
    rw [hf g hg, hg]

/-! ### Refocusing is not seen -/

theorem find?_filter_ne {l : List Split} {a b : Nat} (h : a ≠ b) :
    (l.filter (fun q => q.sid != a)).find? (fun q => q.sid == b) = l.find? (fun q => q.sid == b) := by
  rw [List.find?_filter]
  congr 1
  funext q
  by_cases hq : q.sid = b
  · simp [hq, h.symm]
  · simp [hq]

theorem find?_groups_filter_ne {l : List Group} {a b : Nat} (h : a ≠ b) :
    (l.filter (fun q => q.tid != a)).find? (fun q => q.tid == b) = l.find? (fun q => q.tid == b) := by
  rw [List.find?_filter]
  congr 1
  funext q
  by_cases hq : q.tid = b
  · simp [hq, h.symm]
  · simp [hq]

theorem refocus_none {s : State} {tid : Nat} (hg : s.group? tid = none) (sid : Nat) (todo : List Nat) :
    s.refocus tid sid todo = s := by rw [State.refocus, hg]

theorem refocus_gone {s : State} {tid sid : Nat} {g : Group} (hg : s.group? tid = some g) (hp : g.split? sid = none)
    (todo : List Nat) : s.refocus tid sid todo = s := by
  rw [State.refocus, hg]
  dsimp only
  rw [hp]

theorem refocus_some {s : State} {tid sid : Nat} {g : Group} {p : Split} (hg : s.group? tid = some g) (hp : g.split? sid = some p)
    (todo : List Nat) : s.refocus tid sid todo =
      { s with running := true, g := { g with splits := g.splits.filter (fun q => q.sid != sid) }, sp := p, todo := todo,
               groups := s.groups.filter (fun q => q.tid != tid) } := by
  rw [State.refocus, hg]
  dsimp only
  rw [hp]

/-- Letting a split of a group issue does not change what is seen of any split. -/
theorem refocus_splitSeen {s : State} (h : s.running = false) (tid sid : Nat) (todo : List Nat) (t k : Nat) :
    (s.refocus tid sid todo).splitSeen t k = s.splitSeen t k := by
  cases hg : s.group? tid with
  | none => rw [refocus_none hg]
  | some g =>
    cases hp : g.split? sid with
    | none => rw [refocus_gone hg hp]
    | some p =>
      rw [refocus_some hg hp]
      have htid := group?_tid hg
      have hsid := split?_sid hp
      rw [splitSeen_idle h, State.splitSeen]
      by_cases ht : t = tid
      · subst ht
        rw [← htid, unfocus_group? rfl, htid, hg]
        show Group.split? { g with splits := p :: g.splits.filter (fun q => q.sid != sid) } k = g.split? k
        by_cases hk : k = sid
        · subst hk
          rw [← hsid, split?_head, hsid, hp]
        · rw [split?_tail g (by rw [hsid]; exact Ne.symm hk)]
          exact find?_filter_ne (Ne.symm hk)
      · rw [unfocus_group?_other rfl (by rw [htid]; exact ht)]
        exact congrArg (Option.bind · _) (find?_groups_filter_ne (Ne.symm ht))

theorem carryOn_splitSeen {s : State} (h : s.running = false) (tid : Nat) (todo : List Nat) (t k : Nat) :
    (s.carryOn tid todo).splitSeen t k = s.splitSeen t k := by
  unfold State.carryOn
  cases todo with
  | nil => rfl
  | cons n ts =>
    dsimp only
    split
    · split
      · exact refocus_splitSeen h ..
      · rfl
    · rfl

/-! ### A quiet group -/

theorem quiet_placeNew {g : Group} (h : quiet g) (also : Option Nat) (p : Split) : quiet (g.placeNew also p) := by
  unfold Group.placeNew
  split <;> exact h

theorem quiet_mergeAt {g : Group} (h : quiet g) (tick : Nat) (j : DWord) (f : BitVec 16) : quiet (g.mergeAt tick j f) := by
  rw [mergeAt_eq]
  split
  · exact h
  · split
    · exact h
    · exact quiet_placeNew (g := g.unwaited _ _ _ _) h _ _

/-- R88: the join entry at which a split waits. -/
def Split.family (p : Split) : Option (DWord × BitVec 16) :=
  match p.st with
  | .joinWait j f => some (j, f)
  | _ => none

theorem mergeAll_eq (g : Group) (tick : Nat) : g.mergeAll tick =
    (g.splits.filterMap Split.family).dedup.foldl (fun g p => g.mergeAt tick p.1 p.2) g := rfl

/-- R220: a group at whose boundary nothing has come up goes on. -/
theorem atEdge_none {s : State} {tid sid : Nat} {g : Group} (hg : s.group? tid = some g) (ht : g.traps = []) (hc : g.cancel = false)
    (hd : g.deferred = []) (hw : g.wdog = false) (hh : g.handler = none) : s.atEdge tid sid = s := by
  unfold State.atEdge
  rw [hg]
  dsimp only
  split
  · rfl
  · rw [ht, hc, hd, hw, hh]
    rename_i p _
    cases p.handler <;> cases p.entry <;> rfl

section
variable {s : State} {tid : Nat} {g : Group} (hg : s.group? tid = some g)
include hg

/-- R220: where a group has no pending trap and no limit has passed, nothing is taken. -/
theorem takeTrap_none (ht : g.traps = []) (hw : g.wdog = false) : s.takeTrap tid = s := by
  have hc : g.chosenTrap = none := by
    unfold Group.chosenTrap
    rw [ht]
    rfl
  unfold State.takeTrap
  rw [hg]
  dsimp only
  rw [hc]
  unfold State.takeWatch
  rw [hw]
  rfl

theorem atEdge_quiet (hq : quiet g) (sid : Nat) : s.atEdge tid sid = s := by
  obtain ⟨ht, hc, hd, hw, hh, -⟩ := hq
  exact atEdge_none hg ht hc hd hw hh
end

/-- R217: giving up the slot changes neither the splits of the group nor memory. -/
theorem giveUp_group? {s : State} {tid : Nat} {g : Group} (hg : s.group? tid = some g) :
    (s.giveUp tid).running = s.running ∧ (s.giveUp tid).mem = s.mem ∧
      ∃ sl pa spd, (s.giveUp tid).group? tid = some { g with slot := sl, parkedAt := pa, spilled := spd } := by
  unfold State.giveUp
  rw [hg]
  dsimp only
  split
  · exact ⟨rfl, rfl, g.slot, g.parkedAt, g.spilled, hg⟩
  · refine ⟨rfl, rfl, none, s.tick, false, ?_⟩
    have := updGroup_group? s (tid := tid) (f := fun g => { g with slot := none, parkedAt := s.tick, spilled := false }) (fun _ h => h)
    rw [hg] at this
    exact this

theorem giveUp_splitSeen {s : State} (h : s.running = false) {tid : Nat} {g : Group} (hg : s.group? tid = some g) (sid : Nat) :
    (s.giveUp tid).splitSeen tid sid = g.split? sid := by
  obtain ⟨hr, -, _, _, _, hgu⟩ := giveUp_group? hg
  rw [splitSeen_idle (hr.trans h), hgu]
  rfl

/-! ### Splits that wait at no join -/

/-- R88: where no split waits, nothing merges. -/
theorem mergeAll_none {g : Group} (h : ∀ q ∈ g.splits, ∀ j f, q.st ≠ .joinWait j f) (tick : Nat) : g.mergeAll tick = g := by
  have hnil : g.splits.filterMap Split.family = [] := by
    rw [List.filterMap_eq_nil_iff]
    intro q hq
    unfold Split.family
    split
    · rename_i j f hst
      exact absurd hst (h q hq j f)
    · rfl
  rw [mergeAll_eq, hnil]
  rfl

/-- R101, R160: completing the writes of a window leaves of the other splits all but their logs. -/
theorem absorb_splits (g : Group) (q : Split) : ∃ k : Split → Split, (g.absorb q) = { g with splits := g.splits.map k } ∧
    ∀ p, ∃ l d w, k p = { p with wlog := l, wdone := d, wfresh := w } := by
  unfold Group.absorb
  split
  · exact ⟨id, by rw [List.map_id], fun p => ⟨p.wlog, p.wdone, p.wfresh, rfl⟩⟩
  · refine ⟨_, rfl, fun p => ?_⟩
    split
    · exact ⟨p.wlog, p.wdone, p.wfresh, rfl⟩
    · exact ⟨_, _, _, rfl⟩

end Sys2Proof.Machine
end

section
/-!
PROOFS. The return from a handler (R98, R164, R367).
-/

namespace Sys2Proof.Machine

open Sys2Proof Sys2Proof.Laws

theorem groupSeen_of_group? {s : State} {tid : Nat} {g : Group} (h : s.running = false) (hg : s.group? tid = some g) :
    s.groupSeen tid = some { g with splits := [] } := by rw [groupSeen_idle h, hg]; rfl

theorem splitSeen_of_group? {s : State} {tid : Nat} {g : Group} (h : s.running = false) (hg : s.group? tid = some g) (sid : Nat) :
    s.splitSeen tid sid = g.split? sid := by rw [splitSeen_idle h, hg]; rfl

/-! ### What changes only the logs of a window -/

/-- `q` is `p` but for the logs of its window. -/
def LogsOnly (p q : Split) : Prop := ∃ l d w, q = { p with wlog := l, wdone := d, wfresh := w }

theorem LogsOnly.refl (p : Split) : LogsOnly p p := ⟨p.wlog, p.wdone, p.wfresh, rfl⟩

theorem LogsOnly.trans {p q r : Split} (h1 : LogsOnly p q) (h2 : LogsOnly q r) : LogsOnly p r := by
  obtain ⟨_, _, _, rfl⟩ := h1
  obtain ⟨l, d, w, rfl⟩ := h2
  exact ⟨l, d, w, rfl⟩

/-- R101, R160: the writes that some splits complete change only logs of the splits of their group. -/
theorem foldl_absorb (l : List Split) (g : Group) :
    ∃ k : Split → Split, l.foldl Group.absorb g = { g with splits := g.splits.map k } ∧ ∀ p, LogsOnly p (k p) := by
  induction l generalizing g with
  | nil => exact ⟨id, by rw [List.map_id]; rfl, .refl⟩
  | cons q l ih =>
    obtain ⟨k, hk, hlogs⟩ := absorb_splits g q
    obtain ⟨m, hm, hlogs'⟩ := ih (g.absorb q)
    refine ⟨m ∘ k, ?_, fun p => LogsOnly.trans (hlogs p) (hlogs' (k p))⟩
    rw [List.foldl_cons, hm, hk, List.map_map]

/-! ### Resuming -/

theorem resume_run {p : Split} (hs : p.stopped = true) (hst : p.st = .run) : p.resume = { p.replay with stopped := false } := by
  have hpark : p.parked = false := by
    unfold Split.parked
    rw [hst]
  have hjoin : p.joining = false := by
    unfold Split.joining
    rw [hst]
  unfold Split.resume
  rw [hs, hpark, hjoin]
  rfl

/-- R367: without a pending trap every stopped split of a group resumes. -/
theorem resumeAll_eq {g : Group} (h : g.traps = []) :
    ∃ k : Split → Split, g.resumeAll = { g with splits := g.splits.map (fun p => (k p).resume) } ∧ ∀ p, LogsOnly p (k p) := by
  obtain ⟨k, hk, hlogs⟩ := foldl_absorb (g.splits.filter (·.stopped)) g
  refine ⟨k, ?_, hlogs⟩
  unfold Group.resumeAll
  rw [hk]
  dsimp only
  rw [h, List.map_map]
  rfl

theorem placeNew_tid (g : Group) (also : Option Nat) (p : Split) : (g.placeNew also p).tid = g.tid := by
  unfold Group.placeNew
  split <;> rfl

theorem mergeAt_tid (g : Group) (tick : Nat) (j : DWord) (f : BitVec 16) : (g.mergeAt tick j f).tid = g.tid := by
  rw [mergeAt_eq]
  split
  · rfl
  · split
    · rfl
    · exact placeNew_tid ..

theorem mergeAll_tid (g : Group) (tick : Nat) : (g.mergeAll tick).tid = g.tid := by
  rw [mergeAll_eq]
  generalize (g.splits.filterMap Split.family).dedup = l
  induction l generalizing g with
  | nil => rfl
  | cons a l ih => exact (ih _).trans (mergeAt_tid ..)

/-! ### The trapping split after the return -/

/-- R367: the trapping split takes the handler's scalar and affine registers and MODE; SKIP sets the bit of the position. -/
def Split.returned (p h : Split) (hs : HandlerSt) : Split :=
  { p with slo := h.slo, alo := h.alo, mode := h.mode,
           wcm := if hs.act = 1 ∧ hs.trap.code ≠ .cancel then setWcm p.wcm hs.trap.pos else p.wcm }

theorem returned_logsOnly {p q : Split} (h : Split) (hs : HandlerSt) (hl : LogsOnly p q) (names : List RegName) :
    LogsOnly (p.returned h hs) { q.handled names with
      slo := h.slo, alo := h.alo, mode := h.mode,
      wcm := if hs.act = 1 ∧ hs.trap.code ≠ .cancel then setWcm q.wcm hs.trap.pos else q.wcm } := by
  obtain ⟨l, d, w, rfl⟩ := hl
  exact ⟨_, _, _, rfl⟩

section
variable {t : State} {g : Group} {h p : Split} {hs : HandlerSt}

/-- R367: the group after its handler split, its one other split trapped, has ended. -/
theorem returned_group (hsplits : g.splits = [h, p]) (hne : p.sid ≠ h.sid) (htrap : hs.trap.sid = p.sid) (hstop : p.stopped = true)
    (hst : p.st = .run) (ht : g.traps = []) (names : List RegName) (other : Split → Split) :
    ∃ x, LogsOnly (p.returned h hs) x ∧
      Group.resumeAll { g.absorb h with
        splits := ((g.absorb h).splits.filter (fun p => p.sid != h.sid)).map (fun p =>
          if p.sid = hs.trap.sid then { p.handled names with
            slo := h.slo, alo := h.alo, mode := h.mode,
            wcm := if hs.act = 1 ∧ hs.trap.code ≠ .cancel then setWcm p.wcm hs.trap.pos else p.wcm }
          else other p), handler := none } =
      { g with splits := [{ x.replay with stopped := false }], handler := none } := by
  obtain ⟨k, hk, hlogs⟩ := absorb_splits g h
  have hsid : ∀ q, (k q).sid = q.sid := fun q => by
    obtain ⟨_, _, _, hq⟩ := hlogs q
    rw [hq]
  have hfilter : ((g.absorb h).splits.filter (fun p => p.sid != h.sid)) = [k p] := by
    rw [hk, hsplits]
    simp [hsid, hne]
  rw [hfilter, List.map_singleton, if_pos (by rw [hsid, htrap]), hk]
  obtain ⟨m, hm, hmlogs⟩ := resumeAll_eq (g := { g with
    splits := [{ (k p).handled names with
      slo := h.slo, alo := h.alo, mode := h.mode,
      wcm := if hs.act = 1 ∧ hs.trap.code ≠ .cancel then setWcm (k p).wcm hs.trap.pos else (k p).wcm }], handler := none }) ht
  have hx := (returned_logsOnly h hs (hlogs p) names).trans (hmlogs _)
  refine ⟨_, hx, hm.trans ?_⟩
  obtain ⟨_, _, _, hxe⟩ := hx
  rw [List.map_singleton, resume_run]
  · rw [hxe]
    exact hstop
  · rw [hxe]
    exact hst

theorem returnFromTrap_single (hact : hs.act ≠ 2) (hg : t.group? g.tid = some g) (hsplits : g.splits = [h, p])
    (hne : p.sid ≠ h.sid) (htrap : hs.trap.sid = p.sid) (hstop : p.stopped = true) (hst : p.st = .run) (ht : g.traps = [])
    (hw : g.wdog = false) :
    (t.returnFromTrap g h hs).running = t.running ∧ (t.returnFromTrap g h hs).mem = t.mem ∧
      ∃ x sl pa spd, LogsOnly (p.returned h hs) x ∧ (t.returnFromTrap g h hs).group? g.tid =
        some { g with splits := [{ x.replay with stopped := false }], handler := none, slot := sl, parkedAt := pa, spilled := spd } := by
  obtain ⟨x, hx, hgroup⟩ := returned_group hsplits hne htrap hstop hst ht (h.written ++ hs.wrote)
    (fun p => p.handled ((h.written ++ hs.wrote).filter RegName.shared))
  unfold State.returnFromTrap
  rw [if_neg hact]
  dsimp only
  rw [hgroup]
  generalize hgr : ({ g with splits := [{ x.replay with stopped := false }], handler := none } : Group) = gr
  have htid : gr.tid = g.tid := by rw [← hgr]
  rw [htid]
  have h1 : (t.updGroup g.tid (fun _ => gr)).group? g.tid = some gr := by
    rw [updGroup_group? t (fun _ _ => htid), hg]
    rfl
  have hmerge : gr.mergeAll t.tick = gr := by
    refine mergeAll_none (fun q hq j f => ?_) _
    rw [← hgr] at hq
    rw [List.mem_singleton.1 hq]
    exact fun h => nomatch h
  have h2 : ((t.updGroup g.tid (fun _ => gr)).updGroup g.tid (fun k => k.mergeAll t.tick)).group? g.tid =
      some gr := by
    rw [updGroup_group? _ (fun k hk => (mergeAll_tid k _).trans hk), h1, Option.map_some, hmerge]
  rw [takeTrap_none h2 (by rw [← hgr]; exact ht) (by rw [← hgr]; exact hw)]
  obtain ⟨hrun, hmem, sl, pa, spd, hgu⟩ := giveUp_group? h2
  exact ⟨hrun, hmem, x, sl, pa, spd, hx, by rw [hgu, ← hgr]⟩
end

/-! ### RFT -/

theorem exec_over {i : Instr} {s t : State} {f : State → Res Act} (hx : exec i s = issue i s f) (hr : s.ready i = true)
    (h : f s = .ok (.over t)) : exec i s = .next (t.carryOn s.g.tid s.todo) := by rw [hx, issue_ready hr, h]

theorem rft_returns {s : State} {hs : HandlerSt} (hr : s.ready .rft = true) (hh : s.sp.handler = true)
    (hhs : s.g.handler = some hs) (htodo : s.todo = []) (hf : s.inFlight s.g s.sp.sid = false) (hw : s.sp.wtrap = none) :
    exec .rft s = .next ((({ s with g := s.g.countWindow s.time } : State).unfocus).returnFromTrap
      { s.g.countWindow s.time with splits := s.sp :: (s.g.countWindow s.time).splits } s.sp hs) := by
  have htid : (s.g.countWindow s.time).tid = s.g.tid := by
    unfold Group.countWindow
    split <;> rfl
  have hgroup : (({ s with g := s.g.countWindow s.time } : State).unfocus).group? s.g.tid =
      some { s.g.countWindow s.time with splits := s.sp :: (s.g.countWindow s.time).splits } := by
    rw [← htid]
    exact unfocus_group? (s := { s with g := s.g.countWindow s.time }) ((ready_iff s _).1 hr).1
  refine (exec_over (exec_rft s) hr (t := (({ s with g := s.g.countWindow s.time } : State).unfocus).returnFromTrap
    { s.g.countWindow s.time with splits := s.sp :: (s.g.countWindow s.time).splits } s.sp hs) ?_).trans (by rw [htodo]; rfl)
  rw [hhs, hh, settled_ok hf, hw]
  refine congrArg (fun t => Except.ok (Act.over t)) ?_
  rw [hgroup]

theorem countWindow_eq (g : Group) (time : Nat) :
    ∃ n m o, g.countWindow time = { g with coxWin := n, wdogMark := m, wdogOff := o } := by
  unfold Group.countWindow
  split
  · exact ⟨g.coxWin, g.wdogMark, g.wdogOff, rfl⟩
  · exact ⟨_, _, _, rfl⟩

/-- Settles O18: the handler split gone, the one other split resumes with the handler's registers. -/
theorem handlerReturn : Obligations.HandlerReturn := by
  intro s p hs hr hh hhs htodo hsplits htrap hne hstop hst hact hf hw ht hwdog
  have hrun := ((ready_iff s _).1 hr).1
  have hexec := rft_returns hr hh hhs htodo hf hw
  obtain ⟨n, m, o, hcount⟩ := countWindow_eq s.g s.time
  rw [hcount] at hexec
  obtain ⟨hrunning, hmem, x, sl, pa, spd, ⟨l, d, w, rfl⟩, hgroup⟩ := returnFromTrap_single
    (g := { s.g with coxWin := n, wdogMark := m, wdogOff := o, splits := s.sp :: s.g.splits }) (h := s.sp) hact
    (unfocus_group? (s := { s with g := { s.g with coxWin := n, wdogMark := m, wdogOff := o } }) hrun)
    (show s.sp :: s.g.splits = [s.sp, p] by rw [hsplits]) hne htrap hstop hst ht hwdog
  have hidle := hrunning.trans (unfocus_running _)
  refine ⟨_, _, { ({ p.returned s.sp hs with wlog := l, wdone := d, wfresh := w } : Split).replay with stopped := false },
    hexec, hidle, groupSeen_of_group? hidle hgroup, rfl, ?_, ?_, rfl, rfl, rfl, rfl, rfl, rfl, rfl, rfl, rfl, rfl, rfl, rfl, rfl, rfl, rfl, rfl, rfl, hmem.trans (unfocus_mem hrun)⟩
  · refine (splitSeen_of_group? hidle hgroup _).trans (List.find?_cons_of_neg ?_)
    exact (beq_iff_eq (a := p.sid)).not.2 hne
  · exact (splitSeen_of_group? hidle hgroup _).trans (List.find?_cons_of_pos (beq_self_eq_true p.sid))

end Sys2Proof.Machine
end

section
/-!
PROOFS. SJOIN (R88, R92).
-/

namespace Sys2Proof.Machine

open Sys2Proof Sys2Proof.Laws

/-- R220: in a quiet group nothing is met at a boundary and no trap is taken, so its splits are seen as they stand. -/
theorem quiet_splitSeen {u : State} {tid : Nat} {g : Group} (hu : u.running = false) (hg : u.group? tid = some g) (hq : quiet g)
    (l todo : List Nat) (sid : Nat) :
    ((((l.foldl (fun s sid => s.atEdge tid sid) u).takeTrap tid).giveUp tid).carryOn tid todo).splitSeen tid sid = g.split? sid := by
  have hedge : l.foldl (fun s sid => s.atEdge tid sid) u = u := by
    induction l with
    | nil => rfl
    | cons a l ih => rw [List.foldl_cons, atEdge_quiet hg hq, ih]
  obtain ⟨ht, -, -, hw, -, -⟩ := hq
  rw [hedge, takeTrap_none hg ht hw, carryOn_splitSeen ((giveUp_group? hg).1.trans hu), giveUp_splitSeen hu hg]

section
variable {s : State} {f : BitVec 16} {rest : List (DWord × BitVec 16)}

/-- R88: the issuing split as it waits at its join. -/
def State.joiner (s : State) (f : BitVec 16) : Split :=
  { s.sp with st := .joinWait s.sp.pc f, entry := none, after := s.sp.pc + 4, wlog := [] }

/-- R88: the state in which the issuing split waits, its window over. -/
def State.joinWaits (s : State) (f : BitVec 16) : State :=
  ({ s with sp := s.joiner f, g := (s.g.absorb s.sp).countWindow s.time }).unfocus

/-- R88: the same after the merges that its waiting makes possible. -/
def State.joinMerges (s : State) (f : BitVec 16) : State :=
  (s.joinWaits f).updGroup s.g.tid (fun g => (g.refill none).mergeAll (s.joinWaits f).tick)

/-- R88: the splits that the merges have brought to a boundary. -/
def State.joinMerged (s : State) (f : BitVec 16) : List Nat :=
  let old := (((s.joinWaits f).group? s.g.tid).map (fun g => g.splits.map (·.sid))).getD []
  (((s.joinMerges f).group? s.g.tid).map (fun g => (g.splits.filter (fun p => p.pc == s.sp.pc + 4 && p.atBoundary &&
    old.contains p.sid)).map (·.sid))).getD []

/-- R88: the group once its split waits, nothing on its overflow stack. -/
theorem joinWaits_group? (hr : s.running = true) (f : BitVec 16) : ∃ (k : Split → Split) (n : Word) (m : Word × Nat) (o : Option Nat),
    (∀ p, LogsOnly p (k p)) ∧ (s.joinWaits f).group? s.g.tid =
      some { s.g with coxWin := n, wdogMark := m, wdogOff := o, splits := s.joiner f :: s.g.splits.map k } := by
  obtain ⟨k, hk, hlogs⟩ := absorb_splits s.g s.sp
  obtain ⟨n, m, o, hc⟩ := countWindow_eq (s.g.absorb s.sp) s.time
  refine ⟨k, n, m, o, hlogs, ?_⟩
  unfold State.joinWaits
  rw [hc, hk]
  exact unfocus_group? (s := { s with
    sp := s.joiner f, g := { s.g with coxWin := n, wdogMark := m, wdogOff := o, splits := s.g.splits.map k } }) hr

theorem joinMerges_running (s : State) (f : BitVec 16) : (s.joinMerges f).running = false := unfocus_running _

theorem refill_ovf_nil {g : Group} (h : g.ovf = []) (also : Option Nat) : g.refill also = g := by rw [Group.refill, h]

theorem refill_tid (g : Group) (also : Option Nat) : (g.refill also).tid = g.tid := by
  unfold Group.refill
  split <;> rfl

theorem joinMerges_group? {g : Group} (hg : (s.joinWaits f).group? s.g.tid = some g) (ho : g.ovf = []) :
    (s.joinMerges f).group? s.g.tid = some (g.mergeAll (s.joinWaits f).tick) := by
  rw [State.joinMerges, updGroup_group? _ (fun k hk => ((mergeAll_tid _ _).trans (refill_tid k none)).trans hk), hg,
    Option.map_some, refill_ovf_nil ho]

/-- R88: where one split waits, its join alone may merge. -/
theorem mergeAll_one {g : Group} {p : Split} {ps : List Split} {j : DWord} (hs : g.splits = p :: ps) (hp : p.st = .joinWait j f)
    (hps : ∀ q ∈ ps, ∀ j f, q.st ≠ .joinWait j f) (tick : Nat) : g.mergeAll tick = g.mergeAt tick j f := by
  have hnil : ps.filterMap Split.family = [] := by
    rw [List.filterMap_eq_nil_iff]
    intro q hq
    unfold Split.family
    split
    · rename_i j f hst
      exact absurd hst (hps q hq j f)
    · rfl
  have hfam : p.family = some (j, f) := by rw [Split.family, hp]
  rw [mergeAll_eq, hs, List.filterMap_cons, hfam, hnil]
  rfl

/-- R88: a split that waits alone in its group merges with itself. -/
theorem mergeAt_alone {g : Group} {p : Split} {j : DWord} (hs : g.splits = [p]) (hp : p.st = .joinWait j f) (hstop : p.stopped = false)
    (tick : Nat) : (g.mergeAt tick j f).splits = [{ p.merged [p] j with entry := some 0, count := 0 }] := by
  have hw : g.waiting j f = [p] := by
    rw [Group.waiting, hs]
    exact List.filter_cons_of_pos (by rw [hp]; exact beq_self_eq_true _)
  have ha : g.awaited j f = false := by
    rw [Group.awaited, hs, List.any_eq_false]
    intro q hq
    rw [List.mem_singleton.1 hq, hp]
    simp
  have hmax : maxBy (fun p : Split => -p.low) (g.waiting j f) = some p := by rw [hw]; rfl
  have hrest : ∀ mix, (g.unwaited tick j f mix).splits = [] := fun mix => by
    refine List.filter_eq_nil_iff.2 fun q hq => ?_
    rw [hs] at hq
    rw [List.mem_singleton.1 hq, hp]
    simp
  rw [mergeAt_merges ha (by rw [hw]; simpa using hstop) hmax, hw, placeNew_some (e := 0), hrest]
  · rfl
  · refine freeEntry_some ⟨by decide, Option.some_ne_none 0, fun q hq => ?_⟩ (fun d hd => absurd hd (Nat.not_lt_zero d))
    rw [hrest] at hq
    cases hq

theorem sjoin_barred (h : s.ready .sjoin = true) (hb : s.sp.handler = true ∨ s.sp.inLoop = true) :
    Traps .sjoin s (trapCode .invop) := by
  refine traps_of_trap (exec_sjoin ..) h ?_
  cases hh : s.sp.handler with
  | true => rfl
  | false => rw [hb.resolve_left (by rw [hh]; decide)]; rfl

variable (hh : s.sp.handler = false) (hl : s.sp.inLoop = false)
include hh hl

theorem sjoin_mismatch (h : s.ready .sjoin = true) (hj : ∀ f rest, s.sp.joins ≠ (s.sp.pc, f) :: rest) :
    Traps .sjoin s (trapCode .joinmismatch) := by
  refine traps_of_trap (exec_sjoin ..) h ?_
  rw [hh, hl]
  cases hjs : s.sp.joins with
  | nil => rfl
  | cons e l =>
    obtain ⟨j, k⟩ := e
    have hne : (j == s.sp.pc) = false := beq_eq_false_iff_ne.2 (fun he => hj k l (by rw [hjs, he]))
    show (need (j == s.sp.pc) .joinmismatch >>= _) = _
    rw [hne]
    rfl

theorem sjoin_over (h : s.ready .sjoin = true) (hj : s.sp.joins = (s.sp.pc, f) :: rest) (hf : s.inFlight s.g s.sp.sid = false)
    (hw : s.sp.wtrap = none) : exec .sjoin s = .next ((((((s.joinMerged f).foldl (fun u sid => u.atEdge s.g.tid sid)
      (s.joinMerges f)).takeTrap s.g.tid).giveUp s.g.tid)).carryOn s.g.tid s.todo) := by
  refine exec_over (exec_sjoin s) h ?_
  rw [hh, hl, hj]
  show (need (s.sp.pc == s.sp.pc) .joinmismatch >>= _) = _
  rw [beq_self_eq_true, settled_ok hf, hw]
  rfl
end

/-- Settles O14: the traps of SJOIN, the split that waits, and the split that waits alone. -/
theorem joinResults : Obligations.JoinResults := by
  intro s
  refine ⟨sjoin_barred, fun h hh hl hj => sjoin_mismatch hh hl h hj, fun f rest p h hh hl hj hf hw hq ho hn hp hph hpl hpj => ?_,
    fun f rest h hh hl hj hf hw hq ho hs hstop => ?_⟩
  · have hr := ((ready_iff s _).1 h).1
    obtain ⟨k, n, m, o, hlogs, hg⟩ := joinWaits_group? hr f
    have hsame : ∀ q, (k q).st = q.st ∧ (k q).handler = q.handler ∧ (k q).lanes = q.lanes ∧ (k q).joins = q.joins := fun q => by
      obtain ⟨_, _, _, hq⟩ := hlogs q
      rw [hq]
      exact ⟨rfl, rfl, rfl, rfl⟩
    obtain ⟨hkst, hkh, hkl, hkj⟩ := hsame p
    have hps : ∀ q ∈ s.g.splits.map k, ∀ j f, q.st ≠ .joinWait j f := by
      intro q hq j f
      obtain ⟨r, hr, rfl⟩ := List.mem_map.1 hq
      rw [(hsame r).1]
      exact hn r hr j f
    have hm := joinMerges_group? hg ho
    rw [mergeAll_one rfl rfl hps, mergeAt_awaited] at hm
    · refine ⟨_, s.joiner f, sjoin_over hh hl h hj hf hw, ?_, rfl, rfl, rfl, rfl⟩
      rw [quiet_splitSeen (joinMerges_running s f) hm hq]
      exact split?_head s.g (s.joiner f) _
    · exact awaited_iff.2 ⟨k p, .tail _ (List.mem_map_of_mem hp), hkh.trans hph, hkl ▸ hpl,
        fun h => hn p hp _ _ (hkst.symm.trans h), hkj ▸ hpj⟩
  · have hr := ((ready_iff s _).1 h).1
    obtain ⟨k, n, m, o, hlogs, hg⟩ := joinWaits_group? hr f
    have hm := joinMerges_group? hg ho
    have hnil : s.g.splits.map k = [] := by rw [hs]; rfl
    have hq' : quiet { s.g with coxWin := n, wdogMark := m, wdogOff := o, splits := [s.joiner f] } := hq
    rw [hnil, mergeAll_one rfl rfl (fun q hq => by cases hq)] at hm
    have hsplits := mergeAt_alone (g := { s.g with coxWin := n, wdogMark := m, wdogOff := o, splits := [s.joiner f] }) rfl rfl hstop
      (s.joinWaits f).tick
    refine ⟨_, { (s.joiner f).merged [s.joiner f] s.sp.pc with entry := some 0, count := 0 }, sjoin_over hh hl h hj hf hw, ?_, rfl, rfl,
      congrArg (List.drop 1) hj, BitVec.zero_or, rfl⟩
    rw [quiet_splitSeen (joinMerges_running s f) hm (quiet_mergeAt hq' _ _ _)]
    unfold Group.split?
    rw [hsplits]
    exact List.find?_cons_of_pos (beq_self_eq_true s.sp.sid)

end Sys2Proof.Machine
end

section
/-!
PROOFS. EXIT, YIELD, SINFO and LIVE (R93 to R96, R167).
-/

namespace Sys2Proof.Machine

open Sys2Proof Sys2Proof.Laws

/-! ### EXIT and YIELD -/

/-- R93: the state in which the lanes of the issuing split have ended, its window over. -/
def State.lanesEnd (s : State) : State :=
  ({ s with sp := { s.sp with lanes := 0 }, g := (s.g.absorb s.sp).countWindow s.time }).unfocus

/-- R93: a group without a split, the others taking its entry and merging where they may. -/
def Group.splitGone (g : Group) (sid tick : Nat) : Group :=
  ({ g with splits := g.splits.filter (fun p => p.sid != sid) }.refill none).mergeAll tick

/-- R93: the same with the split gone. -/
def State.splitEnds (s : State) : State := s.lanesEnd.updGroup s.g.tid (·.splitGone s.sp.sid s.lanesEnd.tick)

section
variable {s : State}

theorem exit_handler (h : s.ready .exit = true) (hh : s.sp.handler = true) : Traps .exit s (trapCode .invop) := by
  refine traps_of_trap (exec_exit ..) h ?_
  rw [hh]
  rfl

theorem yield_completes (h : s.ready .yield = true) :
    Completes .yield s { s with sp := { s.sp with yielded := true }, g := { s.g with giveWay := true } } :=
  completes_of_ok (exec_yield ..) h rfl

variable (hh : s.sp.handler = false) (ht : s.sp.tripped = false)
include hh ht

theorem exit_lanes (h : s.ready .exit = true) (hl : s.sp.lanes &&& ~~~s.exec ≠ 0) :
    Completes .exit s { s with sp := { s.sp with lanes := s.sp.lanes &&& ~~~s.exec } } := by
  refine completes_of_done (exec_exit ..) h ?_
  rw [hh, ht]
  exact if_pos hl

variable (hl : s.sp.lanes &&& ~~~s.exec = 0) (hf : s.inFlight s.g s.sp.sid = false)
include hl hf


theorem exit_task (h : s.ready .exit = true) (ho : ∀ p ∈ s.g.splits, p.handler = true ∨ p.lanes = 0) :
    exec .exit s = .next ((s.lanesEnd.endTask s.g.tid (.sig (s.getD 0))).carryOn s.g.tid s.todo) := by
  have hothers : s.g.splits.any (fun p => !p.handler && p.lanes != 0) = false := by
    rw [List.any_eq_false]
    intro p hp
    rcases ho p hp with h | h <;> simp [h]
  refine exec_over (exec_exit s) h ?_
  rw [hh, ht, hl, settled_ok hf, hothers]
  rfl

theorem exit_split (h : s.ready .exit = true) (hw : s.sp.wtrap = none) {p : Split} (hp : p ∈ s.g.splits) (hph : p.handler = false)
    (hpl : p.lanes ≠ 0) : exec .exit s =
      .next ((((s.splitEnds.arriveAll s.g.tid).takeTrap s.g.tid).giveUp s.g.tid).carryOn s.g.tid s.todo) := by
  have hothers : s.g.splits.any (fun p => !p.handler && p.lanes != 0) = true :=
    List.any_eq_true.2 ⟨p, hp, by rw [hph, bne_iff_ne.2 hpl]; rfl⟩
  refine exec_over (exec_exit s) h ?_
  rw [hh, ht, hl, settled_ok hf, hothers, hw]
  rfl
end

theorem lanesEnd_group? {s : State} (hr : s.running = true) : ∃ (k : Split → Split) (n : Word) (m : Word × Nat) (o : Option Nat),
    (∀ p, LogsOnly p (k p)) ∧ s.lanesEnd.group? s.g.tid =
      some { s.g with coxWin := n, wdogMark := m, wdogOff := o, splits := { s.sp with lanes := 0 } :: s.g.splits.map k } := by
  obtain ⟨k, hk, hlogs⟩ := absorb_splits s.g s.sp
  obtain ⟨n, m, o, hc⟩ := countWindow_eq (s.g.absorb s.sp) s.time
  refine ⟨k, n, m, o, hlogs, ?_⟩
  unfold State.lanesEnd
  rw [hc, hk]
  exact unfocus_group? (s := { s with sp := { s.sp with lanes := 0 },
                                      g := { s.g with coxWin := n, wdogMark := m, wdogOff := o, splits := s.g.splits.map k } }) hr

/-- R87: a split that leaves the overflow stack changes its entry alone. -/
theorem refill_splits (g : Group) (also : Option Nat) : ∃ (k : Split → Split) (o : List Nat),
    g.refill also = { g with splits := g.splits.map k, ovf := o } ∧ ∀ p, ∃ e c, k p = { p with entry := e, count := c } := by
  unfold Group.refill
  split
  · refine ⟨_, _, rfl, fun p => ?_⟩
    dsimp only
    split
    · exact ⟨_, _, rfl⟩
    · exact ⟨p.entry, p.count, rfl⟩
  · exact ⟨id, g.ovf, by rw [List.map_id], fun p => ⟨p.entry, p.count, rfl⟩⟩

/-- R216: a group that is a member of no team arrives at no barrier. -/
theorem arriveAll_none {s : State} {tid : Nat} {g : Group} (hg : s.group? tid = some g) (hm : ∀ m : Fin 4, g.teams[m] = none) :
    s.arriveAll tid = s := by
  unfold State.arriveAll
  rw [hg]
  dsimp only
  generalize List.finRange 4 = l
  induction l with
  | nil => rfl
  | cons a l ih => rw [List.foldl_cons, hm a]; exact ih

theorem splitGone_tid (g : Group) (sid tick : Nat) : (g.splitGone sid tick).tid = g.tid :=
  (mergeAll_tid _ _).trans (refill_tid { g with splits := g.splits.filter (fun p => p.sid != sid) } none)

/-- R93: the group of a split that has ended: the others stand, and it is gone. -/
theorem splitEnds_group? {s : State} (hr : s.running = true) (hn : ∀ q ∈ s.g.splits, ∀ j k, q.st ≠ .joinWait j k) :
    ∃ (k : Split → Split) (n : Word) (m : Word × Nat) (o : Option Nat) (ov : List Nat), (∀ p, (k p).sid = p.sid) ∧
      s.splitEnds.group? s.g.tid = some { s.g with
        coxWin := n, wdogMark := m, wdogOff := o, ovf := ov, splits := (s.g.splits.filter (fun p => p.sid != s.sp.sid)).map k } := by
  obtain ⟨k, n, m, o, hlogs, hg⟩ := lanesEnd_group? hr
  have hk : ∀ p, (k p).sid = p.sid ∧ (k p).st = p.st := fun p => by
    obtain ⟨_, _, _, hp⟩ := hlogs p
    rw [hp]
    exact ⟨rfl, rfl⟩
  have hfilter : (({ s.sp with lanes := 0 } : Split) :: s.g.splits.map k).filter (fun p => p.sid != s.sp.sid) =
      (s.g.splits.filter (fun p => p.sid != s.sp.sid)).map k := by
    rw [List.filter_cons_of_neg (by simp), List.filter_map]
    simp only [Function.comp_def, (hk _).1]
  obtain ⟨r, ov, hrefill, hentry⟩ := refill_splits { s.g with
    coxWin := n, wdogMark := m, wdogOff := o, splits := (s.g.splits.filter (fun p => p.sid != s.sp.sid)).map k } none
  have hr' : ∀ p, (r p).sid = p.sid ∧ (r p).st = p.st := fun p => by
    obtain ⟨_, _, hp⟩ := hentry p
    rw [hp]
    exact ⟨rfl, rfl⟩
  refine ⟨r ∘ k, n, m, o, ov, fun p => (hr' _).1.trans (hk p).1, ?_⟩
  rw [State.splitEnds, updGroup_group? _ (fun g hg => (splitGone_tid g _ _).trans hg), hg, Option.map_some, Group.splitGone]
  dsimp only
  rw [hfilter, hrefill, mergeAll_none, List.map_map]
  intro q hq j f
  obtain ⟨x, hx, hxq⟩ := List.mem_map.1 hq
  obtain ⟨p, hp, hpx⟩ := List.mem_map.1 hx
  rw [← hxq, ← hpx, (hr' _).2, (hk _).2]
  exact hn p (List.mem_filter.1 hp).1 j f

/-- R93: EXIT of a split of a quiet group leaves the others. -/
theorem exit_leaves {s : State} {p : Split} (h : s.ready .exit = true) (hh : s.sp.handler = false) (ht : s.sp.tripped = false)
    (hl : s.sp.lanes &&& ~~~s.exec = 0) (hf : s.inFlight s.g s.sp.sid = false) (hw : s.sp.wtrap = none) (hq : quiet s.g)
    (hn : ∀ q ∈ s.g.splits, (∀ j k, q.st ≠ .joinWait j k) ∧ q.sid ≠ s.sp.sid ∧ q.parked = false)
    (hp : p ∈ s.g.splits) (hph : p.handler = false) (hpl : p.lanes ≠ 0) (hm : ∀ m : Fin 4, s.g.teams[m] = none) :
    ∃ u, exec .exit s = .next u ∧ u.splitSeen s.g.tid s.sp.sid = none ∧ (u.splitSeen s.g.tid p.sid).isSome = true := by
  obtain ⟨k, n, m, o, ov, hk, hg⟩ := splitEnds_group? ((ready_iff s _).1 h).1 (fun q hq => (hn q hq).1)
  have hseen := quiet_splitSeen (u := s.splitEnds) (unfocus_running _) hg hq [] s.todo
  refine ⟨_, exit_split hh ht hl hf h hw hp hph hpl, ?_, ?_⟩
  · rw [arriveAll_none hg hm]
    refine (hseen _).trans (List.find?_eq_none.2 fun q hq => ?_)
    obtain ⟨r, hr, rfl⟩ := List.mem_map.1 hq
    rw [hk]
    simpa using (hn r (List.mem_filter.1 hr).1).2.1
  · rw [arriveAll_none hg hm]
    refine (congrArg Option.isSome (hseen _)).trans (List.find?_isSome.2 ⟨k p, List.mem_map_of_mem (List.mem_filter.2 ⟨hp, ?_⟩), ?_⟩)
    · simpa using (hn p hp).2.1
    · rw [hk]
      exact beq_self_eq_true _

/-! ### SINFO -/

theorem entryOf_plain {g : Group} {p : Split} (h : p.handler = false) : g.entryOf p = p.entry := by rw [Group.entryOf, h]; rfl

theorem entryOf_handler {g : Group} {p q : Split} {h : HandlerSt} (hp : p.handler = true) (hh : g.handler = some h)
    (hq : g.split? h.trap.sid = some q) : g.entryOf p = q.entry := by
  rw [Group.entryOf, hp, hh]
  exact (if_pos rfl).trans (congrArg (Option.bind · _) hq)

theorem sinfoId_some {s : State} {sb : Bool} {x : Opnd} {e : Nat} (h : s.ready (.sinfoId sb x) = true)
    (he : s.g.entryOf s.sp = some e) : Completes (.sinfoId sb x) s (s.wS x (BitVec.ofNat 32 e)) := by
  refine completes_of_ok (exec_sinfoId ..) h ?_
  rw [he]

theorem sinfoId_none {s : State} {sb : Bool} {x : Opnd} (h : s.ready (.sinfoId sb x) = true)
    (he : s.g.entryOf s.sp = none) : Completes (.sinfoId sb x) s (s.wS x 0xFFFFFFFF) := by
  refine completes_of_ok (exec_sinfoId ..) h ?_
  rw [he]

/-! ### LIVE -/

theorem live_regrange {s : State} {i : Instr} {n : Nat} (hslots : i.slots = []) (hlive : liveRange i = n) (hhead : i.head.isSome = true)
    (hr : s.running = true) (ha : i.accepted = true) (hn : tVregs s.g.record < n) : TrapsAtDecode i s (trapCode .regrange) := by
  refine trapsAtDecode hhead hr (precheck_regrange ha (fun sl hsl => ?_) (fun h => ?_))
  · rw [hslots] at hsl
    cases hsl
  · exact absurd (hlive ▸ h.2) (Nat.not_le.2 hn)

/-- R96: a row written whole with the row of a dead register is that row. -/
theorem over_dead (r : VRow) : (RegVal.v r).over 0xFFFF (.v VRow.init) = .v VRow.init := by
  have hmask : r.pmask &&& ~~~(0xFFFF : BitVec 16) = 0 := by
    rw [show ~~~(0xFFFF : BitVec 16) = 0 by decide]
    exact BitVec.and_zero
  have hwrite : writeRow r 0xFFFF (fun l => VRow.init.lanes[l]) VRow.init.tag = VRow.init := by
    unfold writeRow
    rw [if_neg (by decide), hmask]
    refine (if_neg (fun h => h.2 rfl)).trans (congrArg (fun v => (⟨v, .dead, 0, 0⟩ : VRow)) (Vector.ext fun i hi => ?_))
    rw [Vector.getElem_ofFn, if_pos]
    · rfl
    · rw [show (0xFFFF : BitVec 16) = BitVec.allOnes 16 from rfl, BitVec.getLsbD_allOnes, decide_eq_true hi]
  show RegVal.v (poisonRow (writeRow r 0xFFFF (fun l => VRow.init.lanes[l]) VRow.init.tag) _ _) = _
  rw [hwrite]
  rfl

theorem write_entry (s : State) (r : RegName) (m : BitVec 16) (x : RegVal) (whole : Bool) (h : s.unwritten r = true) :
    ∃ e : LogEntry, e.reg = r ∧ s.write r m x whole = { s.store r ((s.cur r).over m x) with
      sp := { (s.store r ((s.cur r).over m x)).sp with wlog := e :: (s.store r ((s.cur r).over m x)).sp.wlog } } := by
  unfold State.unwritten Split.unwritten at h
  simp only [Bool.and_eq_true, List.isEmpty_iff] at h
  obtain ⟨⟨h1, h2⟩, h3⟩ := h
  refine ⟨⟨s.tick, s.sp.pos, r, m, s.cur r, x, true, whole⟩, rfl, ?_⟩
  unfold State.write
  simp only [h1, h2, siblingLate_nil s r h3, List.append_nil, List.isEmpty_nil, if_true, Bool.not_true, Bool.false_and,
    Bool.false_eq_true, if_false]

/-- R96: a register that its window has not written, made dead. -/
theorem killV_eq {s : State} {n : Nat} (h : s.unwritten (.v n) = true) : ∃ (e : LogEntry) (a : List Nat), e.reg = .v n ∧
    (∀ k, k ∈ a ↔ k = n ∨ k ∈ s.g.absent) ∧
    s.killV n = { s with g := { s.g with vregs := vset s.g.vregs n VRow.init, absent := a },
                         sp := { s.sp with wlog := e :: s.sp.wlog } } := by
  obtain ⟨e, he, hw⟩ := write_entry s (.v n) 0xFFFF (.v VRow.init) false h
  rw [show s.cur (.v n) = .v (s.curV n) from rfl, over_dead] at hw
  refine ⟨e, if s.g.absent.contains n then s.g.absent else n :: s.g.absent, he, fun k => ?_, ?_⟩
  · split
    · rename_i hc
      have := List.contains_iff_mem.1 hc
      constructor
      · exact .inr
      · rintro (rfl | hk)
        · exact this
        · exact hk
    · exact List.mem_cons
  · unfold State.killV
    rw [hw]
    rfl

theorem foldl_killV (l : List Nat) (hd : l.Nodup) (s : State) (hu : ∀ k ∈ l, k < 128 ∧ s.unwritten (.v k) = true) :
    let t := l.foldl (fun s k => s.killV k) s
    (∀ k ∈ l, t.curV k = VRow.init ∧ k ∈ t.g.absent) ∧ ∀ k, k ∉ l → t.curV k = s.curV k ∧ (k ∈ s.g.absent → k ∈ t.g.absent) := by
  induction l generalizing s with
  | nil =>
    intro t
    exact ⟨fun k hk => (List.not_mem_nil hk).elim, fun k _ => ⟨rfl, id⟩⟩
  | cons n l ih =>
    obtain ⟨hn, hd⟩ := List.nodup_cons.1 hd
    obtain ⟨e, a, he, ha, hkill⟩ := killV_eq (hu n (.head _)).2
    obtain ⟨hin, hout⟩ := ih hd (s.killV n) (fun k hk => by
      have hne : ¬ e.reg = .v k := fun h => hn (by rw [he] at h; cases h; exact hk)
      obtain ⟨hlt, hun⟩ := hu k (.tail _ hk)
      refine ⟨hlt, ?_⟩
      rw [hkill]
      unfold State.unwritten Split.unwritten logOf at hun ⊢
      rw [List.filter_cons_of_neg (by simpa using hne)]
      exact hun)
    rw [List.foldl_cons]
    refine ⟨fun k hk => ?_, fun k hk => ?_⟩
    · rcases List.mem_cons.1 hk with rfl | hk
      · obtain ⟨hv, habs⟩ := hout k hn
        refine ⟨hv.trans ?_, habs ?_⟩
        · rw [hkill]
          exact vget_vset_same _ _ _ _ (hu k (.head _)).1
        · rw [hkill]
          exact (ha k).2 (.inl rfl)
      · exact hin k hk
    · obtain ⟨hne, hnl⟩ := not_or.1 (mt List.mem_cons.2 hk)
      obtain ⟨hv, habs⟩ := hout k hnl
      refine ⟨hv.trans ?_, fun hk => habs ?_⟩
      · rw [hkill]
        exact vget_vset_other _ _ _ _ _ hne
      · rw [hkill]
        exact (ha k).2 (.inr hk)

theorem liveDead_completes {s : State} {sb : Bool} {b : VReg} {n : Byte} (h : s.ready (.liveDead sb b n) = true)
    (hn : b.val + n.toNat ≤ 128) (hu : ∀ k, s.unwritten (.v k) = true) :
    ∃ t, Completes (.liveDead sb b n) s t ∧
      (∀ k, b.val ≤ k → k < b.val + n.toNat → t.curV k = VRow.init ∧ k ∈ t.g.absent) ∧
      (∀ k, ¬ (b.val ≤ k ∧ k < b.val + n.toNat) → t.curV k = s.curV k) := by
  have hmem : ∀ k, k ∈ (List.range n.toNat).map (fun k => b.val + k) ↔ b.val ≤ k ∧ k < b.val + n.toNat := by
    intro k
    simp only [List.mem_map, List.mem_range]
    constructor
    · rintro ⟨j, hj, rfl⟩
      omega
    · rintro ⟨hl, hk⟩
      exact ⟨k - b.val, by omega, by omega⟩
  have hd : ((List.range n.toNat).map (fun k => b.val + k)).Nodup :=
    List.nodup_range.map (fun a c h => Nat.add_left_cancel h)
  obtain ⟨hin, hout⟩ := foldl_killV _ hd s (fun k hk => ⟨by have := (hmem k).1 hk; omega, hu k⟩)
  rw [List.foldl_map] at hin hout
  exact ⟨_, completes_of_ok (exec_liveDead ..) h rfl, fun k hl hk => hin k ((hmem k).2 ⟨hl, hk⟩),
    fun k hk => (hout k (mt (hmem k).1 hk)).1⟩

theorem RegsKept.sp {s t : State} (h : RegsKept s t) : t.sp = s.sp := by
  obtain ⟨hsp, -, -⟩ := h
  exact hsp

theorem RegsKept.sharedRegs {s t : State} (h : RegsKept s t) :
    t.g.shi = s.g.shi ∧ t.g.ahi = s.g.ahi ∧ t.g.preds = s.g.preds ∧ t.g.qregs = s.g.qregs := by
  obtain ⟨-, -, _, _, _, hg⟩ := h
  rw [hg]
  exact ⟨rfl, rfl, rfl, rfl⟩

theorem liveFetch_keeps {s : State} {sb : Bool} {b : VReg} {n : Byte} (h : s.ready (.liveFetch sb b n) = true) :
    ∃ t, Completes (.liveFetch sb b n) s t ∧ t.sp = s.sp ∧ t.mem = s.mem ∧ (∀ k, t.curV k = s.curV k) ∧
      t.g.shi = s.g.shi ∧ t.g.ahi = s.g.ahi ∧ t.g.preds = s.g.preds ∧ t.g.qregs = s.g.qregs := by
  have hk := wide_makeRoom_kept
    { s with g := { s.g with absent := s.g.absent.filter (fun r => !(b.val ≤ r && r < b.val + n.toNat)) } } s.here (s.g.tid, b.val)
  exact ⟨_, completes_of_ok (exec_liveFetch ..) h rfl, hk.sp, hk.mem, hk.curV, hk.sharedRegs⟩

/-- A split that goes back among the others and issues again leaves the machine as it was. -/
theorem refocus_unfocus {s : State} (hr : s.running = true) (hs : ∀ q ∈ s.g.splits, q.sid ≠ s.sp.sid)
    (hg : ∀ g ∈ s.groups, g.tid ≠ s.g.tid) : s.unfocus.refocus s.g.tid s.sp.sid s.todo = s := by
  have hsplits : (s.sp :: s.g.splits).filter (fun q => q.sid != s.sp.sid) = s.g.splits := by
    rw [List.filter_cons_of_neg (by simp)]
    exact List.filter_eq_self.2 fun q hq => bne_iff_ne.2 (hs q hq)
  have hgroups : s.unfocus.groups.filter (fun q => q.tid != s.g.tid) = s.groups := by
    rw [unfocus_groups hr, List.filter_cons_of_neg (by simp)]
    exact List.filter_eq_self.2 fun g hm => bne_iff_ne.2 (hg g hm)
  rw [refocus_some (unfocus_group? hr) (split?_head s.g s.sp s.g.splits), hgroups]
  dsimp only
  rw [hsplits]
  unfold State.unfocus
  rw [if_pos hr, ← hr]

theorem wide_id {s : State} (hr : s.running = true) (hs : ∀ q ∈ s.g.splits, q.sid ≠ s.sp.sid)
    (hg : ∀ g ∈ s.groups, g.tid ≠ s.g.tid) {f : State → State} (hf : f s.unfocus = s.unfocus) : s.wide f = s := by
  refine (if_pos hr).trans ?_
  rw [hf]
  exact refocus_unfocus hr hs hg

theorem makeRoom_fits {s : State} {core : Nat} (h : (s.heldRows core).length ≤ 8192) (kept : Nat × Nat) : s.makeRoom core kept = s := by
  rw [State.makeRoom, Nat.sub_eq_zero_of_le h]
  rfl

theorem liveFetch_fits {s : State} {sb : Bool} {b : VReg} {n : Byte} {l : List Nat} (h : s.ready (.liveFetch sb b n) = true)
    (hs : ∀ q ∈ s.g.splits, q.sid ≠ s.sp.sid) (hg : ∀ g ∈ s.groups, g.tid ≠ s.g.tid)
    (hl : l = s.g.absent.filter (fun r => !(b.val ≤ r && r < b.val + n.toNat)))
    (hroom : (({ s with g := { s.g with absent := l } } : State).unfocus.heldRows s.here).length ≤ 8192) :
    Completes (.liveFetch sb b n) s { s with g := { s.g with absent := l } } := by
  have hr := ((ready_iff s _).1 h).1
  refine completes_of_ok (exec_liveFetch ..) h (congrArg Except.ok ?_)
  subst hl
  exact wide_id (s := { s with g := { s.g with absent := s.g.absent.filter (fun r => !(b.val ≤ r && r < b.val + n.toNat)) } })
    hr hs hg (makeRoom_fits hroom _)

/-- Settles O15: each instruction's own lemma. -/
theorem exitYieldInspectLive : Obligations.ExitYieldInspectLive := by
  refine ⟨fun s sb x => ⟨fun h hh ht => exit_lanes hh ht h, fun h hh ht hl hf => exit_task hh ht hl hf h, fun p => exit_leaves,
    exit_handler, yield_completes, fun h => ?_, fun h => ?_, fun h => completes_of_ok (exec_sinfoCount ..) h rfl, fun e h hh he => ?_,
    fun hs p e h hh hhs hp he => ?_, fun hs p h hh hhs hp he => ?_, fun h => completes_of_ok (exec_sinfoDepth ..) h rfl,
    fun h => completes_of_ok (exec_sinfoOvf ..) h rfl⟩,
    fun s sb b n => ⟨fun i hi hr ha hn => ?_, fun h _ => liveDead_completes h, liveFetch_keeps, fun l => liveFetch_fits⟩⟩
  · exact completes_of_ok (exec_sinfoLanes ..) h (by rw [setWidth_eq_ofNat])
  · exact completes_of_ok (exec_sinfoExec ..) h (by rw [setWidth_eq_ofNat])
  · exact sinfoId_some h ((entryOf_plain hh).trans he)
  · exact sinfoId_some h ((entryOf_handler hh hhs hp).trans he)
  · exact sinfoId_none h ((entryOf_handler hh hhs hp).trans he)
  · simp only [List.mem_cons, List.not_mem_nil, or_false] at hi
    rcases hi with rfl | rfl
    · exact live_regrange rfl rfl rfl hr ha hn
    · exact live_regrange rfl rfl rfl hr ha hn

end Sys2Proof.Machine
end

section
/-!
PROOFS. Why the frame of scalar instructions fails: LIVE.fetch makes room for rows of its own although none of them is absent
(R96, R167).
-/

namespace Sys2Proof.Machine

open Sys2Proof Sys2Proof.Laws

/-- R167: the rows of a core that may leave its register file. -/
def State.freeRows (s : State) (core : Nat) (kept : Nat × Nat) : List (Nat × Nat) :=
  (s.heldRows core).filter (fun r => r ≠ kept && !s.awaitsRow core r)

/-- R167: one of the rows that may leave does so, where there is one. -/
theorem evictOne_cases (s : State) (core : Nat) (kept : Nat × Nat) :
    (s.freeRows core kept = [] ∧ s.evictOne core kept = s) ∨
    ∃ q ∈ s.freeRows core kept, s.evictOne core kept = s.updGroup q.1 (fun g => { g with absent := q.2 :: g.absent }) := by
  unfold State.evictOne
  dsimp only
  rw [← State.freeRows]
  generalize s.freeRows core kept = rows
  generalize hi : rows.filter (fun q => ((s.group? q.1).map (fun g => g.splits.all Split.parked)).getD false) = idle
  have hmem : ∀ q ∈ idle, q ∈ rows := fun q hq => List.mem_of_mem_filter (hi ▸ hq)
  cases idle with
  | nil =>
    dsimp only
    split
    · rename_i q hmax
      exact .inr ⟨q, (maxBy_eq_some hmax).1, rfl⟩
    · rename_i hmax
      exact .inl ⟨maxBy_eq_none hmax, rfl⟩
  | cons q l =>
    have hlt : s.free .order (16 * rows.length + 10) % (q :: l).length < (q :: l).length := Nat.mod_lt _ (Nat.succ_pos _)
    dsimp only
    rw [List.getElem?_eq_getElem hlt]
    exact .inr ⟨_, hmem _ (List.getElem_mem hlt), rfl⟩

theorem mem_freeRows {s : State} {core : Nat} {kept q : Nat × Nat} (h : q ∈ s.freeRows core kept) : q ∈ s.heldRows core ∧ q ≠ kept := by
  obtain ⟨hheld, htest⟩ := List.mem_filter.1 h
  rw [Bool.and_eq_true, decide_eq_true_eq] at htest
  exact ⟨hheld, htest.1⟩

/-- R96, R167: LIVE.fetch makes room also where no row of its group is out of the register file. -/
theorem liveFetch_present {s : State} {sb : Bool} {b : VReg} {n : Byte} (h : s.ready (.liveFetch sb b n) = true) (ha : s.g.absent = []) :
    Completes (.liveFetch sb b n) s ((s.unfocus.makeRoom s.here (s.g.tid, b.val)).refocus s.g.tid s.sp.sid s.todo) := by
  have hg : { s.g with absent := s.g.absent.filter (fun r => !(b.val ≤ r && r < b.val + n.toNat)) } = s.g := by
    rw [ha, List.filter_nil, ← ha]
  refine completes_of_ok (exec_liveFetch ..) h (congrArg Except.ok ?_)
  rw [hg]
  exact if_pos ((ready_iff s _).1 h).1

/-- A group of task 1 that declares `n` vector registers, all of them in the register file. -/
def holder (n : Nat) : Group := { Group.init with tid := 1, record := BitVec.ofNat 2048 (n * 2 ^ 128) }

/-- A group with one register issues while the core's register file holds 8,193 rows, one more than R167 allows. -/
def overfull : State := { State.reset with
  running := true, g := { Group.init with record := BitVec.ofNat 2048 (2 ^ 128) }
  groups := holder 32 :: List.replicate 32 (holder 255) }

theorem overfull_rows : (overfull.unfocus.heldRows 0).length = 8193 := by decide +kernel

theorem overfull_other {q : Nat × Nat} (h : q ∈ overfull.unfocus.heldRows 0) (hq : q ≠ (0, 0)) : q.1 = 1 := by
  obtain ⟨g, hg, hm⟩ := List.mem_flatMap.1 h
  obtain ⟨n, hn, rfl⟩ := List.mem_map.1 hm
  have hg := (List.mem_filter.1 hg).1
  rw [unfocus_groups rfl, List.mem_cons, overfull, List.mem_cons, List.mem_replicate] at hg
  rcases hg with rfl | rfl | ⟨-, rfl⟩
  · have hone : tVregs overfull.g.record = 1 := by decide +kernel
    have hlt : n < tVregs overfull.g.record := List.mem_range.1 (List.mem_filter.1 hn).1
    rw [hone, Nat.lt_one_iff] at hlt
    exact absurd (congrArg (Prod.mk 0) hlt) hq
  · rfl
  · rfl

/-- The register file gives up a row of the other task. -/
theorem overfull_makeRoom : ∃ n, overfull.unfocus.makeRoom 0 (0, 0) =
    overfull.unfocus.updGroup 1 (fun g => { g with absent := n :: g.absent }) := by
  rcases evictOne_cases overfull.unfocus 0 (0, 0) with ⟨hnone, -⟩ | ⟨q, hq, he⟩
  · have hfree : (1, 0) ∈ overfull.unfocus.freeRows 0 (0, 0) := by decide +kernel
    rw [hnone] at hfree
    cases hfree
  · rw [overfull_other (mem_freeRows hq).1 (mem_freeRows hq).2] at he
    refine ⟨q.2, ?_⟩
    rw [State.makeRoom, overfull_rows, show 8193 - 8192 = 1 from rfl, List.range_one, List.foldl_cons, List.foldl_nil, he]

theorem overfull_ready : overfull.ready (.liveFetch false 0 1) = true := by decide +kernel

/-- The step ends the position of the issuing split and leaves task 1 with a row out of the register file. -/
def sendsRowOut : Host.Outcome State Fault Refusal → Bool
  | .next u => (u.groupSeen 0).isSome && (u.splitSeen 0 0).any (fun p => p.pos == 1) && (u.groupSeen 1).any (fun g => g.absent != [])
  | _ => false

theorem liveFetch_overfull : sendsRowOut (exec (.liveFetch false 0 1) overfull) = true := by
  obtain ⟨n, hn⟩ := overfull_makeRoom
  have hx : Completes (.liveFetch false 0 1) overfull ((overfull.unfocus.makeRoom 0 (0, 0)).refocus 0 0 []) :=
    liveFetch_present overfull_ready rfl
  rw [hx, hn]
  rfl

/-- Refutes O55: in a register file that holds a row too many, LIVE.fetch of a row that is present sends out a row of another
task, although the issuing group had every row of its own in the register file. -/
theorem not_registerFrames : ¬ Obligations.RegisterFrames := by
  intro h
  have hout := liveFetch_overfull
  cases hu : exec (.liveFetch false 0 1) overfull with
  | next u =>
    rw [hu] at hout
    simp only [sendsRowOut, Bool.and_eq_true, Option.any_eq_true, Option.isSome_iff_exists, bne_iff_ne, beq_iff_eq] at hout
    obtain ⟨⟨⟨g, hg⟩, p, hp, hpos⟩, k, hk, habsent⟩ := hout
    obtain ⟨-, -, -, -, -, -, -, -, -, -, hothers, -⟩ := h overfull (.liveFetch false 0 1) u g p (.inl rfl) hu hg hp hpos
    have hkept := hothers 1 (by decide)
    rw [hk] at hkept
    exact habsent (congrArg Group.absent (Option.some.inj hkept))
  | _ =>
    rw [hu] at hout
    cases hout

end Sys2Proof.Machine
end

section
/-!
PROOFS. Steps of a core that answer what splits wait for: window ends, rows and walks (R159, R162, R166, R326, R382).
-/

namespace Sys2Proof.Machine

open Sys2Proof Sys2Proof.Laws

theorem event_idle {s : State} (h : s.running = false) (f : State → State) : event s f = .next (f s) := by
  rw [event, unfocus_idle h]

/-! ### The end of a window -/

theorem noteHandler_none {g : Group} (h : g.handler = none) (p : Split) : g.noteHandler p = g := by
  unfold Group.noteHandler
  split
  · rw [h, Option.map_none, ← h]
  · rfl

theorem updSplit_split? (g : Group) (sid : Nat) {f : Split → Split} (hf : ∀ p, (f p).sid = p.sid) :
    (g.updSplit sid f).split? sid = (g.split? sid).map f := by
  rw [Group.split?, Group.updSplit, find?_updWhere (fun p _ => by rw [hf])]
  cases h : g.splits.find? (fun p => p.sid == sid) with
  | none => rw [Group.split?, h]; rfl
  | some p =>
    rw [Group.split?, h, Option.map_some, Option.map_some, if_pos (List.find?_some h)]

theorem absorb_split? {g : Group} {sid : Nat} {p : Split} (hp : g.split? sid = some p) (q : Split) :
    ∃ r, (g.absorb q).split? sid = some r ∧ LogsOnly p r := by
  obtain ⟨k, hk, hlogs⟩ := absorb_splits g q
  refine ⟨k p, ?_, hlogs p⟩
  have hsid : ((fun p : Split => p.sid == sid) ∘ k) = fun p => p.sid == sid := by
    funext r
    obtain ⟨_, _, _, hr⟩ := hlogs r
    rw [Function.comp_apply, hr]
  rw [hk, Group.split?, List.find?_map, hsid]
  rw [Group.split?] at hp
  rw [hp]
  rfl

/-- A 32-bit count that stays at its highest value. -/
theorem saturated (w : Word) : (if w = 0xFFFFFFFF then w else w + 1).toNat = min (w.toNat + 1) (2 ^ 32 - 1) := by
  split
  · rename_i h
    rw [h]
    rfl
  · rename_i h
    have hne : w.toNat ≠ 2 ^ 32 - 1 := fun he => h (BitVec.eq_of_toNat_eq he)
    have hlt := w.isLt
    rw [BitVec.toNat_add]
    show (w.toNat + 1) % 2 ^ 32 = _
    omega

/-- R326: a completed window counts, up to the highest count. -/
theorem countWindow_coxWin (g : Group) (time : Nat) : (g.countWindow time).coxWin.toNat = min (g.coxWin.toNat + 1) (2 ^ 32 - 1) := by
  rw [← saturated]
  unfold Group.countWindow
  split
  · rfl
  · rfl

section
variable {s : State} {tid sid : Nat} {g : Group} {p : Split}

/-- R159: a window of which everything has completed without a trap ends. -/
theorem completeWindow_eq (hg : s.group? tid = some g) (hp : g.split? sid = some p) (hst : p.st = .win) (hf : s.inFlight g sid = false)
    (hstop : p.stopped = false) (he : p.entry.isSome = true) (hw : p.wtrap = none) :
    s.completeWindow tid sid = State.atEdge ((s.leaveEntries tid sid).updGroup tid (fun g =>
      (((g.absorb p).noteHandler p).updSplit sid Split.newWindow).countWindow s.time)) tid sid := by
  have hn : p.entry.isNone = false := by rw [← Option.not_isSome, he]; rfl
  unfold State.completeWindow
  rw [hg]
  dsimp only
  rw [hp]
  dsimp only
  rw [hst, hstop, hn, hf, hw]
  rfl

/-- R162: a new window begins whatever the logs of the last one say. -/
theorem newWindow_of_logsOnly {p r : Split} (h : LogsOnly p r) : r.newWindow = p.newWindow := by
  obtain ⟨_, _, _, rfl⟩ := h
  rfl

/-- R159, R162: the group whose split starts its next window. -/
theorem windowEnds (hg : s.group? tid = some g) (hp : g.split? sid = some p) (hh : g.handler = none) :
    ∃ n m o splits, ((s.leaveEntries tid sid).updGroup tid (fun g =>
      (((g.absorb p).noteHandler p).updSplit sid Split.newWindow).countWindow s.time)).group? tid =
        some { g with coxWin := n, wdogMark := m, wdogOff := o, splits := splits } ∧
      n.toNat = min (g.coxWin.toNat + 1) (2 ^ 32 - 1) ∧ Group.split? { g with splits := splits } sid = some p.newWindow := by
  obtain ⟨k, hk, -⟩ := absorb_splits g p
  have hnote : (g.absorb p).noteHandler p = g.absorb p := noteHandler_none (by rw [hk]; exact hh) p
  obtain ⟨n, m, o, hc⟩ := countWindow_eq ((g.absorb p).updSplit sid Split.newWindow) s.time
  have hn : n.toNat = min (g.coxWin.toNat + 1) (2 ^ 32 - 1) := by
    have h := countWindow_coxWin ((g.absorb p).updSplit sid Split.newWindow) s.time
    rwa [hc, hk] at h
  obtain ⟨r, hr, hlogs⟩ := absorb_split? hp p
  have hsplit := (updSplit_split? (g.absorb p) sid (f := Split.newWindow) (fun _ => rfl)).trans (congrArg (Option.map Split.newWindow) hr)
  rw [Option.map_some, newWindow_of_logsOnly hlogs] at hsplit
  refine ⟨n, m, o, ((g.absorb p).updSplit sid Split.newWindow).splits, ?_, hn, hsplit⟩
  rw [updGroup_group? _ (fun q hq => ?_)]
  · rw [State.group?] at hg
    rw [State.group?, State.leaveEntries, hg, Option.map_some, hnote, hc, hk]
    rfl
  · obtain ⟨_, _, _, hcq⟩ := countWindow_eq (((q.absorb p).noteHandler p).updSplit sid Split.newWindow) s.time
    obtain ⟨kq, hkq, -⟩ := absorb_splits q p
    rw [hcq, hkq]
    unfold Group.noteHandler
    split <;> exact hq

theorem windowComplete_results (hs : s.running = false) (hg : s.group? tid = some g) (hp : g.split? sid = some p) (hst : p.st = .win)
    (hf : s.inFlight g sid = false) (hstop : p.stopped = false) (he : p.entry.isSome = true) (hw : p.wtrap = none)
    (ht : g.traps = []) (hd : g.deferred = []) (hh : g.handler = none) (hwd : g.wdog = false) (hc : g.cancel = false) :
    ∃ t g' q, exec (.windowComplete tid sid) s = .next t ∧ t.groupSeen tid = some g' ∧ t.splitSeen tid sid = some q ∧ q.st = .run ∧
      q.wpc = p.pc ∧ q.pc = p.pc ∧ q.wcm = 0 ∧ q.pos = 0 ∧ q.slo = p.slo ∧ q.alo = p.alo ∧ q.mode = p.mode ∧ q.lanes = p.lanes ∧
      q.joins = p.joins ∧ q.rets = p.rets ∧ q.loop = p.loop ∧ g'.coxWin.toNat = min (g.coxWin.toNat + 1) (2 ^ 32 - 1) ∧
      g'.vregs = g.vregs ∧ g'.shi = g.shi ∧ g'.preds = g.preds ∧ g'.qregs = g.qregs ∧ t.mem = s.mem := by
  obtain ⟨n, m, o, splits, hgroup, hn, hsplit⟩ := windowEnds hg hp hh
  have hexec := (exec_windowComplete tid sid s).trans ((event_idle hs (fun s => s.completeWindow tid sid)).trans
    (congrArg _ ((completeWindow_eq hg hp hst hf hstop he hw).trans (atEdge_none hgroup ht hc hd hwd hh))))
  exact ⟨_, _, p.newWindow, hexec, groupSeen_of_group? hs hgroup, (splitSeen_of_group? (by exact hs) hgroup sid).trans hsplit, rfl, rfl, rfl, rfl,
    rfl, rfl, rfl, rfl, rfl, rfl, rfl, rfl, hn, rfl, rfl, rfl, rfl, rfl⟩
end

/-! ### Rows that arrive -/

/-- R167: making room leaves in the register file the row that it makes room for. -/
theorem evictOne_group? {s : State} {kept : Nat × Nat} {g : Group} (hg : s.group? kept.1 = some g) (hk : kept.2 ∉ g.absent)
    (core : Nat) : ∃ a, (s.evictOne core kept).group? kept.1 = some { g with absent := a } ∧ kept.2 ∉ a := by
  rcases evictOne_cases s core kept with ⟨-, he⟩ | ⟨q, hq, he⟩
  · exact ⟨g.absent, by rw [he, hg], hk⟩
  · rw [he]
    by_cases hqt : kept.1 = q.1
    · have hg' := updGroup_group? s (tid := q.1) (f := fun g => { g with absent := q.2 :: g.absent }) (fun _ h => h)
      rw [← hqt, hg] at hg'
      rw [← hqt]
      refine ⟨_, hg', fun hmem => ?_⟩
      rcases List.mem_cons.1 hmem with h | h
      · exact (mem_freeRows hq).2 (Prod.ext hqt.symm h.symm)
      · exact hk h
    · exact ⟨g.absent, (updGroup_group?_other s hqt (by exact fun _ h => h)).trans hg, hk⟩

theorem makeRoom_group? {s : State} {kept : Nat × Nat} {g : Group} (hg : s.group? kept.1 = some g) (hk : kept.2 ∉ g.absent)
    (core : Nat) : ∃ a, (s.makeRoom core kept).group? kept.1 = some { g with absent := a } ∧ kept.2 ∉ a := by
  unfold State.makeRoom
  generalize List.range ((s.heldRows core).length - 8192) = l
  induction l generalizing s g with
  | nil => exact ⟨g.absent, hg, hk⟩
  | cons n l ih =>
    obtain ⟨a, ha, hka⟩ := evictOne_group? hg hk core
    exact ih (g := { g with absent := a }) ha hka

theorem makeRoom_mem (s : State) (core : Nat) (kept : Nat × Nat) : (s.makeRoom core kept).mem = s.mem := by
  obtain ⟨h, -, he⟩ := makeRoom_groups s core kept
  rw [he]

/-- R166: a row arrives, and the splits that waited for it go on. -/
def Group.filled (reg : Nat) (g : Group) : Group :=
  { g with absent := g.absent.filter (fun r => r != reg),
           splits := g.splits.map (fun p => if p.st = .res reg then { p with st := .run } else p) }

theorem filled_waits (reg : Nat) (g : Group) : ∀ q ∈ (g.filled reg).splits, q.st ≠ .res reg := by
  intro q hq
  obtain ⟨p, -, rfl⟩ := List.mem_map.1 hq
  split
  · exact fun h => by cases h
  · assumption

theorem rowFill_eq {s : State} {tid reg : Nat} {g : Group} {p : Split} (hg : s.group? tid = some g) (hp : p ∈ g.splits)
    (hst : p.st = .res reg) : s.rowFill tid reg = (s.updGroup tid (Group.filled reg)).makeRoom g.core (tid, reg) := by
  have hany : g.splits.any (fun p => p.st == .res reg) = true := List.any_eq_true.2 ⟨p, hp, by rw [hst, beq_self_eq_true]⟩
  unfold State.rowFill
  rw [hg]
  dsimp only
  rw [hany]
  rfl

theorem residencyFill_results {s : State} (hs : s.running = false) {tid reg : Nat} {g : Group} {p : Split} (hg : s.group? tid = some g)
    (hp : p ∈ g.splits) (hst : p.st = .res reg) :
    ∃ t g', exec (.residencyFill tid reg) s = .next t ∧ t.group? tid = some g' ∧ reg ∉ g'.absent ∧
      (∀ q ∈ g'.splits, q.st ≠ .res reg) ∧ g'.vregs = g.vregs ∧ t.mem = s.mem := by
  have hfilled := updGroup_group? s (tid := tid) (f := Group.filled reg) (fun _ h => h)
  rw [hg, Option.map_some] at hfilled
  have hin : reg ∉ (g.filled reg).absent := fun h => absurd rfl (bne_iff_ne.1 (List.mem_filter.1 h).2)
  obtain ⟨a, ha, hka⟩ := makeRoom_group? (kept := (tid, reg)) hfilled hin g.core
  have hexec := (exec_residencyFill tid reg s).trans ((event_idle hs (fun s => s.rowFill tid reg)).trans
    (congrArg _ (rowFill_eq hg hp hst)))
  exact ⟨_, _, hexec, ha, hka, filled_waits reg g, rfl, makeRoom_mem ..⟩

/-! ### Walks -/

/-- A change of each core of a list that names none twice. -/
theorem foldl_updCore_core? {f : CoreSt → CoreSt} (hf : ∀ k, (f k).id = k.id) {l : List Nat} (hl : l.Nodup) (s : State) (d : Nat) :
    (l.foldl (fun s c => s.updCore c f) s).core? d = if d ∈ l then f (s.core? d) else s.core? d := by
  induction l generalizing s with
  | nil => rfl
  | cons c l ih =>
    obtain ⟨hc, hl⟩ := List.nodup_cons.1 hl
    rw [List.foldl_cons, ih hl]
    by_cases hd : d = c
    · subst hd
      rw [if_neg hc, if_pos List.mem_cons_self, core?_updCore_same s d hf]
    · rw [core?_updCore_other s hd hf]
      simp only [List.mem_cons, hd, false_or]

/-- What the fold of changes of cores leaves alone. -/
theorem foldl_updCore_eq (f : CoreSt → CoreSt) (l : List Nat) (s : State) :
    ∃ cs, l.foldl (fun s c => s.updCore c f) s = { s with cores := cs } := by
  induction l generalizing s with
  | nil => exact ⟨s.cores, rfl⟩
  | cons c l ih =>
    obtain ⟨cs, h⟩ := ih (s.updCore c f)
    exact ⟨cs, by rw [List.foldl_cons, h]; rfl⟩

/-- R382: what a walk brings: its own result, or the one that the shared TLB of the die holds. -/
def State.walked (s : State) (core tenant page : Nat) : TlbEntry :=
  s.pick .memoryRace (16 * page + 7) (s.walkNow tenant page) (s.sharedTlb core tenant page)

theorem walked_cases (s : State) (core tenant page : Nat) : s.walked core tenant page = s.walkNow tenant page ∨
    (core / 128, s.walked core tenant page) ∈ s.dtlb ∧ (s.walked core tenant page).tenant = tenant ∧
      (s.walked core tenant page).page = page := by
  rcases List.mem_cons.1 (pick_mem s .memoryRace (16 * page + 7) (s.walkNow tenant page) (s.sharedTlb core tenant page)) with h | h
  · exact .inl h
  · obtain ⟨⟨d, e⟩, hx, he⟩ := List.mem_map.1 h
    obtain ⟨hmem, htest⟩ := List.mem_filter.1 hx
    simp only [Bool.and_eq_true, beq_iff_eq] at htest
    obtain ⟨⟨hd, ht⟩, hp⟩ := htest
    subst hd
    refine .inr ?_
    rw [State.walked, ← he]
    exact ⟨hmem, ht, hp⟩

/-- R382: a core's TLB takes a translation in, before all others. -/
def CoreSt.takeTlb (e : TlbEntry) (tenant page : Nat) (c : CoreSt) : CoreSt :=
  { c with tlb := (e :: c.tlb.filter (fun x => !(x.tenant == tenant && x.page == page))).take 2048 }

theorem takeTlb_head (e : TlbEntry) (tenant page : Nat) (c : CoreSt) : (c.takeTlb e tenant page).tlb.head? = some e := rfl

theorem takeTlb_length (e : TlbEntry) (tenant page : Nat) (c : CoreSt) : (c.takeTlb e tenant page).tlb.length ≤ 2048 :=
  List.length_take_le ..

/-- R382: the core of a walk and the cores of its die with a miss on the page. -/
def State.walkCores (s : State) (core tenant page : Nat) : List Nat :=
  (core :: (s.groups.filter (fun g => g.walks (dieOf core) tenant page)).map (·.core)).dedup

/-- R382: the shared TLBs, that of a die holding `e` for a page. -/
def dtlbWith (l : List (Nat × TlbEntry)) (die tenant page : Nat) (e : TlbEntry) : List (Nat × TlbEntry) :=
  let others := l.filter (fun x => !(x.1 == die && x.2.tenant == tenant && x.2.page == page))
  (die, e) :: (others.filter (fun (x : Nat × TlbEntry) => x.1 != die) ++
    (others.filter (fun (x : Nat × TlbEntry) => x.1 == die)).take 65535)

/-- R382: a split that waits for the walk of a page goes on. -/
def Split.walkOver (page : Nat) (p : Split) : Split := if p.st = .walk page then { p with st := .run } else p

theorem walkEnd_eq (s : State) (core tenant page : Nat) :
    ∃ cs, s.walkEnd core tenant page = { s with
      cores := cs, dtlb := dtlbWith s.dtlb (dieOf core) tenant page (s.walked core tenant page)
      groups := updWhere (fun g => g.walks (dieOf core) tenant page) (fun g => { g with splits := g.splits.map (Split.walkOver page) })
        s.groups } ∧
      ∀ d, d ∈ s.walkCores core tenant page →
        (s.walkEnd core tenant page).core? d = (s.core? d).takeTlb (s.walked core tenant page) tenant page := by
  obtain ⟨cs, hcs⟩ := foldl_updCore_eq (CoreSt.takeTlb (s.walked core tenant page) tenant page) (s.walkCores core tenant page) s
  have heq : s.walkEnd core tenant page = { s with
      cores := cs, dtlb := dtlbWith s.dtlb (dieOf core) tenant page (s.walked core tenant page)
      groups := updWhere (fun g => g.walks (dieOf core) tenant page) (fun g => { g with splits := g.splits.map (Split.walkOver page) })
        s.groups } := by
    unfold State.walkEnd
    dsimp only
    rw [← State.walked, ← State.walkCores]
    exact congrArg (fun u : State => { u with
      dtlb := dtlbWith u.dtlb (dieOf core) tenant page (s.walked core tenant page)
      groups := updWhere (fun g => g.walks (dieOf core) tenant page) (fun g => { g with splits := g.splits.map (Split.walkOver page) })
        u.groups }) hcs
  refine ⟨cs, heq, fun d hd => ?_⟩
  have hfold := foldl_updCore_core? (f := CoreSt.takeTlb (s.walked core tenant page) tenant page) (fun _ => rfl)
    (List.nodup_dedup (core :: (s.groups.filter (fun g => g.walks (dieOf core) tenant page)).map (·.core))) s d
  rw [← State.walkCores, if_pos hd, hcs] at hfold
  rw [heq]
  exact hfold

theorem mem_dtlbWith {l : List (Nat × TlbEntry)} {die tenant page : Nat} {e : TlbEntry} {x : Nat × TlbEntry}
    (h : x ∈ dtlbWith l die tenant page e) (hd : x.1 = die) (ht : x.2.tenant = tenant) (hp : x.2.page = page) : x.2 = e := by
  rcases List.mem_cons.1 h with rfl | h
  · rfl
  · exfalso
    have hm : x ∈ l.filter (fun x => !(x.1 == die && x.2.tenant == tenant && x.2.page == page)) := by
      rcases List.mem_append.1 h with h | h
      · exact List.mem_of_mem_filter h
      · exact List.mem_of_mem_filter (List.mem_of_mem_take h)
    have htest := (List.mem_filter.1 hm).2
    rw [hd, ht, hp] at htest
    simp at htest

theorem walks_iff {g : Group} {die tenant page : Nat} : g.walks die tenant page = true ↔
    g.core / 128 = die ∧ g.tenant = tenant ∧ ∃ p ∈ g.splits, p.st = .walk page := by
  simp [Group.walks, dieOf, and_assoc]

theorem walkOver_st (page : Nat) (p : Split) : (p.walkOver page).st ≠ .walk page := by
  unfold Split.walkOver
  split
  · exact fun h => by cases h
  · assumption

theorem pageWalkComplete_results {s : State} (hs : s.running = false) (core tenant page : Nat) :
    ∃ t e, exec (.pageWalkComplete core tenant page) s = .next t ∧ t.mem = s.mem ∧
      (e = s.walkNow tenant page ∨ (core / 128, e) ∈ s.dtlb ∧ e.tenant = tenant ∧ e.page = page) ∧
      (t.core? core).tlb.head? = some e ∧ (t.core? core).tlb.length ≤ 2048 ∧ (core / 128, e) ∈ t.dtlb ∧
      (∀ x ∈ t.dtlb, x.1 = core / 128 → x.2.tenant = tenant → x.2.page = page → x.2 = e) ∧
      (∀ g ∈ t.groups, g.core / 128 = core / 128 → g.tenant = tenant → ∀ p ∈ g.splits, p.st ≠ .walk page) ∧
      ∀ g ∈ s.groups, g.core / 128 = core / 128 → g.tenant = tenant → (∃ p ∈ g.splits, p.st = .walk page) →
        (t.core? g.core).tlb.head? = some e := by
  obtain ⟨cs, heq, hcores⟩ := walkEnd_eq s core tenant page
  refine ⟨s.walkEnd core tenant page, s.walked core tenant page,
    (exec_pageWalkComplete ..).trans (event_idle hs (fun s => s.walkEnd core tenant page)), by rw [heq], walked_cases .., ?_, ?_, ?_, ?_, ?_, ?_⟩
  · rw [hcores core (List.mem_dedup.2 List.mem_cons_self), takeTlb_head]
  · rw [hcores core (List.mem_dedup.2 List.mem_cons_self)]
    exact takeTlb_length ..
  · rw [heq]
    exact List.mem_cons_self
  · rw [heq]
    exact fun x hx => mem_dtlbWith hx
  · rw [heq]
    intro g hg hd ht p hp
    obtain ⟨k, -, rfl⟩ := List.mem_map.1 hg
    by_cases hk : k.walks (dieOf core) tenant page = true
    · rw [if_pos hk] at hp
      obtain ⟨q, -, rfl⟩ := List.mem_map.1 hp
      exact walkOver_st page q
    · rw [if_neg hk] at hd ht hp
      exact fun hst => hk (walks_iff.2 ⟨hd, ht, p, hp, hst⟩)
  · intro g hg hd ht hw
    have hmem : g.core ∈ s.walkCores core tenant page :=
      List.mem_dedup.2 (List.mem_cons_of_mem _ (List.mem_map_of_mem (List.mem_filter.2 ⟨hg, walks_iff.2 ⟨hd, ht, hw⟩⟩)))
    rw [hcores _ hmem, takeTlb_head]

end Sys2Proof.Machine
end

section
/-!
PROOFS. The issue cycle of a side (R94, R208, R323, R325).
-/

namespace Sys2Proof.Machine

open Sys2Proof Sys2Proof.Laws

/-! ### The groups of a side as they enter a cycle -/

theorem sideGroups_eq (s : State) (core side : Nat) : s.sideGroups core side =
    s.groups.filter (fun g => g.core == core && decide (g.slot.map (fun i => i / 64) = some side)) := by
  refine List.filter_congr fun g _ => ?_
  cases g.slot with
  | none => rfl
  | some i => simp [beq_eq_decide]

/-- R325: a team without members has no task to mark. -/
theorem coxMark_none {t : TeamEntry} (h : t.members = []) (s : State) : s.coxMark t = none := by
  unfold State.coxMark
  rw [h]
  rfl

theorem marks_nil {s : State} {l : List TeamEntry} (h : ∀ k ∈ l, k.members = []) : l.filterMap s.coxMark = [] :=
  List.filterMap_eq_nil_iff.2 fun k hk => coxMark_none (h k hk) s

theorem weight_nil (g : Group) : g.weight [] = ((1 + tPrio g.record : Nat) : Int) := by
  unfold Group.weight
  simp

/-- R323: entering a cycle changes the credit, the age and the mark of readiness alone. -/
theorem enter_eq (g : Group) (marks : List Nat) : ∃ c a w, g.enter marks = { g with credit := c, age := a, wasReady := w } := by
  unfold Group.enter
  split
  · exact ⟨_, _, _, rfl⟩
  · split
    · exact ⟨_, g.age, g.wasReady, rfl⟩
    · exact ⟨_, _, _, rfl⟩

theorem enter_ready (g : Group) (marks : List Nat) : (g.enter marks).ready = g.ready := by
  obtain ⟨c, a, w, h⟩ := enter_eq g marks
  rw [h]
  rfl

/-- R323: a group that was ready in the last cycle gains its weight. -/
theorem enter_again {g : Group} (hr : g.ready = true) (hw : g.wasReady = true) :
    g.enter [] = { g with credit := g.credit + ((1 + tPrio g.record : Nat) : Int) } := by
  unfold Group.enter
  rw [if_neg (by rw [hr]; exact Bool.false_ne_true)]
  dsimp only
  rw [if_pos hw, weight_nil]

theorem enter_age {g : Group} (h : g.age < 960) (marks : List Nat) : (g.enter marks).age < 960 := by
  unfold Group.enter
  split
  · exact Nat.zero_lt_succ _
  · split
    · exact h
    · exact Nat.zero_lt_succ _

/-! ### The choice -/

/-- R323: a group's credit, ties to the lowest slot. -/
def Group.score (g : Group) : Int := g.credit * 512 - (g.slotNo : Int)

/-- R323, R94: where no group is overdue, the side issues for the one with the most credit of those that do not give way. -/
theorem chooseGroup_best {ready : List Group} {x : Group} (hx : x ∈ ready) (hway : x.giveWay = false) (hage : ∀ k ∈ ready, k.age < 960)
    (hbest : ∀ k ∈ ready, k = x ∨ k.giveWay = true ∨ k.score < x.score) : chooseGroup ready = some x := by
  have hdue : ready.filter (fun g => decide (960 ≤ g.age)) = [] :=
    List.filter_eq_nil_iff.2 fun k hk h => absurd (of_decide_eq_true h) (Nat.not_le.2 (hage k hk))
  have hopen : x ∈ ready.filter (fun g => !g.giveWay) := List.mem_filter.2 ⟨hx, by rw [hway]; rfl⟩
  have hne : (ready.filter (fun g => !g.giveWay)).isEmpty = false := List.isEmpty_eq_false_iff.2 (List.ne_nil_of_mem hopen)
  have hchoose : chooseGroup ready = maxBy Group.score (ready.filter (fun g => !g.giveWay)) := by
    unfold chooseGroup
    dsimp only
    rw [hdue, hne]
    rfl
  rw [hchoose]
  cases hw : maxBy Group.score (ready.filter (fun g => !g.giveWay)) with
  | none => exact absurd (maxBy_eq_none hw) (List.ne_nil_of_mem hopen)
  | some w =>
    obtain ⟨hmem, hmax⟩ := maxBy_eq_some hw
    obtain ⟨hin, hopenw⟩ := List.mem_filter.1 hmem
    rcases hbest w hin with rfl | hgive | hlt
    · rfl
    · rw [hgive] at hopenw
      cases hopenw
    · exact absurd (hmax x hopen) (Int.not_le.2 hlt)

/-! ### Groups put back -/

/-- Groups that replace those of their tasks. -/
def State.putGroups (s : State) (gs : List Group) : State := gs.foldl (fun s g => s.updGroup g.tid (fun _ => g)) s

theorem putGroups_eq (s : State) (gs : List Group) : ∃ l, s.putGroups gs = { s with groups := l } := by
  unfold State.putGroups
  induction gs generalizing s with
  | nil => exact ⟨s.groups, rfl⟩
  | cons g gs ih =>
    obtain ⟨l, h⟩ := ih (s.updGroup g.tid (fun _ => g))
    exact ⟨l, h⟩

theorem putGroups_other {s : State} {gs : List Group} {tid : Nat} (h : ∀ k ∈ gs, k.tid ≠ tid) :
    (s.putGroups gs).group? tid = s.group? tid := by
  induction gs generalizing s with
  | nil => rfl
  | cons g gs ih =>
    refine (ih (s := s.updGroup g.tid (fun _ => g)) fun k hk => h k (List.mem_cons_of_mem _ hk)).trans ?_
    exact updGroup_group?_other s (Ne.symm (h g List.mem_cons_self)) (fun _ _ => rfl)

theorem putGroups_same {s : State} {gs : List Group} {g : Group} (hg : g ∈ gs) (hn : (gs.map (·.tid)).Nodup)
    (hs : (s.group? g.tid).isSome = true) : (s.putGroups gs).group? g.tid = some g := by
  induction gs generalizing s with
  | nil => cases hg
  | cons k gs ih =>
    obtain ⟨hk, hn⟩ := List.nodup_cons.1 hn
    have hstep : s.putGroups (k :: gs) = (s.updGroup k.tid (fun _ => k)).putGroups gs := rfl
    rw [hstep]
    rcases List.mem_cons.1 hg with rfl | hg
    · obtain ⟨q, hq⟩ := Option.isSome_iff_exists.1 hs
      rw [putGroups_other fun q hq he => hk (List.mem_map.2 ⟨q, hq, he⟩), updGroup_group? s (fun _ _ => rfl), hq]
      rfl
    · have hne : g.tid ≠ k.tid := fun he => hk (List.mem_map.2 ⟨g, hg, he⟩)
      refine ih hg hn ?_
      rw [updGroup_group?_other s hne (fun _ _ => rfl)]
      exact hs

/-! ### The splits that begin to issue -/

/-- R206, R220: the one split of a group that waits for nothing and meets nothing may issue. -/
theorem runnable_alone {g : Group} {p : Split} (hst : p.st = .run) (hstop : p.stopped = false) (he : p.entry.isSome = true)
    (hh : p.handler = false) (hhold : g.hold = false) (hw : g.wdog = false) (ht : g.traps = []) (hg : g.handler = none) :
    g.runnable p = true := by
  unfold Group.runnable
  rw [hst, hstop, he, hh, hhold, hw, ht, hg]
  simp

/-- R208: a group's only split issues, its selection count back at 0. -/
theorem select_alone {g : Group} {p : Split} (hs : g.splits = [p]) (hr : g.runnable p = true) :
    g.select = ([p.sid], { g with splits := [{ p with count := 0, yielded := false }] }) := by
  have htake : takeSplits [] [p] = [p] := by
    unfold takeSplits
    exact if_pos (List.all_eq_true.2 fun q _ => rfl)
  have hcand : g.splits.filter g.runnable = [p] := by
    rw [hs, List.filter_cons_of_pos hr]
    rfl
  unfold Group.select
  dsimp only
  rw [hcand, show sortBy splitOrder [p] = [p] from rfl, htake, hs]
  simp [sortBy, insertBy, hr]

theorem inOrder_alone (q : Nat → Bool) (x : Nat) : inOrder q [x] ([x].filter q) = [x] := by
  by_cases h : q x = true
  · rw [List.filter_cons_of_pos h]
    simp [inOrder, h]
  · rw [List.filter_cons_of_neg h]
    rfl

/-! ### The cycle -/

theorem leave_chosen {g : Group} (h : g.ready = true) (total : Int) :
    g.leave g.tid total = { g with credit := g.credit - total, age := 0, giveWay := false } := by
  unfold Group.leave
  rw [h]
  simp

theorem leave_tid (g : Group) (chosen : Nat) (total : Int) : (g.leave chosen total).tid = g.tid := by
  unfold Group.leave
  split
  · rfl
  · split <;> rfl

theorem enter_tid (g : Group) (marks : List Nat) : (g.enter marks).tid = g.tid := by
  obtain ⟨c, a, w, h⟩ := enter_eq g marks
  rw [h]

/-- R323: the sum of the weights of the ready groups of a side. -/
def totalWeight (mine : List Group) : Int :=
  ((mine.filter Group.ready).map (fun k => ((1 + tPrio k.record : Nat) : Int))).sum

theorem ready_enter (mine : List Group) (marks : List Nat) :
    (mine.map (fun g => g.enter marks)).filter Group.ready = (mine.filter Group.ready).map (fun g => g.enter marks) := by
  rw [List.filter_map]
  congr 1
  refine List.filter_congr fun g _ => ?_
  exact enter_ready g marks

theorem sum_weight_enter (mine : List Group) :
    ((mine.map (fun g => g.enter [])).filter Group.ready |>.map (fun g => g.weight [])).sum = totalWeight mine := by
  rw [ready_enter, List.map_map]
  unfold totalWeight
  congr 2
  funext g
  obtain ⟨c, a, w, h⟩ := enter_eq g []
  rw [Function.comp_apply, h, weight_nil]

/-- R323, R208: the cycle of a side of which a group is chosen. -/
theorem issueCycle_chosen {s : State} {core side : Nat} {mine : List Group} {g k : Group} (hmine : s.sideGroups core side = mine)
    (hshut : (s.die? (dieOf core)).shut = false) (hmarks : (s.core? core).teams.filterMap s.coxMark = [])
    (hchoose : chooseGroup ((mine.map (fun g => g.enter [])).filter Group.ready) = some (g.enter []))
    (hput : (s.putGroups ((mine.map (fun k => k.enter [])).map (fun k => k.leave g.tid (totalWeight mine)))).group? g.tid = some k)
    {p : Split} (hs : k.splits = [p]) (hr : k.runnable p = true) :
    s.issueCycle core side = State.carryOn (State.updGroup
      { s.putGroups ((mine.map (fun k => k.enter [])).map (fun k => k.leave g.tid (totalWeight mine))) with cycleAt := s.tick }
      g.tid (fun _ => { k with splits := [{ p with count := 0, yielded := false }] })) g.tid [p.sid] := by
  unfold State.issueCycle
  dsimp only
  rw [hmine, hmarks, hshut, hchoose, sum_weight_enter]
  dsimp only
  rw [enter_tid, if_neg Bool.false_ne_true]
  have hg : State.group? { s.putGroups ((mine.map (fun k => k.enter [])).map (fun k => k.leave g.tid (totalWeight mine))) with
    cycleAt := s.tick } g.tid = some k := hput
  rw [← State.putGroups, hg]
  dsimp only
  rw [select_alone hs hr]
  dsimp only [State.shuffle]
  rw [inOrder_alone]

/-- R208: the one split of a list begins to issue. -/
theorem carryOn_one {s : State} {tid sid : Nat} {g : Group} {p : Split} (hg : s.group? tid = some g) (hp : g.split? sid = some p)
    (hst : p.st = .run) (hstop : p.stopped = false) : s.carryOn tid [sid] =
      { s with running := true, g := { g with splits := g.splits.filter (fun q => q.sid != sid) }, sp := p, todo := [],
               groups := s.groups.filter (fun q => q.tid != tid) } := by
  rw [← refocus_some hg hp]
  unfold State.carryOn
  dsimp only
  rw [hg, Option.bind_some, hp]
  dsimp only
  rw [hst, hstop]
  rfl

/-- R323: what a ready group needs so that another of its side is chosen before it. -/
def Behind (g k : Group) : Prop :=
  k.giveWay = true ∨ k.wasReady = true ∧
    (k.credit + (1 + tPrio k.record : Nat) < g.credit + (1 + tPrio g.record : Nat) ∨
      k.credit + (1 + tPrio k.record : Nat) = g.credit + (1 + tPrio g.record : Nat) ∧ g.slot.getD 256 < k.slot.getD 256)

theorem behind_score {g k : Group} (hg : g.ready = true) (hgw : g.wasReady = true) (hk : k.ready = true) (h : Behind g k)
    (hslot : g.slot.getD 256 < 256) : (k.enter []).giveWay = true ∨ (k.enter []).score < (g.enter []).score := by
  rcases h with h | ⟨hw, h⟩
  · obtain ⟨c, a, w, he⟩ := enter_eq k []
    rw [he]
    exact .inl h
  · right
    rw [enter_again hg hgw, enter_again hk hw]
    unfold Group.score Group.slotNo
    dsimp only
    rcases h with h | ⟨h, hlt⟩ <;> omega

theorem chosen_of_behind {mine : List Group} {g : Group} (hg : g ∈ mine) (hr : g.ready = true) (hgw : g.wasReady = true)
    (hway : g.giveWay = false) (hn : (mine.map (·.tid)).Nodup) (hage : ∀ k ∈ mine, k.age < 960)
    (hb : ∀ k ∈ mine, k.tid ≠ g.tid → k.ready = true → Behind g k) (hslot : g.slot.getD 256 < 256) :
    chooseGroup ((mine.map (fun g => g.enter [])).filter Group.ready) = some (g.enter []) := by
  rw [ready_enter]
  refine chooseGroup_best (List.mem_map_of_mem (List.mem_filter.2 ⟨hg, hr⟩)) (by rw [enter_again hr hgw]; exact hway) ?_ ?_
  · intro q hq
    obtain ⟨k, hk, rfl⟩ := List.mem_map.1 hq
    exact enter_age (hage k (List.mem_of_mem_filter hk)) []
  · intro q hq
    obtain ⟨k, hk, rfl⟩ := List.mem_map.1 hq
    obtain ⟨hk, hkr⟩ := List.mem_filter.1 hk
    by_cases ht : k.tid = g.tid
    · exact .inl (by rw [List.inj_on_of_nodup_map hn hk hg ht])
    · exact .inr (behind_score hr hgw hkr (hb k hk ht hkr) hslot)

section
variable {s : State} {core side : Nat} {g : Group} {p : Split}

theorem issueCycle_results (hs : s.running = false)
    (hshut : (s.die? (core / 128)).shut = false) (hn : (s.groups.map (·.tid)).Nodup)
    (hteams : ∀ k ∈ (s.core? core).teams, k.members = []) (hg : g ∈ s.sideGroups core side) (hsplits : g.splits = [p])
    (hrun : g.runnable p = true) (hst : p.st = .run) (hstop : p.stopped = false) (hway : g.giveWay = false) (hgw : g.wasReady = true)
    (hage : ∀ k ∈ s.sideGroups core side, k.age < 960)
    (hb : ∀ k ∈ s.sideGroups core side, k.tid ≠ g.tid → k.ready = true → Behind g k)
    (hslot : ∀ k ∈ s.sideGroups core side, k.slot.getD 256 < 256) :
    ∃ t, exec (.issueCycle core side) s = .next t ∧ t.running = true ∧ t.g.tid = g.tid ∧ t.sp.sid = p.sid ∧ t.sp.count = 0 ∧
      t.todo = [] ∧ t.g.age = 0 ∧ t.mem = s.mem ∧
      t.g.credit = g.credit + (1 + tPrio g.record : Nat) - totalWeight (s.sideGroups core side) := by
  generalize hmine : s.sideGroups core side = mine at *
  have hslotSome : g.slot.isSome = true := by
    cases h : g.slot with
    | none =>
      have := hslot g hg
      rw [h] at this
      exact absurd this (Nat.lt_irrefl 256)
    | some _ => rfl
  have hready : g.ready = true := by
    unfold Group.ready
    rw [hslotSome, hsplits, List.any_cons, hrun]
    rfl
  have hsub : mine.Sublist s.groups := hmine ▸ List.filter_sublist
  have hnm : (mine.map (·.tid)).Nodup := hn.sublist (hsub.map _)
  have hleft : (g.enter []).leave g.tid (totalWeight mine) = { g with
      credit := g.credit + ((1 + tPrio g.record : Nat) : Int) - totalWeight mine, age := 0, giveWay := false } := by
    have h := leave_chosen (g := g.enter []) ((enter_ready g []).trans hready) (totalWeight mine)
    rw [enter_tid, enter_again hready hgw] at h
    rw [enter_again hready hgw]
    exact h
  generalize hk : ({ g with credit := g.credit + ((1 + tPrio g.record : Nat) : Int) - totalWeight mine, age := 0, giveWay := false } :
    Group) = k at hleft
  have hkt : k.tid = g.tid := by rw [← hk]
  have hput := putGroups_same (s := s) (g := k)
    (gs := (mine.map (fun k => k.enter [])).map (fun k => k.leave g.tid (totalWeight mine)))
    (List.mem_map.2 ⟨_, List.mem_map_of_mem hg, hleft⟩)
    (by
      rw [List.map_map, List.map_map]
      convert hnm using 2
      funext q
      exact (leave_tid ..).trans (enter_tid ..))
    (by
      rw [hkt, State.group?, List.find?_isSome]
      exact ⟨g, hsub.subset hg, beq_self_eq_true g.tid⟩)
  rw [hkt] at hput
  obtain ⟨l, hl⟩ := putGroups_eq s ((mine.map (fun k => k.enter [])).map (fun k => k.leave g.tid (totalWeight mine)))
  have hks : k.splits = [p] := by rw [← hk]; exact hsplits
  have hkr : k.runnable p = true := by rw [← hk]; exact hrun
  have hexec := (exec_issueCycle core side s).trans ((event_idle hs (fun s => s.issueCycle core side)).trans (congrArg _
    (issueCycle_chosen hmine hshut (marks_nil hteams) (chosen_of_behind hg hready hgw hway hnm hage hb (hslot g hg)) hput hks hkr)))
  rw [hl] at hexec hput
  have hgroup := updGroup_group? { s with groups := l, cycleAt := s.tick } (tid := g.tid)
    (f := fun _ => { k with splits := [{ p with count := 0, yielded := false }] }) (fun _ _ => hkt)
  rw [show State.group? { s with groups := l, cycleAt := s.tick } g.tid = some k from hput, Option.map_some] at hgroup
  rw [carryOn_one hgroup (split?_head k { p with count := 0, yielded := false } []) hst hstop, ← hk] at hexec
  exact ⟨_, hexec, rfl, rfl, rfl, rfl, rfl, rfl, rfl, rfl⟩
end

end Sys2Proof.Machine
end

section
/-!
PROOFS. A request enters the queue of its slice (R144, R195, R196).
-/

namespace Sys2Proof.Machine

open Sys2Proof Sys2Proof.Laws

section
variable {s : State} {id : Nat} {r : SliceReq}

/-- The requests that hold entries of a slice. -/
def State.entered (s : State) (die slice : Nat) : List SliceReq :=
  s.sreqs.filter (fun q => q.counted && q.die == die && q.slice == slice)

/-- Of them, those that wait at a CXL port. -/
def State.portWaits (s : State) (die slice : Nat) : List SliceReq := (s.entered die slice).filter (fun q => q.port.isSome)

/-- R144: what has left a slice waited at no port. -/
theorem leaveSlice_portWaits (s : State) (die slice : Nat) : (s.leaveSlice die slice).sreqs.filter
    (fun q => q.counted && q.port.isSome && q.die == die && q.slice == slice) = s.portWaits die slice := by
  unfold State.leaveSlice State.portWaits State.entered
  rw [List.filter_filter, List.filter_filter]
  refine List.filter_congr fun q _ => ?_
  cases q.counted <;> cases q.port <;> simp [Bool.and_assoc]

theorem portWaits_le_use (s : State) (die slice : Nat) : (s.portWaits die slice).length ≤ (s.leaveSlice die slice).sliceUse die slice := by
  rw [← leaveSlice_portWaits]
  refine (List.monotone_filter_right _ fun q h => ?_).length_le
  simp only [Bool.and_eq_true] at h ⊢
  obtain ⟨⟨⟨hc, -⟩, hd⟩, hs⟩ := h
  exact ⟨⟨hc, hd⟩, hs⟩

theorem leaveSlice_use_le (s : State) (die slice : Nat) : (s.leaveSlice die slice).sliceUse die slice ≤ (s.entered die slice).length :=
  (List.Sublist.filter _ List.filter_sublist).length_le

/-- R144: a slice with a free entry, or one whose entries all wait at a port, serves nothing. -/
theorem serveFull_none {die slice : Nat} (h : s.sliceUse die slice < 32 ∨
    32 ≤ (s.sreqs.filter (fun q => q.counted && q.port.isSome && q.die == die && q.slice == slice)).length) :
    s.serveFull die slice = s := by
  unfold State.serveFull
  dsimp only
  rw [if_pos (by rw [Bool.or_eq_true, decide_eq_true_eq, decide_eq_true_eq]; exact h)]

theorem waiting_req (h : s.sreqs.find? (fun q => q.id == id && !q.counted) = some r) :
    r.id = id ∧ r.counted = false ∧ r ∈ (s.leaveSlice r.die r.slice).sreqs := by
  have htest := List.find?_some h
  rw [Bool.and_eq_true, beq_iff_eq, Bool.not_eq_true'] at htest
  exact ⟨htest.1, htest.2, List.mem_filter.2 ⟨List.mem_of_find?_eq_some h, by rw [htest.2]; rfl⟩⟩

/-- R144: where every entry of the slice waits at a port, the request waits. -/
theorem enterSlice_full (h : s.sreqs.find? (fun q => q.id == id && !q.counted) = some r)
    (hfull : 32 ≤ (s.portWaits r.die r.slice).length) : s.enterSlice id = s.leaveSlice r.die r.slice := by
  have hserve := serveFull_none (s := s.leaveSlice r.die r.slice) (.inr (by rwa [leaveSlice_portWaits]))
  unfold State.enterSlice
  rw [h]
  dsimp only
  rw [hserve, if_pos]
  rw [Bool.or_eq_true, decide_eq_true_eq]
  exact .inl (hfull.trans (portWaits_le_use ..))

/-- R195, R196: what a request does below its slice changes neither counters nor memory. -/
theorem belowSlice_kept (s : State) (r : SliceReq) : (s.belowSlice r).1.slices = s.slices ∧ (s.belowSlice r).1.mem = s.mem := by
  unfold State.belowSlice
  split
  · exact ⟨rfl, rfl⟩
  · dsimp only
    split <;> split <;> exact ⟨rfl, rfl⟩

/-- R143: the counter of a tenant after one more request. -/
theorem countReq_cnt (s : State) (die slice tenant : Nat) : (s.countReq die slice tenant).sliceCnt die slice tenant =
    { s.sliceCnt die slice tenant with
      req := if (s.sliceCnt die slice tenant).req = 0xFFFFFFFF then (s.sliceCnt die slice tenant).req else (s.sliceCnt die slice tenant).req + 1
      occ := max (s.sliceCnt die slice tenant).occ (min 32 (s.sliceUse die slice + 1)) } := by
  unfold State.countReq State.sliceCnt
  dsimp only
  rw [find?_upsert_same (fun a ha => by exact ha) (by simp)]
  rfl

/-- R144: into a slice with a free entry the request enters, counted. -/
theorem enterSlice_enters (h : s.sreqs.find? (fun q => q.id == id && !q.counted) = some r)
    (hroom : (s.entered r.die r.slice).length < 32) :
    (s.enterSlice id).slices = ((s.leaveSlice r.die r.slice).countReq r.die r.slice r.tenant).slices ∧
      (s.enterSlice id).mem = (((s.leaveSlice r.die r.slice).countReq r.die r.slice r.tenant).snapMoved r.die r.slice r.tenant).mem ∧
      ∀ q ∈ (s.enterSlice id).sreqs, q.id = id → q.counted = true := by
  obtain ⟨hid, -, hmem⟩ := waiting_req h
  have huse := (leaveSlice_use_le s r.die r.slice).trans_lt hroom
  have hserve := serveFull_none (s := s.leaveSlice r.die r.slice) (.inl huse)
  unfold State.enterSlice
  rw [h]
  dsimp only
  rw [hserve, if_neg]
  · generalize hu : ((s.leaveSlice r.die r.slice).countReq r.die r.slice r.tenant).snapMoved r.die r.slice r.tenant = u
    have hslices : u.slices = ((s.leaveSlice r.die r.slice).countReq r.die r.slice r.tenant).slices :=
      hu ▸ (snapMoved_snapsOnly _ r.die r.slice r.tenant).1
    obtain ⟨hb, hm⟩ := belowSlice_kept u r
    refine ⟨?_, ?_, fun q hq hqid => ?_⟩
    · rw [← hslices]
      split
      · rfl
      · exact hb
    · split
      · rfl
      · exact hm
    · rcases List.mem_append.1 hq with hq | hq
      · exact absurd hqid (bne_iff_ne.1 (List.mem_filter.1 hq).2)
      · rw [List.mem_singleton.1 hq]
  · rw [Bool.or_eq_true, decide_eq_true_eq, Bool.not_eq_true', not_or]
    refine ⟨Nat.not_le.2 huse, fun hnone => ?_⟩
    have hany := List.any_eq_false.1 hnone r hmem
    exact hany (beq_iff_eq.2 hid)

theorem sliceRequestEnter_results (hs : s.running = false) (h : s.sreqs.find? (fun q => q.id == id && !q.counted) = some r) :
    (32 ≤ (s.portWaits r.die r.slice).length → ∃ t, exec (.sliceRequestEnter id) s = .next t ∧ r ∈ t.sreqs ∧ t.slices = s.slices ∧
      t.mem = s.mem) ∧
    ((s.entered r.die r.slice).length < 32 → ∃ (t : State) (n : Nat), exec (.sliceRequestEnter id) s = .next t ∧
      (t.sliceCnt r.die r.slice r.tenant).req.toNat = min ((s.sliceCnt r.die r.slice r.tenant).req.toNat + 1) (2 ^ 32 - 1) ∧
      (s.portWaits r.die r.slice).length < n ∧ n ≤ (s.entered r.die r.slice).length + 1 ∧
      (t.sliceCnt r.die r.slice r.tenant).occ = max (s.sliceCnt r.die r.slice r.tenant).occ n ∧
      (∀ q ∈ t.sreqs, q.id = id → q.counted = true) ∧ ((∀ g ∈ s.groups, ∀ p ∈ g.splits, p.wsnaps = []) → t.mem = s.mem)) := by
  have hexec : exec (.sliceRequestEnter id) s = .next (s.enterSlice id) :=
    (exec_sliceRequestEnter id s).trans (event_idle hs (fun s => s.enterSlice id))
  refine ⟨fun hfull => ?_, fun hroom => ?_⟩
  · rw [enterSlice_full h hfull] at hexec
    exact ⟨_, hexec, (waiting_req h).2.2, rfl, rfl⟩
  · obtain ⟨hslices, hmem, hcounted⟩ := enterSlice_enters h hroom
    have huse := leaveSlice_use_le s r.die r.slice
    have hcnt : (s.enterSlice id).sliceCnt r.die r.slice r.tenant =
        ((s.leaveSlice r.die r.slice).countReq r.die r.slice r.tenant).sliceCnt r.die r.slice r.tenant := by
      unfold State.sliceCnt
      rw [hslices]
    rw [countReq_cnt] at hcnt
    refine ⟨_, (s.leaveSlice r.die r.slice).sliceUse r.die r.slice + 1, hexec, ?_, Nat.lt_succ_of_le (portWaits_le_use ..),
      Nat.succ_le_succ huse, ?_, hcounted, fun hsnap => ?_⟩
    · rw [hcnt]
      exact saturated _
    · rw [hcnt]
      show max _ (min 32 _) = _
      rw [Nat.min_eq_right (by omega)]
      rfl
    · rw [hmem, snapMoved_none (s := (s.leaveSlice r.die r.slice).countReq r.die r.slice r.tenant) hsnap]
      rfl
end

end Sys2Proof.Machine
end

section
/-!
PROOFS. What the module does to its memory, caches, queues and links touches no task (R154, R176, R245, R266, R388).
-/

namespace Sys2Proof.Machine

open Sys2Proof Sys2Proof.Laws

/-- The groups, and whether one of them issues, are as before. -/
def TasksKept (s t : State) : Prop := t.running = s.running ∧ t.groups = s.groups

theorem TasksKept.refl (s : State) : TasksKept s s := ⟨rfl, rfl⟩

theorem TasksKept.trans {s t u : State} (h1 : TasksKept s t) (h2 : TasksKept t u) : TasksKept s u :=
  ⟨h2.1.trans h1.1, h2.2.trans h1.2⟩

theorem TasksKept.group? {s t : State} (h : TasksKept s t) (tid : Nat) : t.group? tid = s.group? tid :=
  congrArg (List.find? (fun g : Group => g.tid == tid)) h.2

theorem TasksKept.of_bytesOnly {s t : State} (h : BytesOnly s t) : TasksKept s t := by
  obtain ⟨_, _, _, _, rfl⟩ := h
  exact ⟨rfl, rfl⟩

theorem TasksKept.foldl {α : Type} {f : State → α → State} (hf : ∀ s a, TasksKept s (f s a)) (l : List α) (s : State) :
    TasksKept s (l.foldl f s) := by
  induction l generalizing s with
  | nil => exact .refl s
  | cons a l ih => exact (hf s a).trans (ih _)

/-! ### L1s and places -/

theorem placePlain_tasks (s : State) (k : Nat) (bs : List Byte) : TasksKept s (s.placePlain k bs) :=
  .of_bytesOnly (placePlain_bytesOnly s k bs)

theorem place_tasks (s : State) (k : Nat) (bs : List Byte) : TasksKept s (s.place k bs) := .of_bytesOnly (place_bytesOnly s k bs)

theorem tagWords_tasks (s : State) (k n : Nat) (t : RTag) : TasksKept s (s.tagWords k n t) := ⟨rfl, rfl⟩

theorem touchPort_tasks (s : State) (thru : Bool) (k : Nat) (wr : Bool) : TasksKept s (s.touchPort thru k wr) := by
  unfold State.touchPort
  split
  · exact .foldl (f := fun s (t : Tenant) => s.countHot t.id k wr) (fun s t => ⟨rfl, rfl⟩) _ s
  · exact .refl s

theorem wbBytes_tasks (s : State) (x : L1Sector) : TasksKept s (s.wbBytes x) := by
  unfold State.wbBytes
  dsimp only
  refine .trans (touchPort_tasks s false (64 * x.key) true) ?_
  split
  · exact placePlain_tasks ..
  · exact .foldl (fun s _ => placePlain_tasks s _ _) _ _

theorem l1Drop_tasks (s : State) (c sec : Nat) : TasksKept s (s.l1Drop c sec) := by
  unfold State.l1Drop
  split <;> exact ⟨rfl, rfl⟩

theorem l1Wb_tasks (s : State) (c sec : Nat) : TasksKept s (s.l1Wb c sec) := by
  unfold State.l1Wb
  split
  · split
    · exact .refl s
    · exact .trans (wbBytes_tasks ..) ⟨rfl, rfl⟩
  · exact .refl s

theorem settle_tasks (s : State) (sec : Nat) (e : Option Nat) : TasksKept s (s.settle sec e) := by
  unfold State.settle
  refine .foldl (fun s c => ?_) _ s
  split
  · exact (l1Wb_tasks ..).trans (l1Drop_tasks ..)
  · exact .refl s

theorem l1WbAll_tasks (s : State) (c : Nat) : TasksKept s (s.l1WbAll c) := by
  unfold State.l1WbAll
  refine .foldl (fun s x => ?_) _ s
  split
  · exact .refl s
  · exact l1Wb_tasks ..

theorem lineHome_tasks (s : State) (core : Nat) (l : Loc) : TasksKept s (s.lineHome core l) := by
  unfold State.lineHome
  split
  · exact .refl s
  · exact .foldl (fun s i => (l1Wb_tasks s _ _).trans (l1Drop_tasks _ _ _)) _ s

theorem openAt_tasks (s : State) (core : Option Nat) (l : Loc) (n : Nat) : TasksKept s (s.openAt core l n) := by
  unfold State.openAt State.atHome
  split
  · split
    · exact .refl s
    · exact (lineHome_tasks ..).trans (.foldl (fun s sec => settle_tasks s sec none) _ _)
  · split
    · exact .refl s
    · exact .foldl (fun s sec => settle_tasks s sec none) _ s

theorem through_tasks (s : State) (path : Path) (k n : Nat) : TasksKept s (s.through path k n) := by
  unfold State.through
  split <;> exact ⟨rfl, rfl⟩

theorem acknowledge_tasks (s : State) (mine : Nat × Nat → Bool) : TasksKept s (s.acknowledge mine) := ⟨rfl, rfl⟩

theorem release_tasks (s : State) (core : Nat) (sc : Scope) : TasksKept s (s.release core sc) := by
  unfold State.release
  dsimp only
  split
  · exact .trans (.foldl l1WbAll_tasks _ s) (acknowledge_tasks ..)
  · exact .foldl l1WbAll_tasks _ s

/-! ### Queues and error records -/

theorem queuePut_tasks (s : State) (q : Queue) (l : Loc) (bs : List Byte) : TasksKept s (s.queuePut q l bs) := by
  unfold State.queuePut
  split
  · exact ⟨rfl, rfl⟩
  · exact (openAt_tasks ..).trans (placePlain_tasks ..)

theorem shadow_tasks (s : State) (q : Queue) (i : Word) : TasksKept s (s.shadow q i) := by
  unfold State.shadow State.queueWrite
  split
  · exact .refl s
  · split
    · exact queuePut_tasks ..
    · exact .refl s

theorem signal_tasks (s : State) (q : Queue) : TasksKept s (s.signal q) := by
  unfold State.signal
  split <;> exact ⟨rfl, rfl⟩

theorem updQueue_tasks (s : State) (num : Nat) (f : Queue → Queue) : TasksKept s (s.updQueue num f) := ⟨rfl, rfl⟩

theorem pushRecord_tasks (s : State) (num : Nat) (rec : BitVec 512) : TasksKept s (s.pushRecord num rec).1 := by
  unfold State.pushRecord
  split
  · exact .refl s
  · split
    · exact .refl s
    · split
      · exact updQueue_tasks ..
      · dsimp only
        split
        · exact updQueue_tasks ..
        · exact .trans (.trans (.trans (queuePut_tasks ..) (updQueue_tasks ..)) (shadow_tasks ..)) (signal_tasks ..)

theorem errRec_tasks (s : State) (tenant type task addr count detail : Nat) (core : Option Nat) :
    TasksKept s (s.errRec tenant type task addr count detail core) := by
  unfold State.errRec
  split
  · exact .refl s
  · exact .trans (t := s.clock) ⟨rfl, rfl⟩ (pushRecord_tasks ..)

/-! ### Cells and counters -/

theorem sendOp_tasks (s : State) (tenant tag k n : Nat) (op : LinkOp) (rel : Option RTag) :
    TasksKept s (s.sendOp tenant tag k n op rel) := ⟨rfl, rfl⟩

theorem cellAt_tasks (s : State) (core : Option Nat) (k : Loc) (op : CellOp) (t : RTag) : TasksKept s (s.cellAt core k op t) := by
  unfold State.cellAt
  dsimp only
  refine .trans (openAt_tasks s core k 16) ?_
  split
  · split
    · exact .refl _
    · exact placePlain_tasks ..
  · split
    · exact .refl _
    · exact .trans (place_tasks ..) (tagWords_tasks ..)

theorem endCell_tasks (s : State) (tenant core tid : Nat) (va : DWord) (op : CellOp) : TasksKept s (s.endCell tenant core tid va op) := by
  unfold State.endCell
  dsimp only
  refine .trans (.trans (release_tasks s core .system) (acknowledge_tasks _ (fun w => w.1 == tid))) ?_
  generalize (s.release core .system).acknowledge (fun w => w.1 == tid) = u
  split
  · exact .refl u
  · split
    · exact errRec_tasks ..
    · split
      · exact errRec_tasks ..
      · split
        · exact sendOp_tasks ..
        · split
          · exact errRec_tasks ..
          · exact .trans (.trans (cellAt_tasks ..) (through_tasks ..)) (touchPort_tasks ..)

theorem counterAdd_tasks (s : State) (core : Option Nat) (l : Loc) (inc : DWord) (t : Option RTag) :
    TasksKept s (s.counterAdd core l inc t) := by
  unfold State.counterAdd
  dsimp only
  have h := (openAt_tasks s core l 8).trans (place_tasks _ l.key (toBytes 8 (BitVec.ofNat 64 ((s.openAt core l 8).rdV l.key 8) + inc)))
  split
  · exact h.trans (tagWords_tasks ..)
  · exact h

theorem counterOp_tasks (s : State) (a : Agent) (core : Option Nat) (tid : Nat) (va inc : DWord) (t : Option RTag) :
    TasksKept s (s.counterOp a core tid va inc t) := by
  unfold State.counterOp
  dsimp only
  split
  · exact .refl s
  · split
    · exact errRec_tasks ..
    · split
      · exact errRec_tasks ..
      · split
        · exact sendOp_tasks ..
        · split
          · exact errRec_tasks ..
          · exact .trans (.trans (counterAdd_tasks ..) (through_tasks ..)) (touchPort_tasks ..)

theorem rootCounter_tasks (s : State) (tenant tid : Nat) (root : Option (DWord × DWord)) :
    TasksKept s (s.rootCounter tenant tid root) := by
  unfold State.rootCounter
  split
  · exact .refl s
  · exact counterOp_tasks ..

end Sys2Proof.Machine
end

section
/-!
PROOFS. Waking a parked split, and the answer to SYSC (R99, R207, R401).
-/

namespace Sys2Proof.Machine

open Sys2Proof Sys2Proof.Laws

/-! ### What a parked split writes as it wakes -/

/-- R160: a write of a scalar register of the split that its window has not written. -/
theorem write_low {s : State} {n : Nat} (hn : n < 16) (h : s.sp.unwritten (.s n) = true) (x : Word) :
    ∃ e : LogEntry, e.reg = .s n ∧ s.write (.s n) 0xFFFF (.w x) true =
      { s with sp := { s.sp with slo := vset s.sp.slo n x, wlog := e :: s.sp.wlog } } := by
  have hu : s.unwritten (.s n) = true := by
    rw [State.unwritten, h]
    rfl
  obtain ⟨e, he, hw⟩ := write_entry s (.s n) 0xFFFF (.w x) true hu
  have hstore : s.store (.s n) (.w x) = { s with sp := { s.sp with slo := vset s.sp.slo n x } } := if_pos hn
  refine ⟨e, he, hw.trans ?_⟩
  rw [show (s.cur (.s n)).over 0xFFFF (.w x) = .w x from rfl, hstore]

theorem unwritten_cons {p : Split} {e : LogEntry} {r : RegName} (he : e.reg ≠ r) (h : p.unwritten r = true) (v : Vector Word 16) :
    Split.unwritten { p with slo := v, wlog := e :: p.wlog } r = true := by
  unfold Split.unwritten logOf at h ⊢
  rw [List.filter_cons_of_neg (by simpa using he)]
  exact h

/-- R6, R99: the pair of s0 and s1. -/
theorem wD_low {s : State} (h0 : s.sp.unwritten (.s 0) = true) (h1 : s.sp.unwritten (.s 1) = true) (v : DWord) :
    ∃ l, s.wD (.s 0) v = { s with sp := { s.sp with
      slo := vset (vset s.sp.slo 0 (v.extractLsb' 0 32)) 1 (v.extractLsb' 32 32), wlog := l } } := by
  obtain ⟨e, he, hw⟩ := write_low (by decide : (0 : Nat) < 16) h0 (v.extractLsb' 0 32)
  have hu := unwritten_cons (e := e) (by rw [he]; decide) h1 (vset s.sp.slo 0 (v.extractLsb' 0 32))
  obtain ⟨d, -, hw'⟩ := write_low (s := { s with sp := { s.sp with slo := vset s.sp.slo 0 (v.extractLsb' 0 32), wlog := e :: s.sp.wlog } })
    (by decide : (1 : Nat) < 16) hu (v.extractLsb' 32 32)
  refine ⟨d :: e :: s.sp.wlog, ?_⟩
  show (s.write (.s 0) 0xFFFF (.w (v.extractLsb' 0 32)) true).write (.s 1) 0xFFFF (.w (v.extractLsb' 32 32)) true = _
  rw [hw, hw']

/-! ### Waking -/

theorem rejoin_kept (s : State) (tid : Nat) : TasksKept s (s.rejoin tid) ∧ (s.rejoin tid).irqs = s.irqs := by
  unfold State.rejoin
  split
  · exact ⟨.refl s, rfl⟩
  · split
    · exact ⟨.refl s, rfl⟩
    · split <;> exact ⟨⟨rfl, rfl⟩, rfl⟩

theorem placeAgain_tid (g : Group) (sid : Nat) : (g.placeAgain sid).tid = g.tid := by
  unfold Group.placeAgain
  split
  · split
    · rfl
    · exact placeNew_tid ..
  · rfl

theorem freeEntry_of_subset {g h : Group} (hs : ∀ q ∈ h.splits, q ∈ g.splits) (hf : g.freeEntry none ≠ none) :
    ∃ e, h.freeEntry none = some e := by
  obtain ⟨e, he⟩ := Option.ne_none_iff_exists'.1 hf
  unfold Group.freeEntry at he
  have hin := List.mem_of_find?_eq_some he
  have htest := List.find?_some he
  refine Option.isSome_iff_exists.1 (List.find?_isSome.2 ⟨e, hin, ?_⟩)
  rw [freeEntry_test] at htest ⊢
  exact ⟨htest.1, fun q hq => htest.2 q (hs q hq)⟩

/-- R207: the split that wakes, its instruction complete, before it has an entry. -/
def Split.woken (p : Split) : Split := { p with st := .win, pc := p.after, wcm := setWcm p.wcm p.pos, pos := p.pos + 1 }

/-- R206: place() of a split that is among the others without an entry. -/
theorem placeAgain_head {g : Group} {q : Split} (he : q.entry = none) (hh : q.handler = false) (ho : q.sid ∉ g.ovf)
    (hf : g.freeEntry none ≠ none) : ∃ e, Group.split? (Group.placeAgain
      { g with splits := q :: g.splits.filter (fun r => r.sid != q.sid) } q.sid) q.sid = some { q with entry := some e, count := 0 } := by
  obtain ⟨e, hfree⟩ := freeEntry_of_subset (g := g) (h := { g with splits := g.splits.filter (fun r => r.sid != q.sid) })
    (fun r hr => List.mem_of_mem_filter hr) hf
  refine ⟨e, ?_⟩
  have hplace : Group.placeAgain { g with splits := q :: g.splits.filter (fun r => r.sid != q.sid) } q.sid =
      Group.placeNew { g with splits := g.splits.filter (fun r => r.sid != q.sid) } none q := by
    unfold Group.placeAgain
    rw [split?_head]
    dsimp only
    rw [he, hh, if_neg (by simpa using ho), List.filter_cons_of_neg (by simp), List.filter_filter]
    simp only [Bool.and_self]
  have hnone : (g.splits.filter (fun r => r.sid != q.sid)).find? (fun r => r.sid == q.sid) = none :=
    List.find?_eq_none.2 fun r hr hs => bne_iff_ne.1 (List.mem_filter.1 hr).2 (beq_iff_eq.1 hs)
  rw [hplace, placeNew_some hfree, Group.split?, List.find?_append, hnone, Option.none_or]
  exact List.find?_cons_of_pos (beq_self_eq_true q.sid)

/-- R207: a split that has parked outside the table completes its instruction and takes a free entry. -/
theorem wake_split? {s : State} {tid sid : Nat} {g : Group} {p q : Split} {f : State → State} (hg : s.group? tid = some g)
    (hp : g.split? sid = some p) (hf : f (s.refocus tid sid []) = { s.refocus tid sid [] with sp := q }) (hsid : q.sid = sid)
    (hstop : q.stopped = false) (he : q.entry = none) (hh : q.handler = false) (ho : sid ∉ g.ovf) (hfree : g.freeEntry none ≠ none) :
    (s.wake tid sid true f).running = false ∧ (s.wake tid sid true f).irqs = s.irqs ∧
      ∃ g' e, (s.wake tid sid true f).group? tid = some g' ∧ g'.split? sid = some { q.woken with entry := some e, count := 0 } := by
  have htid := group?_tid hg
  subst htid
  have hon : s.onSplit g.tid sid (fun s =>
      let s := f s
      let p := s.sp
      { s with sp := { p with st := .win, pc := p.after, wcm := if true then setWcm p.wcm p.pos else p.wcm, pos := p.pos + 1 } }) =
      State.unfocus { s.refocus g.tid sid [] with sp := q.woken } := by
    unfold State.onSplit
    dsimp only
    rw [hf, if_pos (by rw [refocus_some hg hp])]
    exact if_neg fun h => absurd (hstop.symm.trans (show q.stopped = true from h)) Bool.false_ne_true
  have hgroup : (State.unfocus { s.refocus g.tid sid [] with sp := q.woken }).group? g.tid =
      some { g with splits := q.woken :: g.splits.filter (fun r => r.sid != sid) } := by
    have h := unfocus_group? (s := { s.refocus g.tid sid [] with sp := q.woken }) (by rw [refocus_some hg hp])
    rw [refocus_some hg hp] at h ⊢
    exact h
  obtain ⟨e, hplace⟩ := placeAgain_head (g := g) (q := q.woken) he hh (by rw [← hsid] at ho; exact ho) hfree
  have hupd := updGroup_group? (State.unfocus { s.refocus g.tid sid [] with sp := q.woken }) (tid := g.tid) (f := fun g => g.placeAgain sid)
    (fun g h => (placeAgain_tid g sid).trans h)
  rw [hgroup, Option.map_some] at hupd
  have hwake : s.wake g.tid sid true f =
      ((State.unfocus { s.refocus g.tid sid [] with sp := q.woken }).updGroup g.tid (fun g => g.placeAgain sid)).rejoin g.tid :=
    congrArg (fun u : State => (u.updGroup g.tid (fun g => g.placeAgain sid)).rejoin g.tid) hon
  obtain ⟨htasks, hirqs⟩ := rejoin_kept
    ((State.unfocus { s.refocus g.tid sid [] with sp := q.woken }).updGroup g.tid (fun g => g.placeAgain sid)) g.tid
  rw [hwake]
  refine ⟨htasks.1.trans (unfocus_running _), hirqs.trans ?_, _, e, (htasks.group? g.tid).trans hupd, ?_⟩
  · rw [refocus_some hg hp]
    rfl
  · rw [← hsid]
    exact hplace

/-! ### The answer to SYSC -/

theorem vset_pair (v : Vector Word 16) (x y : Word) : (vset (vset v 0 x) 1 y)[0] = x ∧ (vset (vset v 0 x) 1 y)[1] = y := by
  simp [vset]

section
variable {s : State} {tid sid : Nat} {g : Group} {p : Split} {num : Word} {args : List Word}

/-- R99: what is seen of a split that SYSC has answered with a value. -/
def Replied (s : State) (tid sid : Nat) (p : Split) (irqs : List (Option Nat × Nat)) (v : DWord) : Prop :=
  ∃ t q, exec (.syscReply tid sid) s = .next t ∧ t.splitSeen tid sid = some q ∧ q.st = .win ∧ q.slo[0] = v.setWidth 32 ∧
    q.slo[1] = v.extractLsb' 32 32 ∧ q.entry.isSome = true ∧ q.pc = p.after ∧ q.wcm = p.wcm ||| BitVec.ofNat 64 (2 ^ p.pos) ∧
    t.irqs = irqs

theorem syscReply_eq (hg : s.group? tid = some g) (hp : g.split? sid = some p) (hst : p.st = .park (.sysc num args))
    (hstop : p.stopped = false) : s.syscReply tid sid =
      (s.service? g num args).1.wake tid sid true (fun u => u.wD (.s 0) (s.service? g num args).2) := by
  unfold State.syscReply
  rw [hg]
  dsimp only
  rw [hp]
  dsimp only
  rw [hst]
  dsimp only
  rw [hstop]
  rfl

theorem reply_gives (hs : s.running = false) (hg : s.group? tid = some g) (hp : g.split? sid = some p)
    (hst : p.st = .park (.sysc num args)) (hstop : p.stopped = false) (hh : p.handler = false) (h0 : p.unwritten (.s 0) = true)
    (h1 : p.unwritten (.s 1) = true) (hfree : g.freeEntry none ≠ none) (he : p.entry = none) (ho : sid ∉ g.ovf)
    (hkept : TasksKept s (s.service? g num args).1) :
    Replied s tid sid p (s.service? g num args).1.irqs (s.service? g num args).2 := by
  have hg' := (hkept.group? tid).trans hg
  have hexec := (exec_syscReply tid sid s).trans ((event_idle hs (fun s => s.syscReply tid sid)).trans
    (congrArg _ (syscReply_eq hg hp hst hstop)))
  generalize (s.service? g num args).1 = u at *
  generalize (s.service? g num args).2 = v at *
  have hsp : (u.refocus tid sid []).sp = p := by rw [refocus_some hg' hp]
  obtain ⟨l, hl⟩ := wD_low (s := u.refocus tid sid []) (by rw [hsp]; exact h0) (by rw [hsp]; exact h1) v
  rw [hsp] at hl
  have hsid : p.sid = sid := split?_sid hp
  obtain ⟨hrun, hirqs, g', e, hgroup, hsplit⟩ := wake_split? (f := fun u => u.wD (.s 0) v) hg' hp hl hsid hstop he hh ho hfree
  obtain ⟨hlow, hhigh⟩ := vset_pair p.slo (v.extractLsb' 0 32) (v.extractLsb' 32 32)
  exact ⟨_, _, hexec, (splitSeen_of_group? hrun hgroup sid).trans hsplit, rfl,
    hlow.trans (by ext i hi; simp), hhigh, rfl, rfl, rfl, hirqs⟩

/-! ### The services -/

theorem service_irq (s : State) (g : Group) (args : List Word) (h : (args.headD 0).toNat < 64) :
    s.service? g 2 args = ({ s with irqs := (some g.tenant, (args.headD 0).toNat) :: s.irqs }, 0) :=
  if_neg (Nat.not_le.2 h)

theorem service_noVector (s : State) (g : Group) (args : List Word) (h : 64 ≤ (args.headD 0).toNat) :
    s.service? g 2 args = (s, 0xFFFFFFFFFFFFFFFF) := if_pos h

theorem service_module (s : State) (g : Group) (args : List Word) : s.service? g 3 args = (s, match s.moduleNo with
    | some m => BitVec.ofNat 64 m.toNat
    | none => 0xFFFFFFFFFFFFFFFF) := by
  show (s, _) = _
  congr 1
  cases s.moduleNo with
  | none => rfl
  | some m => exact BitVec.eq_of_toNat_eq (by simp)

theorem service_cores (s : State) {g : Group} (args : List Word) {e : Tenant} (h : s.tenant? g.tenant = some e) :
    s.service? g 4 args = (s, BitVec.ofNat 64 ((List.range 1152).filter (fun i => e.cores.getLsbD i)).length) := by
  have hnum : BitVec.toNat (4 : Word) = 4 := rfl
  unfold State.service?
  dsimp only
  rw [hnum, h]
  dsimp only [Option.map_some, Option.getD_some]
  rw [popc]
  generalize ((List.range 1152).filter (fun i => e.cores.getLsbD i)).length = n
  rfl

/-- R401: a number that names no service. -/
theorem service_unknown (s : State) (g : Group) (args : List Word) {num : Word} (h : 5 ≤ num.toNat) :
    s.service? g num args = (s, 0xFFFFFFFFFFFFFFFF) := by
  obtain ⟨k, hk⟩ := Nat.exists_eq_add_of_le' h
  unfold State.service?
  dsimp only
  rw [hk]
  rfl

/-- R401: LOG answers whether its record has a place. -/
theorem service_log (s : State) (g : Group) (args : List Word) :
    TasksKept s (s.service? g 1 args).1 ∧ ((s.service? g 1 args).2 = 0 ∨ (s.service? g 1 args).2 = 1) := by
  refine ⟨.trans (t := s.clock) ⟨rfl, rfl⟩ (pushRecord_tasks ..), ?_⟩
  show (if _ then (1 : DWord) else 0) = 0 ∨ (if _ then (1 : DWord) else 0) = 1
  split
  · exact .inr rfl
  · exact .inl rfl

theorem syscReply_results (hs : s.running = false) (hg : s.group? tid = some g) (hp : g.split? sid = some p)
    (hst : p.st = .park (.sysc num args)) (hstop : p.stopped = false) (hh : p.handler = false) (h0 : p.unwritten (.s 0) = true)
    (h1 : p.unwritten (.s 1) = true) (hfree : g.freeEntry none ≠ none) (he : p.entry = none) (ho : sid ∉ g.ovf) :
    let ones : DWord := 0xFFFFFFFFFFFFFFFF
    let gives (v : DWord) : Prop := ∃ t q, exec (.syscReply tid sid) s = .next t ∧ t.splitSeen tid sid = some q ∧ q.st = .win ∧
      q.slo[0] = v.setWidth 32 ∧ q.slo[1] = v.extractLsb' 32 32 ∧ q.entry.isSome = true ∧ q.pc = p.after ∧
      q.wcm = p.wcm ||| BitVec.ofNat 64 (2 ^ p.pos) ∧
      (num = 2 → (args.headD 0).toNat < 64 → t.irqs = (some g.tenant, (args.headD 0).toNat) :: s.irqs)
    (num = 0 → gives 0) ∧ (num = 2 → (args.headD 0).toNat < 64 → gives 0) ∧ (num = 2 → 64 ≤ (args.headD 0).toNat → gives ones) ∧
      (num = 3 → gives (match s.moduleNo with
        | some m => BitVec.ofNat 64 m.toNat
        | none => ones)) ∧
      (∀ e, num = 4 → s.tenant? g.tenant = some e →
        gives (BitVec.ofNat 64 ((List.range 1152).filter (fun i => e.cores.getLsbD i)).length)) ∧
      (5 ≤ num.toNat → gives ones) ∧ (num = 1 → ∃ v, gives v ∧ (v = 0 ∨ v = 1)) := by
  intro ones gives
  have hgives (hkept : TasksKept s (s.service? g num args).1) (hirq : num = 2 → (args.headD 0).toNat < 64 →
      (s.service? g num args).1.irqs = (some g.tenant, (args.headD 0).toNat) :: s.irqs) : gives (s.service? g num args).2 := by
    obtain ⟨t, q, hexec, hseen, hwin, hlow, hhigh, hentry, hpc, hwcm, hirqs⟩ :=
      reply_gives hs hg hp hst hstop hh h0 h1 hfree he ho hkept
    exact ⟨t, q, hexec, hseen, hwin, hlow, hhigh, hentry, hpc, hwcm, fun hn hv => hirqs.trans (hirq hn hv)⟩
  have hsame {v : DWord} (hv : s.service? g num args = (s, v)) (hn : num = 2 → 64 ≤ (args.headD 0).toNat) : gives v := by
    have h := hgives (by rw [hv]; exact .refl s) (fun h2 hlt => absurd hlt (Nat.not_lt.2 (hn h2)))
    rwa [hv] at h
  refine ⟨?_, ?_, ?_, ?_, ?_, ?_, ?_⟩
  · rintro rfl
    exact hsame rfl (fun h => by cases h)
  · rintro rfl hv
    have hsv := service_irq s g args hv
    have h := hgives (by rw [hsv]; exact ⟨rfl, rfl⟩) (fun _ _ => by rw [hsv])
    rwa [hsv] at h
  · rintro rfl hv
    exact hsame (service_noVector s g args hv) (fun _ => hv)
  · rintro rfl
    exact hsame (service_module s g args) (fun h => by cases h)
  · rintro e rfl htenant
    exact hsame (service_cores s args htenant) (fun h => by cases h)
  · intro hn
    exact hsame (service_unknown s g args hn) (fun h => by rw [h] at hn; exact absurd hn (by decide))
  · rintro rfl
    exact ⟨_, hgives (service_log s g args).1 (fun h => by cases h), (service_log s g args).2⟩

end
end Sys2Proof.Machine
end

section
/-!
PROOFS. A task that ends is gone; traps that are taken and the watchdog (R220, R364, R368, R372).
-/

namespace Sys2Proof.Machine

open Sys2Proof Sys2Proof.Laws

/-! ### No group of a task is left -/

/-- Nothing issues, and no group is one of the task. -/
def Gone (tid : Nat) (s : State) : Prop := s.running = false ∧ ∀ g ∈ s.groups, g.tid ≠ tid

section
variable {tid : Nat} {s : State}

theorem Gone.kept {t : State} (h : Gone tid s) (hk : TasksKept s t) : Gone tid t := by
  refine ⟨hk.1.trans h.1, ?_⟩
  rw [hk.2]
  exact h.2

theorem Gone.group? (h : Gone tid s) : s.group? tid = none :=
  List.find?_eq_none.2 fun g hg ht => h.2 g hg (beq_iff_eq.1 ht)

theorem Gone.foldl {α : Type} {f : State → α → State} (hf : ∀ s a, Gone tid s → Gone tid (f s a)) (l : List α) (h : Gone tid s) :
    Gone tid (l.foldl f s) := by
  induction l generalizing s with
  | nil => exact h
  | cons a l ih => exact ih (hf s a h)

theorem Gone.updGroup (h : Gone tid s) (k : Nat) {f : Group → Group} (hf : ∀ g, (f g).tid = g.tid) : Gone tid (s.updGroup k f) := by
  refine ⟨h.1, fun g hg => ?_⟩
  obtain ⟨q, hq, rfl⟩ := List.mem_map.1 hg
  split
  · rw [hf]
    exact h.2 q hq
  · exact h.2 q hq

theorem settleSplit_tid (g : Group) (sid : Nat) : (g.settleSplit sid).tid = g.tid := by
  unfold Group.settleSplit
  split
  · rename_i p _
    obtain ⟨k, hk, -⟩ := absorb_splits g p
    rw [hk]
    rfl
  · rfl

theorem Gone.refocus (h : Gone tid s) (k sid : Nat) : (s.refocus k sid []).running = true →
    (s.refocus k sid []).g.tid ≠ tid ∧ ∀ g ∈ (s.refocus k sid []).groups, g.tid ≠ tid := by
  cases hg : s.group? k with
  | none =>
    rw [refocus_none hg, h.1]
    exact fun hr => by cases hr
  | some g =>
    cases hp : g.split? sid with
    | none =>
      rw [refocus_gone hg hp, h.1]
      exact fun hr => by cases hr
    | some p =>
      rw [refocus_some hg hp]
      exact fun _ => ⟨h.2 g (List.mem_of_find?_eq_some hg), fun q hq => h.2 q (List.mem_of_mem_filter hq)⟩

theorem Gone.onSplit (h : Gone tid s) (k sid : Nat) {f : State → State}
    (hf : ∀ r, (f r).running = r.running ∧ (f r).g = r.g ∧ (f r).groups = r.groups) : Gone tid (s.onSplit k sid f) := by
  unfold State.onSplit
  dsimp only
  split
  · rename_i hr
    obtain ⟨hg, hgs⟩ := h.refocus k sid hr
    obtain ⟨hfr, hfg, hfgs⟩ := hf (s.refocus k sid [])
    have hu : Gone tid (f (s.refocus k sid [])).unfocus := by
      refine ⟨unfocus_running _, fun q hq => ?_⟩
      rw [unfocus_groups (hfr.trans hr), hfg, hfgs] at hq
      rcases List.mem_cons.1 hq with rfl | hq
      · exact hg
      · exact hgs q hq
    split
    · exact hu.updGroup k fun g => settleSplit_tid g sid
    · exact hu
  · exact h

theorem Gone.wake (h : Gone tid s) (k sid : Nat) (ok : Bool) : Gone tid (s.wake k sid ok (fun s => s)) := by
  unfold State.wake
  refine Gone.kept ?_ (rejoin_kept _ k).1
  refine Gone.updGroup ?_ k fun g => placeAgain_tid g sid
  exact Gone.onSplit h k sid fun r => ⟨rfl, rfl, rfl⟩

theorem Gone.updCore (h : Gone tid s) (c : Nat) (f : CoreSt → CoreSt) : Gone tid (s.updCore c f) := h

theorem Gone.barCheck (h : Gone tid s) (core id : Nat) : Gone tid (s.barCheck core id) := by
  unfold State.barCheck
  split
  · exact h
  · dsimp only
    split
    · exact h
    · exact .foldl (fun s p hs => hs.wake _ _ _) _ (h.updCore core _)

theorem Gone.leaveTeam (h : Gone tid s) (core : Nat) (m : Member) : Gone tid (s.leaveTeam core m) := by
  unfold State.leaveTeam
  exact Gone.updCore (Gone.barCheck (h.updCore core _) core m.team) core _

theorem Gone.leaveDerived (h : Gone tid s) (core : Nat) (m : Member) : Gone tid (s.leaveDerived core m) := by
  unfold State.leaveDerived
  exact .foldl (fun s p hs => hs.leaveTeam core _) _ h

theorem flushCluster_tasks (s : State) (cl : Nat) : TasksKept s (s.flushCluster cl) := by
  unfold State.flushCluster
  refine .foldl (fun s c => ?_) _ s
  split
  · exact .refl s
  · exact (l1WbAll_tasks s c).trans ⟨rfl, rfl⟩

theorem unfuse_tasks (s : State) (cl : Nat) : TasksKept s (s.unfuse cl) := by
  unfold State.unfuse
  dsimp only
  split
  · have h := flushCluster_tasks s cl
    generalize s.flushCluster cl = u at h ⊢
    exact h.trans ⟨rfl, rfl⟩
  · exact .refl s

theorem freeTiles_tasks (s : State) (core : Nat) : TasksKept s (s.freeTiles core) := by
  unfold State.freeTiles
  dsimp only
  split <;> exact ⟨rfl, rfl⟩

theorem dropWork_tasks (s : State) (g : Group) : TasksKept s (s.dropWork g) := ⟨rfl, rfl⟩

/-- R368: a task that is removed is gone, whatever its leaving wakes. -/
theorem removeTask_gone (h : s.running = false) (g : Group) : Gone g.tid (s.removeTask g) := by
  have h0 : Gone g.tid { s with groups := s.groups.filter (fun q => q.tid != g.tid) } :=
    ⟨h, fun q hq => bne_iff_ne.1 (List.mem_filter.1 hq).2⟩
  unfold State.removeTask
  dsimp only
  refine Gone.kept (Gone.kept (Gone.updCore ?_ g.core _) (freeTiles_tasks _ g.core)) (unfuse_tasks _ _)
  have hteams : Gone g.tid ((List.finRange 4).foldl (fun s sl => match g.teams[sl] with
      | some m => s.leaveTeam g.core m
      | none => s) (State.dropWork { s with groups := s.groups.filter (fun q => q.tid != g.tid) } g)) := by
    refine .foldl (fun s sl hs => ?_) _ (h0.kept (dropWork_tasks _ g))
    split
    · exact hs.leaveTeam g.core _
    · exact hs
  split
  · exact hteams.leaveDerived g.core _
  · exact hteams
end

/-! ### The end of a task -/

theorem onSplit_running {s : State} (h : s.running = false) (tid sid : Nat) (f : State → State) : (s.onSplit tid sid f).running = false := by
  unfold State.onSplit
  dsimp only
  split
  · split
    · exact unfocus_running _
    · exact unfocus_running _
  · exact h

theorem wholeAtomics_running {s : State} (h : s.running = false) (tid : Nat) : (s.wholeAtomics tid).running = false := by
  unfold State.wholeAtomics
  generalize s.loads.filter (fun l => l.tid == tid) = l
  induction l generalizing s with
  | nil => exact h
  | cons a l ih =>
    refine ih ?_
    dsimp only
    split
    · split
      · exact onSplit_running h ..
      · exact h
    · exact h

/-- R245, R368: a task that ends is gone. -/
theorem endTask_gone {s : State} (h : s.running = false) (tid : Nat) (op : CellOp) : (s.endTask tid op).group? tid = none := by
  unfold State.endTask
  split
  · assumption
  · rename_i g hg
    have htid := group?_tid hg
    subst htid
    have hkept := (endCell_tasks (s.wholeAtomics g.tid) g.tenant g.core g.tid (tFuture g.record) op).trans
      (rootCounter_tasks _ g.tenant g.tid g.launch.root)
    exact (removeTask_gone (hkept.1.trans (wholeAtomics_running h g.tid)) g).group?

/-- R369: a fatal trap ends its task. -/
theorem takeFatal_gone {s : State} (h : s.running = false) (g : Group) (p : Split) (i : TrapInfo) :
    (s.takeFatal g p i).group? g.tid = none := by
  unfold State.takeFatal
  split
  · exact endTask_gone h ..
  · refine endTask_gone ?_ ..
    exact (pushRecord_tasks ..).1.trans h

/-! ### Traps that are taken -/

section
variable {s : State} {tid : Nat} {g : Group} {p : Split} {i : TrapInfo}

/-- R220: the one pending trap of a group is the one taken. -/
theorem chosenTrap_one (ht : g.traps = [i]) (hp : g.split? i.sid = some p) (hh : g.handler = none) : g.chosenTrap = some (p, i) := by
  have hts : (g.traps.filterMap (fun i => (g.split? i.sid).map (fun p => (p, i)))).filter
      (fun x => x.1.handler || g.handler.isNone) = [(p, i)] := by
    rw [ht, hh]
    simp [hp]
  unfold Group.chosenTrap
  dsimp only
  rw [hts]
  cases hf : g.isFatal p i with
  | true => simp [hf, maxBy]
  | false => simp [hf, maxBy]

/-- R220: a group whose one split has stopped only takes its trap. -/
theorem settleTraps_stopped (hg : s.group? tid = some g) (hs : g.splits = [p]) (hstop : p.stopped = true) :
    s.settleTraps tid = s.takeTrap tid := by
  unfold State.settleTraps
  rw [hg]
  dsimp only
  rw [hs, List.filter_cons_of_neg (by rw [hstop]; simp)]
  rfl

theorem takeTrap_one (hg : s.group? tid = some g) (hc : g.chosenTrap = some (p, i)) : s.takeTrap tid =
    if g.isFatal p i then s.takeFatal g p i else if s.allStopped g i.sid then s.takeHandled g i else s := by
  unfold State.takeTrap
  rw [hg]
  dsimp only
  rw [hc]

theorem allStopped_one (hs : g.splits = [p]) (hstop : p.stopped = true) (hf : s.inFlight g i.sid = false) :
    s.allStopped g i.sid = true := by
  unfold State.allStopped
  rw [hs, hf, List.all_cons, hstop]
  rfl

theorem trapped_slo (i : TrapInfo) (p : Split) : (trapped i p).slo = p.slo := by
  unfold trapped
  split <;> rfl

theorem replaced_group? {s : State} {g h : Group} (hg : s.group? g.tid = some g) (hh : h.tid = g.tid) :
    ((s.updGroup g.tid (fun _ => h)).rejoin g.tid).group? g.tid = some h := by
  rw [(rejoin_kept _ g.tid).1.group?, updGroup_group? s (fun _ _ => hh), hg, Option.map_some]

/-- R364: a handled trap starts the handler split with the registers of the trapping split. -/
theorem takeHandled_group? (hg : s.group? tid = some g) (hp : g.split? i.sid = some p) :
    ∃ g' h, (s.takeHandled g i).group? tid = some g' ∧ g'.handler = some h ∧ h.trap = i ∧ g'.traps = [] ∧
      ∃ q ∈ g'.splits, q.handler = true ∧ q.pc = g.launch.tvec ∧ q.slo = p.slo := by
  have htid := group?_tid hg
  subst htid
  unfold State.takeHandled
  dsimp only
  generalize hq : (Group.split? (g.updSplit i.sid (trapped i)) i.sid).getD Split.init = q
  have hslo : q.slo = p.slo := by
    rw [updSplit_split? g i.sid (fun r => by unfold trapped; split <;> rfl), hp, Option.map_some, Option.getD_some] at hq
    rw [← hq, trapped_slo]
  refine ⟨_, _, replaced_group? (show s.clock.group? g.tid = some g from hg) rfl, rfl, rfl, rfl,
    handlerSplit (g.updSplit i.sid (trapped i)) q, ?_, rfl, rfl, hslo⟩
  exact List.mem_append_right _ (List.mem_singleton_self _)

theorem trapTaken_results (hs : s.running = false) (hg : s.group? tid = some g) (hsplits : g.splits = [p]) (ht : g.traps = [i])
    (hi : i.sid = p.sid) (hh : g.handler = none) (hstop : p.stopped = true) :
    (g.isFatal p i = true → ∃ t, exec (.trapTaken tid) s = .next t ∧ t.group? tid = none) ∧
    (g.isFatal p i = false → s.inFlight g p.sid = false → ∃ t g' h, exec (.trapTaken tid) s = .next t ∧ t.group? tid = some g' ∧
      g'.handler = some h ∧ h.trap = i ∧ g'.traps = [] ∧ ∃ q ∈ g'.splits, q.handler = true ∧ q.pc = g.launch.tvec ∧ q.slo = p.slo) := by
  have hp : g.split? i.sid = some p := by
    rw [Group.split?, hsplits, hi]
    exact List.find?_cons_of_pos (beq_self_eq_true p.sid)
  have htake := (settleTraps_stopped hg hsplits hstop).trans (takeTrap_one hg (chosenTrap_one ht hp hh))
  have hexec := (exec_trapTaken tid s).trans ((event_idle hs (fun s => s.settleTraps tid)).trans (congrArg _ htake))
  refine ⟨fun hf => ?_, fun hf hfl => ?_⟩
  · rw [if_pos hf] at hexec
    have hgone := takeFatal_gone hs g p i
    rw [group?_tid hg] at hgone
    exact ⟨_, hexec, hgone⟩
  · rw [if_neg (by rw [hf]; exact Bool.false_ne_true), if_pos (allStopped_one hsplits hstop (by rw [hi]; exact hfl))] at hexec
    obtain ⟨g', h, hg', hrest⟩ := takeHandled_group? hg hp
    exact ⟨_, g', h, hexec, hg', hrest⟩

/-! ### The watchdog -/

/-- R372: a group whose limit has passed, every split of it at rest and no trap pending. -/
def Group.expired (g : Group) : Prop :=
  g.wdog = true ∧ g.traps = [] ∧ g.deferred = [] ∧ g.live ≠ [] ∧ ∀ p ∈ g.splits, (p.stopped || p.still || p.atBoundary) = true

theorem watchInfo_some (h : g.live ≠ []) : ∃ x, g.watchInfo = some x := by
  have hmax : ∀ (f : Split → Int) {l : List Split}, l ≠ [] → ∃ p, maxBy f l = some p := fun f l hl => by
    cases hm : maxBy f l with
    | none => exact absurd (maxBy_eq_none hm) hl
    | some p => exact ⟨p, rfl⟩
  unfold Group.watchInfo
  dsimp only
  split
  · obtain ⟨p, hp⟩ := hmax _ h
    exact ⟨_, by rw [hp]; rfl⟩
  · rename_i he
    obtain ⟨p, hp⟩ := hmax (fun (p : Split) => -((p.entry.getD 255 : Nat) : Int)) (fun hn => he (List.isEmpty_iff.2 hn))
    exact ⟨_, by rw [hp]; rfl⟩

/-- R372: the task of such a group ends. -/
theorem takeTrap_expired (hs : s.running = false) (hg : s.group? tid = some g) (h : g.expired) : (s.takeTrap tid).group? tid = none := by
  obtain ⟨hw, ht, -, hlive, hrest⟩ := h
  have hc : g.chosenTrap = none := by
    unfold Group.chosenTrap
    rw [ht]
    rfl
  obtain ⟨⟨p, i⟩, hinfo⟩ := watchInfo_some hlive
  have htake : s.takeTrap tid = s.takeFatal g p i := by
    unfold State.takeTrap
    rw [hg]
    dsimp only
    rw [hc]
    dsimp only
    unfold State.takeWatch
    rw [hw, List.all_eq_true.2 hrest, hinfo]
    rfl
  rw [htake, ← group?_tid hg]
  exact takeFatal_gone hs g p i

/-- R372: at the boundaries of such a group the task ends, or the group is as it was. -/
def Ending (tid : Nat) (s : State) : Prop := s.group? tid = none ∨ s.running = false ∧ ∃ g, s.group? tid = some g ∧ g.expired

theorem takeTrap_ending (h : Ending tid s) : (s.takeTrap tid).group? tid = none := by
  rcases h with h | ⟨hs, g, hg, he⟩
  · have htake : s.takeTrap tid = s := by
      unfold State.takeTrap
      rw [h]
    rw [htake, h]
  · exact takeTrap_expired hs hg he

theorem expired_stop (h : g.expired) (sid : Nat) : Group.expired (g.updSplit sid (fun p => { p with stopped := true })) := by
  obtain ⟨hw, ht, hd, hlive, hrest⟩ := h
  refine ⟨hw, ht, hd, ?_, fun q hq => ?_⟩
  · obtain ⟨p, hp⟩ := List.exists_mem_of_ne_nil _ hlive
    obtain ⟨hmem, htest⟩ := List.mem_filter.1 hp
    refine List.ne_nil_of_mem (List.mem_filter.2 ⟨List.mem_map_of_mem hmem, ?_⟩)
    split
    · exact htest
    · exact htest
  · obtain ⟨p, hp, rfl⟩ := List.mem_map.1 hq
    split
    · rfl
    · exact hrest p hp

theorem atEdge_ending (h : Ending tid s) (sid : Nat) : Ending tid (s.atEdge tid sid) := by
  rcases h with h | ⟨hs, g, hg, he⟩
  · left
    have hedge : s.atEdge tid sid = s := by
      unfold State.atEdge
      rw [h]
    rw [hedge, h]
  · obtain ⟨hw, ht, hd, -, -⟩ := id he
    have hstopped := updGroup_group? s (tid := tid) (f := fun g => g.updSplit sid (fun p => { p with stopped := true })) (fun _ h => h)
    rw [hg, Option.map_some] at hstopped
    have hend := takeTrap_expired (s := s.updGroup tid (fun g => g.updSplit sid (fun p => { p with stopped := true }))) hs hstopped
      (expired_stop he sid)
    unfold State.atEdge
    rw [hg]
    dsimp only
    split
    · exact .inr ⟨hs, g, hg, he⟩
    · rw [hd, hw, ht]
      split
      · exact .inr ⟨hs, g, hg, he⟩
      · simp only [List.isEmpty_nil, Bool.not_true, Bool.and_false, Bool.false_and, Bool.false_eq_true, if_false, Bool.false_or, if_true]
        exact .inl hend

theorem settleTraps_ending (hs : s.running = false) (hg : s.group? tid = some g) (he : g.expired) :
    (s.settleTraps tid).group? tid = none := by
  unfold State.settleTraps
  rw [hg]
  dsimp only
  refine takeTrap_ending ?_
  have hstart : Ending tid s := .inr ⟨hs, g, hg, he⟩
  generalize sortBy _ _ = l
  clear hs hg
  induction l generalizing s with
  | nil => exact hstart
  | cons p l ih => exact ih (atEdge_ending hstart p.sid)

theorem overdue_of_passed {limit time : Nat} (hl : limit ≠ 0) (ho : g.wdogOff = none) (h : g.wdogMark.2 + limit * 1000 ≤ time) :
    g.overdue limit time = true := by
  unfold Group.overdue
  rw [ho, Bool.and_eq_true, bne_iff_ne, decide_eq_true_eq]
  exact ⟨hl, Nat.le_sub_of_add_le' h⟩

theorem watchdog_results {e : Tenant} (hs : s.running = false) (hg : s.group? tid = some g) (he : s.tenant? g.tenant = some e)
    (hl : e.wdog ≠ 0) (ho : g.wdogOff = none) (hw : g.wdog = false) (ht : g.traps = []) (hd : g.deferred = [])
    (hlive : ∃ p ∈ g.splits, p.lanes ≠ 0 ∧ p.handler = false) (hrest : ∀ p ∈ g.splits, p.stopped = false ∧ p.atBoundary = true)
    (htime : g.wdogMark.2 + e.wdog * 1000 ≤ s.time) : ∃ t, exec (.watchdog tid) s = .next t ∧ t.group? tid = none := by
  refine ⟨_, (exec_watchdog tid s).trans (event_idle hs (fun s => s.watchdog tid)), ?_⟩
  have hover := overdue_of_passed (g := g) hl ho (htime.trans (le_countOn s.time (s.free .timeBase 0)))
  have hwatch : s.watchdog tid = (s.clock.updGroup tid (fun g => { g with wdog := true })).settleTraps tid := by
    unfold State.watchdog
    dsimp only
    rw [show s.clock.group? tid = some g from hg]
    dsimp only
    rw [show s.clock.tenant? g.tenant = some e from he, hw]
    exact if_pos hover
  have hupd := updGroup_group? s.clock (tid := tid) (f := fun g => { g with wdog := true }) (fun _ h => h)
  rw [show s.clock.group? tid = some g from hg, Option.map_some] at hupd
  rw [hwatch]
  refine settleTraps_ending (s := s.clock.updGroup tid (fun g => { g with wdog := true })) hs hupd ⟨rfl, ht, hd, ?_, fun p hp => ?_⟩
  · obtain ⟨p, hp, hlanes, hh⟩ := hlive
    refine List.ne_nil_of_mem (a := p) (List.mem_filter.2 ⟨hp, ?_⟩)
    rw [hh, bne_iff_ne.2 hlanes]
    rfl
  · rw [(hrest p hp).2, Bool.or_true]

end
end Sys2Proof.Machine
end

section
/-!
PROOFS. The slice's own check of a crew past its deadline, and the steps of a core together (R251, R347, R350, R353).
-/

namespace Sys2Proof.Machine

open Sys2Proof Sys2Proof.Laws

/-! ### Bytes and fields of a record -/

theorem byteOf_getLsbD {n : Nat} (x : BitVec n) (i b : Nat) : (byteOf x i).getLsbD b = (decide (b < 8) && x.getLsbD (8 * i + b)) :=
  BitVec.getLsbD_extractLsb' ..

theorem byteOf_ofBytes {w i : Nat} (bs : List Byte) (h : 8 * i + 8 ≤ w) : byteOf (ofBytes w bs) i = bs.getD i 0 := by
  refine BitVec.eq_of_getLsbD_eq fun b hb => ?_
  have hw : 8 * i + b < w := by omega
  have hd : (8 * i + b) / 8 = i := by omega
  have hm : (8 * i + b) % 8 = b := by omega
  rw [byteOf_getLsbD, ofBytes, BitVec.getLsbD_ofNat, natOfBytes_testBit, hd, hm]
  simp [hb, hw]

theorem crewRec_ext {a b : CrewRec} (h : ∀ off < 768, byteOf a off = byteOf b off) : a = b := by
  refine BitVec.eq_of_getLsbD_eq fun i hi => ?_
  have hbyte := congrArg (BitVec.getLsbD · (i % 8)) (h (i / 8) (by omega))
  have hi8 : 8 * (i / 8) + i % 8 = i := Nat.div_add_mod i 8
  simpa only [byteOf_getLsbD, hi8, Nat.mod_lt i (by decide : 8 > 0), decide_true, Bool.true_and] using hbyte

/-- The bytes of a word of a record. -/
theorem byteOf_word (r : CrewRec) (i : Nat) {j : Nat} (hj : j < 8) :
    byteOf (BitVec.ofNat 64 (cget r (8 * i) 8)) j = byteOf r (8 * i + j) := by
  refine BitVec.eq_of_getLsbD_eq fun b hb => ?_
  have h1 : 8 * j + b < 64 := by omega
  have h2 : 8 * j + b < 8 * (8 * i + 8) - 1 - 8 * (8 * i) + 1 := by omega
  have h3 : 8 * (8 * i) + (8 * j + b) = 8 * (8 * i + j) + b := by omega
  rw [byteOf_getLsbD, byteOf_getLsbD, BitVec.getLsbD_ofNat, cget, field_testBit, h3]
  simp [h1, h2]

theorem cget_cset_same (r : CrewRec) {off size : Nat} (v : Nat) (hs : 0 < size) (h : off + size ≤ 768) :
    cget (cset r off size v) off size = v % 2 ^ (8 * size) := by
  refine Nat.eq_of_testBit_eq fun b => ?_
  have hw : 8 * (off + size) - 1 - 8 * off + 1 = 8 * size := by omega
  rw [cget, cset, field_testBit, setField_getLsbD _ _ _ _ _ (by omega), Nat.testBit_mod_two_pow, hw]
  by_cases hb : b < 8 * size
  · rw [if_pos (by omega), show 8 * off + b - 8 * off = b by omega]
    simp [hb, show 8 * off + b < 6144 by omega]
  · simp [hb]

theorem cget_cset_other (r : CrewRec) {off size off' size' : Nat} (v : Nat) (hs : 0 < size) (hs' : 0 < size')
    (h : off + size ≤ off' ∨ off' + size' ≤ off) : cget (cset r off' size' v) off size = cget r off size := by
  refine Nat.eq_of_testBit_eq fun b => ?_
  rw [cget, cget, cset, field_testBit, field_testBit, setField_getLsbD _ _ _ _ _ (by omega)]
  by_cases hb : b < 8 * (off + size) - 1 - 8 * off + 1
  · rw [if_neg (by omega)]
  · simp [hb]

theorem cget_lt (r : CrewRec) (off size : Nat) (hs : 0 < size) : cget r off size < 2 ^ (8 * size) := by
  have hw : 8 * (off + size) - 1 - 8 * off + 1 = 8 * size := by omega
  exact Nat.lt_of_lt_of_eq (BitVec.isLt _) (by rw [hw])

/-- R250: STATE where it has been set. -/
theorem crewState_setState (r : CrewRec) : crewState (crewSetState r 3) = 3 := by
  have hlt : crewCtrl r < 2 ^ 32 := cget_lt r 8 4 (by decide)
  have hctrl : crewCtrl (crewSetState r 3) = (crewCtrl r - crewState r * 256 + 3 * 256) % 2 ^ 32 :=
    cget_cset_same r (off := 8) (size := 4) _ (by decide) (by decide)
  rw [crewState, hctrl, crewState]
  omega

/-- R350: a crew that is normalised is DONE. -/
theorem crewState_normalize (r : CrewRec) : crewState (normalize r) = 3 := by
  unfold normalize
  dsimp only
  rw [crewState, crewCtrl, cget_cset_other _ 0 (by decide) (by decide) (.inl (by decide))]
  exact crewState_setState _

/-! ### The record in memory -/

/-- R249: the parts of a record lie apart. -/
def CrewRef.apart (c : CrewRef) : Prop :=
  (c.k0 + 256 ≤ c.k1 ∨ c.k1 + 256 ≤ c.k0) ∧ (c.k0 + 256 ≤ c.k2 ∨ c.k2 + 256 ≤ c.k0) ∧ (c.k1 + 256 ≤ c.k2 ∨ c.k2 + 256 ≤ c.k1)

theorem at_word (c : CrewRef) (i : Nat) {j : Nat} (hj : j < 8) : c.at (8 * i + j) = c.at (8 * i) + j := by
  unfold CrewRef.at
  split_ifs <;> omega

/-- Bytes of a record that are not of the same word stand apart. -/
theorem at_apart {c : CrewRef} (h : c.apart) {i off : Nat} (hi : i < 96) (ho : off < 768) (hne : off / 8 ≠ i) :
    ¬ (c.at (8 * i) ≤ c.at off ∧ c.at off - c.at (8 * i) < 8) := by
  obtain ⟨h01, h02, h12⟩ := h
  unfold CrewRef.at
  split_ifs <;> omega

theorem crewRead_byte (s : State) (c : CrewRef) {off : Nat} (h : off < 768) : byteOf (s.crewRead c) off = s.rd8 (c.at off) := by
  rw [State.crewRead, byteOf_ofBytes _ (by omega)]
  have hlen : ∀ k, (s.rdN k 256).length = 256 := fun k => by simp [State.rdN]
  unfold CrewRef.at
  by_cases h0 : off < 256
  · rw [List.getD_append _ _ _ _ (by rw [List.length_append, hlen]; omega), List.getD_append _ _ _ _ (by rw [hlen]; exact h0),
      rdN_getD s c.k0 h0, if_pos h0, Nat.mod_eq_of_lt h0]
  · by_cases h1 : off < 512
    · rw [List.getD_append _ _ _ _ (by rw [List.length_append, hlen, hlen]; exact h1),
        List.getD_append_right _ _ _ _ (by rw [hlen]; omega), hlen, rdN_getD s c.k1 (by omega), if_neg h0, if_pos h1,
        show off % 256 = off - 256 by omega]
    · rw [List.getD_append_right _ _ _ _ (by rw [List.length_append, hlen, hlen]; omega), List.length_append, hlen, hlen,
        rdN_getD s c.k2 (by omega), if_neg h0, if_neg h1, show off % 256 = off - (256 + 256) by omega]

theorem crewRead_mem {s t : State} (h : t.mem = s.mem) (c : CrewRef) : t.crewRead c = s.crewRead c :=
  crewRec_ext fun off ho => by
    rw [crewRead_byte t c ho, crewRead_byte s c ho, State.rd8, State.rd8, h]

/-! ### Writing a record -/

theorem tagWords_rd8 (s : State) (k n : Nat) (t : RTag) (j : Nat) : (s.tagWords k n t).rd8 j = s.rd8 j := rfl

theorem placeWord_rd8 {s : State} (h : MemoryKept s) (k : Nat) (v : DWord) (j : Nat) :
    (s.place k (toBytes 8 v)).rd8 j = if k ≤ j ∧ j - k < 8 then byteOf v (j - k) else s.rd8 j := by
  have hlen : (toBytes 8 v).length = 8 := by simp [toBytes]
  rw [place_rd8 s k j _ h]
  by_cases hj : k ≤ j ∧ j - k < 8
  · have hget := toBytes_getD 8 v (j - k)
    rw [if_pos hj.2, List.getD_eq_getElem _ _ (by rw [hlen]; exact hj.2)] at hget
    rw [dif_pos (by rw [hlen]; exact hj), if_pos hj, hget]
  · rw [dif_neg (by rw [hlen]; exact hj), if_neg hj]

/-- R251: one word of a record that an operation writes. -/
def State.crewPutWord (c : CrewRef) (old new : CrewRec) (also : List Nat) (t : RTag) (s : State) (i : Nat) : State :=
  if cget new (8 * i) 8 = cget old (8 * i) 8 && !also.contains i then s
  else (s.place (c.at (8 * i)) (toBytes 8 (BitVec.ofNat 64 (cget new (8 * i) 8)))).tagWords (c.at (8 * i)) 8 t

theorem crewPut_eq (s : State) (c : CrewRef) (old new : CrewRec) (also : List Nat) (t : RTag) :
    s.crewPut c old new also (some t) = (List.range 96).foldl (State.crewPutWord c old new also t) s := rfl

section
variable {s : State} {c : CrewRef} {old new : CrewRec} {also : List Nat} {t : RTag} {i off : Nat}

theorem crewPutWord_kept (h : MemoryKept s) : MemoryKept (s.crewPutWord c old new also t i) := by
  unfold State.crewPutWord
  split
  · exact h
  · exact tagWords_kept _ _ _ _ (place_kept _ _ _ h)

theorem crewPutWord_other (h : MemoryKept s) (hc : c.apart) (hi : i < 96) (ho : off < 768) (hne : off / 8 ≠ i) :
    (s.crewPutWord c old new also t i).rd8 (c.at off) = s.rd8 (c.at off) := by
  unfold State.crewPutWord
  split
  · rfl
  · rw [tagWords_rd8, placeWord_rd8 h, if_neg (at_apart hc hi ho hne)]

theorem crewPutWord_same (h : MemoryKept s) (hi : off / 8 = i) (hold : s.rd8 (c.at off) = byteOf old off) :
    (s.crewPutWord c old new also t i).rd8 (c.at off) = byteOf new off := by
  have hj : off % 8 < 8 := Nat.mod_lt _ (by decide)
  have hoff : 8 * i + off % 8 = off := by omega
  have hold' := byteOf_word old i hj
  have hnew := byteOf_word new i hj
  rw [hoff] at hold' hnew
  unfold State.crewPutWord
  split
  · rename_i hsame
    rw [Bool.and_eq_true, decide_eq_true_eq] at hsame
    rw [hold, ← hold', ← hnew, hsame.1]
  · have hat := at_word c i hj
    rw [hoff] at hat
    rw [tagWords_rd8, placeWord_rd8 h, hat, if_pos ⟨Nat.le_add_right .., by omega⟩, Nat.add_sub_cancel_left, hnew]

theorem crewPut_bytes (h : MemoryKept s) (hc : c.apart) (hold : ∀ off < 768, s.rd8 (c.at off) = byteOf old off) {n : Nat} (hn : n ≤ 96) :
    MemoryKept ((List.range n).foldl (State.crewPutWord c old new also t) s) ∧
    ∀ off < 768, ((List.range n).foldl (State.crewPutWord c old new also t) s).rd8 (c.at off) =
      if off < 8 * n then byteOf new off else byteOf old off := by
  induction n with
  | zero => exact ⟨h, hold⟩
  | succ n ih =>
    obtain ⟨hk, hbytes⟩ := ih (Nat.le_of_succ_le hn)
    rw [List.range_succ, List.foldl_append]
    refine ⟨crewPutWord_kept hk, fun off ho => ?_⟩
    by_cases hoff : off / 8 = n
    · rw [if_pos (by omega)]
      exact crewPutWord_same hk hoff ((hbytes off ho).trans (if_neg (by omega)))
    · refine (crewPutWord_other hk hc hn ho hoff).trans ((hbytes off ho).trans ?_)
      have hiff : off < 8 * n ↔ off < 8 * (n + 1) := by omega
      exact if_congr hiff rfl rfl

/-- R251: what an operation writes of a record is read back. -/
theorem crewPut_read (h : MemoryKept s) (hc : c.apart) : (s.crewPut c (s.crewRead c) new also (some t)).crewRead c = new := by
  refine crewRec_ext fun off ho => ?_
  rw [crewRead_byte _ c ho, crewPut_eq]
  exact ((crewPut_bytes h hc (fun off ho => (crewRead_byte s c ho).symm) (Nat.le_refl 96)).2 off ho).trans (if_pos ho)
end

/-! ### The check -/

/-- R182: a sector of which no L1 has a copy is settled. -/
theorem settle_uncached {s : State} {sec : Nat} (h : ∀ c ∈ s.cores, ∀ q ∈ c.l1, q.key ≠ sec) (e : Option Nat) : s.settle sec e = s := by
  have hnone : s.cores.filter (fun c => some c.id ≠ e && c.l1.any (fun x => x.key == sec && x.dirty != 0)) = [] := by
    refine List.filter_eq_nil_iff.2 fun c hc htest => ?_
    obtain ⟨q, hq, hqt⟩ := List.any_eq_true.1 (Bool.and_eq_true_iff.1 htest).2
    exact h c hc q hq (beq_iff_eq.1 (Bool.and_eq_true_iff.1 hqt).1)
  unfold State.settle
  rw [hnone]
  rfl

theorem foldl_eq_self {α : Type} {f : State → α → State} {l : List α} {s : State} (h : ∀ a ∈ l, f s a = s) : l.foldl f s = s := by
  induction l with
  | nil => rfl
  | cons a l ih =>
    rw [List.foldl_cons, h a List.mem_cons_self]
    exact ih fun b hb => h b (List.mem_cons_of_mem _ hb)

theorem crewOpen_uncached {s : State} {c : CrewRef} (h : ∀ k ∈ [c.k0, c.k1, c.k2], uncached s k 256) : s.crewOpen none c = s := by
  unfold State.crewOpen
  refine foldl_eq_self fun k hk => ?_
  obtain ⟨-, hcopies⟩ := h k hk
  exact foldl_eq_self fun sec hsec => settle_uncached (fun c hc q hq he => hcopies c hc q hq (he ▸ hsec)) none

theorem updTenant_tenant? (s : State) (t : Nat) {f : Tenant → Tenant} (hf : ∀ k, (f k).id = k.id) :
    (s.updTenant t f).tenant? t = (s.tenant? t).map f := by
  unfold State.tenant? State.updTenant
  rw [find?_updWhere (fun k _ => by rw [hf])]
  cases h : s.tenants.find? (fun k => k.id == t) with
  | none => rfl
  | some k => rw [Option.map_some, Option.map_some, if_pos (List.find?_some h)]

theorem unwatch_watched (s : State) (tenant : Nat) (c : CrewRef) : (s.unwatch tenant c).watched tenant c = false := by
  unfold State.watched State.unwatch
  rw [updTenant_tenant? s tenant (by exact fun _ => rfl)]
  cases s.tenant? tenant with
  | none => rfl
  | some t => exact List.any_eq_false.2 fun w hw he => bne_iff_ne.1 (List.mem_filter.1 hw).2 (beq_iff_eq.1 he)

section
variable {s : State} {c : CrewRef} {tenant : Nat}

/-- R347: an open crew whose deadline has passed is expired. -/
theorem crewExpired_open {r : CrewRec} (hst : crewState r = 1) (hd : cget r 0 8 ≠ 0) (ht : cget r 0 8 ≤ s.time) :
    s.crewExpired r = true := by
  unfold State.crewExpired
  rw [hst, bne_iff_ne.2 hd, decide_eq_true ht]
  rfl

/-- R350: the record of a crew that becomes DONE is what the operation leaves. -/
theorem crewLeave_done {new : CrewRec} (hk : MemoryKept s) (hc : c.apart) (hn : crewState new = 3) (ho : crewState (s.crewRead c) ≠ 3)
    (also : List Nat) (t : RTag) : (s.crewLeave tenant c (s.crewRead c) new also t).crewRead c = new := by
  unfold State.crewLeave
  dsimp only
  rw [decide_eq_true hn, decide_eq_true ho]
  exact (crewRead_mem (by rfl) c).trans (crewPut_read hk hc)

/-- R347: an event at an expired crew, which does nothing else, normalises it. -/
theorem crewEvent_expired {t : RTag} (hu : ∀ k ∈ [c.k0, c.k1, c.k2], uncached s k 256)
    (hbad : crewBad (s.crewRead c) = false) (hst : crewState (s.crewRead c) = 1) (hd : cget (s.crewRead c) 0 8 ≠ 0)
    (ht : cget (s.crewRead c) 0 8 ≤ s.time) : (s.crewEvent tenant 0 none c t (fun s r => (s, r))).2 =
      s.clock.crewLeave tenant c (s.clock.crewRead c) (normalize (s.clock.crewRead c)) [] t := by
  have hread : s.clock.crewRead c = s.crewRead c := crewRead_mem rfl c
  have hexp : s.clock.crewExpired (s.crewRead c) = true :=
    crewExpired_open hst hd (ht.trans (le_countOn s.time (s.free .timeBase 0)))
  unfold State.crewEvent
  dsimp only
  rw [crewOpen_uncached (s := s.clock) hu, hread, hbad, hexp]
  rfl

/-- R353, R350: the slice's own check of an open crew whose deadline has passed. -/
theorem crewCheck_expired (hk : MemoryKept s) (hc : c.apart) (hu : ∀ k ∈ [c.k0, c.k1, c.k2], uncached s k 256)
    (hbad : crewBad (s.crewRead c) = false) (hst : crewState (s.crewRead c) = 1) (hd : cget (s.crewRead c) 0 8 ≠ 0)
    (ht : cget (s.crewRead c) 0 8 ≤ s.time) :
    (s.crewCheck tenant c).crewRead c = normalize (s.crewRead c) ∧ (s.crewCheck tenant c).watched tenant c = false := by
  have hread : s.clock.crewRead c = s.crewRead c := crewRead_mem rfl c
  have htime : cget (s.crewRead c) 0 8 ≤ s.clock.time := ht.trans (le_countOn s.time (s.free .timeBase 0))
  have hevent := crewEvent_expired (s := s.clock) (tenant := tenant) (t := sliceTag) hu (by rw [hread]; exact hbad)
    (by rw [hread]; exact hst) (by rw [hread]; exact hd) (by rw [hread]; exact htime)
  have hread' : s.clock.clock.crewRead c = s.crewRead c := crewRead_mem rfl c
  have hleave := crewLeave_done (s := s.clock.clock) (tenant := tenant) (c := c) hk hc (crewState_normalize (s.crewRead c))
    (by rw [hread', hst]; decide) [] sliceTag
  rw [hread'] at hevent hleave
  have hcheck : s.crewCheck tenant c =
      (s.clock.clock.crewLeave tenant c (s.crewRead c) (normalize (s.crewRead c)) [] sliceTag).unwatch tenant c := by
    unfold State.crewCheck
    dsimp only
    rw [hevent, hread, if_neg (not_or.2 ⟨hd, Nat.not_lt.2 htime⟩), hleave, if_pos (crewState_normalize _)]
  rw [hcheck]
  exact ⟨(crewRead_mem rfl c).trans hleave, unwatch_watched ..⟩

theorem crewDeadlineCheck_results {e : Tenant} (hs : s.running = false) (he : s.tenants = [e]) (hw : e.watch = [c])
    (hd : cget (s.crewRead c) 0 8 ≠ 0) (ht : cget (s.crewRead c) 0 8 ≤ s.time) (hbad : crewBad (s.crewRead c) = false)
    (hst : crewState (s.crewRead c) = 1) (hk : MemoryKept s) (hu : ∀ k ∈ [c.k0, c.k1, c.k2], uncached s k 256) (hc : c.apart) :
    ∃ t, exec (.crewDeadlineCheck c.k0) s = .next t ∧ t.crewRead c = normalize (s.crewRead c) ∧ t.watched e.id c = false := by
  have hfind : firstSome (fun (t : Tenant) => (t.watch.find? (fun d => d.k0 == c.k0)).map (fun d => (t.id, d))) s.tenants =
      some (e.id, c) := by
    rw [he]
    unfold firstSome
    have hself : [c].find? (fun d => d.k0 == c.k0) = some c := List.find?_cons_of_pos (beq_self_eq_true c.k0)
    rw [hw, hself]
    rfl
  have hexec : exec (.crewDeadlineCheck c.k0) s = .next (s.crewCheck e.id c) := by
    refine (exec_crewDeadlineCheck c.k0 s).trans ((event_idle hs _).trans (congrArg _ ?_))
    rw [hfind]
  obtain ⟨hread, hwatch⟩ := crewCheck_expired (tenant := e.id) hk hc hu hbad hst hd ht
  exact ⟨_, hexec, hread, hwatch⟩
end

/-! ### The steps together -/

theorem apart_of_pairwise {c : CrewRef} (h : [c.k0, c.k1, c.k2].Pairwise (fun a b => a + 256 ≤ b ∨ b + 256 ≤ a)) : c.apart := by
  simp only [List.pairwise_cons, List.mem_cons, List.not_mem_nil, or_false, forall_eq_or_imp, forall_eq] at h
  obtain ⟨⟨h01, h02⟩, h12, -⟩ := h
  exact ⟨h01, h02, h12⟩

/-- Settles O50: each step's own lemma. -/
theorem coreSteps : Obligations.CoreSteps := by
  intro s hs
  refine ⟨?_, fun tid sid g p hg hp hst hf hstop he hw ht hd hh hwd hc =>
      windowComplete_results hs hg hp hst hf hstop he hw ht hd hh hwd hc, fun tid reg g p => residencyFill_results hs,
    pageWalkComplete_results hs, fun id r => sliceRequestEnter_results hs,
    fun tid sid g p num args => syscReply_results hs, fun tid g p i hg hsp ht hi hh hstop _ => trapTaken_results hs hg hsp ht hi hh hstop,
    fun tid g e hg he hl ho hw ht hh hd => watchdog_results hs hg he hl ho hw ht hd, ?_⟩
  · intro core side g p mine hshut hn hteams hg hsplits hst hstop hh he hl hhold hw ht hgh hway hgw hage hb hslot
    have hmine : s.sideGroups core side = mine := sideGroups_eq s core side
    rw [← hmine] at hg hage hb hslot ⊢
    exact issueCycle_results hs hshut hn hteams hg hsplits (runnable_alone hst hstop he hh hhold hw ht hgh) hst hstop hway hgw hage hb
      hslot
  · intro e c he hw hd ht hbad hst hk hu hp
    exact crewDeadlineCheck_results hs he hw hd ht hbad hst hk hu (apart_of_pairwise hp)

end Sys2Proof.Machine
end
